-- ==== Sys2Proof/Word.lean ====
section
/-! DEFINITION. The word types of the block (spec/00_scope.md R13, R14): bytes, 32-bit lanes, 48-bit addresses and 64-bit words. -/

namespace Sys2Proof

/-- One byte. -/
abbrev Byte := BitVec 8

/-- A 32-bit value: an s-register, a lane, a turn number. -/
abbrev W32 := BitVec 32

/-- A 48-bit block address or a-register (R92, R96). -/
abbrev W48 := BitVec 48

/-- A 64-bit word: an instruction, a register, a word of a structure in memory. -/
abbrev W64 := BitVec 64

end Sys2Proof
end

