-- ==== Sys2Proof/Config.lean ====
section
/-! DEFINITION. What an implementation fixes and the spec does not: the free values. Each is an opaque constant without a body,
so nothing can be proved of its value; each has an entry in the assumption log. -/

namespace Sys2Proof

/-- The input voltage the block measures at sample `n`, in units of 10 mV (PWR_IN.VIN, R405). Free: the spec gives no value. Log 5. -/
opaque Config.vinSample : Nat → BitVec 16

/-- The input current at sample `n`, in units of 10 mA (PWR_IN.IIN, R405). Free. Log 5. -/
opaque Config.iinSample : Nat → BitVec 16

/-- The input power at sample `n`, in W (PWR_IN.PIN, R405). Free. Log 5. -/
opaque Config.pinSample : Nat → BitVec 16

/-- TEMP of sensor `n` at sample `k`, in 0.25 degree C (CAL_THERMn.TEMP, R405). Free. Log 5. -/
opaque Config.tempSample : Nat → Nat → BitVec 16

/-- TB_STATn.SKEW at sample `n` (R380, R405). Free: the arrival times at the two pins are no input of the model. Log 5. -/
opaque Config.skewSample : Nat → BitVec 16

/-- What befalls the block's storage in microsecond `n` (R406): nothing, or a corrected or an uncorrectable error of one of its structures.
Free: no command of the model brings one. Log 101. -/
opaque Config.upsetKind : Nat → Nat

/-- Where the error of microsecond `n` falls (R406). Free. Log 101. -/
opaque Config.upsetAt : Nat → Nat

/-- The data bits that an uncorrectable error of microsecond `n` changes (R406). Free. Log 101. -/
opaque Config.upsetBits : Nat → BitVec 64

/-- What a prompt's record carries where the tenant's verdict logic stored HOLD for it (R24): modulo 3, PASS, REDACT or STOP, for the tenant, the
request's tokens up to the end of the run, the first position of the run, and the verdict, span and scores of the cell. Free: the block issues
no HOLD for a prompt, and the spec names no verdict in its place; like every result it depends on the request's own data alone (R32, R253). Log
110. -/
opaque Config.promptHold : BitVec 16 → List W32 → Nat → List Nat → Nat

/-- The turn for which the host software sent the TOKENS message of an entry of a submission ring (R30). Free: no field of the message names it.
Log 115. -/
opaque Config.intendedTurn : BitVec 4 → BitVec 32 → BitVec 32

/-- The block version, MAJOR and MINOR, that a route map image of these words was built for (R7). Free: R368 gives the image no field for it. Log
126. -/
opaque Config.routeVersion : List (BitVec 64) → Nat × Nat

/-- SU_BIST of failing self-test `n` (R439, R456). Free: which word fails is no input of the model. Log 5. -/
opaque Config.bistSample : Nat → BitVec 64

end Sys2Proof
end

