-- ==== Sys2Proof/Syntax.lean ====
section
/-! DEFINITION. The commands of the block: one constructor of `Instr` per row of spec/opcode_table.json, with its operands. -/

namespace Sys2Proof

/-- The two halves of the block (R1, R36). -/
inductive Half where
  | A
  | B
  deriving DecidableEq, Repr

/-- The two timebase inputs (R42). -/
inductive TbIn where
  | tb0
  | tb1
  deriving DecidableEq, Repr

/-- The seven engines of a tile, in the ENG numbering of R88. -/
inductive Eng where
  | ld
  | mx
  | vx
  | tr
  | au
  | xf
  | sq
  deriving DecidableEq, Repr

/-- The discrete inputs of R400. -/
inductive Pin where
  | resetN
  | pwrOk
  | haltReq
  deriving DecidableEq, Repr

/-- What the plan sequencer dispatches a kernel for: the running plan (R286), a mask-lane job (R287) or a replay job (R412). -/
inductive Lane where
  | plan
  | mask
  | replay
  deriving DecidableEq, Repr

/-- A submission-ring entry as the block took it (R323, R324): its ring, its consumer index and its words 0 to 4. -/
structure Msg where
  ring : BitVec 4
  idx : BitVec 32
  w0 : W64
  w1 : W64
  w2 : W64
  w3 : W64
  w4 : W64
  deriving DecidableEq, Repr

/-- An M-chain frame (R448). -/
structure Frame where
  type : Byte
  flags : Byte
  dst : BitVec 16
  src : BitVec 16
  tag : BitVec 16
  arg : W64
  data : W64
  crc : BitVec 16
  deriving DecidableEq, Repr

/-- One kernel of a plan. The manual gives the plan's header fields (R349) and what a plan fixes (R286, R287, R352), but no layout
for its schedule: the model takes the schedule decoded (log 6). `kernel` is the KERNEL_ID (R132); `fixed` is the fixed batch-size class
of a kernel that holds a remote SEND or RECV (R352); `args` are arguments 2 to 15 (R109). -/
structure PlanKernel where
  half : Half
  tile : BitVec 10
  tenant : BitVec 16
  kernel : BitVec 16
  fixed : Option Byte
  args : List W32
  verdict : Bool
  deriving DecidableEq, Repr

/-- A plan: the header of R349, its schedule, the mask-lane tiles of each half, and the KERNEL_ID of each tenant's
mask-lane kernel with its arguments 2 to 15 (R287, R109). -/
structure PlanDef where
  major : Byte
  minor : Byte
  group : BitVec 16
  addrs : List (BitVec 16)
  maps : List (List (BitVec 24))
  start : W32
  logb : W32
  kernels : List PlanKernel
  maskTilesA : List (BitVec 10)
  maskTilesB : List (BitVec 10)
  maskKernels : List (BitVec 16 × BitVec 16 × List W32)
  deriving DecidableEq, Repr

/-- Where an image keeps the arrays of one automaton (R215 to R217, R220), as byte offsets in the image (log 7). -/
structure AutLoc where
  hdr : Nat
  states : Nat
  trans : Nat
  acts : Nat
  deriving DecidableEq, Repr

/-- Where an image keeps a feature table of `n` entries, and the edge list of each of them, whose EOFF is a scratch offset (R189; log 7). -/
structure FeatLoc where
  table : Nat
  n : Nat
  edges : List Nat
  deriving DecidableEq, Repr

/-- Where an image keeps a tree table of `trees` trees and its nodes (R195, R203; log 7). -/
structure TreeLoc where
  table : Nat
  trees : Nat
  nodes : Nat
  streamed : Bool
  deriving DecidableEq, Repr

/-- What the steward firmware reads from a tenant program image at places the manual does not lay out in R452 (log 7), offsets in bytes
from the header: whether the tenant publishes by BATCH (R254), its vocabulary size, NMASK and the mask store (R224), its automata,
feature tables and tree tables; stored weight scale pairs with their descriptor number (R141), side lists by descriptor number (R151), the
offset, TRACK and shift S of each requantisation (R152), the channel counts of rotated tensors by descriptor number (R150), and the values per token
of each TRACK (R156). -/
structure ImageMap where
  batch : Bool
  vocab : Nat
  nmask : Nat
  storeOff : Nat
  automata : List AutLoc
  features : List FeatLoc
  trees : List TreeLoc
  weightPairs : List (Nat × Nat)
  sideLists : List (Nat × Nat)
  requants : List (Nat × Nat × Nat)
  rotChannels : List (Nat × Nat)
  values : List (Nat × Nat)
  deriving DecidableEq, Repr

/-- Whose notice interval ends (R319): a verdict ring, a BATCH tenant, the mask bulletins or the events of a half. -/
inductive NoticeKey where
  | ring (n : BitVec 16)
  | tenant (t : BitVec 16)
  | mask (h : Half)
  | event (h : Half)
  deriving DecidableEq, Repr

/-- Whose entry or buffer returns to BLOCK (R274): the ring of a slot's request, or the batch pool of a tenant. -/
inductive ReturnKey where
  | slot (n : BitVec 16)
  | tenant (t : BitVec 16)
  deriving DecidableEq, Repr

/-- The commands: one constructor per row of spec/opcode_table.json. An engine instruction carries the tile and the 64-bit word of
R88 that its engine reaches. -/
inductive Instr where
  | nop (t : BitVec 10) (w : W64)
  | repeat_ (t : BitVec 10) (w : W64)
  | kenter (t : BitVec 10) (w : W64)
  | kend (t : BitVec 10) (w : W64)
  | li (t : BitVec 10) (w : W64)
  | alu (t : BitVec 10) (w : W64)
  | alui (t : BitVec 10) (w : W64)
  | br (t : BitVec 10) (w : W64)
  | jmp (t : BitVec 10) (w : W64)
  | seta (t : BitVec 10) (w : W64)
  | adda (t : BitVec 10) (w : W64)
  | addas (t : BitVec 10) (w : W64)
  | aread (t : BitVec 10) (w : W64)
  | karg (t : BitVec 10) (w : W64)
  | credit (t : BitVec 10) (w : W64)
  | qrd (t : BitVec 10) (w : W64)
  | qwr (t : BitVec 10) (w : W64)
  | qstat (t : BitVec 10) (w : W64)
  | trap (t : BitVec 10) (w : W64)
  | load (t : BitVec 10) (w : W64)
  | store (t : BitVec 10) (w : W64)
  | ldq (t : BitVec 10) (w : W64)
  | qst (t : BitVec 10) (w : W64)
  | gather (t : BitVec 10) (w : W64)
  | ebag (t : BitVec 10) (w : W64)
  | zero (t : BitVec 10) (w : W64)
  | send (t : BitVec 10) (w : W64)
  | recv (t : BitVec 10) (w : W64)
  | mmw (t : BitVec 10) (w : W64)
  | mxout (t : BitVec 10) (w : W64)
  | mzero (t : BitVec 10) (w : W64)
  | vld (t : BitVec 10) (w : W64)
  | vst (t : BitVec 10) (w : W64)
  | vpop (t : BitVec 10) (w : W64)
  | vpush (t : BitVec 10) (w : W64)
  | vscl (t : BitVec 10) (w : W64)
  | vop (t : BitVec 10) (w : W64)
  | vopi (t : BitVec 10) (w : W64)
  | vred (t : BitVec 10) (w : W64)
  | vrot (t : BitVec 10) (w : W64)
  | vpick (t : BitVec 10) (w : W64)
  | vside (t : BitVec 10) (w : W64)
  | vqz (t : BitVec 10) (w : W64)
  | vqnt (t : BitVec 10) (w : W64)
  | vqs (t : BitVec 10) (w : W64)
  | vpack (t : BitVec 10) (w : W64)
  | vunpk (t : BitVec 10) (w : W64)
  | tfe (t : BitVec 10) (w : W64)
  | twalk (t : BitVec 10) (w : W64)
  | tout (t : BitVec 10) (w : W64)
  | astep (t : BitVec 10) (w : W64)
  | instructionComplete (t : BitVec 10) (e : Eng) (k : Nat)
  | creditStall (t : BitVec 10)
  | kernelDispatch (h : Half) (l : Lane)
  | streamLoaderFill (t : BitVec 10) (e : Eng)
  | kernelEnd (t : BitVec 10)
  | turnMark (i : TbIn) (payload : W64)
  | turnStall
  | pauseExpiry (slot : BitVec 16)
  | handleExpiry (h : Half) (idx : BitVec 14)
  | mwr (port : BitVec 2) (w0 w1 : W64) (data : List W64)
  | mrd (port : BitVec 2) (w0 w1 : W64)
  | doorbell (port : BitVec 2) (w0 w1 : W64)
  | admitReq (m : Msg)
  | tokens (m : Msg)
  | takeback (m : Msg)
  | resign (m : Msg)
  | pause (m : Msg)
  | resume (m : Msg)
  | resumeLoss (m : Msg)
  | resumeRebuild (m : Msg)
  | prefixRefMark (m : Msg)
  | prefixRefDrop (m : Msg)
  | pauseDrained (slot : BitVec 16)
  | pauseTransferDone (slot : BitVec 16)
  | imageFetchDone (slot : BitVec 16)
  | verdictEntryReturned (key : ReturnKey)
  | bulletinTimeout (h : Half)
  | bulletinSlotReturned (h : Half)
  | eventEntryReturned (h : Half)
  | imageBufferReturned (slot : BitVec 16)
  | masksetEntryReturned (idx : BitVec 16)
  | noticeInterval (key : NoticeKey)
  | mcSeat (f : Frame)
  | mcRd (f : Frame)
  | mcWr (f : Frame)
  | mcForward (f : Frame)
  | registerWrite (addr : W48) (data : W64)
  | tileFlush (t : BitVec 10) (data : W64)
  | reqSlotSel (h : Half) (data : W64)
  | errLogSel (data : W64)
  | meterSel (data : W64)
  | codeSel (data : W64)
  | routeLoad (data : W64)
  | routeLoadComplete
  | codeLoad (data : W64)
  | codeAct (data : W64)
  | closeClock (d : BitVec 6)
  | openClock (d : BitVec 6)
  | powerOff (d : BitVec 6)
  | powerOn (d : BitVec 6)
  | gateHandshakeDone (cycles : BitVec 13)
  | gateTimeout
  | railGood
  | railTimeout
  | clkReturnNow
  | fwLoad (data : W64)
  | fwAuthComplete
  | seal
  | shutdown
  | shutdownComplete
  | loadProgram (tenant : BitVec 16) (map : ImageMap)
  | unloadProgram (tenant : BitVec 16)
  | loadPlan (plan : PlanDef)
  | stewardCommandDone
  | xchDataItem (h : Half) (idx : BitVec 14)
  | xchScaleItem (h : Half) (idx : BitVec 14)
  | xchAckItem (h : Half) (idx : BitVec 14)
  | xchNakItem (h : Half) (idx : BitVec 14)
  | outSlotReturned (h : Half)
  | exchangeTimeout (t : BitVec 10) (k : Nat)
  | resetNFall
  | resetNRise
  | pwrOkRise
  | pwrOkFall
  | vinOutOfRange
  | haltReqAssert
  | haltReqRelease
  | haltStuck
  | haltRearmed
  | blockLockAcquired (i : TbIn)
  | blockLockLost (i : TbIn)
  | frameLockAcquired (i : TbIn)
  | frameLockLost (i : TbIn)
  | windowCheck (c0 c1 : Nat)
  | watchCheck (losc r0 r1 : Nat)
  | trimUpdate (loscElapsed : Nat)
  | relockEnd
  | stkPgRise (p : BitVec 5)
  | mpTrained (p : BitVec 5) (repaired : Byte)
  | mpTrainTimeout (p : BitVec 5) (cause : BitVec 4)
  | stkPgFall (p : BitVec 5)
  | memPortRetrain (p : BitVec 5)
  | mpRetrained (p : BitVec 5) (repaired : Byte)
  | mpRetrainTimeout (p : BitVec 5)
  | linkFlitReplay (mem : Bool) (p : BitVec 5)
  | hostPortDown (p : BitVec 2)
  | hostPortUp (p : BitVec 2) (repaired : BitVec 7)
  | domainFault (d : BitVec 6)
  | boxcarsSpent
  | boxcarsWorn
  | boxcarsHot (sensor : BitVec 5) (temp : BitVec 16)
  | hotClear (temps : List (BitVec 16))
  | thermalRecovered
  | errorEntryHandle
  | recoveryStepTimeout
  | startupPhaseEnd
  | startupTimeout (cause : BitVec 8)
  | illegalOpcode (t : BitVec 10) (e : Eng) (w : W64)
  | badpkt (port : BitVec 2) (w0 : W64)
  | baditem (h : Half) (idx : BitVec 14)
  | startOfFrameFault (i : TbIn) (atPosition : Bool) (payload : W64)
  | filteredPulse (p : Pin)
  deriving DecidableEq, Repr

end Sys2Proof
end

