-- ==== Sys2Proof/Machine/Bits.lean ====
section
/-! DEFINITION. Bit fields of words (R14), sign extension, little-endian bytes, and the enumerations' numbers. -/

namespace Sys2Proof.Machine

/-- Bits [lo + len - 1 : lo] of `w`, as a number. -/
def fld (w : W64) (lo len : Nat) : Nat := (w.toNat >>> lo) % 2 ^ len

/-- Bit `i` of `w`. -/
def bit (w : W64) (i : Nat) : Bool := fld w i 1 == 1

/-- The number `v` placed at bits [lo + len - 1 : lo] of a word that is zero elsewhere. -/
def put (v lo len : Nat) : Nat := (v % 2 ^ len) <<< lo

/-- A flag as a bit. -/
def b2n (b : Bool) : Nat := if b then 1 else 0

/-- A 64-bit word from the sum of its placed fields. -/
def mk64 (n : Nat) : W64 := BitVec.ofNat 64 n

/-- `v`, a number of `len` bits, read as a two's-complement number. -/
def sext (v len : Nat) : Int := if v % 2 ^ len < 2 ^ (len - 1) then (v % 2 ^ len : Nat) else (v % 2 ^ len : Nat) - (2 ^ len : Nat)

/-- The low `len` bits of an integer. -/
def wrap (i : Int) (len : Nat) : Nat := (i % (2 ^ len : Nat)).toNat

/-- Saturating addition, for the counters that 'saturate at their largest value'. -/
def satAdd (a b len : Nat) : Nat := min (a + b) (2 ^ len - 1)

/-- The bytes of a number of `n` bytes, least significant first (R14). -/
def bytesOf : Nat → Nat → List Byte
  | 0, _ => []
  | n + 1, v => BitVec.ofNat 8 v :: bytesOf n (v / 256)

/-- The number whose little-endian bytes are `bs` (R14). -/
def numOf : List Byte → Nat
  | [] => 0
  | b :: bs => b.toNat + 256 * numOf bs

/-- A list cut into groups of `n` elements (`n` at least 1), by fuel. -/
def chunksF {α : Type} : Nat → Nat → List α → List (List α)
  | 0, _, _ => []
  | _, _, [] => []
  | k + 1, n, l => l.take n :: chunksF k n (l.drop n)

/-- A list cut into groups of `n` elements. -/
def chunks {α : Type} (n : Nat) (l : List α) : List (List α) := chunksF l.length n l

/-- `f 0, f 1, ..., f (n - 1)`. -/
def tab {α : Type} (n : Nat) (f : Nat → α) : List α := (List.range n).map f

/-- The list with element `i` replaced. -/
def setAt {α : Type} (l : List α) (i : Nat) (a : α) : List α := l.set i a

/-- Half a number to divide and round up. -/
def ceilDiv (a b : Nat) : Nat := (a + b - 1) / b

/-- The half's number: 0 for A, 1 for B (R40, R241). -/
def halfNum : Half → Nat
  | .A => 0
  | .B => 1

/-- The half a number names. -/
def halfOf (n : Nat) : Half := if n % 2 = 0 then .A else .B

/-- The ENG number of R88. -/
def engNum : Eng → Nat
  | .ld => 0
  | .mx => 1
  | .vx => 2
  | .tr => 3
  | .au => 4
  | .xf => 5
  | .sq => 6

/-- The seven engines in the order of R78. -/
def engines : List Eng := [.ld, .mx, .vx, .tr, .au, .xf, .sq]

/-- The engine an ENG number names; 7 names none (R88). -/
def engOf (n : Nat) : Option Eng := engines[n]?

/-- The input's number: 0 for TB0, 1 for TB1. -/
def tbNum : TbIn → Nat
  | .tb0 => 0
  | .tb1 => 1

/-- The other timebase input. -/
def tbOther : TbIn → TbIn
  | .tb0 => .tb1
  | .tb1 => .tb0

/-- R15: turn `a` is later than turn `b`. -/
def later (a b : W32) : Bool := 1 ≤ (a - b).toNat && (a - b).toNat ≤ 2 ^ 31 - 1

/-- Turn `a` is turn `b` or later (R15). -/
def notEarlier (a b : W32) : Bool := a == b || later a b

end Sys2Proof.Machine
end

