-- ==== Sys2Proof/Machine/SMap.lean ====
section
/-! DEFINITION. Sparse maps: plain lists of key and value in one canonical form (keys strictly rising, no value equal to the
default). Memory is the map whose values are bytes (`Host.Cell`). -/

namespace Sys2Proof.Machine

/-- A sparse map: keys and values. -/
abbrev SMap (α : Type) := List (Nat × α)

/-- The value at `k`, or the default `d` where the map lists none. -/
def smGet {α : Type} (d : α) : SMap α → Nat → α
  | [], _ => d
  | (k', v) :: m, k => if k' = k then v else smGet d m k

/-- The map with every entry of `k` removed. -/
def smErase {α : Type} : SMap α → Nat → SMap α
  | [], _ => []
  | (k', v) :: m, k => if k' = k then smErase m k else (k', v) :: smErase m k

/-- The map with `v` at `k`, the keys kept rising. -/
def smInsert {α : Type} : SMap α → Nat → α → SMap α
  | [], k, v => [(k, v)]
  | (k', v') :: m, k, v =>
    if k' = k then (k, v) :: m else if k < k' then (k, v) :: (k', v') :: m else (k', v') :: smInsert m k v

/-- The map with `v` at `k`; the default value is not listed. -/
def smSet {α : Type} [DecidableEq α] (d : α) (m : SMap α) (k : Nat) (v : α) : SMap α :=
  if v = d then smErase m k else smInsert m k v

/-- The canonical form: keys strictly rising, no entry equal to the default. -/
abbrev smWf {α : Type} [DecidableEq α] (d : α) (m : SMap α) : Prop :=
  m.Pairwise (fun a b => a.1 < b.1) ∧ ∀ p ∈ m, p.2 ≠ d

end Sys2Proof.Machine
end

