-- ==== Sys2Proof/Machine/F32.lean ====
section
/-! DEFINITION. IEEE 754 binary32 as R147 and R175 fix it: round to nearest, ties to even, subnormals kept, one NaN. Every result is
computed exactly and rounded once. -/

namespace Sys2Proof.Machine

/-- The canonical NaN (R147). -/
def f32NaN : W32 := 0x7fc00000#32

/-- +infinity. -/
def f32Inf : W32 := 0x7f800000#32

/-- The sign bit. -/
def f32Neg (x : W32) : Bool := x.msb

/-- The 31 bits below the sign. -/
def f32Mag (x : W32) : Nat := x.toNat % 2 ^ 31

/-- The value with sign `neg` and the 31 magnitude bits `m`. -/
def f32Of (neg : Bool) (m : Nat) : W32 := BitVec.ofNat 32 (m % 2 ^ 31 + b2n neg * 2 ^ 31)

/-- NaN: exponent all ones, fraction not 0. -/
def f32IsNaN (x : W32) : Bool := f32Mag x > 0x7f800000

/-- Plus or minus infinity. -/
def f32IsInf (x : W32) : Bool := f32Mag x == 0x7f800000

/-- Plus or minus zero. -/
def f32IsZero (x : W32) : Bool := f32Mag x == 0

/-- The magnitude of a finite value is `mant` times 2 to the `expo`. -/
def f32Mant (x : W32) : Nat :=
  if f32Mag x / 2 ^ 23 = 0 then f32Mag x else 2 ^ 23 + f32Mag x % 2 ^ 23

/-- See `f32Mant`. -/
def f32Expo (x : W32) : Int := (max 1 (f32Mag x / 2 ^ 23) : Nat) - (150 : Int)

/-- The nearest integer to `n / d`, a tie to the even neighbour. -/
def divRound (n d : Nat) : Nat :=
  let q := n / d
  let r := n % d
  if 2 * r < d then q else if 2 * r = d ∧ q % 2 = 0 then q else q + 1

/-- The nearest integer to the integer quotient `n / d`, a tie to the even neighbour; symmetric about zero (R152). -/
def divRoundI (n : Int) (d : Nat) : Int := if n < 0 then - (divRound n.natAbs d : Int) else divRound n.natAbs d

/-- The numerator of `n * 2 ^ e` over a denominator `scaleDen e`. -/
def scaleNum (n : Nat) (e : Int) : Nat := if 0 ≤ e then n * 2 ^ e.toNat else n

/-- See `scaleNum`. -/
def scaleDen (e : Int) : Nat := if 0 ≤ e then 1 else 2 ^ (-e).toNat

/-- The binary32 value nearest to (-1)^neg (n / d) 2^e, ties to even (R147). `d` is not 0. -/
def f32Round (neg : Bool) (n d : Nat) (e : Int) : W32 :=
  if n = 0 then f32Of neg 0
  else
    let k0 : Int := (Nat.log2 n : Int) - Nat.log2 d + e - 23
    let at' (k : Int) : Nat × Nat := (scaleNum n (e - k), d * scaleDen (e - k))
    let low := at' k0
    let k1 : Int := if low.1 < 2 ^ 23 * low.2 then k0 - 1 else k0
    let k : Int := max k1 (-149)
    let p := at' k
    let bits := (k + 149).toNat * 2 ^ 23 + divRound p.1 p.2
    if bits ≥ 0x7f800000 then f32Of neg 0x7f800000 else f32Of neg bits

/-- The binary32 value nearest to the integer `i` times 2^e; an exact zero is +0. -/
def f32OfInt (i : Int) (e : Int) : W32 := f32Round (i < 0) i.natAbs 1 e

/-- The value of a finite `x` as an integer times 2^e, for an `e` not above its exponent. -/
def f32IntAt (x : W32) (e : Int) : Int :=
  let m : Int := f32Mant x * 2 ^ (f32Expo x - e).toNat
  if f32Neg x then -m else m

/-- R147: the sum of two values. -/
def f32Add (x y : W32) : W32 :=
  if f32IsNaN x || f32IsNaN y then f32NaN
  else if f32IsInf x then (if f32IsInf y && (f32Neg x != f32Neg y) then f32NaN else x)
  else if f32IsInf y then y
  else if f32IsZero x && f32IsZero y then f32Of (f32Neg x && f32Neg y) 0
  else
    let e := min (f32Expo x) (f32Expo y)
    f32OfInt (f32IntAt x e + f32IntAt y e) e

/-- The value with its sign bit inverted; a NaN keeps its bits (R175: FN 7 changes only the sign bit). -/
def f32FlipSign (x : W32) : W32 := x ^^^ 0x80000000#32

/-- R147: the difference of two values. -/
def f32Sub (x y : W32) : W32 := f32Add x (f32FlipSign y)

/-- R147: the product of two values. -/
def f32Mul (x y : W32) : W32 :=
  let s := f32Neg x != f32Neg y
  if f32IsNaN x || f32IsNaN y then f32NaN
  else if f32IsInf x || f32IsInf y then
    (if f32IsZero x || f32IsZero y then f32NaN else f32Of s 0x7f800000)
  else f32Round s (f32Mant x * f32Mant y) 1 (f32Expo x + f32Expo y)

/-- R174 FN 3: x times y plus z with one rounding. -/
def f32Fma (x y z : W32) : W32 :=
  let s := f32Neg x != f32Neg y
  if f32IsNaN x || f32IsNaN y || f32IsNaN z then f32NaN
  else if f32IsInf x || f32IsInf y then
    if f32IsZero x || f32IsZero y then f32NaN
    else if f32IsInf z && (f32Neg z != s) then f32NaN else f32Of s 0x7f800000
  else if f32IsInf z then z
  else if (f32IsZero x || f32IsZero y) && f32IsZero z then f32Of (s && f32Neg z) 0
  else
    let ep := f32Expo x + f32Expo y
    let e := min ep (f32Expo z)
    let p : Int := f32Mant x * f32Mant y * 2 ^ (ep - e).toNat
    f32OfInt ((if s then -p else p) + f32IntAt z e) e

/-- R174 FN 8: x divided by y. -/
def f32Div (x y : W32) : W32 :=
  let s := f32Neg x != f32Neg y
  if f32IsNaN x || f32IsNaN y then f32NaN
  else if f32IsInf x then (if f32IsInf y then f32NaN else f32Of s 0x7f800000)
  else if f32IsInf y then f32Of s 0
  else if f32IsZero y then (if f32IsZero x then f32NaN else f32Of s 0x7f800000)
  else f32Round s (f32Mant x) (f32Mant y) (f32Expo x - f32Expo y)

/-- The integer square root by halving: the greatest r below 2^k with r^2 at most `n`, built from its top bit. -/
def isqrtF : Nat → Nat → Nat → Nat
  | 0, _, r => r
  | k + 1, n, r => let c := r + 2 ^ k; isqrtF k n (if c * c ≤ n then c else r)

/-- The greatest integer whose square is at most `n`. -/
def isqrt (n : Nat) : Nat := isqrtF (Nat.log2 n / 2 + 1) n 0

/-- R174 FN 9 and R175: one over the square root. -/
def f32Rsqrt (x : W32) : W32 :=
  if f32IsNaN x then f32NaN
  else if f32IsZero x then f32Of (f32Neg x) 0x7f800000
  else if f32Neg x then f32NaN
  else if f32IsInf x then f32Of false 0
  else
    let odd := (f32Expo x % 2).toNat
    let m := f32Mant x * 2 ^ odd
    let h : Int := (f32Expo x - odd) / 2
    let n := 2 ^ 160 / m
    let r := isqrt n
    let exact := r * r * m = 2 ^ 160
    f32Round false (2 * r + (if exact then 0 else 1)) 1 (-81 - h)

/-- Fraction bits kept while FN 10 and FN 11 are computed; far more than any binary32 rounding needs. -/
def expBits : Nat := 320

/-- The product over the set bits of the fraction `f` (of `n` bits, taken from the top) of 2^(2^-j), scaled by 2^expBits.
`r` is the current root. -/
def exp2Frac : Nat → Nat → Nat → Nat → Nat
  | 0, _, _, acc => acc
  | n + 1, f, r, acc =>
    let acc' := if f / 2 ^ n % 2 = 1 then acc * r / 2 ^ expBits else acc
    exp2Frac n f (isqrt (r * 2 ^ expBits)) acc'

/-- R174 FN 10: 2 to the power x, rounded to the nearest value. -/
def f32Exp2 (x : W32) : W32 :=
  if f32IsNaN x then f32NaN
  else if f32IsInf x then (if f32Neg x then f32Of false 0 else f32Inf)
  else if f32IsZero x then f32OfInt 1 0
  else
    let e := min (f32Expo x) 0
    let v := f32IntAt x e
    let den : Nat := 2 ^ (-e).toNat
    let i := v / (den : Int)
    let f := (v % (den : Int)).toNat
    if i ≥ 128 then f32Inf
    else if i < -152 then f32Of false 0
    else if f = 0 then f32Round false 1 1 i
    else
      let ff := f * 2 ^ 160 / den
      let r0 := isqrt (2 * 2 ^ (2 * expBits))
      f32Round false (2 * exp2Frac 160 ff r0 (2 ^ expBits) + 1) 1 (i - expBits - 1)

/-- `n` further fraction bits of log2 of `y` / 2^expBits, by squaring; `acc` holds the bits found. -/
def log2Frac : Nat → Nat → Nat → Nat
  | 0, _, acc => acc
  | n + 1, y, acc =>
    let y2 := y * y / 2 ^ expBits
    if y2 ≥ 2 ^ (expBits + 1) then log2Frac n (y2 / 2) (2 * acc + 1) else log2Frac n y2 (2 * acc)

/-- R174 FN 11: the base-2 logarithm of x, rounded to the nearest value. -/
def f32Log2 (x : W32) : W32 :=
  if f32IsNaN x then f32NaN
  else if f32IsZero x then f32Of true 0x7f800000
  else if f32Neg x then f32NaN
  else if f32IsInf x then f32Inf
  else
    let m := f32Mant x
    let l := Nat.log2 m
    let ex : Int := f32Expo x + l
    if m = 2 ^ l then f32OfInt ex 0
    else
      let y := m * 2 ^ (expBits - l)
      let v : Int := ex * 2 ^ 160 + log2Frac 160 y 0
      f32OfInt (2 * v + 1) (-161)

/-- Values that are no NaN, ordered: a less than b. Zeros are equal. -/
def f32LtNum (x y : W32) : Bool :=
  let v (z : W32) : Int := if f32Neg z then - (f32Mag z : Int) else f32Mag z
  v x < v y

/-- R175: a less than b; 0 with a NaN. -/
def f32Lt (x y : W32) : Bool := !(f32IsNaN x) && !(f32IsNaN y) && f32LtNum x y

/-- R175: a equal to b; 0 with a NaN; the two zeros are equal. -/
def f32Eq (x y : W32) : Bool := !(f32IsNaN x) && !(f32IsNaN y) && !(f32LtNum x y) && !(f32LtNum y x)

/-- R175: a at most b; 0 with a NaN. -/
def f32Le (x y : W32) : Bool := f32Lt x y || f32Eq x y

/-- R175: the minimum; NaN with a NaN; -0 is below +0. -/
def f32Min (x y : W32) : W32 :=
  if f32IsNaN x || f32IsNaN y then f32NaN
  else if f32IsZero x && f32IsZero y then f32Of (f32Neg x || f32Neg y) 0
  else if f32LtNum y x then y else x

/-- R175: the maximum; NaN with a NaN; +0 is above -0. -/
def f32Max (x y : W32) : W32 :=
  if f32IsNaN x || f32IsNaN y then f32NaN
  else if f32IsZero x && f32IsZero y then f32Of (f32Neg x && f32Neg y) 0
  else if f32LtNum x y then y else x

/-- R174 FN 16: to int32, ties to even, saturating; NaN gives 0. -/
def f32ToI32 (x : W32) : W32 :=
  if f32IsNaN x then 0#32
  else if f32IsInf x then (if f32Neg x then 0x80000000#32 else 0x7fffffff#32)
  else
    let m := divRound (scaleNum (f32Mant x) (f32Expo x)) (scaleDen (f32Expo x))
    let i : Int := if f32Neg x then -m else m
    BitVec.ofInt 32 (max (-2147483648) (min 2147483647 i))

/-- R174 FN 15: from int32, ties to even. -/
def f32OfI32 (x : W32) : W32 := f32OfInt x.toInt 0

/-- The exact value of a finite x as a quotient: numerator and denominator. -/
def f32Num (x : W32) : Int :=
  let n : Int := scaleNum (f32Mant x) (f32Expo x)
  if f32Neg x then -n else n

/-- See `f32Num`. -/
def f32Den (x : W32) : Nat := scaleDen (f32Expo x)

end Sys2Proof.Machine
end

