-- ==== Sys2Proof/Machine/Codes.lean ====
section
/-! DEFINITION. Narrow codes, KF16, quantisation, requantisation and the rotation (spec/05_codes_and_quantisation.md R138 to R153). -/

namespace Sys2Proof.Machine

/-- A byte with the poison it carries (R71). -/
abbrev PByte := Byte × Bool

/-- R139: the bits of a code of WIDTH `w`. -/
def widthBits (w : Nat) : Nat := if w = 0 then 4 else if w = 1 then 6 else 8

/-- R139: the bytes of a 256-value block. -/
def blockBytes (w : Nat) : Nat := 32 * widthBits w

/-- R140: the codes that share one group of whole bytes. -/
def groupCodes (w : Nat) : Nat := if w = 0 then 2 else if w = 1 then 4 else 1

/-- R140: the bytes of such a group. -/
def groupBytes (w : Nat) : Nat := if w = 1 then 3 else 1

/-- R140: the number of one group, code `m` at bits [k m + k - 1 : k m]. -/
def groupNum (k : Nat) : List Nat → Nat
  | [] => 0
  | c :: cs => c % 2 ^ k + 2 ^ k * groupNum k cs

/-- R140: codes packed, group by group. A group is poisoned when a code it holds is (R182). -/
def packCodes (w : Nat) (codes : List (Nat × Bool)) : List PByte :=
  (chunks (groupCodes w) codes).flatMap fun g =>
    (bytesOf (groupBytes w) (groupNum (widthBits w) (g.map (·.1)))).map fun b => (b, g.any (·.2))

/-- R140: bytes unpacked. A code is poisoned when a byte of its group is. -/
def unpackCodes (w : Nat) (bs : List PByte) : List (Nat × Bool) :=
  (chunks (groupBytes w) bs).flatMap fun g =>
    tab (groupCodes w) fun m =>
      (numOf (g.map (·.1)) / 2 ^ (widthBits w * m) % 2 ^ widthBits w, g.any (·.2))

/-- R144, R146: binary32 to KF16, ties to even, saturating. -/
def kf16OfF32 (x : W32) : BitVec 16 :=
  let s := b2n (f32Neg x) * 0x8000
  if f32IsNaN x then 0x7f00#16
  else if f32IsInf x then BitVec.ofNat 16 (s + 0x7e00)
  else if f32IsZero x then BitVec.ofNat 16 s
  else
    let e := f32Expo x
    let k : Int := max ((Nat.log2 (f32Mant x) : Int) + e - 9) (-39)
    let m := (k + 39).toNat * 512 + divRound (scaleNum (f32Mant x) (e - k)) (scaleDen (e - k))
    BitVec.ofNat 16 (s + min m 0x7dff)

/-- R144: the value of a KF16 number as a binary32 number; exact. -/
def kf16ToF32 (h : BitVec 16) : W32 :=
  let s := h.msb
  let x := h.toNat / 512 % 64
  let f := h.toNat % 512
  if x = 0 then f32Round s f 1 (-39)
  else if x = 63 then (if f = 0 then f32Of s 0x7f800000 else f32NaN)
  else f32Round s (512 + f) 1 ((x : Int) - 40)

/-- R138, R145: the value (c - z) 2^e of a code; exact in KF16 and in binary32 for the exponents R145 allows. -/
def dequant (c z : Nat) (e : Int) : W32 := f32OfInt ((c : Int) - z) e

/-- R145: an exponent a dequantising instruction accepts. -/
def expoOk (e : Int) : Bool := -39 ≤ e && e ≤ 24

/-- A code with its two counts (R148, R149). -/
structure Quant where
  code : Nat
  clip : Bool
  half : Bool
  deriving DecidableEq, Repr

/-- R148, R149: x quantised to width k bits with zero point z and exponent e. -/
def quantise (k z : Nat) (e : Int) (x : W32) : Quant :=
  let top : Int := (2 ^ k : Nat) - 1
  if f32IsNaN x then ⟨z, true, true⟩
  else if f32IsInf x then ⟨if f32Neg x then 0 else 2 ^ k - 1, true, true⟩
  else
    let n : Int := f32Num x * scaleNum 1 (-e)
    let d : Nat := f32Den x * scaleDen (-e)
    let c := divRoundI n d + z
    { code := (max 0 (min top c)).toNat
      clip := decide (2 * n + 2 * z * d > (2 * top + 1) * d) || decide (2 * n + 2 * z * d < -(d : Int))
      half := decide (4 * n + 2 * z * d > (2 * top + 1) * d) || decide (4 * n + 2 * z * d < -(d : Int)) }

/-- R152, R153: x requantised to width k bits with fraction bits f, multiplier m, shift s and zero point z. -/
def requantise (k : Nat) (f : Int) (m s z : Nat) (x : W32) : Quant :=
  let top : Int := (2 ^ k : Nat) - 1
  let nan := f32IsNaN x
  let t0 : Int :=
    if nan then 0
    else if f32IsInf x then (if f32Neg x then -(2 ^ 31) - 1 else 2 ^ 31)
    else divRoundI (f32Num x * scaleNum 1 f) (f32Den x * scaleDen f)
  let sat := nan || decide (t0 > 2 ^ 31 - 1) || decide (t0 < -(2 ^ 31))
  let t := max (-(2 ^ 31)) (min (2 ^ 31 - 1) t0)
  let p := t * m
  let c := divRoundI p (2 ^ s) + z
  { code := (max 0 (min top c)).toNat
    clip := sat || decide (2 * p > (2 * (top - z) + 1) * 2 ^ s) || decide (2 * p < (-2 * (z : Int) - 1) * 2 ^ s)
    half := sat || decide (4 * p > (2 * (top - z) + 1) * 2 ^ s) || decide (4 * p < (-2 * (z : Int) - 1) * 2 ^ s) }

/-- R150: one butterfly stage over pairs at distance `h`. -/
def butterfly (h : Nat) (l : List W32) : List W32 :=
  (chunks (2 * h) l).flatMap fun c =>
    (List.zipWith f32Add (c.take h) (c.drop h)) ++ (List.zipWith f32Sub (c.take h) (c.drop h))

/-- R150: the eight stages and the factor 2^-4. -/
def hadamard (l : List W32) : List W32 :=
  ([1, 2, 4, 8, 16, 32, 64, 128].foldl (fun v h => butterfly h v) l).map fun v => f32Mul v 0x3d800000#32

/-- R147, R150: the negation of a value as an arithmetic result: a NaN gives the canonical NaN. -/
def f32Negate (x : W32) : W32 := if f32IsNaN x then f32NaN else f32FlipSign x

/-- R150: the signs of the vector sigma, bit i of its little-endian bytes. -/
def applySigns (sigma : List Byte) (l : List W32) : List W32 :=
  l.zipIdx.map fun p => if (sigma.getD (p.2 / 8) 0).getLsbD (p.2 % 8) then f32Negate p.1 else p.1

/-- R150, R177: the rotation, and with `inv` its inverse. -/
def rotate (inv : Bool) (sigma : List Byte) (l : List W32) : List W32 :=
  if inv then applySigns sigma (hadamard l) else hadamard (applySigns sigma l)

/-- R141: the exponent of a scale pair. -/
def pairE (p : Nat) : Int := sext (p / 256) 8

/-- R141: the zero point of a scale pair. -/
def pairZ (p : Nat) : Nat := p % 256

/-- R145, R166: the pair's exponent and zero point are in range for WIDTH `w`. -/
def pairOk (w p : Nat) : Bool := expoOk (pairE p) && pairZ p < 2 ^ widthBits w

end Sys2Proof.Machine
end

