-- ==== Sys2Proof/Machine/Mem.lean ====
section
/-! DEFINITION. The byte memory of the block: stacks, staging stores and tile scratch in ONE 48-bit address space (R41, R341), with
poison per 64-byte line in the stacks and per 64-bit word elsewhere (R62, R341, R465), the words with a correctable error (R63, R406), and
the FAILED memory ports (R346). -/

namespace Sys2Proof.Machine

/-- The memory: bytes that differ from 0, poisoned units and words with a correctable single-bit error (both keyed by the unit's first
address; a correctable error leaves the data a read returns unchanged), and one bit per FAILED port. An unlisted byte reads 0: SELFTEST
leaves staging stores and scratch zero (R439); in the stacks the model names 0 (DESIGN CHOICE, log 1). -/
structure Mem where
  cells : List Host.Cell
  poison : SMap Bool
  single : SMap Bool
  failed : W32
  deriving DecidableEq, Repr

/-- The canonical form: keys strictly rising, no byte listed that equals what an unlisted one reads as. -/
abbrev Memory.wf (m : Mem) : Prop := smWf 0 m.cells ∧ smWf false m.poison ∧ smWf false m.single

/-- The first address past the stacks (R341). -/
def stackEnd : Nat := 0x018000000000

/-- The first address of each half's staging store (R37). -/
def stageBase (h : Half) : Nat := if h = .A then 0xf00000000000 else 0xf10000000000

/-- The size of a staging store: 640 MB (R37). -/
def stageSize : Nat := 0x28000000

/-- The first address of the tile windows (R41). -/
def tileWindows : Nat := 0xf80000000000

/-- The size of a tile window (R41). -/
def windowSize : Nat := 0x200000

/-- The size of a tile's scratch: 1.5 MB (R62). -/
def scratchSize : Nat := 0x180000

/-- The block address of tile `t`'s scratch (R41). -/
def scratchBase (t : Nat) : Nat := tileWindows + t * windowSize

/-- The first address of the management registers (R56). -/
def mgmtBase : Nat := 0xfe0000000000

/-- R40: the ten-bit values that name a tile. -/
def tileNamed (t : Nat) : Bool := t / 32 % 16 ≤ 11 && t % 32 ≤ 23 && t < 1024

/-- The regions of R341, the tile windows one by one (R41). -/
inductive Region where
  | stack
  | stage (h : Half)
  | window (tile : Nat)
  | mgmt
  | unmapped
  deriving DecidableEq, Repr

/-- The region that holds all of the `n` bytes at `a`; scratch is the first 1.5 MB of a window (R41, R97, R341). -/
def regionOf (a n : Nat) : Region :=
  if a + n ≤ stackEnd then .stack
  else if stageBase .A ≤ a ∧ a + n ≤ stageBase .A + stageSize then .stage .A
  else if stageBase .B ≤ a ∧ a + n ≤ stageBase .B + stageSize then .stage .B
  else if tileWindows ≤ a ∧ a < tileWindows + 1024 * windowSize ∧ (a - tileWindows) % windowSize + n ≤ scratchSize then
    .window ((a - tileWindows) / windowSize)
  else if mgmtBase ≤ a ∧ a + n ≤ 2 ^ 48 then .mgmt
  else .unmapped

/-- R342: the port whose stack holds stack address `a`. -/
def portOf (a : Nat) : Nat := 16 * (a / 2 ^ 16 % 2) + a / 2 ^ 12 % 16

/-- R342: the device address, within its stack, of stack address `a`. -/
def devAddr (a : Nat) : Nat := a / 2 ^ 17 * 4096 + a % 2 ^ 12

/-- R342, R343: the stack address that port `p` and device address `d` name. The port and the device address of an address name it again. -/
def stackAddr (p d : Nat) : Nat := d / 4096 * 2 ^ 17 + p / 16 % 2 * 2 ^ 16 + p % 16 * 2 ^ 12 + d % 4096

/-- Stack address `a` lies behind a FAILED port (R346). -/
def memDead (m : Mem) (a : Nat) : Bool := decide (a < stackEnd) && m.failed.getLsbD (portOf a)

/-- The size of the poison unit at `a` (R62, R465). -/
def unitSize (a : Nat) : Nat := if a < stackEnd then 64 else 8

/-- The first address of the poison unit at `a`. -/
def unitBase (a : Nat) : Nat := a / unitSize a * unitSize a

/-- One byte; zero behind a FAILED port (R346). -/
def memByte (m : Mem) (a : Nat) : Byte := if memDead m a then 0 else smGet 0 m.cells a

/-- The poison of the byte at `a` (R71); every read behind a FAILED port is poisoned (R346). -/
def memPz (m : Mem) (a : Nat) : Bool := memDead m a || smGet false m.poison (unitBase a)

/-- The `n` bytes at `a` with their poison. -/
def memRead (m : Mem) (a n : Nat) : List PByte := tab n fun i => (memByte m (a + i), memPz m (a + i))

/-- The `n` bytes at `a` as a little-endian number (R14). -/
def memNum (m : Mem) (a n : Nat) : Nat := numOf (tab n fun i => memByte m (a + i))

/-- The 64-bit word at `a`. -/
def memWord (m : Mem) (a : Nat) : W64 := mk64 (memNum m a 8)

/-- One of the `n` bytes at `a` is poisoned. -/
def memAnyPz (m : Mem) (a n : Nat) : Bool := (List.range n).any fun i => memPz m (a + i)

/-- The first addresses of the poison units that the `n` bytes at `a` touch. -/
def unitsOf (a n : Nat) : List Nat :=
  if n = 0 then [] else tab ((a + n - 1) / unitSize a - a / unitSize a + 1) fun i => (a / unitSize a + i) * unitSize a

/-- The poisoned units a read of the `n` bytes at `a` meets. -/
def badUnits (m : Mem) (a n : Nat) : List Nat := (unitsOf a n).filter fun b => memPz m b

/-- Bytes stored from `a` on; a byte behind a FAILED port is discarded (R346). -/
def putBytes (m : Mem) : List Host.Cell → Nat → List Byte → List Host.Cell
  | cs, _, [] => cs
  | cs, a, b :: bs => putBytes m (if memDead m a then cs else smSet 0 cs a b) (a + 1) bs

/-- The poison of unit `b` after `l` is written at `a` (R63, R465): poisoned data poisons it, only clean data that covers it clears it. -/
def unitPz (m : Mem) (a : Nat) (l : List PByte) (b : Nat) : Bool :=
  let inside := (l.drop (b - a)).take (b + unitSize b - max a b)
  inside.any (·.2) || (smGet false m.poison b && !(decide (a ≤ b) && decide (b + unitSize b ≤ a + l.length)))

/-- The poison of the units `bs` after `l` is written at `a`. -/
def putPoison (m : Mem) (a : Nat) (l : List PByte) : SMap Bool → List Nat → SMap Bool
  | p, [] => p
  | p, b :: bs => putPoison m a l (if memDead m b then p else smSet false p b (unitPz m a l b)) bs

/-- Words read and written back, or stored with fresh ECC (R63): they hold no correctable error any longer. -/
def healUnits : SMap Bool → List Nat → SMap Bool
  | p, [] => p
  | p, b :: bs => healUnits (smErase p b) bs

/-- The memory with the bytes `l` at `a`, in one region: every word touched is stored with fresh ECC (R63). -/
def memWrite (m : Mem) (a : Nat) (l : List PByte) : Mem :=
  { m with
    cells := putBytes m m.cells a (l.map (·.1))
    poison := putPoison m a l m.poison (unitsOf a l.length)
    single := healUnits m.single (unitsOf a l.length) }

/-- The words with a correctable error that a read of the `n` bytes at `a` meets (R63). -/
def singleUnits (m : Mem) (a n : Nat) : List Nat := (unitsOf a n).filter fun b => smGet false m.single b

/-- The memory after a read of the `n` bytes at `a`: the words with a correctable error are written back corrected (R63). -/
def memHeal (m : Mem) (a n : Nat) : Mem := { m with single := healUnits m.single (singleUnits m a n) }

/-- R63: the words that a store of `n` bytes at `a` reads and merges, because it does not cover them: the first and the last of those it
touches. Stack lines are merged by the stack. -/
def mergedUnits (a n : Nat) : List Nat :=
  if a < stackEnd then [] else (unitsOf a n).filter fun b => decide (b < a) || decide (a + n < b + 8)

/-- Bytes without poison. -/
def clean (bs : List Byte) : List PByte := bs.map fun b => (b, false)

/-- The memory with the 64-bit word `w` at `a`, clean. -/
def memPutWord (m : Mem) (a : Nat) (w : W64) : Mem := memWrite m a (clean (bytesOf 8 w.toNat))

/-- The memory with clean 64-bit words from `a` on. -/
def memPutWords (m : Mem) (a : Nat) (ws : List W64) : Mem := memWrite m a (clean (ws.flatMap fun w => bytesOf 8 w.toNat))

/-- The `n` 64-bit words at `a`. -/
def memWords (m : Mem) (a n : Nat) : List W64 := tab n fun i => memWord m (a + 8 * i)

end Sys2Proof.Machine
end

