-- ==== Sys2Proof/Machine/TileState.lean ====
section
/-! DEFINITION. The state of one tile (spec/03_tile_and_queues.md, spec/04_oczin_isa.md): queues, credits, registers, engines. -/

namespace Sys2Proof.Machine

/-- A 32-bit lane or register with its poison bit (R71, R111). -/
structure Lane where
  bits : W32
  pz : Bool
  deriving DecidableEq, Repr

/-- A 48-bit a-register with its poison bit (R92, R111). -/
structure ALane where
  bits : W48
  pz : Bool
  deriving DecidableEq, Repr

/-- A queue word: its 64-bit lanes, lowest first, and the PZ tag (R68, R70). -/
structure QWord where
  lanes : List W64
  pz : Bool
  deriving DecidableEq, Repr

/-- A committed item (R66): a packet with the slot's KIND, SEQ and OVR (R67), or a word, whose `kind` and `ovr` are not used; and what
fails its parity check (R70): 0 the length slot, k + 1 data word k. -/
structure QItem where
  kind : Byte
  seq : Byte
  ovr : Bool
  words : List QWord
  flips : List Nat
  deriving DecidableEq, Repr

/-- A packet that is begun and not committed (R66), with the words that fail their parity check (R70). -/
structure OpenPkt where
  words : List QWord
  ovr : Bool
  flips : List Nat
  deriving DecidableEq, Repr

/-- A queue (R65 to R72): committed items oldest first, the open packet, whether the rest of a packet is dropped (R69, R72), and the
status bits of TILE_QSTAT (R87). -/
structure Queue where
  items : List QItem
  pkt : Option OpenPkt
  dropping : Bool
  overrun : Bool
  flushed : Bool
  parity : Bool
  seq : Byte
  deriving DecidableEq, Repr

/-- The queue after reset, before its first item. -/
def Queue.empty : Queue :=
  { items := [], pkt := none, dropping := false, overrun := false, flushed := false, parity := false, seq := 0 }

/-- A repeat body in progress (R100, R101): first word, first word past it, executions still to come, executions done, and the position
of the REPEAT it contains, once that has been reached (R102). -/
structure Loop where
  first : Nat
  past : Nat
  left : Nat
  done : Nat
  inner : Option Nat
  deriving DecidableEq, Repr

/-- A channel stream of R123 as one end sees it: far block, far tile, CHAN, SCALE, LOCAL. -/
structure Chan where
  block : BitVec 16
  tile : BitVec 10
  chan : BitVec 4
  scale : Bool
  isLocal : Bool
  deriving DecidableEq, Repr

/-- What an instruction in flight still does when it completes (R94, R116, R125, R126, R105); `bad` is a fault detected during its
execution (R129), with its code and queue. A SEND's phase is 0 while its item waits
to leave, 1 once a remote item has left, 2 once the receiving end has accepted it (R355). -/
inductive Pend where
  | none
  | regs (s : List (BitVec 5 × Lane)) (a : List (BitVec 4 × ALane)) (taint : Bool)
  | push (w : QWord)
  | ldq (q : Nat) (kind : Byte) (words : List QWord)
  | send (c : Chan) (coded : Bool) (width table : Nat) (words : List QWord) (xid : Nat) (phase : Nat)
  | recv (c : Chan) (coded : Bool) (width words xid : Nat) (turn : W32)
  | bad (code queue : Nat)
  | kend
  deriving DecidableEq, Repr

/-- An instruction in flight: its position (R87 INDEX), its signal counter and count (R79, R110; counter 0 is none), whether it has
completed, its unit (R78), the microsecond it issued in (R358, R375), and what completion does. -/
structure InFlight where
  idx : Nat
  sig : Nat
  n : Nat
  done : Bool
  unit : Nat
  since : Nat
  pend : Pend
  deriving DecidableEq, Repr

/-- The front end of one engine (R60, R100, R132, R135): where its stream lies and how much the stream loader has delivered; the
words taken so far, which the SQ instruction store and the repeat stores hold, and the positions of those delivered with PZ (R70, R71);
the next position; the active bodies, innermost first; the instructions in flight, oldest first. -/
structure EngState where
  start : Nat
  length : Nat
  sent : Nat
  store : List W64
  tagged : List Nat
  pos : Nat
  loops : List Loop
  flight : List InFlight
  deriving DecidableEq, Repr

/-- An engine with no stream. -/
def EngState.idle : EngState := { start := 0, length := 0, sent := 0, store := [], tagged := [], pos := 0, loops := [], flight := [] }

/-- A lane of +0 without poison. -/
def Lane.zero : Lane := { bits := 0, pz := false }

/-- An a-register of 0 without poison. -/
def ALane.zero : ALane := { bits := 0, pz := false }

/-- 64 lanes of +0 without poison. -/
def zeroRow : List Lane := List.replicate 64 Lane.zero

/-- The item counts at the dispatch of a kernel: the plan's turn, the descriptor, which its image and its kernel give, and arguments 2 to 15
(R359, R412). -/
structure XidStart where
  turn : W32
  desc : W48
  args : List W32
  xids : SMap Nat
  deriving DecidableEq, Repr

/-- One tile. `s`, `a`, `v`, `acc`, `bank` are the registers of R92 and the sum banks of R198 (`acc` keyed 32 a + r), `credits` the
counters of R77, `fault` the TILE_FAULT word, `stopped` that a fault has stopped the tile (R82), `tainted` that SQ is poisoned (R111),
`job` the number of the job it runs (R410) `mset` the MSET_ID its dispatch supplied (R233), `xids` the item counts of its channel streams in the plan of `turn`
(R356), `starts` those at each kernel's dispatch in that plan and the one before it, and `back` the turn and counts to go on from after a
replay (R359). -/
structure Tile where
  kernel : Bool
  stopped : Bool
  fault : W64
  ovf : BitVec 16
  credits : SMap Byte
  queues : SMap Queue
  engs : SMap EngState
  s : SMap Lane
  a : SMap ALane
  tainted : Bool
  v : SMap (List Lane)
  acc : SMap (List Lane)
  bank : SMap (List Lane)
  ue : BitVec 16
  ce : W32
  kernelId : BitVec 16
  desc : W48
  args : List W32
  auSymbols : W32
  auDropped : BitVec 16
  auEditOvf : BitVec 16
  job : Nat
  mset : BitVec 16
  xids : SMap Nat
  starts : List XidStart
  back : Option (W32 × SMap Nat)
  turn : W32
  deriving DecidableEq, Repr

/-- A tile after reset (R87, R137, R240; log 4 for what the spec gives no reset value). -/
def Tile.idle : Tile :=
  { kernel := false, stopped := false, fault := 0, ovf := 0, credits := [], queues := [], engs := [], s := [], a := [],
    tainted := false, v := [], acc := [], bank := [], ue := 0, ce := 0, kernelId := 0, desc := 0, args := [],
    auSymbols := 0, auDropped := 0, auEditOvf := 0, job := 0, mset := 0, xids := [], starts := [], back := none, turn := 0 }

end Sys2Proof.Machine
end

