-- ==== Sys2Proof/Machine/Queue.lean ====
section
/-! DEFINITION. The queue (R65 to R76) and its status word (R87). -/

namespace Sys2Proof.Machine

/-- R75: the queues by number. -/
def qLdMx : Nat := 7
/-- Queue LD_VX. -/
def qLdVx : Nat := 8
/-- Queue MX_VX. -/
def qMxVx : Nat := 9
/-- Queue VX_LD. -/
def qVxLd : Nat := 10
/-- Queue LD_TR. -/
def qLdTr : Nat := 11
/-- Queue TR_VX. -/
def qTrVx : Nat := 12
/-- Queue LD_AU. -/
def qLdAu : Nat := 13
/-- Queue AU_SQ. -/
def qAuSq : Nat := 14
/-- Queue VX_XF. -/
def qVxXf : Nat := 15
/-- Queue XF_LD. -/
def qXfLd : Nat := 16
/-- Queue SQ_VX. -/
def qSqVx : Nat := 17

/-- R75: the depth D of queue `n`, in words. -/
def qDepth (n : Nat) : Nat :=
  ([256, 256, 256, 256, 256, 256, 256, 64, 16, 16, 16, 32, 8, 128, 64, 16, 16, 32] : List Nat).getD n 0

/-- R75: the width of queue `n`, in 64-bit lanes. -/
def qLanes (n : Nat) : Nat := ([1, 1, 1, 1, 1, 1, 1, 8, 32, 32, 32, 8, 32, 1, 1, 32, 32, 1] : List Nat).getD n 1

/-- R75: queue `n` runs in packet mode. -/
def qPacket (n : Nat) : Bool := decide (7 ≤ n) && n != qAuSq && n != qSqVx

/-- The words an item holds in queue `n`, its length slot included. -/
def itemLevel (n : Nat) (i : QItem) : Nat := i.words.length + b2n (qPacket n)

/-- LEVEL: words held, length slots and reserved slots included (R87). -/
def qLevel (n : Nat) (q : Queue) : Nat :=
  (q.items.map (itemLevel n)).sum + (match q.pkt with | none => 0 | some p => p.words.length + 1)

/-- FULL (R69). -/
def qFull (n : Nat) (q : Queue) : Bool := decide (qDepth n ≤ qLevel n q)

/-- R66 step 1, R69, R72: begin a packet. The flag says that the begin was ignored. -/
def qBegin (n : Nat) (q : Queue) : Queue × Bool :=
  if qFull n q then ({ q with overrun := true, dropping := true }, true)
  else ({ q with pkt := some { words := [], ovr := false, flips := [] }, dropping := false, flushed := false }, false)

/-- R66 step 2, R69, R72: write a data word of the open packet. The flag says that the word was ignored because the queue was full. -/
def qData (n : Nat) (q : Queue) (w : QWord) : Queue × Bool :=
  if q.dropping then (q, false)
  else
    match q.pkt with
    | none => (q, false)
    | some p =>
      if qFull n q then ({ q with overrun := true, pkt := some { p with ovr := true } }, true)
      else ({ q with pkt := some { p with words := p.words ++ [w] } }, false)

/-- R66 step 3, R67, R72: commit the open packet with KIND. -/
def qCommit (q : Queue) (kind : Byte) : Queue :=
  if q.dropping then q
  else
    match q.pkt with
    | none => q
    | some p =>
      { q with
        items := q.items ++ [{ kind := kind, seq := q.seq, ovr := p.ovr, words := p.words, flips := p.flips }]
        pkt := none
        seq := q.seq + 1 }

/-- The data words of a packet, one after another, and how many of them were ignored. -/
def qDatas (n : Nat) (q : Queue) : List QWord → Queue × Nat
  | [] => (q, 0)
  | w :: ws =>
    let r := qData n q w
    let r' := qDatas n r.1 ws
    (r'.1, b2n r.2 + r'.2)

/-- A whole packet: begin, data words, commit; and how many overruns it met (R69), the begin that was ignored or each word that was. -/
def qPutPacket (n : Nat) (q : Queue) (kind : Byte) (ws : List QWord) : Queue × Nat :=
  let b := qBegin n q
  let d := qDatas n b.1 ws
  (qCommit d.1 kind, b2n b.2 + d.2)

/-- R66, R69, R72: write a word of a queue in word mode; the word is an item. -/
def qPutWord (n : Nat) (q : Queue) (w : QWord) : Queue × Bool :=
  if qFull n q then ({ q with overrun := true }, true)
  else
    ({ q with
       items := q.items ++ [{ kind := 0, seq := q.seq, ovr := false, words := [w], flips := [] }]
       seq := q.seq + 1
       flushed := false }, false)

/-- R70: an item as the queue delivers it: a word that fails its parity check has PZ, and where the length slot fails every word has. -/
def qDeliver (i : QItem) : QItem :=
  if i.flips.isEmpty then i
  else
    { i with
      words := i.words.zipIdx.map fun p => if i.flips.contains 0 ∨ i.flips.contains (p.2 + 1) then { p.1 with pz := true } else p.1
      flips := [] }

/-- R68, R70: take the oldest committed item; PARITY is set where a word of it fails its check (R87). -/
def qTake (q : Queue) : Option (QItem × Queue) :=
  match q.items with
  | [] => none
  | i :: is => some (qDeliver i, { q with items := is, parity := q.parity || !i.flips.isEmpty })

/-- R70: word `k` of item `n` (0 its length slot, `k` + 1 data word `k`) no longer passes its parity check; the open packet comes after
the items. -/
def qFlip (q : Queue) (n k : Nat) : Queue :=
  if n < q.items.length then
    { q with items := q.items.zipIdx.map fun p => if p.2 = n ∧ k ≤ p.1.words.length then { p.1 with flips := p.1.flips ++ [k] } else p.1 }
  else { q with pkt := q.pkt.map fun p => if k ≤ p.words.length then { p with flips := p.flips ++ [k] } else p }

/-- R72: flush. With a packet open, its later data words and its commit are dropped. -/
def qFlush (q : Queue) : Queue :=
  { q with items := [], pkt := none, dropping := q.dropping || q.pkt.isSome, flushed := true }

/-- R87: the TILE_QSTAT word. -/
def qStatus (n : Nat) (q : Queue) : W64 :=
  mk64 (put (b2n (qFull n q)) 63 1 + put (b2n q.overrun) 62 1 + put (b2n q.flushed) 61 1 + put (b2n q.pkt.isSome) 60 1
    + put (b2n q.parity) 59 1 + put q.seq.toNat 40 8 + put q.items.length 16 16 + put (qLevel n q) 0 16)

/-- R87: a management write of TILE_QSTAT: OVERRUN and PARITY are RW1C. -/
def qStatWrite (q : Queue) (w : W64) : Queue :=
  { q with overrun := q.overrun && !bit w 62, parity := q.parity && !bit w 59 }

/-- R67: the length slot of a packet. -/
def slotWord (i : QItem) : W64 :=
  mk64 (put (b2n i.ovr) 62 1 + put i.kind.toNat 48 8 + put i.seq.toNat 32 8 + put i.words.length 0 16)

end Sys2Proof.Machine
end

