-- ==== Sys2Proof/Machine/TileOps.lean ====
section
/-! DEFINITION. The named reads and writes of a tile's state, and what an instruction body answers. -/

namespace Sys2Proof.Machine

/-- Queue `n` of the tile. -/
def tileQ (tl : Tile) (n : Nat) : Queue := smGet Queue.empty tl.queues n

/-- The tile with queue `n` replaced. -/
def setQ (tl : Tile) (n : Nat) (q : Queue) : Tile := { tl with queues := smSet Queue.empty tl.queues n q }

/-- Credit counter `k` (R77). -/
def credit (tl : Tile) (k : Nat) : Byte := smGet 0 tl.credits k

/-- The tile with credit counter `k` replaced. -/
def setCredit (tl : Tile) (k : Nat) (v : Byte) : Tile := { tl with credits := smSet 0 tl.credits k v }

/-- The front end of engine `e`. -/
def eng (tl : Tile) (e : Eng) : EngState := smGet EngState.idle tl.engs (engNum e)

/-- The tile with the front end of `e` replaced. -/
def setEng (tl : Tile) (e : Eng) (x : EngState) : Tile := { tl with engs := smSet EngState.idle tl.engs (engNum e) x }

/-- R92: an s-register; s0 reads as zero. -/
def sGet (tl : Tile) (r : BitVec 5) : Lane := if r = 0 then Lane.zero else smGet Lane.zero tl.s r.toNat

/-- R92: write an s-register; writes to s0 are discarded. -/
def sSet (tl : Tile) (r : BitVec 5) (x : Lane) : Tile :=
  if r = 0 then tl else { tl with s := smSet Lane.zero tl.s r.toNat x }

/-- R92: an a-register. -/
def aGet (tl : Tile) (r : BitVec 4) : ALane := smGet ALane.zero tl.a r.toNat

/-- R92: write an a-register. -/
def aSet (tl : Tile) (r : BitVec 4) (x : ALane) : Tile := { tl with a := smSet ALane.zero tl.a r.toNat x }

/-- R92: the 64 lanes of a v-register. -/
def vGet (tl : Tile) (r : Nat) : List Lane := smGet zeroRow tl.v r

/-- Write a v-register. -/
def vSet (tl : Tile) (r : Nat) (x : List Lane) : Tile := { tl with v := smSet zeroRow tl.v r x }

/-- R92: row `r` of accumulator `a`. -/
def accGet (tl : Tile) (a r : Nat) : List Lane := smGet zeroRow tl.acc (32 * a + r)

/-- Write row `r` of accumulator `a`. -/
def accSet (tl : Tile) (a r : Nat) (x : List Lane) : Tile := { tl with acc := smSet zeroRow tl.acc (32 * a + r) x }

/-- R198: the 64 lanes of a sum bank. -/
def bankGet (tl : Tile) (b : Nat) : List Lane := smGet zeroRow tl.bank b

/-- Write a sum bank. -/
def bankSet (tl : Tile) (b : Nat) (x : List Lane) : Tile := { tl with bank := smSet zeroRow tl.bank b x }

/-- Lane `j` of a row. -/
def laneAt (row : List Lane) (j : Nat) : Lane := row.getD j Lane.zero

/-- Lanes packed two to a 64-bit word, the lower-numbered in bits [31:0] (R167, R207). -/
def lanesWords : List Lane → List W64
  | [] => []
  | [a] => [mk64 a.bits.toNat]
  | a :: b :: ls => mk64 (a.bits.toNat + 2 ^ 32 * b.bits.toNat) :: lanesWords ls

/-- A row as a queue word; PZ when a lane is poisoned (R168, R207). -/
def rowWord (row : List Lane) : QWord := { lanes := lanesWords row, pz := row.any (·.pz) }

/-- A queue word as lanes; PZ poisons every lane (R173). -/
def wordRow (w : QWord) : List Lane :=
  w.lanes.flatMap fun x => [⟨BitVec.ofNat 32 x.toNat, w.pz⟩, ⟨BitVec.ofNat 32 (x.toNat / 2 ^ 32), w.pz⟩]

/-- A row as bytes (R14). -/
def rowBytes (row : List Lane) : List PByte := row.flatMap fun l => (bytesOf 4 l.bits.toNat).map fun b => (b, l.pz)

/-- Bytes as lanes; a lane is poisoned when one of its bytes is. -/
def bytesRow (bs : List PByte) : List Lane :=
  (chunks 4 bs).map fun c => ⟨BitVec.ofNat 32 (numOf (c.map (·.1))), c.any (·.2)⟩

/-- A queue word as bytes. -/
def wordBytes (w : QWord) : List PByte := w.lanes.flatMap fun x => (bytesOf 8 x.toNat).map fun b => (b, w.pz)

/-- Bytes as one queue word; PZ when a byte is poisoned (R71). -/
def bytesWord (bs : List PByte) : QWord :=
  { lanes := (chunks 8 bs).map fun c => mk64 (numOf (c.map (·.1))), pz := bs.any (·.2) }

/-- What a tile body reads of the rest of the block: the memory, its own tile ID, which tiles exist and which have a kernel, the
block's own address, the members of the plan in force (R125), whether the innermost enclosing body is in its last execution (R165), and
whether the instruction's own word was delivered with PZ (R71). -/
structure Env where
  mem : Mem
  tile : Nat
  enabled : Nat → Bool
  busy : Nat → Bool
  ownAddr : Nat
  member : Nat → Bool
  last : Bool
  pz : Bool

/-- What an instruction body answers: the memory and the tile after it, what is left for completion, the position a taken branch
continues at (R107), the fault it raised with the queue that a queue fault names (R82, R129), the queue of each overrun (R69), the
addresses of poisoned units it read and of poison it stored outside the tile (R407), the poisoned scratch words it read, by tile, and the
ranges in scratch and staging stores it read (R63), and the ranges of block addresses it accessed (R346, R372). -/
structure IRes where
  mem : Mem
  tile : Tile
  pend : Pend
  sigCtr : Option (Nat × Nat)
  jump : Option Int
  fault : Option (Nat × Nat)
  overran : List Nat
  readBad : List Nat
  wroteBad : List Nat
  ue : List (Nat × Nat)
  reads : List (Nat × Nat)
  touch : List (Nat × Nat)

/-- The answer of a body that changes nothing. -/
def iresDone (e : Env) (tl : Tile) : IRes :=
  { mem := e.mem, tile := tl, pend := .none, sigCtr := none, jump := none, fault := none, overran := [], readBad := [], wroteBad := [],
    ue := [], reads := [], touch := [] }

/-- The answer of a body that faults at issue and leaves every target unchanged (R129). -/
def iresFault (e : Env) (tl : Tile) (code : Nat) : IRes := { iresDone e tl with fault := some (code, 0) }

/-- The answer `r` with a fault detected during execution: what was written stays, and the fault comes with completion (R129). -/
def iresLate (r : IRes) (code q : Nat) : IRes := { r with pend := .bad code q }

/-- A queue underrun on queue `q` (R76). -/
def iresUnderrun (e : Env) (tl : Tile) (q : Nat) : IRes := { iresDone e tl with fault := some (0x01, q) }

/-- The answer that also counts the poisoned words of the scratch ranges read (offset, length) (R63). -/
def iresRead (e : Env) (r : IRes) (ranges : List (Nat × Nat)) : IRes :=
  { r with
    ue := r.ue ++ [(e.tile, (ranges.map fun p => (badUnits e.mem (scratchBase e.tile + p.1) p.2).length).sum)]
    reads := r.reads ++ ranges.map fun p => (scratchBase e.tile + p.1, p.2) }

/-- R71: a row with every lane poisoned where `pz` holds. -/
def markRow (pz : Bool) (row : List Lane) : List Lane := if pz then row.map fun l => { l with pz := true } else row

/-- R71: a queue word with PZ where `pz` holds. -/
def markWord (pz : Bool) (w : QWord) : QWord := if pz then { w with pz := true } else w

/-- Data read or computed through poisoned a-registers, or by an instruction whose own word had PZ, is poisoned (R71, R111). -/
def taintBytes (pz : Bool) (l : List PByte) : List PByte := l.map fun b => (b.1, b.2 || pz)

/-- R71: what an instruction whose own word had PZ leaves for its completion. -/
def markPend (pz : Bool) (p : Pend) : Pend :=
  if !pz then p
  else
    match p with
    | .regs s a taint => .regs (s.map fun x => (x.1, { x.2 with pz := true })) (a.map fun x => (x.1, { x.2 with pz := true })) taint
    | .push w => .push { w with pz := true }
    | .ldq q kind ws => .ldq q kind (ws.map (markWord true))
    | .send c coded width table ws xid phase => .send c coded width table (ws.map (markWord true)) xid phase
    | p => p

/-- A packet committed to queue `q`, and the overrun it meets (R69). -/
def iresPacket (r : IRes) (q : Nat) (kind : Byte) (ws : List QWord) : IRes :=
  let p := qPutPacket q (tileQ r.tile q) kind ws
  { r with tile := setQ r.tile q p.1, overran := r.overran ++ List.replicate p.2 q }

/-- Own scratch, `n` bytes at offset `off`. -/
def scratchRead (e : Env) (off n : Nat) : List PByte := memRead e.mem (scratchBase e.tile + off) n

/-- R98: the `n` bytes at offset `off` lie in scratch. -/
def inScratch (off n : Nat) : Bool := decide (off + n ≤ scratchSize)

/-- R90: the operand bits of `w` outside `used` are zero. -/
def reservedOk (w : W64) (used : Nat) : Bool := Nat.land (w.toNat % 2 ^ 48) (2 ^ 48 - 1 - used) == 0

/-- The bits [hi:lo] as a mask. -/
def mask (hi lo : Nat) : Nat := 2 ^ (hi + 1) - 2 ^ lo

/-- WAIT of the instruction word (R88). -/
def wWait (w : W64) : Nat := fld w 52 4

/-- SIG of the instruction word (R88). -/
def wSig (w : W64) : Nat := fld w 48 4

/-- The opcode of the instruction word: ENG times 32 plus OP (R88). -/
def wOpcode (w : W64) : Nat := fld w 56 8

/-- R101: the iteration index: executions of the innermost enclosing body that have finished. -/
def iterOf (x : EngState) : Nat :=
  match x.loops with
  | [] => 0
  | l :: _ => l.done

/-- R82, R87: the TILE_FAULT word after a fault, and the tile stopped. -/
def recordFault (tl : Tile) (code queue engine idx : Nat) : Tile :=
  if bit tl.fault 63 then
    { tl with
      stopped := true
      fault := mk64 (tl.fault.toNat - put (fld tl.fault 44 4) 44 4 + put (min 15 (fld tl.fault 44 4 + 1)) 44 4) }
  else
    { tl with
      stopped := true
      fault := mk64 (put 1 63 1 + put code 48 8 + put engine 40 3 + put (if code = 1 ∨ code = 2 then queue else 0) 32 5
        + put (if engine = 7 then 0 else idx) 0 32) }

end Sys2Proof.Machine
end

