-- ==== Sys2Proof/Machine/SqBody.lean ====
section
/-! DEFINITION. What the SQ instructions do (spec/04_oczin_isa.md R103 to R113), and NOP and REPEAT of every engine (R91, R100). -/

namespace Sys2Proof.Machine

/-- What an instruction does when it issues: the environment, the iteration index (R101), its word and its tile. -/
abbrev Body := Env → Nat → W64 → Tile → IRes

/-- R90: a body that runs only when the operand bits outside `used` are zero. Where its own word had PZ, what it leaves for completion is
poisoned (R71). -/
def checked (used : Nat) (b : Body) : Body := fun e i w tl =>
  if reservedOk w used then
    let r := b e i w tl
    { r with pend := markPend e.pz r.pend }
  else iresFault e tl 0x11

/-- R94: an answer that leaves register writes for completion. -/
def iresRegs (e : Env) (tl : Tile) (s : List (BitVec 5 × Lane)) (a : List (BitVec 4 × ALane)) : IRes :=
  { iresDone e tl with pend := .regs s a false }

/-- The s-register number at bits [lo + 4 : lo]. -/
def sReg (w : W64) (lo : Nat) : BitVec 5 := BitVec.ofNat 5 (fld w lo 5)

/-- The a-register number at bits [lo + 3 : lo]. -/
def aReg (w : W64) (lo : Nat) : BitVec 4 := BitVec.ofNat 4 (fld w lo 4)

/-- The signed 16-bit OFF or IMM field of R106, R107. -/
def imm16 (w : W64) : Int := sext (fld w 0 16) 16

/-- R106: the function FN on 32-bit values. -/
def aluFn (fn : Nat) (x y : W32) : W32 :=
  match fn with
  | 0 => x + y
  | 1 => x - y
  | 2 => x &&& y
  | 3 => x ||| y
  | 4 => x ^^^ y
  | 5 => x <<< (y.toNat % 32)
  | 6 => x >>> (y.toNat % 32)
  | 7 => x.sshiftRight (y.toNat % 32)
  | 8 => if x.slt y then x else y
  | 9 => if x.slt y then y else x
  | 10 => if x.ult y then x else y
  | 11 => if x.ult y then y else x
  | 12 => x * y
  | 13 => if x.slt y then 1 else 0
  | 14 => if x.ult y then 1 else 0
  | _ => if x = y then 1 else 0

/-- R107: the condition COND, 0 to 5. -/
def brCond (c : Nat) (x y : W32) : Bool :=
  match c with
  | 0 => x == y
  | 1 => x != y
  | 2 => x.slt y
  | 3 => !(x.slt y)
  | 4 => x.ult y
  | _ => !(x.ult y)

/-- R111: a value SQ writes to an s-register carries poison while SQ is poisoned, and from poisoned operands (R71). -/
def sqLane (tl : Tile) (v : W32) (pz : Bool) : Lane := { bits := v, pz := tl.tainted || pz }

/-- R111: the same for an a-register. -/
def sqALane (tl : Tile) (v : W48) (pz : Bool) : ALane := { bits := v, pz := tl.tainted || pz }

/-- NOP (R91): no work. -/
def bodyNop : Body := checked 0 fun e _ _ tl => iresDone e tl

/-- REPEAT (R100): the front end keeps the body's bounds; the instruction itself does nothing else. -/
def bodyRepeat : Body := checked (mask 47 40 + mask 15 0) fun e _ _ tl => iresDone e tl

/-- KENTER (R104): WAIT must be 0 and KERNEL_ID that of the dispatched kernel. -/
def bodyKenter : Body := checked (mask 15 0) fun e _ w tl =>
  if wWait w = 0 ∧ fld w 0 16 = tl.kernelId.toNat then iresDone e tl else iresFault e tl 0x11

/-- KEND (R105): SIG must be 0; it completes at the kernel's end. -/
def bodyKend : Body := checked 0 fun e _ w tl =>
  if wSig w = 0 then { iresDone e tl with pend := .kend } else iresFault e tl 0x11

/-- LI (R106). -/
def bodyLi : Body := checked (mask 47 43 + mask 31 0) fun e _ w tl =>
  iresRegs e tl [(sReg w 43, sqLane tl (BitVec.ofNat 32 (fld w 0 32)) false)] []

/-- ALU (R106). -/
def bodyAlu : Body := checked (mask 47 29) fun e _ w tl =>
  let x := sGet tl (sReg w 38)
  let y := sGet tl (sReg w 33)
  iresRegs e tl [(sReg w 43, sqLane tl (aluFn (fld w 29 4) x.bits y.bits) (x.pz || y.pz))] []

/-- ALUI (R106). -/
def bodyAlui : Body := checked (mask 47 34 + mask 15 0) fun e _ w tl =>
  let x := sGet tl (sReg w 38)
  iresRegs e tl [(sReg w 43, sqLane tl (aluFn (fld w 34 4) x.bits (BitVec.ofInt 32 (imm16 w))) x.pz)] []

/-- BR (R107). -/
def bodyBr : Body := checked (mask 47 35 + mask 15 0) fun e _ w tl =>
  if fld w 45 3 > 5 then iresFault e tl 0x11
  else if brCond (fld w 45 3) (sGet tl (sReg w 40)).bits (sGet tl (sReg w 35)).bits then
    { iresDone e tl with jump := some (imm16 w) }
  else iresDone e tl

/-- JMP (R107). -/
def bodyJmp : Body := checked (mask 15 0) fun e _ w tl => { iresDone e tl with jump := some (imm16 w) }

/-- SETA (R108). -/
def bodySeta : Body := checked (mask 47 42 + mask 31 0) fun e _ w tl =>
  let old := aGet tl (aReg w 44)
  if fld w 42 2 = 0 then iresRegs e tl [] [(aReg w 44, sqALane tl (BitVec.ofNat 48 (fld w 0 32)) false)]
  else if fld w 42 2 = 1 ∧ fld w 16 16 = 0 then
    iresRegs e tl [] [(aReg w 44, sqALane tl (BitVec.ofNat 48 (old.bits.toNat % 2 ^ 32 + 2 ^ 32 * fld w 0 16)) old.pz)]
  else iresFault e tl 0x11

/-- ADDA (R108). -/
def bodyAdda : Body := checked (mask 47 40 + mask 31 0) fun e _ w tl =>
  let x := aGet tl (aReg w 40)
  iresRegs e tl [] [(aReg w 44, sqALane tl (x.bits + BitVec.ofInt 48 (sext (fld w 0 32) 32)) x.pz)]

/-- ADDAS (R108). -/
def bodyAddas : Body := checked (mask 47 31) fun e _ w tl =>
  let x := aGet tl (aReg w 40)
  let y := sGet tl (sReg w 35)
  iresRegs e tl [] [(aReg w 44, sqALane tl (x.bits + BitVec.ofInt 48 (y.bits.toInt * (2 ^ fld w 31 4 : Nat))) (x.pz || y.pz))]

/-- AREAD (R108). -/
def bodyAread : Body := checked (mask 47 38) fun e _ w tl =>
  let x := aGet tl (aReg w 39)
  let v := if fld w 38 1 = 0 then x.bits.toNat % 2 ^ 32 else x.bits.toNat / 2 ^ 32
  iresRegs e tl [(sReg w 43, sqLane tl (BitVec.ofNat 32 v) x.pz)] []

/-- KARG (R109). -/
def bodyKarg : Body := checked (mask 47 43 + mask 37 34) fun e _ w tl =>
  iresRegs e tl [(sReg w 43, sqLane tl (tl.args.getD (fld w 34 4) 0) false)] []

/-- CREDIT (R110): the addition is the signal of its completion. -/
def bodyCredit : Body := checked (mask 47 44 + mask 7 0) fun e _ w tl =>
  if fld w 44 4 = 0 ∨ fld w 0 8 = 0 ∨ wSig w ≠ 0 then iresFault e tl 0x11
  else { iresDone e tl with sigCtr := some (fld w 44 4, fld w 0 8) }

/-- The two halves of a 64-bit word as writes of s[rd_hi] and s[rd_lo] (R111, R112), the high half first: where both name one register it
keeps the low half (DESIGN CHOICE, log 97). -/
def hiLo (tl : Tile) (w : W64) (v : W64) (pz : Bool) : List (BitVec 5 × Lane) :=
  [(sReg w 43, sqLane tl (BitVec.ofNat 32 (v.toNat / 2 ^ 32)) pz), (sReg w 38, sqLane tl (BitVec.ofNat 32 v.toNat) pz)]

/-- QRD (R111): removes one word of AU_SQ; a word with PZ poisons SQ. -/
def bodyQrd : Body := checked (mask 47 38) fun e _ w tl =>
  match qTake (tileQ tl qAuSq) with
  | none => iresUnderrun e tl qAuSq
  | some (i, q) =>
    let x := i.words.headD { lanes := [], pz := false }
    let tl' := setQ tl qAuSq q
    { iresDone e tl' with pend := .regs (hiLo tl' w (x.lanes.headD 0) x.pz) [] x.pz }

/-- QWR (R111): writes the word s[rs_hi]:s[rs_lo] to SQ_VX at completion. -/
def bodyQwr : Body := checked (mask 47 38) fun e _ w tl =>
  let hi := sGet tl (sReg w 43)
  let lo := sGet tl (sReg w 38)
  { iresDone e tl with
    pend := .push { lanes := [mk64 (lo.bits.toNat + 2 ^ 32 * hi.bits.toNat)], pz := hi.pz || lo.pz } }

/-- QSTAT (R112): the status word of queue Q in the cycle of issue. -/
def bodyQstat : Body := checked (mask 47 33) fun e _ w tl =>
  if fld w 33 5 > 17 then iresFault e tl 0x11
  else iresRegs e tl (hiLo tl w (qStatus (fld w 33 5) (tileQ tl (fld w 33 5))) false) []

/-- TRAP (R113). -/
def bodyTrap : Body := checked 0 fun e _ _ tl => iresFault e tl 0x18

end Sys2Proof.Machine
end

