-- ==== Sys2Proof/Machine/LdBody.lean ====
section
/-! DEFINITION. What the LD instructions do (spec/04_oczin_isa.md R96 to R99, R114 to R121). -/

namespace Sys2Proof.Machine

/-- R96, R97, R41: LD reaches all of the `n` bytes at `a`. -/
def ldReach (e : Env) (a n : Nat) : Bool :=
  match regionOf a n with
  | .stack => true
  | .stage _ => true
  | .window t => tileNamed t && e.enabled t
  | .mgmt => false
  | .unmapped => false

/-- R64: the region at `a` takes a write: another tile's scratch only while no kernel is dispatched to that tile. -/
def ldWritable (e : Env) (a n : Nat) : Bool :=
  match regionOf a n with
  | .window t => t == e.tile || !e.busy t
  | _ => true

/-- R115, R98: the global address: a-register plus `step` units of `unit` bytes, modulo 2^48. -/
def gAddr (base : Nat) (i : Nat) (step : Int) (unit : Nat) : Nat := wrap ((base : Int) + i * step * unit) 48

/-- R115: the scratch offset. -/
def sAddr (base : Nat) (i : Nat) (step : Int) : Int := (base : Int) + i * step * 64

/-- What a read of the `n` bytes at `a` adds to the answer: poisoned scratch words by tile (R63), else poisoned units (R407). -/
def iresGread (e : Env) (r : IRes) (a n : Nat) : IRes :=
  match regionOf a n with
  | .window t => { r with ue := r.ue ++ [(t, (badUnits e.mem a n).length)], reads := r.reads ++ [(a, n)] }
  | .stage _ => { r with readBad := r.readBad ++ badUnits e.mem a n, reads := r.reads ++ [(a, n)], touch := r.touch ++ [(a, n)] }
  | _ => { r with readBad := r.readBad ++ badUnits e.mem a n, touch := r.touch ++ [(a, n)] }

/-- The units of memory outside the tiles that a store of `l` at `a` poisons (R407). -/
def storedBad (a : Nat) (l : List PByte) : List Nat :=
  match regionOf a l.length with
  | .window _ => []
  | _ => (unitsOf a l.length).filter fun b => ((l.drop (b - a)).take (b + unitSize b - max a b)).any (·.2)

/-- R63: what a store of `n` bytes at `a` into memory `m` reads to merge: scratch words with poison are counted, and the words read. -/
def iresMerge (m : Mem) (r : IRes) (a n : Nat) : IRes :=
  let l := mergedUnits a n
  match l, regionOf a n with
  | [], _ => r
  | l, .window t => { r with ue := r.ue ++ [(t, (l.filter (memPz m)).length)], reads := r.reads ++ l.map fun b => (b, 8) }
  | l, _ => { r with reads := r.reads ++ l.map fun b => (b, 8) }

/-- A store of `l` at `a` (R63, R71, R465). -/
def iresStore (r : IRes) (a : Nat) (l : List PByte) : IRes :=
  let r1 := iresMerge r.mem r a l.length
  { r1 with mem := memWrite r.mem a l, wroteBad := r.wroteBad ++ storedBad a l, touch := r.touch ++ [(a, l.length)] }

/-- LOAD and STORE (R115), `store` for STORE. Their checks in the order 0x11, 0x12, 0x13 (DESIGN CHOICE, log 133). -/
def ldCopy (store : Bool) : Body := checked (mask 47 2) fun e i w tl =>
  let ra := aGet tl (aReg w 44)
  let rs := aGet tl (aReg w 40)
  let n := (fld w 30 10 + 1) * 64
  let g := gAddr ra.bits.toNat i (sext (fld w 16 14) 14) 64
  let s := sAddr rs.bits.toNat i (sext (fld w 2 14) 14)
  if g % 64 ≠ 0 ∨ s % 64 ≠ 0 then iresFault e tl 0x12
  else if s < 0 ∨ !inScratch s.toNat n ∨ !ldReach e g n then iresFault e tl 0x13
  else
    let own := scratchBase e.tile + s.toNat
    let pz := e.pz || ra.pz || rs.pz
    if store then
      if !ldWritable e g n then iresFault e tl 0x13
      else iresStore (iresGread e (iresDone e tl) own n) g (taintBytes pz (memRead e.mem own n))
    else iresStore (iresGread e (iresDone e tl) g n) own (taintBytes pz (memRead e.mem g n))

/-- LOAD (R115). -/
def bodyLoad : Body := ldCopy false

/-- STORE (R115). -/
def bodyStore : Body := ldCopy true

/-- R116: the queue, word bytes, alignment and largest WORDS that Q selects. -/
def ldqQueue (q : Nat) : Nat × Nat × Nat × Nat :=
  if q = 0 then (qLdMx, 64, 64, 63) else if q = 1 then (qLdVx, 256, 64, 15)
  else if q = 2 then (qLdTr, 64, 64, 31) else (qLdAu, 8, 8, 127)

/-- LDQ (R116): the packet is begun at issue, its words are written and committed at completion. -/
def bodyLdq : Body := checked (mask 47 13) fun e i w tl =>
  let ra := aGet tl (aReg w 44)
  let (q, wb, al, top) := ldqQueue (fld w 42 2)
  let n := fld w 35 7
  let g := gAddr ra.bits.toNat i (sext (fld w 13 14) 14) wb
  if n = 0 ∨ top < n then iresFault e tl 0x11
  else if g % al ≠ 0 then iresFault e tl 0x12
  else if !ldReach e g (n * wb) then iresFault e tl 0x13
  else
    let ws := (chunks wb (taintBytes ra.pz (memRead e.mem g (n * wb)))).map bytesWord
    let b := qBegin q (tileQ tl q)
    { iresGread e (iresDone e (setQ tl q b.1)) g (n * wb) with
      pend := .ldq q (BitVec.ofNat 8 (fld w 27 8)) ws
      overran := List.replicate (b2n b.2) q }

/-- QST (R117), its checks in the order of R466. -/
def bodyQst : Body := checked (mask 47 25) fun e i w tl =>
  let ra := aGet tl (aReg w 44)
  let q := if fld w 43 1 = 0 then qVxLd else qXfLd
  let g := gAddr ra.bits.toNat i (sext (fld w 25 14) 14) 256
  if g % 64 ≠ 0 then iresFault e tl 0x12
  else if !ldReach e g 1 then iresFault e tl 0x13
  else
    match qTake (tileQ tl q) with
    | none => iresUnderrun e tl q
    | some (p, q') =>
      let tl' := setQ tl q q'
      let n := 256 * p.words.length
      if fld w 39 4 ≠ 0 ∧ fld w 39 4 ≠ p.words.length then iresFault e tl' 0x17
      else if !ldReach e g n ∨ !ldWritable e g n then iresFault e tl' 0x13
      else iresStore (iresDone e tl') g (taintBytes (e.pz || ra.pz) (p.words.flatMap wordBytes))

/-- One row of GATHER (R118): its bytes, or none for an index at or above the row count, and the address it is read at. -/
structure GRow where
  bytes : List PByte
  addr : Option Nat
  bad : Bool
  out : Bool

/-- R118: the row an index word selects. A poisoned index reads nothing and gives zeros with poison. -/
def gatherRow (e : Env) (base rows rb : Nat) (ix : List PByte) : GRow :=
  let x := numOf (ix.map (·.1))
  let a := (base + x * rb) % 2 ^ 48
  if ix.any (·.2) then { bytes := List.replicate rb (0, true), addr := none, bad := false, out := false }
  else if rows ≤ x then { bytes := [], addr := none, bad := true, out := false }
  else { bytes := memRead e.mem a rb, addr := some a, bad := false, out := !ldReach e a rb }

/-- GATHER (R118). Index words read through a poisoned a-register are poisoned data (R111). -/
def bodyGather : Body := checked (mask 47 19) fun e _ w tl =>
  let ra := aGet tl (aReg w 44)
  let rc := aGet tl (aReg w 44 + 1)
  let ri := aGet tl (aReg w 40)
  let rs := aGet tl (aReg w 36)
  let n := fld w 26 10 + 1
  let rb := (fld w 20 6 + 1) * 64
  let es := if fld w 19 1 = 0 then 4 else 8
  let rows := rc.bits.toNat % 2 ^ 32
  if ri.bits.toNat % es ≠ 0 ∨ ra.bits.toNat % 64 ≠ 0 then iresFault e tl 0x12
  else if !inScratch ri.bits.toNat (n * es) ∨ !inScratch rs.bits.toNat (n * rb) then iresFault e tl 0x13
  else
    let ixs := chunks es (taintBytes ri.pz (scratchRead e ri.bits.toNat (n * es)))
    let gs := ixs.map (gatherRow e ra.bits.toNat rows rb)
    let r0 := iresRead e (iresDone e tl) [(ri.bits.toNat, n * es)]
    if rows = 0 ∨ gs.any (·.bad) then iresLate r0 0x16 0
    else if gs.any (·.out) then iresLate r0 0x13 0
    else
      let r1 := (gs.filterMap (·.addr)).foldl (fun r a => iresGread e r a rb) r0
      let pz := e.pz || ra.pz || rc.pz || rs.pz
      iresStore r1 (scratchBase e.tile + rs.bits.toNat) (taintBytes pz (gs.flatMap (·.bytes)))

/-- R119: the row a key selects. -/
def bagHash (key rows : Nat) : Nat :=
  let h1 := (key * 0x9e3779b97f4a7c15) % 2 ^ 64
  let h2 := h1 ^^^ (h1 / 2 ^ 29)
  let h3 := (h2 * 0xbf58476d1ce4e5b9) % 2 ^ 64
  let h4 := h3 ^^^ (h3 / 2 ^ 32)
  h4 * rows / 2 ^ 64

/-- R119: the values of one table row: binary32 elements, or N8 codes dequantised with Z and E. -/
def bagValues (fmt z : Nat) (x : Int) (bs : List PByte) : List W32 :=
  if fmt = 0 then (chunks 4 bs).map fun c => BitVec.ofNat 32 (numOf (c.map (·.1)))
  else bs.map fun b => dequant b.1.toNat z x

/-- What EBAG reads for one bag: the row addresses, whether a key was poisoned, whether an index or an address was out of range. -/
structure BagRows where
  addrs : List Nat
  pz : Bool
  bad : Bool
  out : Bool

/-- R119, R120: the rows that the keys of a bag select. -/
def bagRows (e : Env) (base rows rb hash : Nat) (keys : List (List PByte)) : BagRows :=
  let good := keys.filter fun k => !k.any (·.2)
  let ix := good.map fun k => if hash = 0 then numOf (k.map (·.1)) else bagHash (numOf (k.map (·.1))) rows
  let as := ix.map fun x => (base + x * rb) % 2 ^ 48
  { addrs := as
    pz := keys.any fun k => k.any (·.2)
    bad := hash == 0 && ix.any fun x => decide (rows ≤ x)
    out := as.any fun a => !ldReach e a rb }

/-- R119: one result row: the rows added element by element in ascending key order, poisoned as a whole. -/
def bagSum (e : Env) (fmt z : Nat) (x : Int) (dim rb : Nat) (pz : Bool) (b : BagRows) : List PByte :=
  let rd := b.addrs.map fun a => memRead e.mem a rb
  let sum := rd.foldl (fun acc l => List.zipWith f32Add acc (bagValues fmt z x l)) (List.replicate dim 0)
  let bad := pz || b.pz || rd.any fun l => l.any (·.2)
  sum.flatMap fun v => (bytesOf 4 v.toNat).map fun y => (y, bad)

/-- The runs of keys that several bags read, the adjoining ones as one. -/
def joinSpans : List (Nat × Nat) → List (Nat × Nat)
  | [] => []
  | p :: l =>
    match joinSpans l with
    | [] => [p]
    | q :: r => if p.2 = q.1 then (p.1, q.2) :: r else p :: q :: r

/-- EBAG (R119, R120). A bag offset read with poison is not checked, and the bags it bounds read no key and are +0.0 with poison (DEDUCED,
log 10); offsets and keys read through a poisoned a-register are poisoned data (R111). -/
def bodyEbag : Body := checked (mask 47 16) fun e _ w tl =>
  let ra := aGet tl (aReg w 44)
  let rc := aGet tl (aReg w 44 + 1)
  let ri := aGet tl (aReg w 40)
  let ro := aGet tl (aReg w 36)
  let rs := aGet tl (aReg w 32)
  let bags := fld w 24 8 + 1
  let dim := (fld w 18 6 + 1) * 16
  let fmt := fld w 17 1
  let hash := fld w 16 1
  let rb := if fmt = 0 then dim * 4 else dim
  let es := if hash = 0 then 4 else 8
  let rows := rc.bits.toNat % 2 ^ 32
  let z := rc.bits.toNat / 2 ^ 32 % 2 ^ 8
  let x := sext (rc.bits.toNat / 2 ^ 40) 8
  if fmt = 1 ∧ !expoOk x then iresFault e tl 0x11
  else if ra.bits.toNat % 64 ≠ 0 ∨ ro.bits.toNat % 4 ≠ 0 ∨ ri.bits.toNat % es ≠ 0 ∨ rs.bits.toNat % 64 ≠ 0 then
    iresFault e tl 0x12
  else if !inScratch ro.bits.toNat (4 * (bags + 1)) ∨ !inScratch rs.bits.toNat (bags * dim * 4) then iresFault e tl 0x13
  else
    let off := (chunks 4 (taintBytes ro.pz (scratchRead e ro.bits.toNat (4 * (bags + 1))))).map fun c =>
      if c.any (·.2) then none else some (numOf (c.map (·.1)))
    let good := off.filterMap id
    let spans := List.zipWith (fun a b => a.bind fun x => b.map fun y => (x, y)) off off.tail
    let span := fun (p : Nat × Nat) => (ri.bits.toNat + es * p.1, es * (p.2 - p.1))
    let r0 := iresRead e (iresDone e tl) [(ro.bits.toNat, 4 * (bags + 1))]
    let long := match off.headD none, off.getLastD none with
      | some x, some y => decide (65536 < y - x)
      | _, _ => false
    if (List.zip good good.tail).any (fun p => decide (p.2 < p.1)) || long then { r0 with fault := some (0x19, 0) }
    else if hash = 1 ∧ rows = 0 then { r0 with fault := some (0x16, 0) }
    else if (spans.filterMap id).any fun p => !inScratch (span p).1 (span p).2 then { r0 with fault := some (0x13, 0) }
    else
      let r1 := iresRead e r0 ((joinSpans (spans.filterMap id)).map span)
      let sel := spans.map fun
        | some p => bagRows e ra.bits.toNat rows rb hash
            (chunks es (taintBytes ri.pz (scratchRead e (span p).1 (span p).2)))
        | none => { addrs := [], pz := true, bad := false, out := false }
      if sel.any (·.bad) then iresLate r1 0x16 0
      else if sel.any (·.out) then iresLate r1 0x13 0
      else
        let r2 := (sel.flatMap (·.addrs)).foldl (fun r a => iresGread e r a rb) r1
        let apz := e.pz || ra.pz || rc.pz || rs.pz
        iresStore r2 (scratchBase e.tile + rs.bits.toNat) (sel.flatMap (bagSum e fmt z x dim rb apz))

/-- ZERO (R121): clears poison; through a poisoned a-register it stores poison (R111). -/
def bodyZero : Body := checked (mask 47 34) fun e _ w tl =>
  let rs := aGet tl (aReg w 44)
  let n := (fld w 34 10 + 1) * 64
  if rs.bits.toNat % 64 ≠ 0 then iresFault e tl 0x12
  else if !inScratch rs.bits.toNat n then iresFault e tl 0x13
  else iresStore (iresDone e tl) (scratchBase e.tile + rs.bits.toNat) (List.replicate n (0, e.pz || rs.pz))

end Sys2Proof.Machine
end

