-- ==== Sys2Proof/Machine/MxBody.lean ====
section
/-! DEFINITION. What the MX instructions do (spec/06_matrix_vector_instructions.md R159 to R169). -/

namespace Sys2Proof.Machine

/-- R161: the packet words of one weight panel. -/
def panelWords (w : Nat) : Nat := 2 * widthBits w

/-- R166: the largest KP of WIDTH `w`. -/
def kpMax (w : Nat) : Nat := if w = 0 then 7 else if w = 1 then 5 else 3

/-- R162, R166: the bytes of the scale array that SG reads. -/
def scaleBytes (sg kp : Nat) : Nat := if sg = 0 then 2 else if sg = 1 then 128 else 32 * kp

/-- R162: the offset, in the scale array, of the pair for channel `ch` (of the instruction) and column `c`. -/
def pairOff (sg ch c : Nat) : Nat :=
  if sg = 0 then 0 else if sg = 1 then 2 * c
  else if sg = 2 then 32 * (ch / 16) + 2 * (ch % 16) else 32 * (ch / 16) + 2 * (ch % 16 / 4)

/-- R162: the offsets of all pairs the instruction uses. -/
def pairOffs (sg kp : Nat) : List Nat :=
  if sg = 0 then [0] else if sg = 1 then tab 64 (2 * ·)
  else if sg = 2 then (tab (16 * kp) fun ch => 32 * (ch / 16) + 2 * (ch % 16))
  else (tab (4 * kp) fun b => 32 * (b / 4) + 2 * (b % 4))

/-- A weight as the array sees it: its value, its poison, and whether its pair was poisoned, which makes every product +0 (R467). -/
structure Weight where
  val : W32
  pz : Bool
  dead : Bool
  deriving DecidableEq, Repr

/-- R161, R164: the weights of one channel for the 64 columns. -/
def weightRow (sg : Nat) (scale : List PByte) (codes : List (Nat × Bool)) (ch : Nat) : List Weight :=
  (codes.zipIdx).map fun p =>
    let pr := (scale.drop (pairOff sg ch p.2)).take 2
    let n := numOf (pr.map (·.1))
    let bad := pr.any (·.2)
    { val := if bad then 0 else dequant p.1.1 (pairZ n) (pairE n), pz := p.1.2 || bad, dead := bad }

/-- R161: all the weights of a packet, channel by channel. -/
def weightRows (w sg kp : Nat) (scale : List PByte) (pkt : List QWord) : List (List Weight) :=
  let codes := (chunks (blockBytes w) (pkt.flatMap wordBytes)).flatMap (unpackCodes w)
  ((chunks 64 codes).take (16 * kp)).zipIdx.map fun p => weightRow sg scale p.1 p.2

/-- R160: the activations of one row, channel by channel, through KF16 (R146). -/
def activations (e : Env) (xoff nacc a r kp : Nat) : List Lane :=
  (tab kp fun p => bytesRow (scratchRead e ((xoff + p * nacc + a) * 2048 + r * 64) 64)).flatten.map fun l =>
    { bits := kf16ToF32 (kf16OfF32 l.bits), pz := l.pz }

/-- R164: the products of one channel, each exact. -/
def products (x : Lane) (ws : List Weight) : List Lane :=
  ws.map fun w => { bits := if w.dead then 0 else f32Mul x.bits w.val, pz := x.pz || w.pz }

/-- Lane by lane sums (R147, R71). -/
def addLanes (x y : List Lane) : List Lane := List.zipWith (fun a b => ⟨f32Add a.bits b.bits, a.pz || b.pz⟩) x y

/-- R164: s := s + ((p0 + p1) + (p2 + p3)), column by column. -/
def groupSum (s : List Lane) (g : List (List Lane)) : List Lane :=
  addLanes s (addLanes (addLanes (g.getD 0 []) (g.getD 1 [])) (addLanes (g.getD 2 []) (g.getD 3 [])))

/-- R164: one row of an accumulator after MMW. -/
def mmwRow (s : List Lane) (xs : List Lane) (ws : List (List Weight)) : List Lane :=
  (chunks 4 (List.zipWith products xs ws)).foldl groupSum s

/-- R164: the rows of the batch, each as accumulator offset and row. -/
def batchRows (n : Nat) : List (Nat × Nat) := tab n fun r => (r / 32, r % 32)

/-- R164: every row of the batch computed and written. -/
def mmwRows (e : Env) (first : Bool) (acc xoff nacc kp : Nat) (ws : List (List Weight)) : Tile → List (Nat × Nat) → Tile
  | tl, [] => tl
  | tl, (a, r) :: l =>
    let s := if first then zeroRow else accGet tl (acc + a) r
    mmwRows e first acc xoff nacc kp ws (accSet tl (acc + a) r (markRow e.pz (mmwRow s (activations e xoff nacc a r kp) ws))) l

/-- MMW (R164 to R166), its checks in the order of R466; within its step 1, 0x21 before the 0x11 of a bad pair (DESIGN CHOICE, log 133). -/
def bodyMmw : Body := checked (mask 47 1) fun e i w tl =>
  let acc := fld w 45 3
  let kp := fld w 39 3
  let width := fld w 37 2
  let sg := fld w 35 2
  let n := fld w 27 8 + 1
  let nacc := ceilDiv n 32
  let auto := bit w 43
  let emit := bit w 42
  let xoff := fld w 17 10 + (if auto then i * kp * nacc else 0)
  let soff := fld w 1 16 * 32 + (if auto && decide (2 ≤ sg) then i * kp * 32 else 0)
  if width = 3 ∨ kp = 0 ∨ kpMax width < kp ∨ 7 < acc + nacc - 1 ∨ (emit && decide (15 < n)) then iresFault e tl 0x11
  else if xoff + kp * nacc > 768 ∨ !inScratch soff (scaleBytes sg kp) then iresFault e tl 0x21
  else
    let scale := scratchRead e soff (scaleBytes sg kp)
    let r0 := iresRead e (iresDone e tl) [(soff, scaleBytes sg kp)]
    let badPair := (pairOffs sg kp).any fun o =>
      let pr := (scale.drop o).take 2
      !(pr.any (·.2)) && !pairOk width (numOf (pr.map (·.1)))
    if badPair then { r0 with fault := some (0x11, 0) }
    else
      match qTake (tileQ tl qLdMx) with
      | none => { r0 with fault := some (0x01, qLdMx) }
      | some (p, q) =>
        let tl1 := setQ tl qLdMx q
        if p.words.length ≠ kp * panelWords width then { r0 with tile := tl1, fault := some (0x20, 0) }
        else
          let first := bit w 44 && (i == 0)
          let ws := weightRows width sg kp scale p.words
          let tl2 := mmwRows e first acc xoff nacc kp ws tl1 (batchRows n)
          let rd := (batchRows n).flatMap fun ar => tab kp fun k => ((xoff + k * nacc + ar.1) * 2048 + ar.2 * 64, 64)
          let r1 := iresRead e { r0 with tile := tl2 } rd
          if emit && e.last then iresPacket r1 qMxVx 0 (tab n fun r => rowWord (accGet tl2 acc r)) else r1

/-- Rows of an accumulator set to +0 without poison (R167), or with it where the clearing instruction's own word had PZ (R71). -/
def clearRows (pz : Bool) (tl : Tile) (acc : Nat) : List Nat → Tile
  | [] => tl
  | r :: rs => clearRows pz (accSet tl acc r (markRow pz zeroRow)) acc rs

/-- MXOUT (R167). -/
def bodyMxout : Body := checked (mask 47 26) fun e i w tl =>
  let acc := fld w 45 3
  let count := fld w 36 4
  let first := fld w 40 5 + (if bit w 34 then i * count else 0)
  if count = 0 ∨ 31 < first + count - 1 then iresFault e tl 0x11
  else
    let rows := tab count fun n => first + n
    let tl' := if bit w 35 then clearRows e.pz tl acc rows else tl
    iresPacket (iresDone e tl') qMxVx (BitVec.ofNat 8 (fld w 26 8)) (rows.map fun r => markWord e.pz (rowWord (accGet tl acc r)))

/-- MZERO (R167): every accumulator in MASK set to +0 without poison. -/
def bodyMzero : Body := checked (mask 47 40) fun e _ w tl =>
  iresDone e ((List.range 8).foldl (fun t a => if (fld w 40 8) / 2 ^ a % 2 = 1 then clearRows e.pz t a (List.range 32) else t) tl)

end Sys2Proof.Machine
end

