-- ==== Sys2Proof/Machine/VxBody.lean ====
section
/-! DEFINITION. What the VX instructions do (spec/06_matrix_vector_instructions.md R171 to R184, R467). -/

namespace Sys2Proof.Machine

/-- The v-register number at bits [lo + 4 : lo]. -/
def vReg (w : W64) (lo : Nat) : Nat := fld w lo 5

/-- Consecutive v-registers written. -/
def vSets (tl : Tile) (r : Nat) : List (List Lane) → Tile
  | [] => tl
  | x :: xs => vSets (vSet tl r x) (r + 1) xs

/-- R171: the 256 lanes of a register group. -/
def groupGet (tl : Tile) (r : Nat) : List Lane := vGet tl r ++ vGet tl (r + 1) ++ vGet tl (r + 2) ++ vGet tl (r + 3)

/-- A register group written. -/
def groupSet (tl : Tile) (r : Nat) (l : List Lane) : Tile := vSets tl r (chunks 64 l)

/-- R467: every lane 0 with poison. -/
def poisonRow : List Lane := List.replicate 64 ⟨0, true⟩

/-- R173: the scratch offset of VLD and VST. -/
def vAddr (w : W64) (i : Nat) : Int := ((fld w 25 15 : Nat) + (i : Int) * sext (fld w 10 15) 15) * 64

/-- VLD (R173). -/
def bodyVld : Body := checked (mask 47 10) fun e i w tl =>
  let n := fld w 40 3 + 1
  let off := vAddr w i
  if 32 < vReg w 43 + n then iresFault e tl 0x11
  else if off < 0 ∨ !inScratch off.toNat (256 * n) then iresFault e tl 0x21
  else
    iresRead e (iresDone e (vSets tl (vReg w 43) ((chunks 64 (bytesRow (scratchRead e off.toNat (256 * n)))).map (markRow e.pz))))
      [(off.toNat, 256 * n)]

/-- VST (R173). -/
def bodyVst : Body := checked (mask 47 10) fun e i w tl =>
  let n := fld w 40 3 + 1
  let off := vAddr w i
  if 32 < vReg w 43 + n then iresFault e tl 0x11
  else if off < 0 ∨ !inScratch off.toNat (256 * n) then iresFault e tl 0x21
  else
    { iresDone e tl with
      mem := memWrite e.mem (scratchBase e.tile + off.toNat) (taintBytes e.pz (tab n fun k => rowBytes (vGet tl (vReg w 43 + k))).flatten) }

/-- VPOP (R173), its checks in the order of R466. -/
def bodyVpop : Body := checked (mask 47 37) fun e _ w tl =>
  if fld w 41 2 = 3 then iresFault e tl 0x11
  else
    let q := ([qLdVx, qMxVx, qTrVx] : List Nat).getD (fld w 41 2) 0
    match qTake (tileQ tl q) with
    | none => iresUnderrun e tl q
    | some (p, q') =>
      let tl' := setQ tl q q'
      if fld w 37 4 ≠ 0 ∧ p.words.length ≠ fld w 37 4 then iresFault e tl' 0x20
      else if 32 < vReg w 43 + p.words.length then iresFault e tl' 0x22
      else iresDone e (vSets tl' (vReg w 43) (p.words.map fun x => markRow e.pz (wordRow x)))

/-- VPUSH (R173). -/
def bodyVpush : Body := checked (mask 47 30) fun e _ w tl =>
  let n := fld w 39 4
  if n = 0 ∨ 32 < vReg w 43 + n then iresFault e tl 0x11
  else
    iresPacket (iresDone e tl) (if fld w 38 1 = 0 then qVxLd else qVxXf) (BitVec.ofNat 8 (fld w 30 8))
      (tab n fun k => markWord e.pz (rowWord (vGet tl (vReg w 43 + k))))

/-- VSCL (R173). -/
def bodyVscl : Body := checked (mask 47 35) fun e _ w tl =>
  match qTake (tileQ tl qSqVx) with
  | none => iresUnderrun e tl qSqVx
  | some (p, q) =>
    let x := p.words.headD { lanes := [], pz := false }
    let v := (x.lanes.headD 0).toNat
    let l : Lane := ⟨BitVec.ofNat 32 (if fld w 35 1 = 0 then v else v / 2 ^ 32), x.pz || e.pz⟩
    let tl' := setQ tl qSqVx q
    iresDone e (vSet tl' (vReg w 43)
      (if fld w 42 1 = 0 then List.replicate 64 l else setAt (vGet tl' (vReg w 43)) (fld w 36 6) l))

/-- An int32 truth value (R174). -/
def flag32 (b : Bool) : W32 := if b then 1 else 0

/-- R174, R175: function FN of one lane. -/
def vopFn (fn : Nat) (a b c : W32) : W32 :=
  match fn with
  | 0 => f32Add a b
  | 1 => f32Sub a b
  | 2 => f32Mul a b
  | 3 => f32Fma a b c
  | 4 => f32Min a b
  | 5 => f32Max a b
  | 6 => a &&& 0x7fffffff#32
  | 7 => f32FlipSign a
  | 8 => f32Div a b
  | 9 => f32Rsqrt a
  | 10 => f32Exp2 a
  | 11 => f32Log2 a
  | 12 => flag32 (f32Eq a b)
  | 13 => flag32 (f32Lt a b)
  | 14 => flag32 (f32Le a b)
  | 15 => f32OfI32 a
  | 16 => f32ToI32 a
  | 17 => a + b
  | 18 => a - b
  | 19 => a * b
  | 20 => a &&& b
  | 21 => a ||| b
  | 22 => a ^^^ b
  | 23 => a <<< (b.toNat % 32)
  | 24 => a >>> (b.toNat % 32)
  | 25 => a.sshiftRight (b.toNat % 32)
  | 26 => if b.slt a then b else a
  | 27 => if a.slt b then b else a
  | 28 => flag32 (a == b)
  | 29 => flag32 (a.slt b)
  | _ => if c = 0 then b else a

/-- R171, R175: the operands of FN whose poison a result lane takes: a always, b and c where the function reads them. -/
def vopUses (fn : Nat) : Bool × Bool :=
  if fn = 3 ∨ fn = 30 then (true, true)
  else if fn = 6 ∨ fn = 7 ∨ fn = 9 ∨ fn = 10 ∨ fn = 11 ∨ fn = 15 ∨ fn = 16 then (false, false) else (true, false)

/-- R174: FN lane by lane. -/
def vopLanes (fn : Nat) (a b c : List Lane) : List Lane :=
  tab 64 fun j =>
    let x := laneAt a j
    let y := laneAt b j
    let z := laneAt c j
    let u := vopUses fn
    { bits := vopFn fn x.bits y.bits z.bits, pz := x.pz || (u.1 && y.pz) || (u.2 && z.pz) }

/-- VOP (R174). -/
def bodyVop : Body := checked (mask 47 23) fun e _ w tl =>
  if fld w 23 5 = 31 then iresFault e tl 0x11
  else
    iresDone e (vSet tl (vReg w 43)
      (markRow e.pz (vopLanes (fld w 23 5) (vGet tl (vReg w 38)) (vGet tl (vReg w 33)) (vGet tl (vReg w 28)))))

/-- VOPI (R174): every lane of vb is IMM; FN 3, 30 and 31 are illegal. -/
def bodyVopi : Body := checked (mask 47 33 + mask 31 0) fun e _ w tl =>
  let fn := fld w 33 5
  if fn = 3 ∨ fn = 30 ∨ fn = 31 then iresFault e tl 0x11
  else
    let b := List.replicate 64 (⟨BitVec.ofNat 32 (fld w 0 32), false⟩ : Lane)
    iresDone e (vSet tl (vReg w 43) (markRow e.pz (vopLanes fn (vGet tl (vReg w 38)) b zeroRow)))

/-- R176: the halving order of a reduction: l[j] := op(l[j], l[j + d]) for d = 32, 16, 8, 4, 2, 1. -/
def halve (op : W32 → W32 → W32) (l : List W32) : W32 :=
  (([32, 16, 8, 4, 2, 1] : List Nat).foldl (fun v d => List.zipWith op (v.take d) (v.drop d)) l).headD 0

/-- R176 FN 4: lane value `x` ranks above `y`. −0 and +0 tie (DESIGN CHOICE, log 136). -/
def ranksAbove (x y : W32) : Bool := (f32IsNaN x && !f32IsNaN y) || f32Lt y x

/-- R176 FN 4: the index of the greatest lane, the lowest of equal ones. -/
def argMax (l : List W32) : Nat :=
  ((l.zipIdx).foldl (fun (b : W32 × Nat) p => if ranksAbove p.1 b.1 then p else b) (l.headD 0, 0)).2

/-- R176: reduction FN, 0 to 5. -/
def vredFn (fn : Nat) (l : List W32) : W32 :=
  match fn with
  | 0 => halve f32Add l
  | 1 => halve f32Max l
  | 2 => halve f32Min l
  | 3 => halve (· + ·) l
  | 4 => BitVec.ofNat 32 (argMax l)
  | _ => BitVec.ofNat 32 (l.filter (· != 0)).length

/-- VRED (R176). -/
def bodyVred : Body := checked (mask 47 35) fun e _ w tl =>
  if fld w 35 3 > 5 then iresFault e tl 0x11
  else
    let l := vGet tl (vReg w 38)
    iresDone e (vSet tl (vReg w 43)
      (List.replicate 64 ⟨vredFn (fld w 35 3) (l.map (·.bits)), l.any (·.pz) || e.pz⟩))

/-- VROT (R177): a poisoned input lane reaches every lane; a poisoned word of sigma applied last reaches its own channels. Sign bits read
with poison are applied as they are read (DEDUCED, log 100). -/
def bodyVrot : Body := checked (mask 47 21) fun e _ w tl =>
  let off := fld w 21 16 * 32
  if vReg w 43 % 4 ≠ 0 ∨ vReg w 38 % 4 ≠ 0 then iresFault e tl 0x11
  else if !inScratch off 32 then iresFault e tl 0x21
  else
    let inv := bit w 37
    let sg := scratchRead e off 32
    let x := groupGet tl (vReg w 38)
    let all := e.pz || x.any (·.pz) || (!inv && sg.any (·.2))
    let y := rotate inv (sg.map (·.1)) (x.map (·.bits))
    iresRead e (iresDone e (groupSet tl (vReg w 43)
      ((y.zipIdx).map fun p => ⟨p.1, all || (inv && (sg.getD (p.2 / 8) (0, false)).2)⟩))) [(off, 32)]

/-- R151: a side list's channels, or none when the list breaks R151. -/
def sideList (bs : List Byte) : Option (List Nat) :=
  let n := (bs.getD 8 0).toNat
  let ch := (bs.take n).map (·.toNat)
  if n ≤ 8 ∧ ((bs.take 8).drop n).all (· == 0) ∧ ((bs.take 16).drop 9).all (· == 0)
      ∧ (List.zip ch ch.tail).all (fun p => decide (p.1 < p.2)) then some ch else none

/-- VPICK (R178, R467). -/
def bodyVpick : Body := checked (mask 47 21) fun e _ w tl =>
  let off := fld w 21 17 * 16
  if vReg w 38 % 4 ≠ 0 then iresFault e tl 0x11
  else if !inScratch off 16 then iresFault e tl 0x21
  else
    let bs := scratchRead e off 16
    if bs.any (·.2) then iresRead e (iresDone e (vSet tl (vReg w 43) poisonRow)) [(off, 16)]
    else
      match sideList (bs.map (·.1)) with
      | none => iresRead e (iresFault e tl 0x23) [(off, 16)]
      | some ch =>
        let g := groupGet tl (vReg w 38)
        let out := (ch.map fun c => laneAt g c) ++ List.replicate (64 - ch.length) Lane.zero
        iresRead e (iresDone e (vSet tl (vReg w 43) (markRow e.pz out))) [(off, 16)]

/-- R151, R178: the side terms added in ascending order, product rounded, then sum rounded. -/
def sideSum (va : List Lane) : List Lane → List (List Lane) → Nat → List Lane
  | d, [], _ => d
  | d, r :: rs, j =>
    sideSum va (List.zipWith (fun x y =>
      let a := laneAt va j
      ⟨f32Add x.bits (f32Mul a.bits y.bits), x.pz || a.pz || y.pz⟩) d r) rs (j + 1)

/-- VSIDE (R178, R467). Bytes 16 to 63 of the record are not read (DEDUCED, log 90). -/
def bodyVside : Body := checked (mask 47 23) fun e _ w tl =>
  let off := fld w 23 15 * 64
  if !inScratch off 64 then iresFault e tl 0x21
  else
    let bs := scratchRead e off 16
    let d := vGet tl (vReg w 43)
    let rd := fun (r : IRes) (n : Nat) => iresRead e r [(off, 16), (off + 64, 256 * n)]
    if bs.any (·.2) then rd (iresDone e (vSet tl (vReg w 43) (markRow true d))) 0
    else
      match sideList (bs.map (·.1)) with
      | none => rd (iresFault e tl 0x23) 0
      | some ch =>
        if !inScratch off (64 + 256 * ch.length) then rd (iresFault e tl 0x21) 0
        else
          let rows := tab ch.length fun j => bytesRow (scratchRead e (off + 64 + 256 * j) 256)
          rd (iresDone e (vSet tl (vReg w 43) (markRow e.pz (sideSum (vGet tl (vReg w 38)) d rows 0)))) ch.length

/-- R179: a clipped count added to an int32 lane, saturating at 0xff_ffff. -/
def addCount (l : Lane) (n : Nat) (pz : Bool) : Lane :=
  { bits := BitVec.ofInt 32 (min (l.bits.toInt + n) 0xffffff), pz := l.pz || pz }

/-- R179, R180: codes written to vd, and with CNT the counts added to lanes 0 and 1 of vc; all poisoned where `tag` says that the
instruction's own word had PZ (R71). With vd = vc the counts are written over the codes (DESIGN CHOICE, log 137). -/
def putCodes (tag : Bool) (tl : Tile) (vd vc : Nat) (cnt : Bool) (x0 : List Lane) (q : W32 → Quant) : Tile :=
  let x := markRow tag x0
  let qs := x.map fun l => (q l.bits, l.pz)
  let c := vGet tl vc
  let pz := x.any (·.pz)
  let tl1 := vSet tl vd (qs.map fun p => ⟨BitVec.ofNat 32 p.1.code, p.2⟩)
  if cnt then
    let c0 := addCount (laneAt c 0) (qs.filter (·.1.clip)).length pz
    let c1 := addCount (laneAt c 1) (qs.filter (·.1.half)).length pz
    vSet tl1 vc (setAt (setAt (vGet tl1 vc) 0 c0) 1 c1)
  else tl1

/-- R179: the exponent of VQZ and VUNPK: field E, or with TRK the int32 in lane 2 of vc, with its poison. -/
def trkExpo (tl : Tile) (trk : Bool) (eField vc : Nat) : Int × Bool :=
  if trk then ((laneAt (vGet tl vc) 2).bits.toInt, (laneAt (vGet tl vc) 2).pz) else (sext eField 8, false)

/-- VQZ (R179). -/
def bodyVqz : Body := checked (mask 47 13) fun e _ w tl =>
  let width := fld w 15 2
  let z := fld w 17 8
  let trk := bit w 13
  let x := trkExpo tl trk (fld w 25 8) (vReg w 33)
  if width = 3 ∨ 2 ^ widthBits width ≤ z ∨ (trk && fld w 25 8 != 0) then iresFault e tl 0x11
  else if x.2 then iresDone e (vSet tl (vReg w 43) poisonRow)
  else if !expoOk x.1 then iresFault e tl 0x11
  else iresDone e (putCodes e.pz tl (vReg w 43) (vReg w 33) (bit w 14) (vGet tl (vReg w 38)) (quantise (widthBits width) z x.1))

/-- R180: a requantisation record. -/
structure QRec where
  m : Nat
  f : Int
  s : Nat
  z : Nat
  width : Nat
  trk : Bool
  eInit : Int
  ok : Bool
  deriving DecidableEq, Repr

/-- R180: the record in 16 bytes; `ok` is false when a field is out of range or a reserved field is not zero. -/
def qRecOf (bs : List Byte) : QRec :=
  let b := fun i => (bs.getD i 0).toNat
  let width := b 5 % 4
  let f := sext (b 2) 8
  { m := b 0 + 256 * b 1, f := f, s := b 3, z := b 4, width := width, trk := b 5 / 4 % 2 == 1, eInit := sext (b 6) 8
    ok := decide (-32 ≤ f) && decide (f ≤ 31) && decide (b 3 ≤ 47) && width != 3 && decide (b 4 < 2 ^ widthBits width)
      && b 5 / 8 == 0 && ((bs.take 16).drop 7).all (· == 0) }

/-- VQNT (R180, R153, R467). With a poisoned record CNT adds nothing and leaves vc as it is (DEDUCED, log 99). -/
def bodyVqnt : Body := checked (mask 47 15) fun e _ w tl =>
  let off := fld w 16 17 * 16
  if !inScratch off 16 then iresFault e tl 0x21
  else
    let bs := scratchRead e off 16
    let r := qRecOf (bs.map (·.1))
    let x := trkExpo tl true 0 (vReg w 33)
    let sh : Int := if r.trk then r.s + (x.1 - r.eInit) else r.s
    let rd := fun (a : IRes) => iresRead e a [(off, 16)]
    if bs.any (·.2) then rd (iresDone e (vSet tl (vReg w 43) poisonRow))
    else if !r.ok then rd (iresFault e tl 0x11)
    else if r.trk && x.2 then rd (iresDone e (vSet tl (vReg w 43) poisonRow))
    else if (r.trk && !expoOk x.1) ∨ sh < 0 ∨ 47 < sh then rd (iresFault e tl 0x11)
    else
      rd (iresDone e (putCodes e.pz tl (vReg w 43) (vReg w 33) (bit w 15) (vGet tl (vReg w 38))
        (requantise (widthBits r.width) r.f r.m sh.toNat r.z)))

/-- R181: the rows of a packet as codes with poison, in fours; rows missing from the last block are code Z. -/
def vqsBlocks (r : QRec) (dead : Bool) (ws : List QWord) : List (Nat × Bool) :=
  let codes := ws.flatMap fun w => (wordRow w).map fun l =>
    (if dead then 0 else (requantise (widthBits r.width) r.f r.m r.s r.z l.bits).code, l.pz || dead)
  codes ++ List.replicate ((256 - codes.length % 256) % 256) (if dead then 0 else r.z, dead)

/-- Bytes cut into queue words of 256 bytes, the last one zero-filled (R181). -/
def wordsOf256 (bs : List PByte) : List QWord :=
  (chunks 256 bs).map fun c => bytesWord (c ++ List.replicate (256 - c.length) (0, false))

/-- VQS (R181), its checks in the order of R466. A record read with poison still sets the packing by its WIDTH bits, 3 taken as 2 (DESIGN
CHOICE, log 98). -/
def bodyVqs : Body := checked (mask 47 21) fun e _ w tl =>
  let off := fld w 29 17 * 16
  let qi := if fld w 47 1 = 0 then qMxVx else qLdVx
  let qo := if fld w 46 1 = 0 then qVxLd else qVxXf
  if !inScratch off 16 then iresFault e tl 0x21
  else
    let bs := scratchRead e off 16
    let dead := bs.any (·.2)
    let r0 := qRecOf (bs.map (·.1))
    let r := { r0 with width := if dead then min r0.width 2 else r0.width }
    let rd := fun (a : IRes) => iresRead e a [(off, 16)]
    if !dead && (!r.ok || r.trk) then rd (iresFault e tl 0x11)
    else
      match qTake (tileQ tl qi) with
      | none => rd (iresUnderrun e tl qi)
      | some (p, q) =>
        let tl' := setQ tl qi q
        if p.words.length = 0 then rd (iresFault e tl' 0x20)
        else
          rd (iresPacket (iresDone e tl') qo (BitVec.ofNat 8 (fld w 21 8))
            ((wordsOf256 (packCodes r.width (vqsBlocks r dead p.words))).map (markWord e.pz)))

/-- R182: an int32 lane saturated to a code of `k` bits. -/
def satCode (k : Nat) (x : W32) : Nat := (max 0 (min ((2 ^ k : Nat) - 1 : Int) x.toInt)).toNat

/-- VPACK (R182). -/
def bodyVpack : Body := checked (mask 47 36) fun e _ w tl =>
  let width := fld w 36 2
  if vReg w 38 % 4 ≠ 0 ∨ width = 3 then iresFault e tl 0x11
  else
    let bs := packCodes width ((groupGet tl (vReg w 38)).map fun l => (satCode (widthBits width) l.bits, l.pz))
    iresDone e (vSet tl (vReg w 43) (markRow e.pz (bytesRow (bs ++ List.replicate (256 - bs.length) (0, false)))))

/-- VUNPK (R182). -/
def bodyVunpk : Body := checked (mask 47 14) fun e _ w tl =>
  let width := fld w 15 2
  let z := fld w 17 8
  let trk := bit w 14
  let x := trkExpo tl trk (fld w 25 8) (vReg w 33)
  if vReg w 43 % 4 ≠ 0 ∨ width = 3 ∨ 2 ^ widthBits width ≤ z ∨ (trk && fld w 25 8 != 0) then iresFault e tl 0x11
  else if x.2 then iresDone e (groupSet tl (vReg w 43) (List.replicate 256 ⟨0, true⟩))
  else if !expoOk x.1 then iresFault e tl 0x11
  else
    let cs := unpackCodes width ((rowBytes (vGet tl (vReg w 38))).take (blockBytes width))
    iresDone e (groupSet tl (vReg w 43) (cs.map fun c => ⟨dequant c.1 z x.1, c.2 || e.pz⟩))

end Sys2Proof.Machine
end

