-- ==== Sys2Proof/Machine/TrBody.lean ====
section
/-! DEFINITION. What the TR instructions do (spec/07_tree_ensembles.md R187 to R209). -/

namespace Sys2Proof.Machine

/-- A feature code, its poison, a fault, and the scratch ranges read for it. -/
structure FCode where
  code : Nat
  pz : Bool
  fault : Option Nat
  rd : List (Nat × Nat)

/-- A code without a fault. -/
def fcode (c : Nat) (pz : Bool) (rd : List (Nat × Nat)) : FCode := { code := c, pz := pz, fault := none, rd := rd }

/-- A fault during execution. -/
def ffault (f : Nat) (rd : List (Nat × Nat)) : FCode := { code := 0, pz := false, fault := some f, rd := rd }

/-- A raw value: its bits, its poison, the range it was read from, or a fault. -/
structure RawVal where
  bits : W32
  pz : Bool
  fault : Option Nat
  rd : List (Nat × Nat)

/-- R190 mode 0: the number of edges at or below y, at least 1. -/
def binCode (y : W32) (edges : List W32) : Nat := max 1 (edges.filter fun x => f32Le x y).length

/-- R190 mode 1: an integer value from 1 to 255, else 0. -/
def passCode (x : W32) : Nat :=
  ((List.range 256).filter fun (n : Nat) => decide (1 ≤ n) && x == f32OfInt (n : Int) 0).headD 0

/-- R190 mode 2: the crossing hash. -/
def crossCode (a b salt : Nat) : Nat :=
  if a = 0 ∨ b = 0 then 0
  else (((((a * 256 + b) ^^^ salt) % 2 ^ 16) * 0x9e3779b1) % 2 ^ 32) / 2 ^ 16 % 65535 + 1

/-- R190, R189, R191, R192: code `f` of one row. `m` is the memory with the row's earlier codes, `base` the block address of scratch,
`tbl` and `row` scratch offsets of the feature table and of the code row, `raw` the row's raw values. Where y is NaN or the raw value is
poisoned the edge list is not read, so that neither its poison nor its range counts (DESIGN CHOICE, log 139). -/
def encodeFeature (m : Mem) (base tbl row f : Nat) (raw : Nat → RawVal) : FCode :=
  let ent := (tbl + 16 * f, 16)
  let w := memWord m (base + tbl + 16 * f + 8)
  let low := memNum m (base + tbl + 16 * f) 8
  let mode := fld w 62 2
  if memAnyPz m (base + tbl + 16 * f) 16 then fcode 0 true [ent]
  else if mode = 3 then ffault 0x31 [ent]
  else if mode = 0 then
    let n := fld w 30 8
    if n = 0 ∨ fld w 38 12 ≠ 0 ∨ fld w 0 11 ≠ 0 then ffault 0x31 [ent]
    else
      let x := raw (fld w 50 12)
      let eo := fld w 11 19 * 4
      let y := f32Add (f32Mul x.bits (BitVec.ofNat 32 low)) (BitVec.ofNat 32 (low / 2 ^ 32))
      match x.fault with
      | some c => ffault c (ent :: x.rd)
      | none =>
        if x.pz then fcode 0 true (ent :: x.rd)
        else if f32IsNaN y then fcode 0 false (ent :: x.rd)
        else if !inScratch eo (4 * n) then ffault 0x30 (ent :: x.rd)
        else
          let rd := ent :: x.rd ++ [(eo, 4 * n)]
          if memAnyPz m (base + eo) (4 * n) then fcode 0 true rd
          else fcode (binCode y (edgeList m (base + eo) n)) false rd
  else if low ≠ 0 then ffault 0x31 [ent]
  else if mode = 1 then
    if fld w 0 50 ≠ 0 then ffault 0x31 [ent]
    else
      let x := raw (fld w 50 12)
      match x.fault with
      | some c => ffault c (ent :: x.rd)
      | none => if x.pz then fcode 0 true (ent :: x.rd) else fcode (passCode x.bits) false (ent :: x.rd)
  else
    let a := fld w 50 12
    let b := fld w 38 12
    let okSrc := fun g => decide (g < f) &&
      (memAnyPz m (base + tbl + 16 * g) 16 || decide (fld (memWord m (base + tbl + 16 * g + 8)) 62 2 ≤ 1))
    let rd := [ent, (row + 2 * a, 2), (row + 2 * b, 2)]
    if fld w 16 22 ≠ 0 ∨ !okSrc a ∨ !okSrc b then ffault 0x31 [ent]
    else
      fcode (crossCode (memNum m (base + row + 2 * a) 2) (memNum m (base + row + 2 * b) 2) (fld w 0 16))
        (memPz m (base + row + 2 * a) || memPz m (base + row + 2 * b)) rd
where
  /-- The `n` binary32 values at block address `a`. -/
  edgeList (m : Mem) (a n : Nat) : List W32 := tab n fun j => BitVec.ofNat 32 (memNum m (a + 4 * j) 4)

/-- The state of a TFE: memory, poisoned words read, ranges read, fault. -/
structure TfeSt where
  mem : Mem
  ue : Nat
  reads : List (Nat × Nat)
  fault : Option (Nat × Nat)

/-- The poisoned words in ranges of scratch. -/
def scratchBad (m : Mem) (base : Nat) (rd : List (Nat × Nat)) : Nat := (rd.map fun p => (badUnits m (base + p.1) p.2).length).sum

/-- R190: the features of one row from `f` on, `n` of them, in ascending order. Each code of 2 bytes is merged into its word (R63); `tag`
says that the instruction's word or one of its addresses is poisoned (R71). -/
def encodeRow (tag : Bool) (base tab row : Nat) (raw : Nat → RawVal) : Nat → Nat → TfeSt → TfeSt
  | 0, _, st => st
  | n + 1, f, st =>
    match st.fault with
    | some _ => st
    | none =>
      let c := encodeFeature st.mem base tab row f raw
      let ue := st.ue + scratchBad st.mem base c.rd
      let reads := st.reads ++ c.rd.map fun p => (base + p.1, p.2)
      match c.fault with
      | some x => { st with ue := ue, reads := reads, fault := some (x, 0) }
      | none =>
        encodeRow tag base tab row raw n (f + 1)
          { st with
            ue := ue + (badUnits st.mem (base + row + 2 * f) 2).length
            reads := reads ++ [(base + row + 2 * f, 2)]
            mem := memWrite st.mem (base + row + 2 * f) ((bytesOf 2 c.code).map fun b => (b, c.pz || tag)) }

/-- R205: a raw value of a row in scratch. -/
def rawScratch (m : Mem) (base row col : Nat) : RawVal :=
  if inScratch (row + 4 * col) 4 then
    { bits := BitVec.ofNat 32 (memNum m (base + row + 4 * col) 4), pz := memAnyPz m (base + row + 4 * col) 4, fault := none,
      rd := [(row + 4 * col, 4)] }
  else { bits := 0, pz := false, fault := some 0x30, rd := [] }

/-- R205, R209: a raw value of a row in an LD_TR packet. -/
def rawPacket (ws : List QWord) (col : Nat) : RawVal :=
  match ws[col / 16]? with
  | none => { bits := 0, pz := false, fault := some 0x32, rd := [] }
  | some w =>
    { bits := BitVec.ofNat 32 ((w.lanes.getD (col % 16 / 2) 0).toNat / 2 ^ (32 * (col % 2))), pz := w.pz, fault := none, rd := [] }

/-- R205, R209: the rows of a TFE from row `r` on. With SRC = 1 each row takes its packet when it is reached. -/
def tfeRows (tag : Bool) (base tab rs rd rstr cstr nf : Nat) (src : Bool) : Nat → Nat → Tile → TfeSt → Tile × TfeSt
  | 0, _, tl, st => (tl, st)
  | n + 1, r, tl, st =>
    match st.fault with
    | some _ => (tl, st)
    | none =>
      let row := rd + r * cstr * 64
      if src then
        match qTake (tileQ tl qLdTr) with
        | none => (tl, { st with fault := some (0x01, qLdTr) })
        | some (p, q) =>
          tfeRows tag base tab rs rd rstr cstr nf src n (r + 1) (setQ tl qLdTr q)
            (encodeRow tag base tab row (rawPacket p.words) nf 0 st)
      else
        tfeRows tag base tab rs rd rstr cstr nf src n (r + 1) tl
          (encodeRow tag base tab row (rawScratch st.mem base (rs + r * rstr * 64)) nf 0 st)

/-- TFE (R205, R209). Codes computed through a poisoned a-register are poisoned (R71). The base ranges checked at issue: the feature table, the
code rows up to the last code of the last row, and with SRC = 0 the first value of every raw row (DESIGN CHOICE, log 138). Of several faults
the first in the order 0x11, 0x12, 0x30 at issue, then by row and feature, is reported (DESIGN CHOICE, log 133). -/
def bodyTfe : Body := fun e _ w tl =>
  let rt := (aGet tl (aReg w 44)).bits.toNat
  let rs := (aGet tl (aReg w 40)).bits.toNat
  let rd := (aGet tl (aReg w 36)).bits.toNat
  let src := bit w 35
  let tag := e.pz || (aGet tl (aReg w 44)).pz || (!src && (aGet tl (aReg w 40)).pz) || (aGet tl (aReg w 36)).pz
  let rows := fld w 29 6 + 1
  let nf := fld w 17 12 + 1
  let rstr := fld w 8 9
  let cstr := fld w 0 8
  if cstr * 64 < 2 * nf ∨ (src && (fld w 40 4 != 0 || rstr != 0)) ∨ (!src && rstr == 0) then iresFault e tl 0x11
  else if rt % 16 ≠ 0 ∨ (!src && rs % 4 != 0) ∨ rd % 64 ≠ 0 then iresFault e tl 0x12
  else if !inScratch rt (16 * nf) ∨ !inScratch (rd + (rows - 1) * cstr * 64) (2 * nf)
      ∨ (!src && !inScratch (rs + (rows - 1) * rstr * 64) 4) then iresFault e tl 0x30
  else
    let p := tfeRows tag (scratchBase e.tile) rt (if src then 0 else rs) rd rstr cstr nf src rows 0 tl
      { mem := e.mem, ue := 0, reads := [], fault := none }
    let r : IRes := { iresDone e p.1 with mem := p.2.mem, ue := [(e.tile, p.2.ue)], reads := p.2.reads }
    match p.2.fault with
    | none => r
    | some f => iresLate r f.1 f.2

/-- The end of one walk: the leaf value with its poison, or a fault, and the ranges read. -/
structure Leaf where
  bits : W32
  pz : Bool
  fault : Option Nat
  rd : List (Nat × Nat)

/-- R196, R197, R193, R194, R206: the walk from node `n` of a tree that ends before node `past`, for the code row at `row` of `rlen`
bytes. Children lie after their parent, so `past - n` steps suffice. -/
def walkF (m : Mem) (base nodes row rlen past : Nat) : Nat → Nat → List (Nat × Nat) → Leaf
  | 0, _, rd => { bits := 0, pz := false, fault := some 0x33, rd := rd }
  | k + 1, n, rd =>
    let off := nodes + 8 * n
    let rd1 := (off, 8) :: rd
    let w := memWord m (base + off)
    let left := fld w 17 17
    let right := fld w 0 17
    let feat := fld w 50 12
    let c := memNum m (base + row + 2 * feat) 2
    let go := if c = 0 then bit w 62 else decide (fld w 34 16 ≤ c)
    if !inScratch off 8 then { bits := 0, pz := false, fault := some 0x30, rd := rd }
    else if memPz m (base + off) then { bits := 0, pz := true, fault := none, rd := rd1 }
    else if bit w 63 then
      if fld w 32 31 ≠ 0 then { bits := 0, pz := false, fault := some 0x33, rd := rd1 }
      else { bits := BitVec.ofNat 32 (fld w 0 32), pz := false, fault := none, rd := rd1 }
    else if left = 0 ∨ right = 0 ∨ past ≤ n + left ∨ past ≤ n + right ∨ rlen < 2 * feat + 2 then
      { bits := 0, pz := false, fault := some 0x33, rd := rd1 }
    else if memPz m (base + row + 2 * feat) then { bits := 0, pz := true, fault := none, rd := (row + 2 * feat, 2) :: rd1 }
    else walkF m base nodes row rlen past k (n + (if go then right else left)) ((row + 2 * feat, 2) :: rd1)

/-- R195, R197: one tree of the table: its START, its end, and whether an entry that bounds it is poisoned. -/
structure TreeSpan where
  first : Nat
  past : Nat
  pz : Bool
  deriving DecidableEq, Repr

/-- R195: the trees that `n` + 1 entries at block address `a` bound; none when an entry breaks R195. -/
def treeSpans (m : Mem) (a n : Nat) : Option (List TreeSpan) :=
  let es := tab (n + 1) fun k => (memNum m (a + 4 * k) 4, memPz m (a + 4 * k))
  let ts := List.zip es es.tail
  if es.any (fun x => !x.2 && decide (2 ^ 17 ≤ x.1)) || ts.any (fun p => !p.1.2 && !p.2.2 && decide (p.2.1 ≤ p.1.1)) then none
  else some (ts.map fun p => { first := p.1.1, past := p.2.1, pz := p.1.2 || p.2.2 })

/-- R196, R197: one tree for one row. -/
def walkTree (m : Mem) (base nodes row rlen : Nat) (t : TreeSpan) : Leaf :=
  if t.pz then { bits := 0, pz := true, fault := none, rd := [] }
  else walkF m base nodes row rlen t.past (t.past - t.first) t.first []

/-- R199: a lane of a bank after the leaves of its row, in tree order. -/
def sumLeaves (s : Lane) (ls : List Leaf) : Lane := ls.foldl (fun x l => ⟨f32Add x.bits l.bits, x.pz || l.pz⟩) s

/-- TWALK (R206, R199). Sums computed through a poisoned a-register are poisoned (R71). The base ranges checked at issue: the tree table, and
(ROWS + 1) × CSTR × 64 bytes of code rows (DESIGN CHOICE, log 138). Of several faults the first in the order 0x12, 0x30 at issue, then 0x34,
then by row and tree, is reported (DESIGN CHOICE, log 133). -/
def bodyTwalk : Body := checked (mask 47 7) fun e _ w tl =>
  let nodes := (aGet tl (aReg w 44)).bits.toNat
  let tt := (aGet tl (aReg w 40)).bits.toNat
  let rc := (aGet tl (aReg w 36)).bits.toNat
  let bank := fld w 34 2
  let rows := fld w 27 6 + 1
  let nt := fld w 15 12 + 1
  let cstr := fld w 7 8
  let base := scratchBase e.tile
  let tag := e.pz || (aGet tl (aReg w 44)).pz || (aGet tl (aReg w 40)).pz || (aGet tl (aReg w 36)).pz
  if nodes % 8 ≠ 0 ∨ tt % 4 ≠ 0 ∨ rc % 64 ≠ 0 then iresFault e tl 0x12
  else if !inScratch tt (4 * (nt + 1)) ∨ !inScratch rc (rows * cstr * 64) then iresFault e tl 0x30
  else
    let r0 := iresRead e (iresDone e tl) [(tt, 4 * (nt + 1))]
    match treeSpans e.mem (base + tt) nt with
    | none => iresLate r0 0x34 0
    | some ts =>
      let ls := tab rows fun r => ts.map (walkTree e.mem base nodes (rc + r * cstr * 64) (cstr * 64))
      let r1 := iresRead e r0 (ls.flatten.flatMap (·.rd))
      match ls.flatten.findSome? (·.fault) with
      | some f => iresLate r1 f 0
      | none =>
        let old := bankGet tl bank
        let new := (ls.zipIdx).map fun p => sumLeaves (if bit w 33 then Lane.zero else laneAt old p.2) p.1
        { r1 with tile := bankSet tl bank (markRow tag new ++ old.drop rows) }

/-- TOUT (R207). -/
def bodyTout : Body := checked (mask 47 35) fun e _ w tl =>
  let bank := fld w 46 2
  let n := fld w 44 2
  if 3 < bank + n then iresFault e tl 0x11
  else
    let bs := tab (n + 1) fun k => bank + k
    let tl' := if bit w 43 then bs.foldl (fun t b => bankSet t b (markRow e.pz zeroRow)) tl else tl
    iresPacket (iresDone e tl') qTrVx (BitVec.ofNat 8 (fld w 35 8)) (bs.map fun b => markWord e.pz (rowWord (bankGet tl b)))

end Sys2Proof.Machine
end

