-- ==== Sys2Proof/Machine/AuBody.lean ====
section
/-! DEFINITION. What ASTEP does (spec/08_automata_and_masks.md R212 to R237). A word read with poison, and what it selects, is never
checked: the instruction completes and its results are poisoned (R71; DEDUCED, log 89). -/

namespace Sys2Proof.Machine

/-- R215: an automaton's header. -/
structure AHdr where
  start : Nat
  stateOff : Nat
  nstates : Nat
  transOff : Nat
  ntrans : Nat
  actOff : Nat
  nact : Nat
  mrole : Bool
  alph : Bool
  vocab : Nat
  pz : Bool
  ok : Bool
  deriving DecidableEq, Repr

/-- R215, R237: the header of eight words; `ok` is false for the causes of fault 0x38 that the header alone decides. -/
def hdrOf (ws : List W64) (pz : Bool) : AHdr :=
  let w := fun i => ws.getD i 0
  let start := fld (w 0) 44 20
  let nst := fld (w 1) 40 24
  let so := fld (w 0) 0 24
  let tro := fld (w 1) 0 24
  let ao := fld (w 2) 0 24
  { start := start, stateOff := so, nstates := nst, transOff := tro, ntrans := fld (w 2) 40 24, actOff := ao, nact := fld (w 3) 40 24
    mrole := bit (w 3) 36, alph := bit (w 3) 35, vocab := fld (w 3) 14 21, pz := pz
    ok := fld (w 0) 24 20 == 0 && fld (w 1) 24 16 == 0 && fld (w 2) 24 16 == 0 && fld (w 3) 37 3 == 0 && fld (w 3) 0 14 == 0
      && (ws.drop 4).all (· == 0) && decide (start < nst) && so % 16 == 0 && tro % 8 == 0 && ao % 8 == 0 }

/-- R222: a context, with its poison (R236). -/
structure ACtx where
  state : Nat
  flags : BitVec 16
  cnt : List Nat
  pz : Bool
  deriving DecidableEq, Repr

/-- R222: the two words of a context. -/
def ctxWords (c : ACtx) : List W64 :=
  [mk64 (put c.state 44 20 + put c.flags.toNat 28 16),
   mk64 (put (c.cnt.getD 0 0) 0 16 + put (c.cnt.getD 1 0) 16 16 + put (c.cnt.getD 2 0) 32 16 + put (c.cnt.getD 3 0) 48 16)]

/-- R222: the context in two words. -/
def ctxOf (w0 w1 : W64) (pz : Bool) : ACtx :=
  { state := fld w0 44 20, flags := BitVec.ofNat 16 (fld w0 28 16), cnt := tab 4 fun k => fld w1 (16 * k) 16, pz := pz }

/-- R221: what a token has collected: the MASK override, its edit words, and whether edits were dropped. -/
structure ATok where
  mask : Option Nat
  edits : List W32
  eovf : Bool
  deriving DecidableEq, Repr

/-- R221: a token at its first symbol. -/
def ATok.fresh : ATok := { mask := none, edits := [], eovf := false }

/-- A step's answer: context, token, events emitted with their poison, fault, scratch ranges read. -/
structure AStep where
  ctx : ACtx
  tok : ATok
  evs : List (Nat × Bool)
  fault : Option Nat
  rd : List (Nat × Nat)

/-- R220: the operand bits an OP uses, below bit 59. -/
def actUsed (op : Nat) : Nat :=
  ([mask 46 32, mask 47 32, mask 47 32, mask 57 56 + mask 47 32, mask 57 56 + mask 47 32, mask 57 56 + mask 47 32, mask 47 32,
    mask 19 0, mask 19 0] : List Nat).getD op 0

/-- R220: one action. The flag says that the next entry is skipped. -/
def actOne (a : W64) (st : AStep) : AStep × Bool :=
  let op := fld a 60 4
  let v := fld a 32 16
  let k := fld a 56 2
  let c := st.ctx
  let setCnt (n : Nat) : AStep := { st with ctx := { c with cnt := setAt c.cnt k n } }
  let edit (del : Nat) : AStep :=
    if st.tok.edits.length < 16 then
      { st with tok := { st.tok with edits := st.tok.edits ++ [BitVec.ofNat 32 (del * 2 ^ 31 + fld a 0 20)] } }
    else { st with tok := { st.tok with eovf := true } }
  match op with
  | 0 => ({ st with evs := st.evs ++ [(fld a 32 15, c.pz)] }, false)
  | 1 => ({ st with ctx := { c with flags := c.flags ||| BitVec.ofNat 16 v } }, false)
  | 2 => ({ st with ctx := { c with flags := c.flags &&& ~~~ BitVec.ofNat 16 v } }, false)
  | 3 => (setCnt (max 0 (min 65535 ((c.cnt.getD k 0 : Nat) + sext v 16))).toNat, false)
  | 4 => (setCnt v, false)
  | 5 => (st, decide (c.cnt.getD k 0 < v))
  | 6 => ({ st with tok := { st.tok with mask := some v } }, false)
  | 7 => (edit 0, false)
  | _ => (edit 1, false)

/-- R220, R221, R237: a list of actions from entry `i`, at most `fuel` entries. Through poison (log 89) no check is made: an undefined OP
does nothing, and the list ends at an entry outside the scratch and after 16 entries. -/
def runActs (m : Mem) (base : Nat) (h : AHdr) : Nat → Nat → Bool → AStep → AStep
  | 0, _, _, st => if st.ctx.pz then st else { st with fault := some 0x3a }
  | n + 1, i, skip, st =>
    let off := h.actOff + 8 * i
    let a := memWord m (base + off)
    let op := fld a 60 4
    let pz := st.ctx.pz || memAnyPz m (base + off) 8
    let st1 := { st with rd := (off, 8) :: st.rd, ctx := { st.ctx with pz := pz } }
    if !st.ctx.pz && decide (h.nact ≤ i) then { st with fault := some 0x3a }
    else if !inScratch off 8 then (if st.ctx.pz then st else { st with fault := some 0x3b })
    else if !pz && (decide (8 < op) || (op == 5 && bit a 59) || Nat.land (a.toNat % 2 ^ 59) (2 ^ 59 - 1 - actUsed op) != 0) then
      { st1 with fault := some 0x3a }
    else
      let r := if skip || decide (8 < op) then (st1, false) else actOne a st1
      if bit a 59 then r.1 else runActs m base h n (i + 1) r.2 r.1

/-- R218, R219, R237: one step on symbol `x`. That an input context names a state is checked before its row's first step. From a poisoned
context (log 89) nothing is checked: a state record outside the scratch leaves the context, a transition outside it counts as a mismatch. -/
def autoStep (m : Mem) (base : Nat) (h : AHdr) (st : AStep) (x : Nat) : AStep :=
  let so := h.stateOff + 16 * st.ctx.state
  let w0 := memWord m (base + so)
  let w1 := memWord m (base + so + 8)
  let n := fld w0 32 24 + x
  let te := h.transOff + 8 * n
  let t := memWord m (base + te)
  let pz0 := st.ctx.pz || memAnyPz m (base + so) 16
  let inTab := decide (n < h.ntrans) && (inScratch te 8 || !pz0)
  let hit := inTab && fld t 56 8 == fld w0 56 8
  let next := if hit then fld t 36 20 else fld w0 12 20
  let act := if hit then fld t 16 20 else fld w1 28 20
  let rd := (if inTab then [(te, 8)] else []) ++ (so, 16) :: st.rd
  let pz := pz0 || (inTab && memAnyPz m (base + te) 8)
  let st1 := { st with rd := rd, ctx := { st.ctx with pz := pz, state := next } }
  if !inScratch so 16 then (if st.ctx.pz then st else { st with fault := some 0x3b })
  else if !pz0 && (fld w0 0 12 != 0 || fld w1 0 28 != 0) then { st1 with fault := some 0x3a }
  else if inTab && !inScratch te 8 then { st with fault := some 0x3b }
  else if !pz && ((inTab && fld t 0 16 != 0) || decide (h.nstates ≤ next)) then { st1 with fault := some 0x3a }
  else if act = 0 then st1
  else runActs m base h 16 act false st1

/-- R225: the 16 words of a mask record. -/
def maskRecord (tenant slot pos maskId mset : Nat) (t : ATok) : List W64 :=
  let ed := fun j => (t.edits.getD j 0).toNat
  [mk64 (put tenant 48 16 + put slot 32 16 + put pos 8 24),
   mk64 (put maskId 48 16 + put mset 32 16 + put t.edits.length 27 5 + put (b2n t.eovf) 26 1), 0, 0, 0, 0, 0, 0]
    ++ tab 8 fun j => mk64 (ed (2 * j) + 2 ^ 32 * ed (2 * j + 1))

/-- R232: a row entry. -/
structure ARow where
  tenant : Nat
  slot : Nat
  pos : Nat
  start : Bool
  nsym : Nat
  symOff : Nat
  apbOff : Nat
  clsOff : Nat
  pz : Bool
  resv : Bool
  deriving DecidableEq, Repr

/-- R232, R237: the row entry in four words. -/
def rowOf (h : AHdr) (src : Bool) (ws : List W64) (pz : Bool) : ARow :=
  let w := fun i => ws.getD i 0
  { tenant := fld (w 0) 48 16, slot := fld (w 0) 32 16, pos := fld (w 0) 8 24, start := bit (w 0) 0, nsym := fld (w 1) 48 16
    symOff := fld (w 1) 0 24, apbOff := fld (w 2) 0 24, clsOff := fld (w 3) 0 24, pz := pz
    resv := fld (w 0) 1 7 != 0 || fld (w 1) 24 24 != 0 || fld (w 2) 24 40 != 0 || fld (w 3) 24 40 != 0
      || (src && fld (w 1) 0 24 != 0) || (!h.alph && !h.pz && fld (w 3) 0 24 != 0) }

/-- R235: an event word. -/
def eventWord (ev row aut pos : Nat) : W64 := mk64 (put ev 48 15 + put row 42 6 + put aut 39 3 + put pos 8 24)

/-- R235: the terminal word. -/
def terminalWord (aut emitted dropped : Nat) : W64 := mk64 (put 1 63 1 + put aut 39 3 + put emitted 16 16 + put (min dropped 65535) 0 16)

/-- The state of an ASTEP: memory, tile, poisoned words read, ranges read, fault, events written and dropped, overruns, and whether a step
went through poison, so that what EMITTED and DROPPED count derives from it (R71). -/
structure ASt where
  mem : Mem
  tile : Tile
  ue : Nat
  reads : List (Nat × Nat)
  fault : Option (Nat × Nat)
  emitted : Nat
  dropped : Nat
  overran : Nat
  pz : Bool

/-- Reads of scratch ranges (offset, length) noted (R63). -/
def noteReads (base : Nat) (rd : List (Nat × Nat)) (st : ASt) : ASt :=
  { st with ue := st.ue + scratchBad st.mem base rd, reads := st.reads ++ rd.map fun p => (base + p.1, p.2) }

/-- R235: events written while fewer than ELIM were. -/
def emitEvents (elim row aut pos : Nat) : List (Nat × Bool) → ASt → ASt
  | [], st => st
  | ev :: evs, st =>
    if st.emitted < elim then
      let p := qPutWord qAuSq (tileQ st.tile qAuSq) { lanes := [eventWord ev.1 row aut pos], pz := ev.2 }
      emitEvents elim row aut pos evs
        { st with tile := setQ st.tile qAuSq p.1, emitted := st.emitted + 1, overran := st.overran + b2n p.2 }
    else
      emitEvents elim row aut pos evs
        { st with dropped := st.dropped + 1,
                  tile := { st.tile with auDropped := BitVec.ofNat 16 (satAdd st.tile.auDropped.toNat 1 16) } }

/-- R232: a symbol: its word and its poison, or a fault, with the range read. -/
structure ASym where
  bits : Nat
  pz : Bool
  fault : Option Nat
  rd : List (Nat × Nat)

/-- R232: symbol `k` of a row, from scratch or from its LD_AU packet. A poisoned row entry's symbol outside the scratch is 0 with poison
(log 89). -/
def symAt (m : Mem) (base : Nat) (e : ARow) (pkt : Option (List QWord)) (k : Nat) : ASym :=
  match pkt with
  | some ws =>
    let w := ws.getD (k / 2) { lanes := [], pz := false }
    { bits := (w.lanes.headD 0).toNat / 2 ^ (32 * (k % 2)) % 2 ^ 32, pz := w.pz, fault := none, rd := [] }
  | none =>
    let off := e.symOff + 4 * k
    if inScratch off 4 then { bits := memNum m (base + off) 4, pz := memAnyPz m (base + off) 4, fault := none, rd := [(off, 4)] }
    else if e.pz then { bits := 0, pz := true, fault := none, rd := [] }
    else { bits := 0, pz := false, fault := some 0x3b, rd := [] }

/-- R213, R214, R233, R237: the symbol value of symbol word `y` at index `k` of the row, whose last END is at `lastEnd` (one past). What was
read with poison is not checked (log 89): a class outside the scratch is 0 with poison, and a class entry gives its low 12 bits. -/
def symValue (m : Mem) (base : Nat) (h : AHdr) (e : ARow) (k lastEnd : Nat) (y : ASym) : ASym :=
  let free := y.pz || e.pz || h.pz
  if h.alph then
    let tok := y.bits % 2 ^ 20
    let off := e.clsOff + 64 * k + 2 * (tok % 32)
    let c := memNum m (base + off) 2
    let pz := y.pz || memAnyPz m (base + off) 2
    if !free && y.bits != tok then { y with fault := some 0x39 }
    else if h.vocab ≤ tok then { y with bits := 4095 }
    else if !inScratch off 2 then (if free then { y with bits := 0, pz := true } else { y with fault := some 0x3b })
    else if !(free || pz) && decide (4095 ≤ c) then { y with fault := some 0x39, rd := (off, 2) :: y.rd }
    else { bits := c % 4096, pz := pz, fault := none, rd := (off, 2) :: y.rd }
  else if !free && (decide (2 ^ 9 ≤ y.bits) || decide (lastEnd ≤ k)) then { y with fault := some 0x39 }
  else { y with bits := y.bits % 2 ^ 8 }

/-- R225, R233, R227: the record of the token that ends in context `c`: its words and poison, or a fault. A poisoned context's state record is
not checked, and outside the scratch it gives MASK_ID 0 (log 89). -/
def tokenRecord (m : Mem) (base : Nat) (h : AHdr) (e : ARow) (mset pos : Nat) (c : ACtx) (t : ATok) :
    Except Nat (List W64 × Bool × List (Nat × Nat)) :=
  match t.mask with
  | some i => .ok (maskRecord e.tenant e.slot pos i mset t, c.pz, [])
  | none =>
    let so := h.stateOff + 16 * c.state
    let pz := c.pz || memAnyPz m (base + so) 16
    if !inScratch so 16 then (if c.pz then .ok (maskRecord e.tenant e.slot pos 0 mset t, true, []) else .error 0x3b)
    else if !pz && (fld (memWord m (base + so)) 0 12 != 0 || fld (memWord m (base + so + 8)) 0 28 != 0) then .error 0x3a
    else .ok (maskRecord e.tenant e.slot pos (fld (memWord m (base + so + 8)) 48 16) mset t, pz, [(so, 16)])

/-- Words with one poison tag, as bytes. -/
def taggedBytes (ws : List W64) (pz : Bool) : List PByte := ws.flatMap fun w => (bytesOf 8 w.toNat).map fun b => (b, pz)

/-- What is fixed during one row of an ASTEP; `badState` says that the row's input context, read without poison, names no state (R237). -/
structure ARun where
  base : Nat
  hdr : AHdr
  row : ARow
  r : Nat
  aut : Nat
  elim : Nat
  msk : Bool
  mset : Nat
  pkt : Option (List QWord)
  lastEnd : Nat
  badState : Bool

/-- R233: the end of a token: its context, and with MSK its record, written to position block `j`; a poisoned context's block outside the
scratch is not written (log 89). -/
def endToken (a : ARun) (j : Nat) (c : ACtx) (t : ATok) (st : ASt) : ASt :=
  let b := a.row.apbOff + 256 * j
  let ovf := if t.eovf then { st.tile with auEditOvf := BitVec.ofNat 16 (satAdd st.tile.auEditOvf.toNat 1 16) } else st.tile
  if !inScratch b 256 then (if c.pz then { st with tile := ovf } else { st with fault := some (0x3b, 0) })
  else
    let m1 := memWrite st.mem (a.base + b + 16 * a.aut) (taggedBytes (ctxWords c) c.pz)
    if a.msk then
      match tokenRecord m1 a.base a.hdr a.row a.mset (a.row.pos + j) c t with
      | .error f => { st with mem := m1, fault := some (f, 0) }
      | .ok (ws, pz, rd) =>
        { noteReads a.base rd { st with mem := m1 } with
          mem := memWrite m1 (a.base + b + 128) (taggedBytes ws pz), tile := ovf }
    else { st with mem := m1, tile := ovf }

/-- R233: the symbols of a row from symbol `k` on, `n` of them; `j` tokens have ended. -/
def rowSymbols (a : ARun) : Nat → Nat → Nat → ACtx → ATok → ASt → ASt
  | 0, _, _, _, _, st => st
  | n + 1, k, j, c, t, st =>
    match st.fault with
    | some _ => st
    | none =>
      let y := symAt st.mem a.base a.row a.pkt k
      let z := if y.fault.isSome then y else symValue st.mem a.base a.hdr a.row k a.lastEnd y
      let st0 := noteReads a.base z.rd st
      match (if z.fault.isNone ∧ a.badState then some 0x3a else z.fault) with
      | some f => { st0 with fault := some (f, 0) }
      | none =>
        let s := autoStep st.mem a.base a.hdr
          { ctx := { c with pz := c.pz || z.pz }, tok := t, evs := [], fault := none, rd := [] } z.bits
        let st1 := emitEvents a.elim a.r a.aut (a.row.pos + j) s.evs
          { noteReads a.base s.rd st0 with
            pz := st.pz || s.ctx.pz,
            tile := { st.tile with auSymbols := BitVec.ofNat 32 (satAdd st.tile.auSymbols.toNat 1 32) } }
        match s.fault with
        | some f => { st1 with fault := some (f, 0) }
        | none =>
          if a.hdr.alph || decide (y.bits / 2 ^ 8 % 2 = 1) then
            rowSymbols a n (k + 1) (j + 1) s.ctx ATok.fresh (endToken a (j + 1) s.ctx s.tok st1)
          else rowSymbols a n (k + 1) j s.ctx s.tok st1

/-- R237: one past the index of the last symbol with END, 0 for none; a poisoned symbol may carry END (log 89). -/
def lastEndOf (m : Mem) (base : Nat) (e : ARow) (pkt : Option (List QWord)) : Nat :=
  (List.range e.nsym).foldl
    (fun l k => let y := symAt m base e pkt k; if y.pz || y.bits / 2 ^ 8 % 2 == 1 then k + 1 else l) 0

/-- R233, R237: one row with its symbols at hand. A START of 0 reads position block 0, which lies whole in the scratch; where poison names
one outside it, the context is 0 with poison (log 89). -/
def rowRun (a : ARun) (st : ASt) : ASt :=
  let off := a.row.apbOff + 16 * a.aut
  let p0 := a.hdr.pz || a.row.pz
  if a.row.start then
    rowSymbols a a.row.nsym 0 0 { state := a.hdr.start, flags := 0, cnt := [0, 0, 0, 0], pz := p0 } ATok.fresh st
  else if !inScratch a.row.apbOff 256 then
    if p0 then rowSymbols a a.row.nsym 0 0 { state := 0, flags := 0, cnt := [0, 0, 0, 0], pz := true } ATok.fresh st
    else { st with fault := some (0x3b, 0) }
  else
    let bad := memAnyPz st.mem (a.base + off) 16
    let c := ctxOf (memWord st.mem (a.base + off)) (memWord st.mem (a.base + off + 8)) (p0 || bad)
    rowSymbols { a with badState := !c.pz && decide (a.hdr.nstates ≤ c.state) } a.row.nsym 0 0 c ATok.fresh
      (noteReads a.base [(off, 16)] st)

/-- R232, R233, R237: row `r` of an ASTEP. A row entry read with poison is not checked; with no packet at hand it then steps nothing
(log 89). -/
def astepRow (a : ARun) (src : Bool) (st : ASt) : ASt :=
  let n := a.row.nsym
  if a.row.resv && !a.row.pz then { st with fault := some (0x39, 0) }
  else if n = 0 then st
  else if src then
    match qTake (tileQ st.tile qLdAu) with
    | none => if a.row.pz then st else { st with fault := some (0x01, qLdAu) }
    | some (p, q) =>
      let st1 := { st with tile := setQ st.tile qLdAu q }
      let z := p.words.getLastD { lanes := [], pz := false }
      let odd := n % 2 = 1 ∧ !z.pz ∧ 2 ^ 32 ≤ (z.lanes.headD 0).toNat
      if !a.row.pz ∧ (p.words.length ≠ (n + 1) / 2 ∨ odd) then { st1 with fault := some (0x39, 0) }
      else rowRun { a with pkt := some p.words, lastEnd := lastEndOf st.mem a.base a.row (some p.words) } st1
  else rowRun { a with lastEnd := lastEndOf st.mem a.base a.row none } st

/-- R233: the rows of an ASTEP in ascending order, until one faults. -/
def astepRows (a : ARun) (src : Bool) : List ARow → Nat → ASt → ASt
  | [], _, st => st
  | e :: es, r, st =>
    match st.fault with
    | some _ => st
    | none => astepRows a src es (r + 1) (astepRow { a with row := e, r := r } src st)

/-- ASTEP (R232 to R237). What it computes through a poisoned a-register is poisoned, and the terminal word is where any step went through
poison (R71). -/
def bodyAstep : Body := checked (mask 47 23) fun e _ w tl =>
  let ha := (aGet tl (aReg w 44)).bits.toNat
  let ra := (aGet tl (aReg w 40)).bits.toNat
  let aut := fld w 37 3
  let rows := fld w 31 6 + 1
  let msk := bit w 30
  let src := bit w 23
  let base := scratchBase e.tile
  let tag := e.pz || (aGet tl (aReg w 44)).pz || (aGet tl (aReg w 40)).pz
  let h := hdrOf (memWords e.mem (base + ha) 8) (memAnyPz e.mem (base + ha) 64 || tag)
  let es := tab rows fun r => rowOf h src (memWords e.mem (base + ra + 32 * r) 4) (memAnyPz e.mem (base + ra + 32 * r) 32 || tag)
  if ha % 64 ≠ 0 ∨ ra % 32 ≠ 0 then iresFault e tl 0x12
  else if !inScratch ha 64 ∨ !inScratch ra (32 * rows) then iresFault e tl 0x3b
  else
    let r0 := iresRead e (iresDone e tl) [(ha, 64), (ra, 32 * rows)]
    if !h.pz ∧ (!h.ok ∨ (msk && !h.mrole)) then { r0 with fault := some (0x38, 0) }
    else if es.any fun x => !x.pz && (x.symOff % 4 != 0 || x.apbOff % 64 != 0 || x.clsOff % 64 != 0) then { r0 with fault := some (0x12, 0) }
    else
      let a : ARun := { base := base, hdr := h, row := es.headD (rowOf h src [] false), r := 0, aut := aut, elim := fld w 24 6,
                        msk := msk, mset := tl.mset.toNat, pkt := none, lastEnd := 0, badState := false }
      let st := astepRows a src es 0
        { mem := e.mem, tile := tl, ue := 0, reads := [], fault := none, emitted := 0, dropped := 0, overran := 0,
          pz := h.pz || es.any (·.pz) }
      let p := qPutWord qAuSq (tileQ st.tile qAuSq) { lanes := [terminalWord aut st.emitted st.dropped], pz := st.pz }
      let last := if st.fault.isSome then (st.tile, st.overran) else (setQ st.tile qAuSq p.1, st.overran + b2n p.2)
      let r : IRes :=
        { r0 with mem := st.mem, tile := last.1, ue := r0.ue ++ [(e.tile, st.ue)], reads := r0.reads ++ st.reads,
                  overran := List.replicate last.2 qAuSq }
      match st.fault with
      | none => r
      | some f => iresLate r f.1 f.2

end Sys2Proof.Machine
end

