-- ==== Sys2Proof/Machine/XfBody.lean ====
section
/-! DEFINITION. What SEND and RECV do at issue (spec/04_oczin_isa.md R122 to R126). -/

namespace Sys2Proof.Machine

/-- R123: the far end and the channel of the instruction word; SCALE stands at bit `sc`. -/
def chanOf (w : W64) (sc : Nat) : Chan :=
  { block := BitVec.ofNat 16 (fld w 32 16), tile := BitVec.ofNat 10 (fld w 22 10), chan := BitVec.ofNat 4 (fld w 18 4)
    scale := bit w sc, isLocal := bit w 17 }

/-- A number for a channel stream and its direction, the key under which a tile counts its items (R354 XID). -/
def chanKey (c : Chan) (send : Bool) : Nat :=
  ((c.block.toNat * 1024 + c.tile.toNat) * 16 + c.chan.toNat) * 8 + b2n c.scale * 4 + b2n c.isLocal * 2 + b2n send

/-- R354: the XID of the next item of a stream, and the tile that has counted it. -/
def takeXid (tl : Tile) (k : Nat) : Nat × Tile :=
  (smGet 0 tl.xids k, { tl with xids := smSet 0 tl.xids k (smGet 0 tl.xids k + 1) })

/-- R125: the destination of a SEND is one the block can send to. -/
def sendTo (e : Env) (c : Chan) : Bool :=
  if c.isLocal then tileNamed c.tile.toNat && e.enabled c.tile.toNat
  else c.block.toNat != e.ownAddr && e.member c.block.toNat

/-- SEND (R124, R125): the packet is taken at issue. Its checks in the order 0x11, 0x1a, 0x01, 0x11 for the blocks (DESIGN CHOICE, log 133). -/
def bodySend : Body := checked (mask 47 1) fun e _ w tl =>
  let c := chanOf w 1
  let coded := bit w 16
  let width := fld w 14 2
  let table := fld w 2 12
  if width = 3 ∨ (coded && (c.isLocal || c.scale)) ∨ (c.isLocal && c.block != 0) ∨ (!coded && table != 0) then iresFault e tl 0x11
  else if !sendTo e c then iresFault e tl 0x1a
  else
    match qTake (tileQ tl qVxXf) with
    | none => iresUnderrun e tl qVxXf
    | some (p, q) =>
      if coded && (256 * p.words.length % blockBytes width != 0 || p.words.isEmpty) then iresFault e tl 0x11
      else
        let x := takeXid (setQ tl qVxXf q) (chanKey c true)
        { iresDone e x.2 with pend := .send c coded width table p.words x.1 0 }

/-- RECV (R126): the item is taken at completion. -/
def bodyRecv : Body := checked (mask 47 9) fun e _ w tl =>
  let c := chanOf w 9
  let n := fld w 10 4
  if fld w 14 2 = 3 ∨ n = 0 ∨ (c.isLocal && c.block != 0) then iresFault e tl 0x11
  else
    let x := takeXid tl (chanKey c false)
    { iresDone e x.2 with pend := .recv c (bit w 16) (fld w 14 2) n x.1 tl.turn }

end Sys2Proof.Machine
end

