-- ==== Sys2Proof/Machine/Slots.lean ====
section
/-! DEFINITION. The state of the request table (spec/09), of resident images (spec/10 R295, spec/16 R452 to R454) and of the jobs of a
half's plan sequencer (spec/10 R285 to R293, spec/15 R410). -/

namespace Sys2Proof.Machine

/-- STATE of a slot (R243). -/
inductive SlotSt where
  | free
  | admitting
  | prompt
  | ready
  | generating
  | paused
  | lost
  | resigned
  | done
  | failed
  deriving DecidableEq, Repr

/-- The number of a slot state in the record (R243). -/
def slotStNum : SlotSt → Nat
  | .free => 0
  | .admitting => 1
  | .prompt => 2
  | .ready => 3
  | .generating => 4
  | .paused => 5
  | .lost => 6
  | .resigned => 7
  | .done => 8
  | .failed => 9

/-- R243: the ended states. -/
def slotEnded : SlotSt → Bool
  | .resigned => true
  | .done => true
  | .failed => true
  | _ => false

/-- R243: live is every state but FREE and the ended ones. -/
def slotLive (x : SlotSt) : Bool := x != .free && !slotEnded x

/-- The fields of a slot record (R242), words 0 to 17. -/
structure SlotRec where
  st : SlotSt
  sub : BitVec 3
  prio : BitVec 3
  plag : BitVec 4
  omode : Bool
  masks : Bool
  tenant : BitVec 16
  sgen : Byte
  errs : BitVec 2
  dlv : Bool
  epoch : BitVec 16
  commit : Nat
  head : Nat
  ring : BitVec 16
  deadline : W32
  oseq : W32
  pages : List Nat
  ext : Nat
  hix : BitVec 16
  toksum : W32
  expiry : W32
  ctag : W64
  scale : List W64
  deriving DecidableEq, Repr

/-- A verdict record of R271 without its owner word: KIND, TERM, REASON, POS, TURN, DUE, the verdict and its scores. -/
structure VRec where
  kind : Nat
  term : Bool
  reason : Nat
  pos : Nat
  turn : W32
  due : W32
  verdict : Nat
  nscore : Nat
  lo : Nat
  hi : Nat
  scores : List W32
  deriving DecidableEq, Repr

/-- What a pause keeps to compare and restore (R265, R267): COMMIT, OSEQ and TOKSUM at its completion, TTL and RETAIN; the offset of the
returned image; whether IMAGE_WAIT has been sent for the transfer; whether a returned image is being fetched; the buffers of a written image
whose first is not handed over yet (R335). -/
structure PauseKeep where
  commit : Nat
  oseq : W32
  toksum : W32
  ttl : Nat
  retain : Bool
  imgOff : Nat
  ioWait : Bool
  fetch : Bool
  chain : List Nat
  deriving DecidableEq, Repr

/-- A mask record owed to a request (R227, R228): the head `pos` that it names, whether a TAKEBACK made it (`back`), and the address of its block
where the page list of the request holds that position no longer. -/
structure OwedMask where
  pos : Nat
  back : Bool
  addr : Option Nat
  deriving DecidableEq, Repr

/-- A job whose kernels with rows of a request have ended (R410): its number, its rows' positions [first, past), first that is F, whether
it ran in the mask lane, and the turn of its plan. -/
structure Ran where
  num : Nat
  first : Nat
  past : Nat
  mask : Bool
  turn : W32
  deriving DecidableEq, Repr

/-- The work of a slot's request that its record does not hold: the image it was admitted under; the prompt run [runFrom, runTo) with its turn and
promise; the FINAL position; the first position not yet screened; the first whose verdict is not yet computed; the first not yet published; the
turns in which positions count as produced, as (first position past them, turn); the steady reservation and the prompt tokens reserved by plan
(R297); positions excused (R291), and the position past the last that a cut deferred (R293); the copied ring descriptor (R327); held messages
(R267); the terminal record not yet published; what the pause keeps; the rebuild's NOLD; the commit at the last close (R156); whether a wait of
R274 has begun; whether a detection holds publication back until the replay (R411); pages whose references drop at the next close (R248), and the
page list that has left before the close, with the position up to which it serves (R156, R265); the mask records owed, and the first position whose
mask block is not written (R227); the first position whose E_USED is not set (R155, R293); the first output position (R272); the token words of
positions 0 to HEAD - 1 (R263, R270); the scale record at earlier closes by committed length (R263); the request whose coming turn close gives its
scale record, for one admitted from a handle that waits for it (R263, R264), and the request whose image is still being fetched into the pages of
that handle (R265); the scale record that its coming close gives to waiting handles after a rebuild has begun afresh (R263); the jobs that have run
for it (R410). -/
structure SlotWork where
  image : Nat
  runFrom : Nat
  runTo : Nat
  runTurn : W32
  runP : Nat
  runOpen : Bool
  runEnd : W32
  final : Option Nat
  screened : Nat
  computed : Nat
  published : Nat
  prod : List (Nat × W32)
  steady : Bool
  plans : List (W32 × Nat)
  excused : List (Nat × Nat)
  deferred : Nat
  ringBase : Nat
  ringCount : Nat
  held : List Msg
  term : Option VRec
  pause : PauseKeep
  rebuild : Option Nat
  closed : Nat
  wait : Bool
  blocked : Bool
  unused : List Nat
  away : List Nat
  awayTo : Nat
  maskPos : List OwedMask
  masked : Nat
  entered : Nat
  firstOut : Nat
  toks : List W32
  hist : List (Nat × List W64)
  scaleFrom : Option (Nat × Byte)
  fillFrom : Option (Nat × Byte)
  owedScale : Option (List W64)
  ran : List Ran
  deriving DecidableEq, Repr

/-- A slot: its record and its work. -/
structure Slot where
  r : SlotRec
  w : SlotWork
  deriving DecidableEq, Repr

/-- A FREE slot's record after reset (R242; every word 0). -/
def SlotRec.free : SlotRec :=
  { st := .free, sub := 0, prio := 0, plag := 0, omode := false, masks := false, tenant := 0, sgen := 0, errs := 0, dlv := false,
    epoch := 0, commit := 0, head := 0, ring := 0, deadline := 0, oseq := 0, pages := List.replicate 8 0, ext := 0, hix := 0,
    toksum := 0, expiry := 0, ctag := 0, scale := List.replicate 8 0 }

/-- No work. -/
def SlotWork.none : SlotWork :=
  { image := 0, runFrom := 0, runTo := 0, runTurn := 0, runP := 0, runOpen := false, runEnd := 0, final := Option.none, screened := 0,
    computed := 0, published := 0, prod := [], steady := false, plans := [], excused := [], deferred := 0, ringBase := 0,
    ringCount := 0, held := [], term := Option.none,
    pause := { commit := 0, oseq := 0, toksum := 0, ttl := 0, retain := false, imgOff := 0, ioWait := false, fetch := false, chain := [] },
    rebuild := Option.none, closed := 0, wait := false, blocked := false, unused := [], away := [], awayTo := 0, maskPos := [], masked := 0, entered := 0, firstOut := 0, toks := []
    hist := [], scaleFrom := Option.none, fillFrom := Option.none, owedScale := Option.none, ran := [] }

/-- A FREE slot. -/
def Slot.free : Slot := { r := SlotRec.free, w := SlotWork.none }

/-- An entry of a half's prefix-handle table (R262), its page list with the extension page of R246, with the image it was marked under (R454), the
token words and earlier scale records of its positions, the request whose coming turn close gives its scale record (R263), and the request whose
image is still being fetched into its pages (R265). -/
structure Handle where
  tenant : BitVec 16
  value : W32
  len : Nat
  pages : List Nat
  ext : Nat
  scale : List W64
  toksum : W32
  expiry : W32
  image : Nat
  toks : List W32
  hist : List (Nat × List W64)
  source : Option (Nat × Byte)
  filling : Option (Nat × Byte)
  deriving DecidableEq, Repr

/-- A class entry of an admission record (R295). -/
structure ClassEnt where
  rowsMax : Nat
  cls : Byte
  tc : Nat
  mb : Nat
  deriving DecidableEq, Repr

/-- A resident tenant image (R452, R453): where its bytes lie in a staging store, its admission record (R295), what the block takes
from the rest (log 7), its mask set with its units and table entry (R332), whether new ADMITs reach it, whether its first plan start
has come, and the stack ranges of its segments (R407). -/
structure Image where
  tenant : BitVec 16
  base : Nat
  len : Nat
  plag : BitVec 4
  rate : Nat
  pmax : Nat
  maskc : Nat
  classes : List ClassEnt
  omode : Bool
  masks : Bool
  mset : BitVec 16
  msUnit : Nat
  msCount : Nat
  msEntry : Nat
  tqds : List W64
  values : List (Nat × Nat)
  kernels : List Nat
  segs : List (Nat × Nat)
  admits : Bool
  serves : Bool
  retiring : Bool
  deriving DecidableEq, Repr

/-- The rows of one request in a job (R410): positions F to past - 1. Results at `upto` and above are discarded (R258). -/
structure Row where
  slot : Nat
  sgen : Byte
  first : Nat
  past : Nat
  upto : Nat
  deriving DecidableEq, Repr

/-- A job (R410): its number, tile, image and lane, its rows, whether its kernel is the verdict kernel or holds remote transfers, the
kernel and arguments it dispatches, when it was dispatched, whether its results are discarded (R258, R259, R411), whether its tile is
flushed at the kernel boundary, the error entry a replay belongs to (R412), the stack bytes it has moved (R372), whether its mask
work is past the priced load (R293), the published cells a replay is compared with (R277), and the slots whose rows it lost while it ran
(R255, R259). -/
structure Job where
  num : Nat
  half : Half
  tile : Nat
  tenant : BitVec 16
  image : Nat
  lane : Sys2Proof.Lane
  rows : List Row
  kernel : BitVec 16
  fixed : Option Byte
  args : List W32
  verdict : Bool
  turn : W32
  since : Nat
  dead : Bool
  entry : Option W32
  bytes : Nat
  excess : Bool
  snap : List (Nat × Nat × List W64)
  held : List Nat
  deriving DecidableEq, Repr

/-- The positions of a row whose results count: below `past` and below `upto` (R258). -/
def rowEnd (r : Row) : Nat := min r.past r.upto

/-- A tenant's batch for one image in the running plan (R286, R454), a job with its number (R410). -/
structure Batch where
  num : Nat
  tenant : BitVec 16
  image : Nat
  rows : List Row
  deriving DecidableEq, Repr

/-- A running plan (R285): its turn and mark time, the kernels still to dispatch (with the image of their
batch once cut), the tenants already cut and their batches. -/
structure PlanRun where
  turn : W32
  marked : Nat
  left : List (PlanKernel × Option Nat)
  cut : List (BitVec 16)
  batches : List Batch
  deriving DecidableEq, Repr

end Sys2Proof.Machine
end

