-- ==== Sys2Proof/Machine/Units.lean ====
section
/-! DEFINITION. The state of the block's units around the tiles and the request table: turns and modes (spec/10 R312), window
and ports (spec/11 R337, spec/12 R348), plan groups and exchanges (spec/13 R375), clocks and power (spec/14 R405), errors (spec/15
R434) and start-up (spec/16 R456). -/

namespace Sys2Proof.Machine

/-- An EVENT (R333) and the half to whose ring it goes: CODE, the request it names, and EXTRA. -/
structure Ev where
  half : Half
  code : BitVec 16
  slot : Option Nat
  extra : W64
  deriving DecidableEq, Repr

/-- A closed mask bulletin (R329, R330): its sequence number, its records of 128 bytes with the slot of each, and for a POISON bulletin
what it replaces. -/
structure Bulletin where
  seq : W32
  recs : List (Nat × List PByte)
  poison : Option W64
  deriving DecidableEq, Repr

/-- An exchange item as its header names it (R354), with its body. -/
structure Item where
  kind : Nat
  dst : BitVec 16
  src : BitVec 16
  group : BitVec 16
  dtile : BitVec 10
  stile : BitVec 10
  chan : BitVec 4
  scale : Bool
  coded : Bool
  width : Nat
  words : Nat
  xid : Nat
  replay : Nat
  turn : W32
  size : Nat
  pz : Bool
  reason : Nat
  body : List PByte
  deriving DecidableEq, Repr

/-- A decoded block: its bytes and its poison. -/
abbrev BlockData := List Byte × Bool

/-- A packet in the retransmit store (R355): the tile and stream of its SEND, its XID and turn, the packet, how it is coded, the SEQ of
its first block (R361), its replays, whether it still waits for an OUT slot, and its words with one flipped bit (R406). -/
structure Kept where
  tile : BitVec 10
  chan : Chan
  xid : Nat
  turn : W32
  coded : Bool
  width : Nat
  table : Nat
  gen : Option Nat
  words : List QWord
  seq : Nat
  replay : Nat
  waiting : Bool
  ce : Nat
  deriving DecidableEq, Repr

/-- An item in a receive log (R356): its stream (source block, source tile, destination tile, channel, SCALE), TURN, XID and
packet, whether it was committed poisoned (R357), and its words with one flipped bit (R406). -/
structure LogItem where
  src : BitVec 16
  stile : BitVec 10
  dtile : BitVec 10
  chan : BitVec 4
  scale : Bool
  turn : W32
  xid : Nat
  words : List QWord
  pz : Bool
  ce : Nat
  deriving DecidableEq, Repr

/-- A coded DATA item or a SCALE item held until the other of its pair arrives (R365), with the SEQ of each block. -/
structure HeldItem where
  item : Item
  words : List QWord
  seqs : List Nat
  deriving DecidableEq, Repr

/-- What belongs to one half: its request-table registers (R279), page reference counts (R248), handle table (R262), plan sequencer (R285, R301,
R410), bulletins (R329), events (R333), exchange (R355, R356), the longest wait of a remote RECV in the running plan (R375), and whether a
HALF-class error has stopped it (R424). -/
structure HalfState where
  pageBase : W32
  pageCount : BitVec 24
  refs : SMap (BitVec 16)
  handles : SMap (Option Handle)
  unused : List Nat
  selSlot : BitVec 16
  selData : List W64
  run : Option PlanRun
  waiting : List (W32 × Nat)
  planLess : List W32
  maskLoad : SMap Nat
  acc : SMap Nat
  lag : Nat
  catchup : Bool
  lastTurn : W32
  prevTurn : W32
  jobs : List Job
  maskJobs : List Job
  replayJobs : List Job
  nextJob : Nat
  stopped : Bool
  bullSeq : W32
  bullOpen : List (Nat × List PByte)
  bullSince : Nat
  bullWait : List Bulletin
  bullPz : List Nat
  eseq : W32
  evDropped : Nat
  outNext : Nat
  outWait : Bool
  kept : List Kept
  outQueue : List Item
  log : List LogItem
  pairs : List HeldItem
  naks : List (Item × Nat)
  seqs : SMap Nat
  seqLog : List (Nat × W32 × Nat × Nat)
  waitRun : Nat
  deriving DecidableEq, Repr

/-- The turns: R281 to R284, R296 and the counters of R312; `stallAt` is the instant at which the 4 s of R283 end. -/
structure Turns where
  cur : W32
  seen : Bool
  last : W32
  lastTime : Nat
  spacings : List Nat
  stalled : Bool
  plan : W32
  nom : W32
  margin : Byte
  merged : BitVec 16
  skipped : BitVec 16
  stalls : BitVec 16
  badMark : BitVec 16
  missed : W32
  latePlans : BitVec 16
  excess : BitVec 16
  excused : W32
  lateTokens : W32
  missSent : List (BitVec 16)
  excessSent : List (BitVec 16 × W32)
  stallAt : Nat
  deriving DecidableEq, Repr

/-- Power modes: MODE_CTL as written and in force, MODE_STAT, the thermal account in units of 200 ns of Boxcars time, and the wear
account (R303 to R310). -/
structure Modes where
  atTurn : W32
  box : BitVec 2
  base : BitVec 2
  boxNow : BitVec 2
  baseNow : BitVec 2
  boxing : Bool
  hot : Bool
  recovering : Bool
  thermal : Nat
  usedUs : Nat
  wearBase : W32
  deriving DecidableEq, Repr

/-- One timebase input (R378, R383, R384) with its last 64 good start-of-frame blocks (R379). -/
structure Tb where
  blockLock : Bool
  frameLock : Bool
  elig : Bool
  goodwin : Nat
  watchRun : Nat
  badsof : BitVec 16
  losses : BitVec 16
  hist : List (Nat × W64)
  deriving DecidableEq, Repr

/-- A management access or packet that waits (R387, R315, R346): for a packet that has been received, the turn in which it was. -/
structure Held where
  cmd : Instr
  turn : Option W32
  deriving DecidableEq, Repr

/-- Clocks (R381 to R389). `src` is CLK_STAT.SRC; `relock` is the instant at which a relock in progress ends, and `relockAll`
says that it stops every domain (R388); `catching` says that the new input in use has not yet given a frame that follows the last one of the old
input (R379); `evs` are the events, `held` the management accesses and packets that wait for the restart (R404, R387, R315). -/
structure Clocks where
  src : BitVec 2
  losc : Bool
  loscWatch : Bool
  loscFails : Nat
  relock : Option Nat
  relockAll : Bool
  fallbacks : BitVec 16
  holds : BitVec 16
  relocks : BitVec 16
  manual : Bool
  returnReq : Bool
  auto : BitVec 11
  inUse : TbIn
  revert : Bool
  pref : Bool
  lastFcnt : Option Byte
  catching : Bool
  catchMarks : List (Nat × W64)
  fallbackAt : Nat
  chosenAt : Option Nat
  holdAt : Nat
  evs : List Ev
  held : List Held
  deriving DecidableEq, Repr

/-- Discrete inputs (R400 to R402). `bells` holds the doorbells kept during a halt: the ring, its PI and the turn in which it rang. -/
structure Pins where
  resetN : Bool
  pwrOk : Bool
  haltReq : Bool
  stuck : Bool
  glitchRst : BitVec 16
  glitchPwr : BitVec 16
  glitchHalt : BitVec 16
  bells : List (Nat × W32 × W32)
  deriving DecidableEq, Repr

/-- What a running gate command waits for (R395, R396). -/
inductive GateWait where
  | idle
  | close (thenOff : Bool)
  | rail
  | clocks
  deriving DecidableEq, Repr

/-- Power input, domains and gate command (R393 to R396, R405). `samples` numbers the free measurements. -/
structure Power where
  vin : BitVec 16
  iin : BitVec 16
  pin : BitVec 16
  peak : BitVec 16
  samples : Nat
  skew : BitVec 16
  on : BitVec 36
  clk : BitVec 36
  fault : BitVec 36
  gateResult : BitVec 2
  gateDomain : BitVec 6
  gateOp : BitVec 2
  gateCycles : BitVec 13
  gateWait : GateWait
  temps : SMap (BitVec 16)
  deriving DecidableEq, Repr

/-- The calibration user offsets (R397, R405), and the offsets in effect where they take effect later than their write (R398). -/
structure Cal where
  osc : BitVec 16
  vf : SMap Byte
  therm : SMap Byte
  deskew : SMap Byte
  vfNow : SMap Byte
  deskewNow : SMap Byte
  deriving DecidableEq, Repr

/-- The factory fuse banks (R52, R53, R57, R58, R397, R441). -/
structure Fuse where
  valid : Bool
  maskSet : BitVec 4
  metal : BitVec 4
  serial : W64
  bin : BitVec 2
  enTotal : BitVec 10
  enB : BitVec 9
  enA : BitVec 9
  map : List (BitVec 24)
  oscB : BitVec 16
  vfUp : Byte
  vfDn : Byte
  thB : Byte
  dkB : Byte
  oscFact : BitVec 16
  vf : List (BitVec 24)
  therm : List Byte
  deskew : List W32
  keyHash : BitVec 384
  deriving DecidableEq, Repr

/-- The state of a memory port (R345, R348). -/
inductive PortSt where
  | off
  | training
  | up
  | failed
  deriving DecidableEq, Repr

/-- A memory port (R345, R346, R348); `retrain` says that it trains again after having been UP. -/
structure MemPort where
  st : PortSt
  retrain : Bool
  pg : Bool
  cause : BitVec 4
  repaired : Byte
  retrains : Byte
  poisonRd : BitVec 16
  retries : BitVec 16
  deriving DecidableEq, Repr

/-- A memory port after reset (R348). -/
def MemPort.off : MemPort :=
  { st := .off, retrain := false, pg := false, cause := 0, repaired := 0, retrains := 0, poisonRd := 0, retries := 0 }

/-- A host port (R314, R337). -/
structure HostPort where
  trained : Bool
  repaired : BitVec 7
  downs : Byte
  badpkt : BitVec 16
  badwr : BitVec 16
  retries : BitVec 16
  deriving DecidableEq, Repr

/-- A host port after reset (R337). -/
def HostPort.off : HostPort := { trained := false, repaired := 0, downs := 0, badpkt := 0, badwr := 0, retries := 0 }

/-- A Wozan packet the block sends (R316): port, header words, payload. -/
structure Packet where
  port : Nat
  w0 : W64
  w1 : W64
  data : List W64
  deriving DecidableEq, Repr

/-- The notices of one kind and key (R319): what is pending, and the start of the running interval. -/
structure Notice where
  key : NoticeKey
  last : W32
  pending : Bool
  deriving DecidableEq, Repr

/-- The shared window (R320 to R337): registers, the directory copied at seal, submission indices and notices. -/
structure Win where
  base : BitVec 25
  size : BitVec 21
  dir : BitVec 36
  noticeUs : BitVec 4
  nport : BitVec 2
  hclkS : BitVec 3
  hclkE : BitVec 3
  hclkB : BitVec 3
  early : BitVec 16
  poisoned : BitVec 16
  lost : BitVec 16
  baddb : BitVec 16
  ci : SMap W32
  copy : List W64
  notices : List Notice
  imgNext : Nat
  deriving DecidableEq, Repr

/-- A route map (R368): its epoch and its entries by tenant. -/
structure RouteMap where
  epoch : BitVec 16
  ents : List W64
  deriving DecidableEq, Repr

/-- A generation of a code table (R366): its STATES value, the turn from which it is CURRENT or the turn that retires it, its lengths. -/
structure CodeGen where
  st : Nat
  turn : W32
  lens : List Nat
  deriving DecidableEq, Repr

/-- A code table (R362, R366). -/
structure CodeTable where
  width : Nat
  cur : Nat
  gens : List CodeGen
  deriving DecidableEq, Repr

/-- A table without content. -/
def CodeTable.empty : CodeTable := { width := 0, cur := 0, gens := List.replicate 4 { st := 0, turn := 0, lens := [] } }

/-- A channel stream between two tiles of the block: source, destination, CHAN, SCALE, and the items its receiver holds (R125). -/
structure LocalBuf where
  src : Nat
  dst : Nat
  chan : BitVec 4
  scale : Bool
  items : List (List QWord)
  deriving DecidableEq, Repr

/-- Plan groups, exchanges, route maps, code tables and meters (R375). `old` is the plan-group plan before the one in force, which a half runs
until it starts its plan START (R351); `waitEnds` holds the longest wait of each plan that one half has completed and the other has not. -/
structure Group where
  plan : Option PlanDef
  member : BitVec 9
  old : Option PlanDef
  next : Option PlanDef
  timeout : Byte
  absent : BitVec 512
  areaLog2 : BitVec 4
  areaBase : BitVec 20
  logSize : BitVec 16
  logBase : BitVec 14
  replays : BitVec 16
  poisoned : BitVec 16
  timeouts : BitVec 16
  stale : BitVec 16
  baditem : BitVec 16
  dup : BitVec 16
  waitMax : W32
  waitEnds : List (W32 × Nat)
  oldMap : Option RouteMap
  newMap : Option RouteMap
  routeResult : BitVec 2
  mismatch : BitVec 16
  routeLoad : Option (BitVec 16 × BitVec 36)
  codes : SMap CodeTable
  codeStat : W64
  codeSel : BitVec 12
  codeData : List W64
  acts : List (Nat × Nat × W32)
  meters : SMap Nat
  meterSel : BitVec 12
  meterData : List W64
  lastClose : W32
  chans : List LocalBuf
  deriving DecidableEq, Repr

/-- CLASS of a log entry (R431). -/
inductive ErrClass where
  | corrected
  | request
  | tenant
  | half
  | block
  deriving DecidableEq, Repr

/-- STEP of a log entry (R411, R431). -/
inductive ErrStep where
  | queued
  | attributed
  | abandoned
  | replaying
  | published
  | escalated
  | done
  | superseded
  deriving DecidableEq, Repr

/-- A log entry (R431), with the attributed requests (slot, SGEN) and its job's number. -/
structure ErrEntry where
  src : Byte
  cls : ErrClass
  step : ErrStep
  half : Half
  nest : Bool
  fault : Byte
  turn : W32
  tenant : BitVec 16
  slot : BitVec 16
  sgen : Byte
  pos : BitVec 24
  addr : W48
  unit : BitVec 16
  lseq : W32
  parent : W32
  count : BitVec 16
  failed : BitVec 16
  merged : BitVec 16
  job : Option Nat
  chain : W32
  reqs : List (Nat × Byte)
  deriving DecidableEq, Repr

/-- The error manager (R407 to R434). -/
structure Errs where
  log : List ErrEntry
  next : W32
  chained : W32
  lastChain : W32
  handling : Option W32
  request : BitVec 16
  failed : BitVec 16
  tenant : Byte
  half : BitVec 4
  block : Bool
  corrected : BitVec 16
  nmi : BitVec 4
  ceStage : W32
  ceCtrl : W32
  overwritten : BitVec 16
  sel : W32
  data : List W64
  deriving DecidableEq, Repr

/-- PHASE of the start-up sequencer (R435). -/
inductive Phase where
  | reset
  | power
  | fuse
  | clock
  | domains
  | links
  | selftest
  | fwWait
  | fwAuth
  | sealWait
  | sealCheck
  | ready
  | shut
  | stopped
  deriving DecidableEq, Repr

/-- What the steward firmware is doing (R451): nothing, a load whose image or plan is not read yet, or a command with its RESULT and
DETAIL decided, its image by index where it loaded one. -/
inductive StwWork where
  | idle
  | load (op : Nat) (tenant : BitVec 16)
  | result (res : Nat) (detail : W32) (image : Option Nat)
  deriving DecidableEq, Repr

/-- Start-up, M-chain and steward commands (R435 to R456). `off` says that no step of the block runs (R390); `counting` and `since` are the running
SU_TIME, `closing` a shutdown under way, `quiet` its end of all writes to the window, `lastWr` the M-chain write remembered for a repeat, `fwd` and
`own` the frames waiting to leave, `sent` those that left. -/
structure Startup where
  phase : Phase
  off : Bool
  code : Byte
  sealed : Bool
  elapsed : W32
  counting : Bool
  since : Nat
  closing : Bool
  quiet : Bool
  fwResult : BitVec 2
  fwCause : BitVec 3
  fwVer : BitVec 16
  fwTries : BitVec 16
  fwLen : BitVec 24
  stewMem : List PByte
  running : Bool
  seated : Bool
  addr : BitVec 16
  badcrc : BitVec 16
  dropped : BitVec 16
  refused : BitVec 16
  nmiSent : BitVec 16
  lastWr : Option (BitVec 16 × W64 × W64)
  fwd : List Frame
  own : List Frame
  sent : List Frame
  bist : W64
  stwLen : BitVec 24
  stwOff : BitVec 36
  stwResult : BitVec 4
  stwOp : BitVec 4
  stwTenant : BitVec 16
  stwDetail : W32
  stw : StwWork
  deriving DecidableEq, Repr

end Sys2Proof.Machine
end

