-- ==== Sys2Proof/Machine/State.lean ====
section
/-! DEFINITION. The state of the block, as plain data, and the state right after reset. -/

namespace Sys2Proof.Machine

/-- Why a run stops. -/
inductive Fault where
  /-- Raised by the commands of a tile whose ID names no tile (R40): there is no engine to run the instruction. Safe: the machine stops. -/
  | noSuchTile (t : BitVec 10)
  deriving DecidableEq, Repr

/-- Why a command has no meaning. -/
inductive Refusal where
  /-- Raised by an arm of `exec` that is not modelled. Safe: the machine stops. -/
  | notModelled (mnemonic : String)
  deriving DecidableEq, Repr

/-- A submission entry not yet handed back (R325): its ring and index, the turn in which its doorbell rang (R30), and REPLY1 and REPLY0
once its message is decided. -/
structure Reply where
  ring : Nat
  idx : W32
  turn : W32
  words : Option (W64 × W64)
  deriving DecidableEq, Repr

/-- What of a BATCH slot was ready when a turn's plan ended in its half (R275): output records below `out`, a prompt record up to `prompt`,
a terminal record. -/
structure BatchLim where
  slot : Nat
  sgen : Byte
  out : Nat
  prompt : Nat
  term : Bool
  deriving DecidableEq, Repr

/-- What a BATCH tenant still has to hand over for turn `turn` (R275): the next PART, what of each slot was ready, and whether the turn's
plan has ended in both halves. -/
structure BatchWait where
  tenant : BitVec 16
  turn : W32
  part : Nat
  lims : List BatchLim
  ready : Bool
  deriving DecidableEq, Repr

/-- The block. `pending` is the queue of commands; `now` counts microseconds (log 2); `taken` holds the submission entries taken and not yet
decided, in submission order (R250, R324); `replies` those not yet handed back; `bseqs` each tenant's next BSEQ; `bwaits` the batch hand-overs not
finished, oldest first (R274, R275); `sent` the packets sent on the host ports (R316); `images` the resident images by number. -/
structure State where
  pending : List Instr
  now : Nat
  mem : Mem
  tiles : SMap Tile
  slots : SMap Slot
  images : SMap (Option Image)
  bseqs : SMap Nat
  bwaits : List BatchWait
  taken : List Msg
  replies : List Reply
  halfA : HalfState
  halfB : HalfState
  turns : Turns
  modes : Modes
  tb0 : Tb
  tb1 : Tb
  clocks : Clocks
  pins : Pins
  power : Power
  cal : Cal
  fuse : Fuse
  ports : SMap MemPort
  hosts : SMap HostPort
  win : Win
  group : Group
  errs : Errs
  su : Startup
  sent : List Packet
  deriving DecidableEq, Repr

/-- A half after reset (R279, R333). -/
def HalfState.reset (h : Half) : HalfState :=
  { pageBase := 0, pageCount := 0, refs := [], handles := [], unused := [], selSlot := if h = .A then 0 else 0x8000, selData := List.replicate 32 0,
    run := none, waiting := [], planLess := [], maskLoad := [], acc := [], lag := 0, catchup := false, lastTurn := 0, prevTurn := 0, jobs := [], maskJobs := [], replayJobs := [], nextJob := 0, stopped := false,
    bullSeq := 0, bullOpen := [], bullSince := 0, bullWait := [], bullPz := [], eseq := 0, evDropped := 0, outNext := 0,
    outWait := false, kept := [], outQueue := [], log := [], pairs := [], naks := [], seqs := [], seqLog := [], waitRun := 0 }

/-- R312 and R283: no turn yet. -/
def Turns.reset : Turns :=
  { cur := 0, seen := false, last := 0, lastTime := 0, spacings := [], stalled := false, plan := 0, nom := 0,
    margin := 0x20, merged := 0, skipped := 0, stalls := 0, badMark := 0, missed := 0, latePlans := 0, excess := 0, excused := 0,
    lateTokens := 0, missSent := [], excessSent := [], stallAt := 0 }

/-- R308, R309, R312: a spent account and a whole allowance worn. -/
def Modes.reset : Modes :=
  { atTurn := 0, box := 1, base := 0, boxNow := 1, baseNow := 0, boxing := false, hot := false, recovering := true, thermal := 0,
    usedUs := 0, wearBase := 0x006ddd00 }

/-- R405: a timebase input of a block that completes start-up. -/
def Tb.reset : Tb :=
  { blockLock := true, frameLock := true, elig := true, goodwin := 16, watchRun := 0, badsof := 0, losses := 0, hist := [] }

/-- R405: the clocks of a block that completes start-up. -/
def Clocks.reset : Clocks :=
  { src := 0, losc := true, loscWatch := true, loscFails := 0, relock := none, relockAll := false, fallbacks := 0, holds := 0, relocks := 0, manual := false,
    returnReq := false, auto := 0, inUse := .tb0, revert := false, pref := false, lastFcnt := none, catching := false, catchMarks := [], fallbackAt := 0, chosenAt := none,
    holdAt := 0, evs := [], held := [] }

/-- R405. -/
def Pins.reset : Pins :=
  { resetN := true, pwrOk := true, haltReq := false, stuck := false, glitchRst := 0, glitchPwr := 0, glitchHalt := 0, bells := [] }

/-- R405: every domain on and clocked. -/
def Power.reset : Power :=
  { vin := 0, iin := 0, pin := 0, peak := 0, samples := 0, skew := 0, on := 0xfffffffff, clk := 0xfffffffff, fault := 0, gateResult := 0,
    gateDomain := 0, gateOp := 0, gateCycles := 0, gateWait := .idle, temps := [] }

/-- R405. -/
def Cal.reset : Cal := { osc := 0, vf := [], therm := [], deskew := [], vfNow := [], deskewNow := [] }

/-- The fuse banks the model names (log 3): every tile enabled, BIN 0, and every other fuse value 0. -/
def Fuse.reset : Fuse :=
  { valid := true, maskSet := 0, metal := 0, serial := 0, bin := 0, enTotal := 576, enB := 288, enA := 288,
    map := List.replicate 24 0xffffff, oscB := 0, vfUp := 0, vfDn := 0, thB := 0, dkB := 0, oscFact := 0, vf := List.replicate 24 0,
    therm := List.replicate 24 0, deskew := List.replicate 36 0, keyHash := 0 }

/-- R337. -/
def Win.reset : Win :=
  { base := 0, size := 0, dir := 0, noticeUs := 2, nport := 0, hclkS := 2, hclkE := 1, hclkB := 4, early := 0, poisoned := 0, lost := 0,
    baddb := 0, ci := [], copy := List.replicate 48 0, notices := [], imgNext := 0 }

/-- R375. -/
def Group.reset : Group :=
  { plan := none, member := 0, old := none, next := none, timeout := 0x14, absent := 0, areaLog2 := 4, areaBase := 0, logSize := 0, logBase := 0,
    replays := 0, poisoned := 0, timeouts := 0, stale := 0, baditem := 0, dup := 0, waitMax := 0, waitEnds := [], oldMap := none, newMap := none,
    routeResult := 0, mismatch := 0, routeLoad := none, codes := [], codeStat := 0, codeSel := 0, codeData := List.replicate 2 0, acts := [], meters := [],
    meterSel := 0, meterData := List.replicate 4 0, lastClose := 0, chans := [] }

/-- R434; R431: 0xffff_ffff precedes the first CHAIN. -/
def Errs.reset : Errs :=
  { log := [], next := 0, chained := 0, lastChain := 0xffffffff, handling := none, request := 0, failed := 0, tenant := 0, half := 0,
    block := false, corrected := 0, nmi := 0, ceStage := 0, ceCtrl := 0, overwritten := 0, sel := 0, data := List.replicate 8 0 }

/-- R456: PHASE RESET, not sealed, not seated. -/
def Startup.reset : Startup :=
  { phase := .reset, off := false, code := 0, sealed := false, elapsed := 0, counting := true, since := 0, closing := false, quiet := false, fwResult := 2,
    fwCause := 0, fwVer := 0, fwTries := 0, fwLen := 0, stewMem := [], running := false, seated := false, addr := 0, badcrc := 0,
    dropped := 0, refused := 0, nmiSent := 0, lastWr := none, fwd := [], own := [], sent := [], bist := 0, stwLen := 0, stwOff := 0,
    stwResult := 0, stwOp := 0, stwTenant := 0, stwDetail := 0, stw := .idle }

/-- The block right after reset: every field at the value of its Reset column; what the spec gives no value, at the value its log entry
names (log 1 to 4). -/
def State.reset : State :=
  { pending := [], now := 0, mem := { cells := [], poison := [], single := [], failed := 0 }, tiles := [], slots := [], images := [], bseqs := [], bwaits := [],
    taken := [], replies := [], halfA := HalfState.reset .A, halfB := HalfState.reset .B, turns := Turns.reset, modes := Modes.reset, tb0 := Tb.reset,
    tb1 := Tb.reset, clocks := Clocks.reset, pins := Pins.reset, power := Power.reset, cal := Cal.reset, fuse := Fuse.reset, ports := [],
    hosts := [], win := Win.reset, group := Group.reset, errs := Errs.reset, su := Startup.reset, sent := [] }

end Sys2Proof.Machine
end

