-- ==== Sys2Proof/Machine/Crc.lean ====
section
/-! DEFINITION. The three cyclic checks of the block: CRC-8 of the timebase (R377), CRC-16 of the M-chain (R448), CRC-32C (R270). -/

namespace Sys2Proof.Machine

/-- One bit of a non-reflected CRC of `n` bits with polynomial `poly`. -/
def crcUpBit (n poly c : Nat) : Nat :=
  if c.testBit (n - 1) then Nat.xor (c * 2 % 2 ^ n) poly else c * 2 % 2 ^ n

/-- One byte of a non-reflected CRC. -/
def crcUpByte (n poly c : Nat) (b : Byte) : Nat :=
  (List.range 8).foldl (fun c _ => crcUpBit n poly c) (Nat.xor c (b.toNat * 2 ^ (n - 8)))

/-- CRC-8, polynomial 0x07, initial value 0 (R377). -/
def crc8 (bs : List Byte) : Nat := bs.foldl (crcUpByte 8 0x07) 0

/-- CRC-16, polynomial 0x1021, initial value 0xffff (R448). -/
def crc16 (bs : List Byte) : Nat := bs.foldl (crcUpByte 16 0x1021) 0xffff

/-- One bit of the reflected CRC-32C. -/
def crcDownBit (c : Nat) : Nat := if c % 2 = 1 then Nat.xor (c / 2) 0x82f63b78 else c / 2

/-- One byte of the reflected CRC-32C, before the final inversion. -/
def crcDownByte (c : Nat) (b : Byte) : Nat := (List.range 8).foldl (fun c _ => crcDownBit c) (Nat.xor c b.toNat)

/-- CRC-32C continued from the finished value `c` over further bytes (R270). -/
def crc32cMore (c : W32) (bs : List Byte) : W32 :=
  ~~~(BitVec.ofNat 32 (bs.foldl crcDownByte (~~~c).toNat))

/-- CRC-32C: reflected, initial value 0xffff_ffff, final inversion (R270). -/
def crc32c (bs : List Byte) : W32 := crc32cMore 0 bs

/-- The bytes of 64-bit words (R14). -/
def wordsBytes (ws : List W64) : List Byte := ws.flatMap fun w => bytesOf 8 w.toNat

end Sys2Proof.Machine
end

