-- ==== Sys2Proof/Machine/Ops.lean ====
section
/-! DEFINITION. The named reads and writes of the block's state: halves, tiles, slots, ports, the shared window (R320, R322), events
(R333), packets (R316) and notices (R319). -/

namespace Sys2Proof.Machine

/-- A half. -/
def half (s : State) : Half → HalfState
  | .A => s.halfA
  | .B => s.halfB

/-- The state with a half replaced. -/
def setHalf (s : State) (h : Half) (x : HalfState) : State :=
  match h with
  | .A => { s with halfA := x }
  | .B => { s with halfB := x }

/-- The other half. -/
def otherHalf : Half → Half
  | .A => .B
  | .B => .A

/-- A tile. -/
def tileOf (s : State) (t : Nat) : Tile := smGet Tile.idle s.tiles t

/-- The state with a tile replaced. -/
def setTile (s : State) (t : Nat) (x : Tile) : State := { s with tiles := smSet Tile.idle s.tiles t x }

/-- A slot. -/
def slotOf (s : State) (n : Nat) : Slot := smGet Slot.free s.slots n

/-- The state with a slot replaced. -/
def setSlot (s : State) (n : Nat) (x : Slot) : State := { s with slots := smSet Slot.free s.slots n x }

/-- A slot changed by a function. -/
def modSlot (s : State) (n : Nat) (f : Slot → Slot) : State := setSlot s n (f (slotOf s n))

/-- A half changed by a function. -/
def modHalf (s : State) (h : Half) (f : HalfState → HalfState) : State := setHalf s h (f (half s h))

/-- R351: the plan-group plan that a half's plan of turn `t` runs under: the one in force from its START on, the one before it until then. -/
def planFor (s : State) (t : W32) : Option PlanDef :=
  match s.group.plan with
  | none => none
  | some p => if later p.start t then s.group.old else some p

/-- The half a slot ID names (R241). -/
def slotHalf (n : Nat) : Half := if n / 2 ^ 15 % 2 = 0 then .A else .B

/-- The half of a tile ID (R40). -/
def tileHalf (t : Nat) : Half := if t / 512 % 2 = 0 then .A else .B

/-- A memory port. -/
def mpOf (s : State) (p : Nat) : MemPort := smGet MemPort.off s.ports p

/-- A host port. -/
def hpOf (s : State) (p : Nat) : HostPort := smGet HostPort.off s.hosts p

/-- The state with a host port replaced. -/
def setHp (s : State) (p : Nat) (x : HostPort) : State := { s with hosts := smSet HostPort.off s.hosts p x }

/-- A timebase input. -/
def tbOf (s : State) : TbIn → Tb
  | .tb0 => s.tb0
  | .tb1 => s.tb1

/-- The state with a timebase input replaced. -/
def setTb (s : State) (i : TbIn) (x : Tb) : State :=
  match i with
  | .tb0 => { s with tb0 := x }
  | .tb1 => { s with tb1 := x }

/-- An image by its number. -/
def imageOf (s : State) (n : Nat) : Option Image := smGet none s.images n

/-- The state with an image replaced. -/
def setImage (s : State) (n : Nat) (x : Option Image) : State := { s with images := smSet none s.images n x }

/-- The resident images, with their numbers. -/
def images (s : State) : List (Nat × Image) := s.images.filterMap fun p => p.2.map fun i => (p.1, i)

/-- R52: the enabled-tile map names tile `t` enabled. -/
def tileEnabled (s : State) (t : Nat) : Bool :=
  tileNamed t && (s.fuse.map.getD (12 * (t / 512) + t / 32 % 16) 0).getLsbD (t % 32)

/-- The domain of tile `t` (R392). -/
def tileDomain (t : Nat) : Nat := 18 * (t / 512) + t / 32 % 16

/-- REF is a clock, and the block is not stopped (R386, R447). -/
def refRuns (s : State) : Bool := (s.clocks.src == 0 || s.clocks.src == 1) && !s.su.off

/-- The logic clocks of the TG and HPD domains run: no relock is in progress (R387, R388). -/
def clocksRun (s : State) : Bool := refRuns s && s.clocks.relock.isNone

/-- The logic clocks of the CT and MPG domains run: no relock for a change of REF is in progress (R388), and the clock of half A's CT domain, which
holds the block's sequencers, is not closed (R395). -/
def ctRuns (s : State) : Bool := refRuns s && (s.clocks.relock.isNone || !s.clocks.relockAll) && s.power.clk.getLsbD 16

/-- Domain `d` is powered and clocked (R392, R394). -/
def domainRuns (s : State) (d : Nat) : Bool :=
  s.power.on.getLsbD d && s.power.clk.getLsbD d && (if d % 18 < 12 ∨ d % 18 = 17 then clocksRun s else ctRuns s)

/-- The CT domain of a half runs (R392): its request table and plan sequencer work. -/
def halfRuns (s : State) (h : Half) : Bool := domainRuns s (16 + 18 * halfNum h)

/-- Tile `t` runs: enabled, its domain clocked, the block not stopped (R52, R427). -/
def tileRuns (s : State) (t : Nat) : Bool := tileEnabled s t && domainRuns s (tileDomain t) && !s.errs.block

/-- R401, R402: the halt is in force. -/
def halted (s : State) : Bool := s.pins.haltReq && !s.pins.stuck

/-- The block takes request messages: READY, no shutdown begun, no BLOCK stop, clocks running (R444, R446, R427, R386). -/
def serving (s : State) : Bool := s.su.phase == .ready && !s.su.closing && !s.errs.block && ctRuns s

/-- The block may write to the window: READY and not stopped (R427), no shutdown whose kernels have ended (R446). A port that retrains takes
the block's own accesses into its queue, in order (R346; log 118). -/
def windowOpen (s : State) : Bool := s.su.phase == .ready && !s.su.quiet && !s.errs.block && ctRuns s

/-- R446 step 2: once a shutdown has begun and no kernel is in flight, nothing further is written to the window. -/
def noteQuiet (s : State) : State :=
  if s.su.closing ∧ s.halfA.jobs.isEmpty ∧ s.halfB.jobs.isEmpty then { s with su := { s.su with quiet := true } } else s

/-- The block address of window offset `off` (R320). -/
def winAddr (s : State) (off : Nat) : Nat := s.win.base.toNat * 2 ^ 16 + off

/-- The size of the window in bytes (R320). -/
def winBytes (s : State) : Nat := s.win.size.toNat * 2 ^ 16

/-- A window word. -/
def winWord (s : State) (off : Nat) : W64 := memWord s.mem (winAddr s off)

/-- The bytes of the memory from `a` on, clean. -/
def memBytes (m : Mem) (a n : Nat) : List Byte := tab n fun i => memByte m (a + i)

/-- The state with window words from `off` on. -/
def winPut (s : State) (off : Nat) (ws : List W64) : State := { s with mem := memPutWords s.mem (winAddr s off) ws }

/-- The owner of the window slot at `off`: 0 FREE, 1 HOST, 2 BLOCK, 3 POISON (R322). -/
def owner (s : State) (off : Nat) : Nat := fld (winWord s (off + 56)) 62 2

/-- The block owns the window slot at `off` (R322). -/
def ownedByBlock (s : State) (off : Nat) : Bool := owner s off == 2

/-- The state with the owner field of the slot at `off` written, its reserved bits zero (R322). -/
def setOwner (s : State) (off o : Nat) : State := winPut s (off + 56) [mk64 (put o 62 2)]

/-- Words 0 to 6 of a slot written, then its owner field (R322). -/
def putSlotWords (s : State) (off : Nat) (ws : List W64) (o : Nat) : State := setOwner (winPut s off (ws.take 7)) off o

/-- A word of the directory copied at seal (R321). -/
def dirWord (s : State) (i : Nat) : W64 := s.win.copy.getD i 0

/-- The event ring of a half: its base and count (R321 word 9 + h). -/
def eventRing (s : State) (h : Half) : Nat × Nat := (fld (dirWord s (9 + halfNum h)) 0 36, fld (dirWord s (9 + halfNum h)) 48 16)

/-- The lowest-numbered trained host port, or the port NPORT names while it is trained (R319). -/
def noticePort (s : State) : Option Nat :=
  if (hpOf s s.win.nport.toNat).trained then some s.win.nport.toNat else (List.range 4).find? fun p => (hpOf s p).trained

/-- A packet sent through a port. -/
def sendPacket (s : State) (p : Packet) : State := { s with sent := s.sent ++ [p] }

/-- Word 0 of a packet header (R316). -/
def packetHdr (type tag len status : Nat) : W64 := mk64 (put type 56 8 + put 2 48 8 + put tag 32 16 + put len 8 12 + put status 0 8)

/-- The notice packet of a key (R316). -/
def noticePacket (p : Nat) (n : Notice) : Packet :=
  match n.key with
  | .ring r => { port := p, w0 := packetHdr 0x31 0 0 0, w1 := mk64 (put r.toNat 48 16 + put n.last.toNat 0 32), data := [] }
  | .tenant t =>
    { port := p, w0 := packetHdr 0x31 0 0 0, w1 := mk64 (put t.toNat 48 16 + put 1 47 1 + put n.last.toNat 0 32), data := [] }
  | .mask h => { port := p, w0 := packetHdr 0x32 0 0 0, w1 := mk64 (put (halfNum h) 48 1 + put n.last.toNat 0 32), data := [] }
  | .event h => { port := p, w0 := packetHdr 0x33 0 0 0, w1 := mk64 (put (halfNum h) 48 1 + put n.last.toNat 0 32), data := [] }

/-- A notice sent through the notice port; with no trained port it is lost, which loses nothing (R319). -/
def sendNotice (s : State) (n : Notice) : State :=
  match noticePort s with
  | none => s
  | some p => sendPacket s (noticePacket p n)

/-- R319: a publication under `key` numbered `last`: the first of an interval is sent, later ones wait for its end; an interval of 0
sends every one. -/
def publishNotice (s : State) (key : NoticeKey) (last : W32) : State :=
  if s.win.noticeUs = 0 then sendNotice s { key := key, last := last, pending := false }
  else if s.win.notices.any fun n => n.key == key then
    { s with
      win := { s.win with
        notices := s.win.notices.map fun n => if n.key = key then { n with last := last, pending := true } else n } }
  else
    sendNotice { s with win := { s.win with notices := s.win.notices ++ [{ key := key, last := last, pending := false }] } }
      { key := key, last := last, pending := false }

/-- Saturating increment of a 16-bit counter. -/
def inc16 (c : BitVec 16) : BitVec 16 := BitVec.ofNat 16 (satAdd c.toNat 1 16)

/-- Saturating increment of an 8-bit counter. -/
def inc8 (c : Byte) : Byte := BitVec.ofNat 8 (satAdd c.toNat 1 8)

/-- Saturating increment of a 32-bit counter. -/
def inc32 (c : W32) : W32 := BitVec.ofNat 32 (satAdd c.toNat 1 32)

/-- R348: reads returned with poison counted at their ports. -/
def addPoisonRd (s : State) (a : Nat) : State :=
  if stackEnd ≤ a then s
  else
    let p := mpOf s (portOf a)
    { s with ports := smSet MemPort.off s.ports (portOf a) { p with poisonRd := inc16 p.poisonRd } }

/-- R348: the lines returned with poison by a read of the `n` bytes at block address `a`, counted at their ports. -/
def countPoison (s : State) (a n : Nat) : State := (badUnits s.mem a n).foldl addPoisonRd s

/-- Words 0 to 6 of an event entry (R333). -/
def eventWords (s : State) (h : Half) (e : Ev) : List W64 :=
  let sl := e.slot.map fun n => (n, (slotOf s n).r)
  let req := match sl with
    | none => 0
    | some (n, r) => put n 32 16 + put r.sgen.toNat 24 8 + put 1 23 1
  [mk64 (put e.code.toNat 48 16 + req), mk64 (put s.turns.cur.toNat 32 32 + put (half s h).eseq.toNat 0 32),
   match sl with
   | none => 0
   | some (_, r) => r.ctag,
   e.extra, 0, 0, 0]

/-- An event written into the next entry of the half's ring, which reads BLOCK. -/
def writeEvent (s : State) (h : Half) (e : Ev) : State :=
  let off := (eventRing s h).1 + 64 * ((half s h).eseq.toNat % (eventRing s h).2)
  let s1 := putSlotWords s off (eventWords s h e) 1
  let s2 := modHalf s1 h fun x => { x with eseq := x.eseq + 1 }
  publishNotice s2 (.event h) (half s h).eseq

/-- The next entry of the half's event ring reads BLOCK (R333). -/
def eventRoom (s : State) (h : Half) : Bool :=
  (eventRing s h).2 != 0 && ownedByBlock s ((eventRing s h).1 + 64 * ((half s h).eseq.toNat % (eventRing s h).2))

/-- R333: at the first entry that reads BLOCK again, EVENTS_LOST with the number of events dropped. -/
def flushLost (s : State) (h : Half) : State :=
  if (half s h).evDropped = 0 ∨ eventRoom s h = false then s
  else
    modHalf (writeEvent s h { half := h, code := 0x0301, slot := none, extra := mk64 (half s h).evDropped }) h fun x => { x with evDropped := 0 }

/-- R333: an event dropped. -/
def dropEvent (s : State) (h : Half) : State :=
  let s1 := modHalf s h fun x => { x with evDropped := x.evDropped + 1 }
  { s1 with win := { s1.win with lost := inc16 s1.win.lost } }

/-- R333, R404: send an event to the ring of its half. While the clocks are stopped it waits for the restart; a stopped block, or one whose
shutdown has ended all writes to the window (R446), sends none. -/
def sendEvent (s : State) (e : Ev) : State :=
  if s.errs.block ∨ s.su.off ∨ s.su.quiet then s
  else if !ctRuns s then { s with clocks := { s.clocks with evs := s.clocks.evs ++ [e] } }
  else if s.su.phase != .ready then s
  else
    let s1 := flushLost s e.half
    if (half s1 e.half).evDropped = 0 ∧ eventRoom s1 e.half then writeEvent s1 e.half e else dropEvent s1 e.half

/-- An event about no slot, to the ring of a half (R333). -/
def sendHalfEvent (s : State) (h : Half) (code : BitVec 16) (extra : W64) : State :=
  sendEvent s { half := h, code := code, slot := none, extra := extra }

/-- An event about a slot, to the ring of its half (R333). -/
def sendSlotEvent (s : State) (n : Nat) (code : BitVec 16) (extra : W64) : State :=
  sendEvent s { half := slotHalf n, code := code, slot := some n, extra := extra }

/-- A block-level event, to the ring of half A (R333). -/
def sendBlockEvent (s : State) (code : BitVec 16) (extra : W64) : State := sendHalfEvent s .A code extra

end Sys2Proof.Machine
end

