-- ==== Sys2Proof/Machine/Errors.lean ====
section
/-! DEFINITION. The error log, detection, the non-maskable event and the BLOCK stop (spec/15_errors_and_ordering.md R407 to R433). -/

namespace Sys2Proof.Machine

/-- The 24 bytes of a frame before its CRC (R448). -/
def frameBytes (f : Frame) : List Byte :=
  [f.type, f.flags] ++ bytesOf 2 f.dst.toNat ++ bytesOf 2 f.src.toNat ++ bytesOf 2 f.tag.toNat ++ bytesOf 8 f.arg.toNat
    ++ bytesOf 8 f.data.toNat

/-- A frame with its CRC (R448). -/
def sealFrame (f : Frame) : Frame := { f with crc := BitVec.ofNat 16 (crc16 (frameBytes f)) }

/-- The oldest RSP removed from a list of own frames (R449). -/
def dropRsp : List Frame → List Frame
  | [] => []
  | f :: fs => if f.type = 4 then fs else f :: dropRsp fs

/-- R449: a frame of the block's own; past 4 of them the oldest RSP is discarded and counted, never an NMI. -/
def ownFrame (s : State) (f : Frame) : State :=
  let own := s.su.own ++ [f]
  if own.length ≤ 4 ∨ own.all (fun g => g.type != 4) then { s with su := { s.su with own := own } }
  else { s with su := { s.su with own := dropRsp own, dropped := inc16 s.su.dropped } }

/-- R429, R448: raise the non-maskable event for cause `c`: its bit, and an NMI frame. -/
def raiseNmi (s : State) (c : Nat) : State :=
  let causes := s.errs.nmi ||| BitVec.ofNat 4 (2 ^ c)
  let f := sealFrame
    { type := 5, flags := if s.su.seated then 2 else 0, dst := 0, src := s.su.addr, tag := 0, arg := mk64 s.turns.cur.toNat
      data := mk64 (causes.toNat + put (2 ^ c) 4 4), crc := 0 }
  ownFrame { s with errs := { s.errs with nmi := causes } } f

/-- R407: the class of a detection point. -/
def srcClass (src : Nat) : ErrClass :=
  if src = 0x02 ∨ src = 0x03 then .tenant
  else if src = 0x0a then .half
  else if 0x10 ≤ src ∧ src ≤ 0x13 then .corrected
  else if src = 0x01 ∨ (0x04 ≤ src ∧ src ≤ 0x08) then .request
  else .block

/-- The CLASS field (R431). -/
def classNum : ErrClass → Nat
  | .corrected => 0
  | .request => 1
  | .tenant => 2
  | .half => 3
  | .block => 4

/-- The STEP field (R431). -/
def stepNum : ErrStep → Nat
  | .queued => 0
  | .attributed => 1
  | .abandoned => 2
  | .replaying => 3
  | .published => 4
  | .escalated => 5
  | .done => 6
  | .superseded => 7

/-- R431: the final steps. -/
def stepFinal : ErrStep → Bool
  | .escalated => true
  | .done => true
  | .superseded => true
  | _ => false

/-- Words 0 to 4 of a log entry (R431). -/
def entryWords (e : ErrEntry) : List W64 :=
  [mk64 (put e.src.toNat 56 8 + put (classNum e.cls) 53 3 + put (stepNum e.step) 49 4 + put (halfNum e.half) 48 1 + put (b2n e.nest) 47 1
      + put e.fault.toNat 32 8 + put e.turn.toNat 0 32),
   mk64 (put e.tenant.toNat 48 16 + put e.slot.toNat 32 16 + put e.sgen.toNat 24 8 + put e.pos.toNat 0 24),
   mk64 (put e.addr.toNat 16 48 + put e.unit.toNat 0 16),
   mk64 (put e.lseq.toNat 32 32 + put e.parent.toNat 0 32),
   mk64 (put e.count.toNat 48 16 + put e.failed.toNat 32 16 + put e.merged.toNat 16 16 + put (e.job.getD 0) 0 16)]

/-- All eight words of a log entry (R431). -/
def entryData (e : ErrEntry) : List W64 := entryWords e ++ [mk64 e.chain.toNat, 0, 0]

/-- R431, R432: the CHAIN of each entry in LSEQ order, as far as the entries are final; an entry that was overwritten before its turn is
passed over and shows as a break. By fuel. -/
def chainLog : Nat → Errs → Errs
  | 0, x => x
  | n + 1, x =>
    match x.log.find? fun e => e.lseq = x.chained with
    | none => if x.chained = x.next then x else chainLog n { x with chained := x.chained + 1 }
    | some e =>
      if stepFinal e.step then
        let c := crc32c (wordsBytes (entryWords e) ++ bytesOf 4 x.lastChain.toNat)
        chainLog n
          { x with
            log := x.log.map fun g => if g.lseq = e.lseq then { g with chain := c } else g
            chained := x.chained + 1
            lastChain := c }
      else x

/-- The chain carried on over every entry that may end it. -/
def chainOn (x : Errs) : Errs := chainLog ((x.next - x.chained).toNat + 1) x

/-- The log with one entry changed, and the chain carried on. -/
def modEntry (s : State) (l : W32) (f : ErrEntry → ErrEntry) : State :=
  let x := { s.errs with log := s.errs.log.map fun e => if e.lseq = l then f e else e }
  { s with errs := chainOn x }

/-- The entry with a given LSEQ. -/
def entryOf (s : State) (l : W32) : Option ErrEntry := s.errs.log.find? fun e => e.lseq = l

/-- Entries not yet final (ERR_LOG_STAT.OPEN). -/
def openEntries (x : Errs) : List ErrEntry := x.log.filter fun e => !stepFinal e.step

/-- A log that holds 256 entries without its oldest final one (R420). -/
def dropFinal : List ErrEntry → List ErrEntry
  | [] => []
  | e :: es => if stepFinal e.step then es else e :: dropFinal es

/-- What a detection names (R407, R431). -/
structure Detect where
  src : Nat
  half : Half
  fault : Nat
  tenant : BitVec 16
  reqs : List (Nat × Byte)
  pos : Nat
  addr : Nat
  unit : Nat
  job : Option Nat
  deriving DecidableEq, Repr

/-- A detection that names only its point and its unit. -/
def Detect.plain (src : Nat) (h : Half) (unit : Nat) : Detect :=
  { src := src, half := h, fault := 0, tenant := 0, reqs := [], pos := 0, addr := 0, unit := unit, job := none }

/-- The entry of a detection, at QUEUED (R411, R417, R431). COUNT stays 0 until step 1 names the requests (R411; log 55). -/
def newEntry (s : State) (d : Detect) (step : ErrStep) : ErrEntry :=
  let first := d.reqs.head?
  let open_ := openEntries s.errs
  { src := BitVec.ofNat 8 d.src, cls := srcClass d.src, step := step, half := d.half, nest := !open_.isEmpty
    fault := if d.src ≤ 2 then BitVec.ofNat 8 d.fault else 0, turn := s.turns.cur
    tenant := match first with
      | none => d.tenant
      | some (n, _) => (slotOf s n).r.tenant
    slot := BitVec.ofNat 16 ((first.map (·.1)).getD 0), sgen := (first.map (·.2)).getD 0, pos := BitVec.ofNat 24 d.pos
    addr := if 3 ≤ d.src ∧ d.src ≤ 5 then BitVec.ofNat 48 d.addr else 0, unit := BitVec.ofNat 16 d.unit, lseq := s.errs.next
    parent := if open_.isEmpty then 0 else (s.errs.handling.getD ((open_.head?.map (·.lseq)).getD 0))
    count := 0, failed := 0, merged := 0, job := d.job, chain := 0, reqs := d.reqs }

/-- R434: the class counters. -/
def countClass (x : Errs) : ErrClass → Errs
  | .corrected => { x with corrected := inc16 x.corrected }
  | .request => { x with request := inc16 x.request }
  | .tenant => { x with tenant := inc8 x.tenant }
  | .half => { x with half := BitVec.ofNat 4 (satAdd x.half.toNat 1 4) }
  | .block => { x with block := true }

/-- R420, R431: the entry appended; the oldest final entry gives way once 256 are held. With 256 unfinished entries the log has no entry
to give (R407 point 0x16): the detection counts in its class alone. -/
def appendEntry (s : State) (e : ErrEntry) : State :=
  let x := countClass s.errs e.cls
  let full := 256 ≤ x.log.length
  if full ∧ (openEntries x).length = x.log.length then { s with errs := x }
  else
    let y := { x with
      log := (if full then dropFinal x.log else x.log) ++ [e]
      next := x.next + 1
      overwritten := if full then inc16 x.overwritten else x.overwritten }
    { s with errs := chainOn y }

/-- R433: ERROR_LOGGED, once per entry. -/
def errorLogged (s : State) (e : ErrEntry) : State :=
  let ev : Ev := { half := e.half, code := 0x0701, slot := e.reqs.head?.map (·.1), extra := mk64 (e.lseq.toNat + put (classNum e.cls) 32 3) }
  if e.src = 0x12 ∨ e.cls = .block then s else sendEvent s ev

/-- R435: ELAPSED, in milliseconds from the filtered rise of PWR_OK, stops counting at READY or STOPPED. -/
def stopElapsed (s : State) : State :=
  if s.su.counting then { s with su := { s.su with elapsed := BitVec.ofNat 32 ((s.now - s.su.since) / 1000), counting := false } } else s

/-- R427: every tile stops issuing as after a tile fault, and the sequencer stops with CODE 0x20 (R435). The entry being handled becomes
ESCALATED; the block's entry, which names it as PARENT, is ESCALATED; with a log of unfinished entries it is point 0x16 (R420); NMI cause 3
is raised. -/
def blockStop (s : State) (d : Detect) : State :=
  if s.errs.block then s
  else
    let e := newEntry s (if 256 ≤ (openEntries s.errs).length then Detect.plain 0x16 d.half 0 else d) .escalated
    let s1 := match s.errs.handling with
      | none => s
      | some l => modEntry s l fun e => { e with step := .escalated }
    let s2 := stopElapsed (appendEntry s1 e)
    let s3 := { s2 with
      tiles := s2.tiles.map fun p => (p.1, { p.2 with stopped := true })
      errs := { s2.errs with handling := none }
      su := { s2.su with phase := .stopped, code := 0x20 } }
    raiseNmi s3 3

/-- R411 step 2: the abandoned kernels of a job have not all ended. -/
def dying (s : State) (e : ErrEntry) : Bool := (half s e.half).jobs.any fun j => j.dead && some j.num == e.job

/-- R418: the entry a detection merges into: the same request and job, not yet at REPLAYING. The entry's step ABANDONED lasts until the
kernels it abandons have ended (log 119). -/
def mergeTarget (s : State) (d : Detect) : Option ErrEntry :=
  s.errs.log.find? fun e =>
    !stepFinal e.step && (stepNum e.step < 3 || dying s e) && e.job.isSome && e.job == d.job && e.half == d.half && e.cls == .request
      && (d.reqs.any fun q => e.reqs.any fun g => g == q)

/-- R431: the step of one entry. -/
def setStep (s : State) (l : W32) (k : ErrStep) : State := modEntry s l fun e => { e with step := k }

/-- R419: queued REQUEST entries that an entry of another class overtakes. -/
def supersede (s : State) (p : ErrEntry → Bool) : State :=
  (s.errs.log.filter fun e => e.step == .queued && e.cls == .request && p e).foldl (fun s e => setStep s e.lseq .superseded) s

/-- R419: the REQUEST entries that a TENANT or HALF entry overtakes: those of its tenant, those of its half. -/
def overtakes (e g : ErrEntry) : Bool :=
  match e.cls with
  | .tenant => g.tenant == e.tenant
  | .half => g.half == e.half
  | _ => false

/-- R407, R417 to R420, R424, R433: a detection. CORRECTED entries are final at once; a detection in a stopped half is SUPERSEDED, and a
TENANT or HALF one overtakes the queued REQUEST entries it names (R419); a HALF-class one for the second half is detection point 0x0d;
a BLOCK-class one stops the block; with all 256 entries unfinished it is detection point 0x16. -/
def detect (s : State) (d : Detect) : State :=
  if s.errs.block then s
  else if srcClass d.src = .block then blockStop s d
  else
    match (if srcClass d.src = .request then mergeTarget s d else none) with
    | some e => modEntry s e.lseq fun g => { g with merged := inc16 g.merged }
    | none =>
      if 256 ≤ (openEntries s.errs).length then blockStop s (Detect.plain 0x16 d.half 0)
      else if (half s d.half).stopped then appendEntry s (newEntry s d .superseded)
      else if srcClass d.src = .half ∧ (half s (otherHalf d.half)).stopped then blockStop s { d with src := 0x0d }
      else
        let e := newEntry s d (if srcClass d.src = .corrected then .done else .queued)
        errorLogged (supersede (appendEntry s e) (overtakes e)) e

end Sys2Proof.Machine
end

