-- ==== Sys2Proof/Machine/Pages.lean ====
section
/-! DEFINITION. Pages of screener state: addresses, page lists, reference counts, copies (spec/09_request_table.md R245 to R249). -/

namespace Sys2Proof.Machine

/-- R245: the address of page `k` of a half's region. -/
def pageAddr (s : State) (h : Half) (k : Nat) : Nat := (half s h).pageBase.toNat * 2 ^ 16 + k * 2 ^ 16

/-- The reference count of page `k` (R248). -/
def pageRef (s : State) (h : Half) (k : Nat) : BitVec 16 := smGet 0 (half s h).refs k

/-- The state with a page's reference count replaced. -/
def setPageRef (s : State) (h : Half) (k : Nat) (n : BitVec 16) : State :=
  modHalf s h fun x => { x with refs := smSet 0 x.refs k n }

/-- One more reference to page `k`. -/
def addRef (s : State) (h : Half) (k : Nat) : State := if k = 0 then s else setPageRef s h k (pageRef s h k + 1)

/-- One reference to page `k` less (R248). -/
def dropRef (s : State) (h : Half) (k : Nat) : State := if k = 0 then s else setPageRef s h k (pageRef s h k - 1)

/-- References dropped from a list of pages. -/
def dropRefs (s : State) (h : Half) (ks : List Nat) : State := ks.foldl (fun s k => dropRef s h k) s

/-- The first page at or after `k` that a rising map of counts does not list. -/
def firstFree : SMap (BitVec 16) → Nat → Nat
  | [], k => k
  | (j, _) :: m, k => if j = k then firstFree m (k + 1) else firstFree m k

/-- R245, R279: pages on the free list. -/
def freePages (s : State) (h : Half) : Nat := (half s h).pageCount.toNat - 1 - (half s h).refs.length

/-- The page a new reference takes: the lowest free index (R245). -/
def nextPage (s : State) (h : Half) : Nat := firstFree (half s h).refs 1

/-- Entry `i` of a slot's page list (R246). -/
def slotPage (s : State) (n i : Nat) : Nat :=
  let r := (slotOf s n).r
  if i < 8 then r.pages.getD i 0
  else if r.ext = 0 then 0
  else memNum s.mem (pageAddr s (slotHalf n) r.ext + 4 * (i - 8)) 4 % 2 ^ 24

/-- The state with entry `i` of a slot's page list replaced; the extension page must be there for `i` of 8 and above. -/
def setSlotPage (s : State) (n i k : Nat) : State :=
  if i < 8 then modSlot s n fun x => { x with r := { x.r with pages := x.r.pages.set i k } }
  else
    { s with mem := memWrite s.mem (pageAddr s (slotHalf n) (slotOf s n).r.ext + 4 * (i - 8)) (clean (bytesOf 4 k)) }

/-- List entries that cover positions below `n` (R246). -/
def entriesFor (n : Nat) : Nat := (n + 63) / 64

/-- The pages the first `m` list entries of a slot name. -/
def slotPages (s : State) (n m : Nat) : List Nat := tab m fun i => slotPage s n i

/-- R248, R249: a write to list entry `i` of a slot needs a page: none is there, or the one there is shared. -/
def entryNeeds (s : State) (n i : Nat) : Bool :=
  slotPage s n i == 0 || (pageRef s (slotHalf n) (slotPage s n i) != 1)

/-- The pages needed before positions `p` to `q - 1` of a slot can be written (R248, R249). -/
def pagesNeeded (s : State) (n p q : Nat) : Nat :=
  if q ≤ p then 0
  else
    ((List.range (entriesFor q)).filter fun i => decide (p / 64 ≤ i) && entryNeeds s n i).length
      + (if 8 < entriesFor q ∧ (slotOf s n).r.ext = 0 then 1 else 0)

/-- The extension page of a slot taken where list entries past 7 are needed. -/
def takeExt (s : State) (n m : Nat) : State :=
  if m ≤ 8 ∨ (slotOf s n).r.ext ≠ 0 ∨ freePages s (slotHalf n) = 0 then s
  else
    let h := slotHalf n
    let k := nextPage s h
    let s1 := modSlot (addRef s h k) n fun x => { x with r := { x.r with ext := k } }
    { s1 with mem := memWrite s1.mem (pageAddr s1 h k) (clean (List.replicate 65536 0)) }

/-- R248: list entry `i` made private: a fresh page where there is none, a copy where it is shared. With no page on the free list nothing
changes: the messages that need pages are refused first (R249), and a position computed again in a shared page keeps its value (R32). -/
def takeEntry (s : State) (n i : Nat) : State :=
  if entryNeeds s n i ∧ 0 < freePages s (slotHalf n) then
    let h := slotHalf n
    let old := slotPage s n i
    let k := nextPage s h
    let s1 := dropRef (addRef s h k) h old
    let s2 := if old = 0 then s1
      else
        let s3 := countPoison s1 (pageAddr s1 h old) 65536
        { s3 with mem := memWrite s3.mem (pageAddr s1 h k) (memRead s3.mem (pageAddr s1 h old) 65536) }
    setSlotPage s2 n i k
  else s

/-- Pages taken, or copied, for positions `p` to `q - 1` of a slot. -/
def takePages (s : State) (n p q : Nat) : State :=
  if q ≤ p then s
  else
    ((List.range (entriesFor q)).filter fun i => decide (p / 64 ≤ i)).foldl (fun s i => takeEntry s n i) (takeExt s n (entriesFor q))

/-- R248, R258: the list entries from `i` up to `m` cleared; their references drop at the close of the turn. -/
def releaseFrom (s : State) (n i m : Nat) : State :=
  let ks := ((List.range m).filter fun j => decide (i ≤ j)).map fun j => slotPage s n j
  let s1 := ((List.range m).filter fun j => decide (i ≤ j) && slotPage s n j != 0).foldl (fun s j => setSlotPage s n j 0) s
  modSlot s1 n fun x => { x with w := { x.w with unused := x.w.unused ++ ks.filter (· != 0) } }

/-- R248: every page of a slot released, the extension page with them. -/
def releaseAll (s : State) (n m : Nat) : State :=
  let s1 := releaseFrom s n 0 m
  modSlot s1 n fun x =>
    { x with
      r := { x.r with ext := 0 }
      w := { x.w with unused := if x.r.ext = 0 then x.w.unused else x.w.unused ++ [x.r.ext] } }

/-- R246: the address of position `p` of a slot. -/
def posAddr (s : State) (n p : Nat) : Nat := pageAddr s (slotHalf n) (slotPage s n (p / 64)) + p % 64 * 1024

/-- R246, R247: the address of the verdict cell of position `p`. -/
def cellAddr (s : State) (n p : Nat) : Nat := posAddr s n p + 320

/-- R223: the address of the mask record that the position block of `p` holds. -/
def maskAddr (s : State) (n p : Nat) : Nat := posAddr s n p + 128

/-- R155, R246: the address of the position entry of TRACK `t`. -/
def entryAddr (s : State) (n p t : Nat) : Nat := posAddr s n p + 256 + 8 * (t - 1)

/-- R248: the stack address `a` lies in a page of a half's region. -/
def pageOfAddr (s : State) (a : Nat) : Option (Half × Nat) :=
  let inside (h : Half) : Option (Half × Nat) :=
    let k := a / 2 ^ 16 - (half s h).pageBase.toNat
    if (half s h).pageBase.toNat ≤ a / 2 ^ 16 ∧ k < (half s h).pageCount.toNat ∧ 0 < k then some (h, k) else none
  if stackEnd ≤ a then none
  else
    match inside .A with
    | some x => some x
    | none => inside .B

/-- R155, R246: the address of the position entry of TRACK `t`, while the page list may have left with a pause image (R265) or the request have
ended. -/
def scaleAddr (s : State) (n p t : Nat) : Nat :=
  let w := (slotOf s n).w
  let page := if p < w.awayTo ∧ w.away.isEmpty = false then w.away.getD (p / 64) 0 else slotPage s n (p / 64)
  pageAddr s (slotHalf n) page + p % 64 * 1024 + 256 + 8 * (t - 1)

/-- R246, R431: the position of slot `n` whose block in page `k` holds the address `a`; 0 where the page is none of its list. -/
def posOfAddr (s : State) (n k a : Nat) : Nat :=
  match (slotPages s n (entriesFor (max (slotOf s n).r.head (slotOf s n).w.runTo))).findIdx? (· == k) with
  | none => 0
  | some i => 64 * i + (a - pageAddr s (slotHalf n) k) / 1024

/-- R407: the live requests whose page list names page `k` of half `h`, ascending. -/
def requestsOfPage (s : State) (h : Half) (k : Nat) : List (Nat × Byte) :=
  (s.slots.filter fun p => slotHalf p.1 == h && slotLive p.2.r.st
    && (slotPages s p.1 (entriesFor (max p.2.r.head p.2.w.runTo))).contains k).map fun p => (p.1, p.2.r.sgen)

end Sys2Proof.Machine
end

