-- ==== Sys2Proof/Machine/Publish.lean ====
section
/-! DEFINITION. Replies, verdict records and rings, mask bulletins, and what ending a request does (spec/09 R254 to R277,
spec/11 R323 to R331). -/

namespace Sys2Proof.Machine

/-- The window offset of entry `k` of submission ring `r` (R324). -/
def subEntry (s : State) (r : Nat) (k : W32) : Nat :=
  fld (dirWord s (16 + 2 * r)) 0 36 + 64 * (k.toNat % fld (dirWord s (17 + 2 * r)) 0 17)

/-- R325: decided entries handed back, those of each ring in ring order: REPLY1, REPLY0, then HOST. -/
def handBack : List Reply → List Nat → State → State
  | [], _, s => s
  | r :: rs, stuck, s =>
    match r.words with
    | some (w5, w6) =>
      if stuck.contains r.ring ∨ !windowOpen s then
        handBack rs (r.ring :: stuck) { s with replies := s.replies ++ [r] }
      else
        let off := subEntry s r.ring r.idx
        handBack rs stuck (setOwner (winPut s (off + 40) [w5, w6]) off 1)
    | none => handBack rs (r.ring :: stuck) { s with replies := s.replies ++ [r] }

/-- R252, R323, R325: the reply of a message. -/
def answer (s : State) (m : Msg) (status p slot sgen : Nat) : State :=
  let w5 := mk64 (put s.turns.cur.toNat 32 32)
  let w6 := mk64 (put status 56 8 + put p 48 8 + put slot 32 16 + put sgen 24 8)
  let l := s.replies.map fun r => if r.ring = m.ring.toNat ∧ r.idx = m.idx then { r with words := some (w5, w6) } else r
  handBack l [] { s with replies := [] }

/-- SLOT of a slot-addressed message (R251). -/
def msgSlot (m : Msg) : Nat := fld m.w1 32 16

/-- SGEN of a slot-addressed message (R251). -/
def msgSgen (m : Msg) : Nat := fld m.w1 24 8

/-- The reply of a slot-addressed message: SLOT and SGEN are those it names (R323). -/
def answerSlot (s : State) (m : Msg) (status p : Nat) : State := answer s m status p (msgSlot m) (msgSgen m)

/-- The words of a record published by slot `n` in turn PUB, OWN excepted (R271). -/
def recordWords (s : State) (n : Nat) (v : VRec) : List W64 :=
  let r := (slotOf s n).r
  [mk64 (put r.tenant.toNat 48 16 + put n 32 16 + put r.sgen.toNat 24 8 + put v.pos 0 24),
   mk64 (put r.oseq.toNat 32 32 + put v.turn.toNat 0 32),
   mk64 (put v.verdict 62 2 + put v.kind 60 2 + put (b2n v.term) 59 1 + put v.reason 56 3 + put v.nscore 53 3 + put v.lo 24 24 + put v.hi 0 24),
   mk64 (put (v.scores.getD 1 0).toNat 32 32 + put (v.scores.getD 0 0).toNat 0 32),
   mk64 (put (v.scores.getD 3 0).toNat 32 32 + put (v.scores.getD 2 0).toNat 0 32),
   mk64 (put v.due.toNat 32 32 + put s.turns.cur.toNat 0 32), 0]

/-- R242: PLAG plus 1, the promise lag L. -/
def lagOf (r : SlotRec) : Nat := r.plag.toNat + 1

/-- R256: the turn in which position `p` counts as produced. -/
def prodTurn (w : SlotWork) (p : Nat) : W32 := ((w.prod.find? fun x => p < x.1).map (·.2)).getD w.runTurn

/-- The verdict cell of position `p` as a record part (R247): VALID, PUB, and verdict, span and scores. -/
structure Cell where
  valid : Bool
  pub : Bool
  pz : Bool
  verdict : Nat
  nscore : Nat
  lo : Nat
  hi : Nat
  scores : List W32
  deriving DecidableEq, Repr

/-- Reads the verdict cell of position `p` of slot `n` (R247); scores not present, and the span of a verdict other than REDACT, are zero (R271). -/
def readCell (s : State) (n p : Nat) : Cell :=
  let a := cellAddr s n p
  let w := memWord s.mem a
  let k := fld w 57 3
  { valid := bit w 61, pub := bit w 60, pz := memAnyPz s.mem a 64, verdict := fld w 62 2, nscore := min 4 k
    lo := if fld w 62 2 = 2 then fld w 24 24 else 0, hi := if fld w 62 2 = 2 then fld w 0 24 else 0
    scores := tab 4 fun i => if i < k then BitVec.ofNat 32 (memNum s.mem (a + 16 + 4 * i) 4) else 0 }

/-- R247: PUB set and DUE and TURN written in the cell of position `p`. -/
def stampCell (s : State) (n p : Nat) (due turn : W32) : State :=
  let a := cellAddr s n p
  let w := memWord s.mem a
  let w' := mk64 (w.toNat - put (fld w 60 1) 60 1 + put 1 60 1)
  { s with mem := memPutWords s.mem a [w', mk64 (put due.toNat 32 32 + put turn.toNat 0 32)] }

/-- R247: DUE and TURN in the cell of position `p`. -/
def dueCell (due : W32 → W32) (turn : Nat → W32) (n : Nat) (s : State) (p : Nat) : State :=
  { s with mem := memPutWord s.mem (cellAddr s n p + 8) (mk64 (put (due (turn p)).toNat 32 32 + put (turn p).toNat 0 32)) }

/-- R156: the positions committed since the last close: from the committed length then to that now. A run whose prompt verdict is not yet
published counts later. -/
def closedTo (x : Slot) : Nat := if x.w.runOpen then min x.r.commit x.w.runFrom else x.r.commit

/-- R247: DUE and TURN written in the cells of the verdicts computed and not yet published: of an output token once its turn is known,
with its commit (R256), and of a prompt run. -/
def stampDue (s : State) (n : Nat) : State :=
  let r := (slotOf s n).r
  let w := (slotOf s n).w
  if !slotLive r.st ∨ w.rebuild.isSome then s
  else
    let s1 := (tab (min (closedTo (slotOf s n)) w.computed - w.published) fun k => w.published + k).foldl
      (dueCell (fun t => t + BitVec.ofNat 32 (lagOf r)) (prodTurn w) n) s
    if w.runOpen ∧ w.runTo ≤ w.computed then dueCell (fun t => t + BitVec.ofNat 32 w.runP) (fun _ => w.runTurn) n s1 (w.runTo - 1) else s1

/-- R272: a REDACT of an output token names a span up to its position from the first output position on; a prompt's lies in its run. -/
def spanOk (w : SlotWork) (prompt : Bool) (p : Nat) (c : Cell) : Bool :=
  c.verdict != 2 || (decide (c.lo ≤ c.hi)
    && (if prompt then decide (w.runFrom ≤ c.lo) && decide (c.hi < w.runTo) else decide (c.hi ≤ p) && decide (w.firstOut ≤ c.lo)))

/-- The terminal record of R254 with no verdict: KIND 2 (R259, R266, R415). -/
def terminalRec (s : State) (n reason : Nat) : VRec :=
  { kind := 2, term := true, reason := reason, pos := (slotOf s n).r.commit, turn := s.turns.cur, due := s.turns.cur, verdict := 0,
    nscore := 0, lo := 0, hi := 0, scores := [] }

/-- R277: the verdict, span and scores of a cell, without PUB. -/
def cellKey (ws : List W64) : List Nat := [(ws.getD 0 0).toNat - put (fld (ws.getD 0 0) 60 1) 60 1, (ws.getD 2 0).toNat, (ws.getD 3 0).toNat]

/-- R24: the verdict of a prompt cell. A prompt has no HOLD; where verdict logic stores one, the spec names no verdict: PASS, REDACT or STOP,
a free value of the tenant, the tokens and the cell alone (R32; log 110). -/
def promptVerdict (s : State) (n v : Nat) : Nat :=
  let x := slotOf s n
  let key := cellKey (memWords s.mem (cellAddr s n (x.w.runTo - 1)) 4)
  if v ≠ 1 then v
  else
    match Config.promptHold x.r.tenant (x.w.toks.take x.w.runTo) x.w.runFrom key % 3 with
    | 0 => 0
    | 1 => 2
    | _ => 3

/-- R24, R271: a prompt verdict's cell. -/
def promptCell (s : State) (n p : Nat) : Cell :=
  let c := readCell s n p
  let w := memWord s.mem (cellAddr s n p)
  let v := promptVerdict s n c.verdict
  { c with verdict := v, lo := if v = 2 then fld w 24 24 else 0, hi := if v = 2 then fld w 0 24 else 0 }

/-- The next record slot `n` has to publish, in position order (R257), with the position of its cell: the terminal record it holds, its
prompt verdict once computed, or the verdict of its next position once computed and committed (R288). -/
def nextRecord (s : State) (n : Nat) : Option (VRec × Option (Nat × Cell)) :=
  let r := (slotOf s n).r
  let w := (slotOf s n).w
  match w.term with
  | some v => some (v, none)
  | none =>
    if !slotLive r.st ∨ w.blocked then none
    else if w.runOpen ∧ w.runFrom ≤ w.published then
      let c := promptCell s n (w.runTo - 1)
      if w.runTo ≤ w.computed ∧ c.valid then
        some ({ kind := 1, term := c.verdict == 3, reason := if c.verdict = 3 then 2 else 0, pos := w.runFrom, turn := w.runTurn
                due := w.runTurn + BitVec.ofNat 32 w.runP, verdict := c.verdict, nscore := c.nscore, lo := c.lo, hi := c.hi
                scores := c.scores }, some (w.runTo - 1, c))
      else none
    else
      let p := w.published
      let c := readCell s n p
      let fin := w.final == some p
      if p < r.commit ∧ p < w.computed ∧ c.valid ∧ r.st ≠ .lost ∧ (r.st = .paused ∨ r.sub ≠ 1) then
        some ({ kind := 0, term := fin || c.verdict == 3, reason := if c.verdict = 3 then 2 else if fin then 1 else 0, pos := p
                turn := prodTurn w p, due := prodTurn w p + BitVec.ofNat 32 (lagOf r), verdict := c.verdict, nscore := c.nscore
                lo := c.lo, hi := c.hi, scores := c.scores }, some (p, c))
      else none

/-- R291: the deadline before mark `d` has passed: that mark or a later one has been accepted. -/
def duePast (s : State) (d : W32) : Bool := s.turns.seen && notEarlier s.turns.last d

/-- R274, R291: the records of slot `n` that only a wait for the host software's entries holds back are excused, unless they are late
already. -/
def excuseReady (s : State) (n : Nat) : State :=
  let r := (slotOf s n).r
  let w := (slotOf s n).w
  let past := min r.commit w.computed
  let open_ := (tab (past - w.published) fun k => w.published + k).find? fun p => !duePast s (prodTurn w p + BitVec.ofNat 32 (lagOf r))
  let out := match open_ with
    | none => []
    | some p => [(p, past)]
  let run := if w.runOpen ∧ w.runTo ≤ w.computed ∧ !duePast s (w.runTurn + BitVec.ofNat 32 w.runP) then [(w.runFrom, w.runTo)] else []
  let new := (out ++ run).filter fun q => !w.excused.any fun e => decide (e.1 ≤ q.1) && decide (q.2 ≤ e.2)
  modSlot s n fun x => { x with w := { x.w with excused := x.w.excused ++ new } }

/-- R291: a record published after its DUE, excused or missed. -/
def countLate (s : State) (n : Nat) (v : VRec) : State :=
  let w := (slotOf s n).w
  let t := (slotOf s n).r.tenant
  if v.kind = 2 ∨ !duePast s v.due then s
  else if w.excused.any (fun x => decide (x.1 < if v.kind = 1 then w.runTo else v.pos + 1) && decide (v.pos < x.2)) then
    { s with turns := { s.turns with excused := inc32 s.turns.excused } }
  else
    let s1 := { s with turns := { s.turns with missed := inc32 s.turns.missed } }
    if s.turns.missSent.contains t then s1
    else sendBlockEvent { s1 with turns := { s1.turns with missSent := t :: s1.turns.missSent } } 0x0206 (mk64 t.toNat)

/-- R242: DEADLINE and DLV from the earliest unpublished verdict: of a rebuild, the prompt verdict of its new tokens (R268). -/
def setDeadline (s : State) (n : Nat) : State :=
  modSlot s n fun x =>
    let w := x.w
    if !slotLive x.r.st then { x with r := { x.r with dlv := false, deadline := 0 } }
    else if w.rebuild.any fun old => old < w.runTo then
      { x with r := { x.r with dlv := true, deadline := w.runTurn + BitVec.ofNat 32 w.runP } }
    else if w.published < (if w.runOpen then w.runFrom else x.r.commit) then
      { x with r := { x.r with dlv := true, deadline := prodTurn w w.published + BitVec.ofNat 32 (lagOf x.r) } }
    else if w.runOpen then { x with r := { x.r with dlv := true, deadline := w.runTurn + BitVec.ofNat 32 w.runP } }
    else { x with r := { x.r with dlv := false, deadline := 0 } }

/-- R270: the bytes of token words. -/
def tokBytes (l : List W32) : List Byte := l.flatMap fun t => bytesOf 4 t.toNat

/-- COMMIT moved to `c`, TOKSUM with it (R270). -/
def commitTo (s : State) (n c : Nat) : State :=
  modSlot s n fun x =>
    { x with
      r := { x.r with
        commit := c
        toksum := crc32cMore x.r.toksum (tokBytes ((x.w.toks.take c).drop x.r.commit)) } }

/-- A row's slot is the request the row was formed for, and live (R258, R259). -/
def rowLive (s : State) (r : Row) : Bool := (slotOf s r.slot).r.sgen == r.sgen && slotLive (slotOf s r.slot).r.st

/-- R259: a slot's rows dropped from a job; a job left with none, and without remote transfers, is abandoned at its kernel boundary. The job
keeps the slot in its ended state until it has ended (R255). -/
def dropRowsJob (n : Nat) (j : Job) : Job :=
  let rows := j.rows.filter fun r => r.slot != n
  { j with
    rows := rows, dead := j.dead || (rows.isEmpty && !j.rows.isEmpty && j.fixed.isNone)
    held := if j.rows.any fun r => r.slot == n then j.held ++ [n] else j.held }

/-- R259: a slot's rows dropped from every job of its half; jobs not yet dispatched that are left empty go. -/
def dropRows (s : State) (n : Nat) : State :=
  modHalf s (slotHalf n) fun x =>
    { x with
      jobs := x.jobs.map (dropRowsJob n)
      maskJobs := (x.maskJobs.map (dropRowsJob n)).filter fun j => !j.dead
      replayJobs := (x.replayJobs.map (dropRowsJob n)).filter fun j => !j.dead
      run := x.run.map fun p =>
        { p with batches := p.batches.map fun b => { b with rows := b.rows.filter fun r => r.slot != n } } }

/-- Held messages of a request that ends, answered ENDED (R268). -/
def endHeld : List Msg → State → State
  | [], s => s
  | m :: ms, s => endHeld ms (answerSlot s m 0x11 0)

/-- R228, R254, R267: the mask records of a request that has ended or is LOST leave the open bulletin; a closed one carries the records it
closed with (R331; log 120). -/
def dropMasks (x : HalfState) (n : Nat) : HalfState :=
  { x with bullOpen := x.bullOpen.filter fun q => q.1 != n, bullPz := x.bullPz.filter fun k => k / 2 ^ 24 != n }

/-- What every end of a request does: the state, its work and reservations gone, its rows dropped, its pages released, a pause image's transfer
or fetch abandoned, held messages answered (R255, R259, R268, R297, R336). Its committed positions count once more at the close of the turn
(R156). `t` is the terminal record still to publish. -/
def endSlot (s : State) (n : Nat) (st : SlotSt) (t : Option VRec) : State :=
  let held := (slotOf s n).w.held
  let m := entriesFor (max (slotOf s n).r.head (slotOf s n).w.runTo)
  let pages := slotPages s n (entriesFor (slotOf s n).r.commit)
  let s1 := releaseAll (modHalf (dropRows s n) (slotHalf n) fun x => dropMasks x n) n m
  let s2 := modSlot s1 n fun x =>
    { x with
      r := { x.r with st := st, sub := 0, dlv := false, deadline := 0 }
      w := { x.w with
        term := t, steady := false, plans := [], maskPos := [], held := [], rebuild := none, wait := false
        away := if x.w.away.isEmpty then pages else x.w.away, awayTo := if x.w.away.isEmpty then x.r.commit else x.w.awayTo
        pause := { x.w.pause with fetch := false, chain := [] } } }
  endHeld held s2

/-- The offset of the ring entry that slot `n`'s next record goes to (R327). -/
def ringEntry (s : State) (n : Nat) : Nat :=
  let x := slotOf s n
  x.w.ringBase + 64 * (x.r.oseq.toNat % x.w.ringCount)

/-- What follows a record's publication: OSEQ, and the state of R255, R257, R268; a prompt verdict moves COMMIT and HEAD past its run
(R156, R268), which calls for the mask record of the new head (R27). The steps 5 and 6 of R268 belong to the rebuild's end. -/
def recordDone (s : State) (n : Nat) (v : VRec) : State :=
  let s1 := modSlot s n fun x => { x with r := { x.r with oseq := x.r.oseq + 1 }, w := { x.w with wait := false } }
  if v.kind = 2 then modSlot s1 n fun x => { x with w := { x.w with term := none } }
  else
    let w := (slotOf s n).w
    let s2 := if v.kind = 1 then
        modSlot (commitTo s1 n w.runTo) n fun x =>
          { x with
            r := { x.r with head := max x.r.head w.runTo, st := if x.r.st = .prompt then .ready else x.r.st }
            w := { x.w with
              runOpen := false, plans := [], published := w.runTo
              maskPos := if x.r.masks && x.r.st != .lost then x.w.maskPos ++ [{ pos := w.runTo, back := false, addr := none }] else x.w.maskPos } }
      else modSlot s1 n fun x => { x with w := { x.w with published := v.pos + 1 } }
    setDeadline (if v.term then endSlot s2 n .done none else s2) n

/-- R410: the last job of a lane whose kernels have written position `p` of a request. -/
def ranFor (w : SlotWork) (mask : Bool) (p : Nat) : Option Ran :=
  w.ran.reverse.find? fun k => k.mask == mask && decide (k.first ≤ p ∧ p < k.past)

/-- R407 points 0x06 and 0x08: a cell with poison, or a span that breaks R272, is a detection; publication of the request waits. -/
def refuseCell (s : State) (n p src : Nat) : State :=
  let s1 := detect (countPoison s (cellAddr s n p) 64)
    { (Detect.plain src (slotHalf n) 0) with
      reqs := [(n, (slotOf s n).r.sgen)], pos := p, job := (ranFor (slotOf s n).w false p).map (·.num) }
  modSlot s1 n fun x => { x with w := { x.w with blocked := true } }

/-- R273, R274: publish into the ring entry when the block owns it, else begin a wait with one RING_FULL. -/
def publishRing (s : State) (n : Nat) (v : VRec) : State :=
  let off := ringEntry s n
  if ownedByBlock s off then
    let seq := (slotOf s n).r.oseq
    let s1 := putSlotWords s off (recordWords s n v) 1
    publishNotice (recordDone (countLate s1 n v) n v) (.ring (slotOf s n).r.ring) seq
  else if (slotOf s n).w.wait then excuseReady s n
  else
    sendSlotEvent (modSlot (excuseReady s n) n fun x => { x with w := { x.w with wait := true } }) n 0x0103
      (mk64 (slotOf s n).r.oseq.toNat)

/-- Publish the next record of a RING slot; the answer says whether one was published. -/
def publishStep (s : State) (n : Nat) : State × Bool :=
  if !windowOpen s ∨ (slotOf s n).r.omode then (s, false)
  else
    match nextRecord s n with
    | none => (s, false)
    | some (v, none) => (publishRing s n v, ownedByBlock s (ringEntry s n))
    | some (v, some (p, c)) =>
      if c.pz then (refuseCell s n p 0x06, false)
      else if !spanOk (slotOf s n).w (v.kind == 1) p c then (refuseCell s n p 0x08, false)
      else if ownedByBlock s (ringEntry s n) then (publishRing (stampCell s n p v.due v.turn) n v, true)
      else (publishRing s n v, false)

/-- Publish the records of a RING slot while it can (R288), by fuel. -/
def publishLoop : Nat → State → Nat → State
  | 0, s, _ => s
  | k + 1, s, n =>
    let r := publishStep s n
    if r.2 then publishLoop k r.1 n else r.1

/-- Publish every record of a RING slot that is computed, committed and has its entry (R288). -/
def publishSlot (s : State) (n : Nat) : State :=
  publishLoop ((slotOf s n).r.commit - (slotOf s n).w.published + 2) s n

/-- R263, R267: the image of slot `n` will not be fetched: the handles marked while it was, and so over pages it never filled, go, and what was
admitted from them fails (log 140). -/
def voidFill (s : State) (n : Nat) : State :=
  let q := some (n, (slotOf s n).r.sgen)
  let gone := ((half s (slotHalf n)).handles.filterMap (·.2)).filter fun e => e.filling == q
  let s1 := modHalf s (slotHalf n) fun x =>
    { x with
      handles := x.handles.filter fun p => p.2.all fun e => e.filling != q
      unused := x.unused ++ gone.flatMap fun e => e.pages ++ if e.ext = 0 then [] else [e.ext] }
  ((s1.slots.filter fun p => p.2.w.fillFrom == q && slotLive p.2.r.st).map (·.1)).foldl
    (fun s k =>
      let s2 := publishSlot (endSlot s k .failed (some (terminalRec s k 4))) k
      { s2 with errs := { s2.errs with failed := inc16 s2.errs.failed } }) s1

/-- R259, R415: a request ended by a RESIGN or moved to FAILED: the terminal record takes the next SEQ. -/
def endRequest (s : State) (n : Nat) (st : SlotSt) (reason : Nat) : State :=
  let s1 := publishSlot (endSlot s n st (some (terminalRec s n reason))) n
  if (slotOf s n).w.pause.fetch then voidFill s1 n else s1

/-- R415: a request moved to FAILED by an error counts in ERR_STAT.FAILED. -/
def failRequest (s : State) (n reason : Nat) : State :=
  let s1 := endRequest s n .failed reason
  { s1 with errs := { s1.errs with failed := inc16 s1.errs.failed } }

/-- The mask bulletin ring of a half: base, count, records per bulletin (R321 word 7 + h). -/
def bullRing (s : State) (h : Half) : Nat × Nat × Nat :=
  (fld (dirWord s (7 + halfNum h)) 0 36, fld (dirWord s (7 + halfNum h)) 48 16, fld (dirWord s (7 + halfNum h)) 40 8)

/-- R329: the window offset of bulletin `q`. -/
def bullOff (s : State) (h : Half) (q : W32) : Nat :=
  let r := bullRing s h
  r.1 + q.toNat % r.2.1 * (64 + 128 * r.2.2)

/-- R329, R330: a closed bulletin written whole and handed over, POISON when it replaces a poisoned record. -/
def writeBulletin (s : State) (h : Half) (b : Bulletin) : State :=
  let off := bullOff s h b.seq
  let s1 := { s with mem := memWrite s.mem (winAddr s (off + 64)) (b.recs.flatMap (·.2)) }
  let s2 := putSlotWords s1 off
    [mk64 (put b.recs.length 32 16), mk64 (put b.seq.toNat 32 32 + put s.turns.cur.toNat 0 32), b.poison.getD 0, 0, 0, 0, 0]
    (if b.poison.isSome then 3 else 1)
  publishNotice s2 (.mask h) b.seq

/-- R331: waiting bulletins written in sequence order while their slots read BLOCK. -/
def drainBulletins : List Bulletin → State → Half → State
  | [], s, h => modHalf s h fun x => { x with bullWait := [] }
  | b :: bs, s, h =>
    if windowOpen s ∧ ownedByBlock s (bullOff s h b.seq) then drainBulletins bs (writeBulletin s h b) h
    else modHalf s h fun x => { x with bullWait := b :: bs }

/-- R331: a bulletin closed: it joins those waiting, which are written as far as their slots allow; BULLETIN_WAIT once per wait. -/
def closeBulletin (s : State) (h : Half) (recs : List (Nat × List PByte)) (pz : Option W64) : State :=
  let b : Bulletin := { seq := (half s h).bullSeq, recs := recs, poison := pz }
  let was := (half s h).bullWait
  let s1 := modHalf s h fun x => { x with bullSeq := x.bullSeq + 1 }
  let s2 := drainBulletins (was ++ [b]) s1 h
  match (half s2 h).bullWait with
  | [] => s2
  | b' :: _ => if was.isEmpty then sendHalfEvent s2 h 0x0307 (mk64 b'.seq.toNat) else s2

/-- The open bulletin handed over (R329). -/
def closeOpen (s : State) (h : Half) : State :=
  if (half s h).bullOpen.isEmpty then s
  else closeBulletin (modHalf s h fun x => { x with bullOpen := [] }) h (half s h).bullOpen none

/-- R329: a mask record, with its slot, appended to the open bulletin, which closes when it holds RECS records. -/
def appendMask (s : State) (h : Half) (rec_ : Nat × List PByte) : State :=
  let s1 := modHalf s h fun x =>
    { x with bullOpen := x.bullOpen ++ [rec_], bullSince := if x.bullOpen.isEmpty then s.now else x.bullSince }
  if (half s1 h).bullOpen.length < (bullRing s h).2.2 then s1 else closeOpen s1 h

/-- R227, R330: publish the mask record at `a` that names position `p` of slot `n`; a poisoned one goes alone, with its poison, into a POISON
bulletin, and is a detection (0x07) of the job that wrote it. -/
def publishMask (s : State) (n p a : Nat) : State :=
  let h := slotHalf n
  let rec_ := (n, memRead s.mem a 128)
  let r := (slotOf s n).r
  if memAnyPz s.mem a 128 then
    let s1 := closeBulletin (closeOpen (countPoison s a 128) h) h [rec_]
      (some (mk64 (put r.tenant.toNat 48 16 + put n 32 16 + put p 8 24)))
    let s2 := modHalf s1 h fun x => { x with bullPz := x.bullPz ++ [n * 2 ^ 24 + p] }
    detect s2 { (Detect.plain 0x07 h 0) with reqs := [(n, r.sgen)], pos := p, job := (ranFor (slotOf s n).w true (p - 1)).map (·.num) }
  else appendMask s h rec_

/-- R227, R228: the mask records owed to a slot, in message order, as far as their position blocks are written; the blocks past a takeback's
position are to be written again after its record. By fuel. -/
def publishMasks : Nat → State → Nat → State
  | 0, s, _ => s
  | k + 1, s, n =>
    match (slotOf s n).w.maskPos with
    | [] => s
    | o :: os =>
      if !windowOpen s ∨ !slotLive (slotOf s n).r.st then s
      else if o.pos ≤ (slotOf s n).w.masked then
        let s1 := modSlot s n fun x => { x with w := { x.w with maskPos := os, masked := if o.back then min x.w.masked o.pos else x.w.masked } }
        publishMasks k (publishMask s1 n o.pos (o.addr.getD (maskAddr s n (o.pos - 1)))) n
      else s

/-- Every mask record a slot is owed whose block is written. -/
def drainMasks (s : State) (n : Nat) : State := publishMasks ((slotOf s n).w.maskPos.length + 1) s n

/-- R327, R328: the window offset of a tenant's entry in the batch pool table. -/
def poolAt (s : State) (t : Nat) : Nat := fld (dirWord s 2) 0 36 + 16 * t

/-- R327, R328: the batch pool of a tenant: base, count, records per buffer. -/
def poolOf (s : State) (t : Nat) : Nat × Nat × Nat :=
  let off := poolAt s t
  (fld (winWord s off) 0 36, fld (winWord s (off + 8)) 32 16, fld (winWord s (off + 8)) 0 16)

/-- R328: the offset of the buffer with BSEQ `q`. -/
def bufferOff (s : State) (t q : Nat) : Nat :=
  let p := poolOf s t
  p.1 + q % p.2.1 * (64 * (p.2.2 + 1))

/-- The next BSEQ of a tenant (R275). -/
def bseqOf (s : State) (t : Nat) : Nat := smGet 0 s.bseqs t

/-- A tenant's next buffer is BLOCK-owned (R274, R275). -/
def bufferRoom (s : State) (t : Nat) : Bool := (poolOf s t).2.1 != 0 && ownedByBlock s (bufferOff s t (bseqOf s t))

/-- A batch turn being written: records in the open buffer, the number of buffers opened, and whether the buffers ran out. -/
structure BatchTurn where
  recs : Nat
  part : Nat
  full : Bool
  deriving DecidableEq, Repr

/-- R275: the header of the open buffer, and its owner HOST. -/
def closeBuffer (s : State) (t : Nat) (turn : W32) (b : BatchTurn) (last : Bool) : State :=
  let q := bseqOf s t
  let s1 := putSlotWords s (bufferOff s t q)
    [mk64 (put t 48 16 + put b.part 32 16 + put (b2n last) 31 1 + put b.recs 0 16), mk64 (put turn.toNat 32 32 + put q 0 32), 0, 0, 0, 0, 0] 1
  let s2 := { s1 with bseqs := smSet 0 s1.bseqs t ((q + 1) % 2 ^ 32) }
  publishNotice s2 (.tenant (BitVec.ofNat 16 t)) (BitVec.ofNat 32 q)

/-- A buffer can take one more record of the tenant: the open one, or the next one when that is full. -/
def recordRoom (s : State) (t : Nat) (b : BatchTurn) : Bool :=
  if b.recs ≠ 0 ∧ (poolOf s t).2.2 ≤ b.recs then ownedByBlock s (bufferOff s t ((bseqOf s t + 1) % 2 ^ 32)) else bufferRoom s t

/-- R275: one record of slot `n` placed in the turn's buffers; a full buffer is handed over and the next one opened, the pool entry read (R328,
R348). -/
def batchRecord (s : State) (n : Nat) (v : VRec) (turn : W32) (b : BatchTurn) : State × BatchTurn :=
  let t := (slotOf s n).r.tenant.toNat
  let closed := b.recs ≠ 0 ∧ (poolOf s t).2.2 ≤ b.recs
  let s0 := if closed then closeBuffer s t turn b false else s
  let b1 : BatchTurn := if closed then { b with recs := 0, part := b.part + 1 } else b
  let s1 := if b1.recs = 0 then countPoison s0 (winAddr s (poolAt s t)) 16 else s0
  if bufferRoom s1 t then
    let off := bufferOff s1 t (bseqOf s1 t) + 64 * (b1.recs + 1)
    let s2 := winPut s1 off (recordWords s1 n v ++ [0])
    (recordDone (countLate s2 n v) n v, { b1 with recs := b1.recs + 1 })
  else if (slotOf s1 n).w.wait then (excuseReady s1 n, { b1 with full := true })
  else
    (sendSlotEvent (modSlot (excuseReady s1 n) n fun x => { x with w := { x.w with wait := true } }) n 0x0103
      (mk64 (slotOf s1 n).r.oseq.toNat),
     { b1 with full := true })

/-- R275: a record was ready when the turn's plan ended. -/
def inLim (l : BatchLim) (v : VRec) (c : Option (Nat × Cell)) : Bool :=
  if v.kind = 2 then l.term else if v.kind = 1 then (c.map fun q => decide (q.1 < l.prompt)).getD false else decide (v.pos < l.out)

/-- R275: the records of a slot that its limits take in, in position order, by fuel. -/
def batchSlot : Nat → State → BatchLim → W32 → BatchTurn → State × BatchTurn
  | 0, s, _, _, b => (s, b)
  | k + 1, s, l, turn, b =>
    let n := l.slot
    match nextRecord s n with
    | none => (s, b)
    | some (v, c) =>
      if !inLim l v c ∨ (slotOf s n).r.sgen ≠ l.sgen then (s, b)
      else if b.full then (excuseReady s n, b)
      else
        match c with
        | none =>
          let r := batchRecord s n v turn b
          if r.2.full then r else batchSlot k r.1 l turn r.2
        | some (p, cell) =>
          if cell.pz then (refuseCell s n p 0x06, b)
          else if !spanOk (slotOf s n).w (v.kind == 1) p cell then (refuseCell s n p 0x08, b)
          else
            let r := batchRecord (if recordRoom s (slotOf s n).r.tenant.toNat b then stampCell s n p v.due v.turn else s) n v turn b
            if r.2.full then r else batchSlot k r.1 l turn r.2

/-- R275: the records of a tenant's slots in ascending slot ID. -/
def batchSlots : List BatchLim → State → W32 → BatchTurn → State × BatchTurn
  | [], s, _, b => (s, b)
  | l :: ls, s, turn, b =>
    let r := batchSlot ((slotOf s l.slot).r.commit - (slotOf s l.slot).w.published + 2) s l turn b
    batchSlots ls r.1 turn r.2

/-- The BATCH slots of a tenant, in ascending slot ID. -/
def batchMembers (s : State) (t : BitVec 16) : List Nat :=
  (s.slots.filter fun p => p.2.r.tenant == t && p.2.r.omode && p.2.r.st != .free).map (·.1)

/-- R275: what of a slot is ready as a turn's plan ends. -/
def batchLim (s : State) (n : Nat) : BatchLim :=
  let x := slotOf s n
  { slot := n, sgen := x.r.sgen, out := min x.r.commit x.w.computed, prompt := x.w.computed, term := x.w.term.isSome }

/-- R407 points 0x06 and 0x08: what is wrong with a computed cell. -/
def cellFault (w : SlotWork) (prompt : Bool) (p : Nat) (c : Cell) : Option (Nat × Nat) :=
  if !c.valid then none else if c.pz then some (p, 0x06) else if !spanOk w prompt p c then some (p, 0x08) else none

/-- R157: before the turn closes, the cells that a BATCH slot has ready are read: one with poison or a bad span is a detection, whose replay
belongs to the turn. -/
def checkReady (s : State) (n : Nat) : State :=
  let x := slotOf s n
  let out := if x.r.st = .lost ∨ (x.r.sub = 1 ∧ x.r.st ≠ .paused) then []
    else tab (min (closedTo x) x.w.computed - x.w.published) fun k => x.w.published + k
  let run := if x.w.runOpen ∧ x.w.runTo ≤ x.w.computed then cellFault x.w true (x.w.runTo - 1) (promptCell s n (x.w.runTo - 1)) else none
  if !slotLive x.r.st ∨ x.w.blocked ∨ !x.r.omode then s
  else
    match (out.findSome? fun p => cellFault x.w false p (readCell s n p)).orElse fun _ => run with
    | none => s
    | some (p, src) => refuseCell s n p src

/-- R275: what a half's slots of a tenant have ready as plan `turn` ends there joins the tenant's turn; `last` says that it has ended in the
other half too. -/
def batchJoin (s : State) (h : Half) (t : BitVec 16) (turn : W32) (last : Bool) : State :=
  let mine := ((batchMembers s t).filter fun n => slotHalf n == h).map (batchLim s)
  if s.bwaits.any fun w => w.tenant == t && w.turn == turn then
    { s with
      bwaits := s.bwaits.map fun w =>
        if w.tenant = t ∧ w.turn = turn then
          { w with lims := if h = .A then mine ++ w.lims else w.lims ++ mine, ready := w.ready || last }
        else w }
  else { s with bwaits := s.bwaits ++ [{ tenant := t, turn := turn, part := 0, lims := mine, ready := last }] }

/-- R274: the records that wait for a tenant's buffers are excused. -/
def excuseWaits (s : State) (t : BitVec 16) : State :=
  ((s.bwaits.filter fun w => w.tenant == t && w.ready).flatMap (·.lims)).foldl
    (fun s l =>
      match nextRecord s l.slot with
      | none => s
      | some (v, c) => if inLim l v c ∧ (slotOf s l.slot).r.sgen = l.sgen then excuseReady s l.slot else s) s

/-- R274, R275, R276: a tenant's turns handed over, the oldest first, until buffers run out; by fuel. -/
def drainBatches : Nat → State → BitVec 16 → State
  | 0, s, _ => s
  | k + 1, s, t =>
    match s.bwaits.find? fun w => w.tenant == t with
    | none => s
    | some w =>
      if !w.ready ∨ !windowOpen s then s
      else
        let r := batchSlots w.lims s w.turn { recs := 0, part := w.part, full := false }
        if r.2.full then
          excuseWaits { r.1 with bwaits := r.1.bwaits.map fun x => if x = w then { x with part := r.2.part } else x } t
        else
          let s1 := if r.2.recs = 0 then r.1 else closeBuffer r.1 t.toNat w.turn r.2 true
          drainBatches k { s1 with bwaits := s1.bwaits.filter fun x => x != w } t

/-- Every turn a tenant can hand over. -/
def drainTenant (s : State) (t : BitVec 16) : State := drainBatches (s.bwaits.length + 1) s t

/-- The tenants with BATCH slots. -/
def batchTenants (s : State) : List (BitVec 16) :=
  ((s.slots.filter fun p => p.2.r.omode && p.2.r.st != .free).map fun p => p.2.r.tenant).eraseDups

end Sys2Proof.Machine
end

