-- ==== Sys2Proof/Machine/Codec.lean ====
section
/-! DEFINITION. The inter-chip block code (spec/13_plan_groups_and_links.md R361 to R364). -/

namespace Sys2Proof.Machine

/-- R362: bit `i` of a byte list, most significant bit of the first byte first. -/
def byteBits (bs : List Byte) : List Bool := bs.flatMap fun b => tab 8 fun i => b.toNat.testBit (7 - i)

/-- Bits packed into bytes, most significant first, the unused low bits of the last byte zero (R362). -/
def bitsBytes (l : List Bool) : List Byte :=
  (chunks 8 l).map fun c => BitVec.ofNat 8 ((List.range 8).foldl (fun n i => 2 * n + b2n (c.getD i false)) 0)

/-- R362: the number of symbols with codeword length `l`, for `l` of 1 and above. -/
def lenCount (lens : List Nat) (l : Nat) : Nat := if l = 0 then 0 else (lens.filter fun x => x == l).length

/-- R362: `next[l]`, the first codeword of length `l`. -/
def firstCode (lens : List Nat) : Nat → Nat
  | 0 => 0
  | l + 1 => (firstCode lens l + lenCount lens l) * 2

/-- R362: the codeword of symbol `s`, in ascending symbol order within its length. -/
def codeword (lens : List Nat) (s : Nat) : Nat :=
  firstCode lens (lens.getD s 0) + ((lens.take s).filter fun x => x == lens.getD s 0).length

/-- The bits of codeword `c` of length `l`, most significant first. -/
def codeBits (c l : Nat) : List Bool := tab l fun i => c.testBit (l - 1 - i)

/-- R362: the lengths obey the Kraft inequality, and symbols at and above 2^k have none. -/
def tableOk (lens : List Nat) (k : Nat) : Bool :=
  decide (((lens.map fun l => if l = 0 then 0 else 2 ^ (15 - l)).sum) ≤ 2 ^ 15) && (lens.drop (2 ^ k)).all (· == 0)

/-- R362: the 256 lengths stored in a table's 128 bytes, two to a byte. -/
def tableLens (bs : List Byte) : List Nat := bs.flatMap fun b => [b.toNat % 16, b.toNat / 16]

/-- R367: the lengths of the fixed table 0xfff. -/
def fixedLens : List Nat := 1 :: List.replicate 255 9

/-- R361: a block header. -/
def blockHdr (size : Nat) (raw : Bool) (seq table gen : Nat) : Nat :=
  put size 23 9 + put (b2n raw) 22 1 + put seq 18 4 + put table 6 12 + put gen 4 2

/-- Bytes zero-padded to a multiple of 4 (R361). -/
def pad4 (bs : List Byte) : List Byte := bs ++ List.replicate ((4 - bs.length % 4) % 4) 0

/-- R361, R363: one block coded with a table's lengths, or sent raw. -/
def encodeBlock (lens : List Nat) (width table gen seq : Nat) (bs : List Byte) : List Byte :=
  let codes := (unpackCodes width (clean bs)).map (·.1)
  let coded := bitsBytes (codes.flatMap fun c => codeBits (codeword lens c) (lens.getD c 0))
  let raw := codes.any (fun c => lens.getD c 0 == 0) || decide (blockBytes width ≤ coded.length)
  let body := if raw then bs else coded
  bytesOf 4 (blockHdr body.length raw seq table gen) ++ pad4 body

/-- The blocks of a packet with its poison: a block with a poisoned byte is poisoned throughout. -/
def encodeMarked (lens : List Nat) (width table gen : Nat) : Nat → List (List PByte) → List PByte
  | _, [] => []
  | seq, b :: bs =>
    ((encodeBlock lens width table gen seq (b.map (·.1))).map fun x => (x, b.any (·.2))) ++ encodeMarked lens width table gen (seq + 1) bs

/-- The symbol whose codeword is `c` of length `l`. -/
def findSymbol (lens : List Nat) (c l : Nat) : Option Nat :=
  (List.range lens.length).find? fun s => lens.getD s 0 == l && codeword lens s == c

/-- `n` values decoded from bits; `acc` and `l` hold the bits of the codeword begun. None when the bits end early or match nothing (R364). -/
def decodeBits (lens : List Nat) : List Bool → Nat → Nat → Nat → Option (List Nat × List Bool)
  | rest, 0, _, _ => some ([], rest)
  | [], _ + 1, _, _ => none
  | b :: bs, n + 1, acc, l =>
    if 15 ≤ l then none
    else
      match findSymbol lens (2 * acc + b2n b) (l + 1) with
      | none => decodeBits lens bs (n + 1) (2 * acc + b2n b) (l + 1)
      | some s => (decodeBits lens bs n 0 0).map fun r => (s :: r.1, r.2)

/-- A block as received: its packed codes, its TABLE and SEQ, whether poison reached it, and the NAK reason of R364 when it fails. -/
structure RBlock where
  data : List Byte
  table : Nat
  seq : Nat
  pz : Bool
  bad : Option Nat
  deriving DecidableEq, Repr

/-- The lengths a receiver decodes table `t`, generation `g` with, when it is not EMPTY and has the width (R364, R366, R367). -/
def rxLens (s : State) (t g width : Nat) : Option (List Nat) :=
  if t = 0xfff then if g = 0 ∧ width = 2 then some fixedLens else none
  else
    let c := smGet CodeTable.empty s.group.codes t
    match c.gens[g]? with
    | none => none
    | some x => if x.st = 0 ∨ c.width ≠ width then none else some x.lens

/-- R364: one block decoded; the padding bytes after SIZE are zero (R361). -/
def decodeBlock (s : State) (width hdr : Nat) (pz : Bool) (body : List Byte) : RBlock :=
  let size := hdr / 2 ^ 23 % 512
  let ok : RBlock := { data := List.replicate (blockBytes width) 0, table := hdr / 2 ^ 6 % 4096, seq := hdr / 2 ^ 18 % 16, pz := pz, bad := none }
  let fail (r : Nat) : RBlock := { ok with bad := some r }
  match rxLens s (hdr / 2 ^ 6 % 4096) (hdr / 16 % 4) width with
  | none => fail 3
  | some lens =>
    if body.length < size ∨ ((body.take ((size + 3) / 4 * 4)).drop size).any (· != 0) then fail 1
    else if hdr / 2 ^ 22 % 2 = 1 then
      if size = blockBytes width then { ok with data := body.take size } else fail 1
    else if blockBytes width ≤ size then fail 1
    else
      match decodeBits lens (byteBits (body.take size)) 256 0 0 with
      | none => fail 1
      | some (codes, rest) =>
        if 8 ≤ rest.length ∨ rest.any (·) then fail 1
        else { ok with data := (packCodes width (codes.map fun c => (c, false))).map (·.1) }

/-- The blocks of a body, by fuel, and the sum of their lengths (R361, R364). -/
def decodeBody (s : State) (width : Nat) : Nat → List PByte → List RBlock × Nat
  | 0, _ => ([], 0)
  | n + 1, bs =>
    if bs.length < 4 then ([], 0)
    else
      let hdr := numOf ((bs.take 4).map (·.1))
      let size := hdr / 2 ^ 23 % 512
      let len := 4 + (size + 3) / 4 * 4
      let r := decodeBody s width n (bs.drop len)
      (decodeBlock s width hdr ((bs.take len).any (·.2)) ((bs.drop 4).map (·.1)) :: r.1, len + r.2)

/-- R364: within an item each SEQ is the one before plus 1, modulo 16. -/
def seqRun : List RBlock → List RBlock
  | [] => []
  | [b] => [b]
  | a :: b :: bs =>
    a :: (if b.seq = (a.seq + 1) % 16 then seqRun (b :: bs) else
      match seqRun (b :: bs) with
      | [] => []
      | x :: xs => { x with bad := some (x.bad.getD 2) } :: xs)

/-- The first NAK reason among the blocks. -/
def firstBad (l : List RBlock) : Option Nat := l.findSome? fun b => b.bad

end Sys2Proof.Machine
end

