-- ==== Sys2Proof/Machine/Exchange.lean ====
section
/-! DEFINITION. Exchanges between blocks and channel buffers between tiles (spec/13 R353 to R359, R365, spec/04 R125 to R127). -/

namespace Sys2Proof.Machine

/-- R353: the window offset of slot `k` of a ring: 0 OUT_A, 1 IN_A, 2 OUT_B, 3 IN_B. -/
def xchSlot (s : State) (ring k : Nat) : Nat :=
  s.group.areaBase.toNat * 2 ^ 16 + (ring * 2 ^ s.group.areaLog2.toNat + k % 2 ^ s.group.areaLog2.toNat) * 4096

/-- The OUT ring of a half. -/
def outRing (h : Half) : Nat := 2 * halfNum h

/-- The IN ring of a half. -/
def inRing (h : Half) : Nat := 2 * halfNum h + 1

/-- Words 0 to 3 of an item header (R354). -/
def itemWords (i : Item) : List W64 :=
  [mk64 (put i.kind 56 8 + put 2 48 8 + put i.dst.toNat 32 16 + put i.src.toNat 16 16 + put i.group.toNat 0 16),
   mk64 (put i.dtile.toNat 54 10 + put i.stile.toNat 44 10 + put i.chan.toNat 40 4 + put (b2n i.scale) 39 1 + put (b2n i.coded) 38 1
     + put i.width 36 2 + put i.words 32 4 + put i.xid 16 16 + put i.replay 12 4),
   mk64 (put i.turn.toNat 32 32 + put i.size 0 32),
   mk64 (put (b2n i.pz) 8 1 + put i.reason 0 8)]

/-- The item in the slot at `off`, as its header names it (R354). -/
def readItem (s : State) (off : Nat) : Item :=
  let w0 := winWord s off
  let w1 := winWord s (off + 8)
  let w2 := winWord s (off + 16)
  let w3 := winWord s (off + 24)
  { kind := fld w0 56 8, dst := BitVec.ofNat 16 (fld w0 32 16), src := BitVec.ofNat 16 (fld w0 16 16), group := BitVec.ofNat 16 (fld w0 0 16)
    dtile := BitVec.ofNat 10 (fld w1 54 10), stile := BitVec.ofNat 10 (fld w1 44 10), chan := BitVec.ofNat 4 (fld w1 40 4), scale := bit w1 39
    coded := bit w1 38, width := fld w1 36 2, words := fld w1 32 4, xid := fld w1 16 16, replay := fld w1 12 4
    turn := BitVec.ofNat 32 (fld w2 32 32), size := fld w2 0 32, pz := bit w3 8, reason := fld w3 0 8
    body := memRead s.mem (winAddr s (off + 64)) (min 4032 (fld w2 0 32)) }

/-- R354: the plan that an item of turn `t` belongs to: one that waits to take over, from its START on. -/
def itemPlan (s : State) (t : W32) : Option PlanDef :=
  match s.group.next with
  | some p => if notEarlier t p.start then some p else planFor s t
  | none => planFor s t

/-- R354: KIND 1 to 4, CVER 0x02, DST and GROUP the block's own, no reserved bit set. -/
def itemOk (s : State) (off : Nat) : Bool :=
  let w0 := winWord s off
  let i := readItem s off
  decide (1 ≤ i.kind ∧ i.kind ≤ 4) && fld w0 48 8 == 2 && i.dst == s.su.addr && i.group == (((itemPlan s i.turn).map (·.group)).getD 0)
    && fld (winWord s (off + 8)) 0 12 == 0 && fld (winWord s (off + 24)) 9 55 == 0 && winWord s (off + 32) == 0
    && winWord s (off + 40) == 0 && winWord s (off + 48) == 0 && fld (winWord s (off + 56)) 0 62 == 0

/-- R353, R355: the next OUT slot of a half in ascending index that reads BLOCK. -/
def freeOut (s : State) (h : Half) : Option Nat :=
  (tab (2 ^ s.group.areaLog2.toNat) fun k => ((half s h).outNext + k) % 2 ^ s.group.areaLog2.toNat).find? fun k =>
    windowOpen s && ownedByBlock s (xchSlot s (outRing h) k)

/-- R353, R355: items written into OUT slots in ascending index; while none reads BLOCK they wait, with XCH_OUT_WAIT once per wait. -/
def drainOut : List Item → State → Half → State
  | [], s, h => modHalf s h fun x => { x with outQueue := [], outWait := false }
  | i :: is, s, h =>
    match freeOut s h with
    | some k =>
      let off := xchSlot s (outRing h) k
      let s1 := { s with mem := memWrite s.mem (winAddr s (off + 64)) i.body }
      let s2 := putSlotWords s1 off (itemWords i ++ [0, 0, 0]) 1
      drainOut is (modHalf s2 h fun x => { x with outNext := (k + 1) % 2 ^ s.group.areaLog2.toNat }) h
    | none =>
      let s1 := modHalf s h fun x => { x with outQueue := i :: is, outWait := true }
      if (half s h).outWait then s1 else sendHalfEvent s1 h 0x0505 (mk64 (halfNum h))

/-- An item queued for the OUT ring of a half. -/
def pushOut (s : State) (h : Half) (i : Item) : State := drainOut ((half s h).outQueue ++ [i]) s h

/-- The bytes of a packet. -/
def packetBytes (ws : List QWord) : List PByte := ws.flatMap wordBytes

/-- The blocks of 256 values in a packet of a given width (R361). -/
def packetBlocks (width : Nat) (ws : List QWord) : List (List PByte) := chunks (blockBytes width) (packetBytes ws)

/-- R365: the block records of a SCALE packet as its sender counts them: its 64-byte records up to the last that is not zero (log 105). -/
def scaleRecords (ws : List QWord) : Nat :=
  let l := (chunks 64 ((packetBytes ws).map (·.1))).map fun r => r.all (· == 0)
  l.length - (l.reverse.takeWhile (·)).length

/-- R365: SEQ stamped into the block records of a SCALE packet, from `seq` on. -/
def stampScale (ws : List QWord) (seq n : Nat) : List PByte :=
  ((chunks 64 (packetBytes ws)).zipIdx).flatMap fun p =>
    if p.2 < n then
      p.1.zipIdx.map fun b => if b.2 = 7 then (BitVec.ofNat 8 (b.1.1.toNat % 16 + 16 * ((seq + p.2) % 16)), b.1.2) else b.1
    else p.1

/-- R366: the current generation of table `t` and its lengths; table 0xfff is fixed, with GEN 0 alone (R367). -/
def curGen (s : State) (t : Nat) : Nat × List Nat :=
  let c := smGet CodeTable.empty s.group.codes t
  if t = 0xfff then (0, fixedLens)
  else
  match c.gens[c.cur]? with
  | some g => (c.cur, if g.st = 2 then g.lens else [])
  | none => (0, [])

/-- The item of a kept packet, coded at the table's current generation (R355, R361, R363, R365), with that generation. -/
def keptItem (s : State) (k : Kept) : Item × Option Nat :=
  let g := curGen s k.table
  let body := if k.coded then encodeMarked g.2 k.width k.table g.1 k.seq (packetBlocks k.width k.words)
    else if k.chan.scale then stampScale k.words k.seq (scaleRecords k.words) else packetBytes k.words
  ({ kind := if k.chan.scale then 2 else 1, dst := k.chan.block, src := s.su.addr, group := ((planFor s k.turn).map (·.group)).getD 0
     dtile := k.chan.tile, stile := k.tile, chan := k.chan.chan, scale := k.chan.scale, coded := k.coded, width := k.width
     words := k.words.length, xid := k.xid, replay := k.replay, turn := k.turn, size := body.length, pz := false, reason := 0, body := body },
   if k.coded then some g.1 else none)

/-- Two kept packets are on one channel stream. -/
def sameStream (a b : Kept) : Bool := a.tile == b.tile && a.chan == b.chan

/-- R406: words of the staging store with one flipped bit are corrected as they are read, and counted. -/
def countStage (s : State) (n : Nat) : State :=
  { s with errs := { s.errs with ceStage := BitVec.ofNat 32 (satAdd s.errs.ceStage.toNat n 32) } }

/-- R355: kept packets that wait are sent while their stream has fewer than 2 items not yet acknowledged. -/
def kickSends : List Kept → List Kept → State → Half → State
  | [], done, s, h => modHalf s h fun x => { x with kept := done }
  | k :: ks, done, s, h =>
    if k.waiting ∧ (done.filter fun d => sameStream d k && !d.waiting).length < 2 then
      let i := keptItem s k
      kickSends ks (done ++ [{ k with waiting := false, gen := i.2, ce := 0 }]) (pushOut (countStage s k.ce) h i.1) h
    else kickSends ks (done ++ [k]) s h

/-- Every kept packet of a half that may go is sent. -/
def kick (s : State) (h : Half) : State := kickSends (half s h).kept [] s h

/-- The member index of a block address in the plan in force (R350). -/
def memberOf (s : State) (a : BitVec 16) : Option Nat :=
  match s.group.plan with
  | none => none
  | some p => p.addrs.findIdx? (· == a)

/-- R358: a block is marked absent. -/
def isAbsent (s : State) (a : BitVec 16) : Bool :=
  match memberOf s a with
  | none => false
  | some m => s.group.absent.getLsbD m

/-- R424: the half of a local far tile has been stopped. -/
def farStopped (s : State) (c : Chan) : Bool := c.isLocal && (half s (tileHalf c.tile.toNat)).stopped

/-- The flight entries of a tile's XF with a SEND marked accepted (R355). -/
def acceptSend (s : State) (t : Nat) (c : Chan) (xid : Nat) : State :=
  let tl := tileOf s t
  let x := eng tl .xf
  let f := x.flight.map fun e =>
    match e.pend with
    | .send c' coded width table ws xid' _ => if c' = c ∧ xid' = xid then { e with pend := .send c' coded width table ws xid' 2 } else e
    | _ => e
  setTile s t (setEng tl .xf { x with flight := f })

/-- R361: the SEQ an item of a stream took when it was first sent in a plan. -/
def sentSeq (x : HalfState) (key : Nat) (turn : W32) (xid : Nat) : Option Nat :=
  (x.seqLog.find? fun q => q.1 == key && q.2.1 == turn && q.2.2.1 == xid).map (·.2.2.2)

/-- R355: a remote SEND issued by tile `t`: to an absent member it completes at once and its item is discarded (R358); else its packet
is kept and sent. The SEQ of its first block is taken at the first sending and the stream's count advanced then; a replay of the kernel
sends the item with the same SEQ (R359, R361). -/
def issueSend (s : State) (t : Nat) (c : Chan) (coded : Bool) (width table : Nat) (ws : List QWord) (xid : Nat) : State :=
  if isAbsent s c.block then acceptSend s t c xid
  else
    let h := tileHalf t
    let key := t * 2 ^ 64 + chanKey c true
    let turn := (tileOf s t).turn
    let seq := smGet 0 (half s h).seqs key
    let n := if coded then (packetBlocks width ws).length else if c.scale then scaleRecords ws else 0
    let old := sentSeq (half s h) key turn xid
    let k : Kept :=
      { tile := BitVec.ofNat 10 t, chan := c, xid := xid, turn := turn, coded := coded, width := width, table := table
        gen := none, words := ws, seq := old.getD seq, replay := 0, waiting := true, ce := 0 }
    let same (d : Kept) : Bool := d.tile == k.tile && d.chan == c && d.turn == turn && d.xid == xid
    kick (modHalf s h fun x =>
      { x with
        kept := (x.kept.filter fun d => !same d) ++ [k]
        seqs := if old.isSome then x.seqs else smSet 0 x.seqs key ((seq + n) % 16)
        seqLog := if old.isSome then x.seqLog else x.seqLog ++ [(key, turn, xid, seq)] }) h

/-- The kept packet an ACK or a NAK answers (R354). -/
def keptFor (k : Kept) (i : Item) : Bool :=
  k.tile == i.stile && k.chan.tile == i.dtile && k.chan.chan == i.chan && k.chan.scale == i.scale && k.chan.block == i.src && k.xid == i.xid
    && k.turn == i.turn && !k.waiting

/-- R356 to R358: discards counted in STALE. -/
def countStale (s : State) : State := { s with group := { s.group with stale := inc16 s.group.stale } }

/-- R355: an ACK completes the SEND it answers. The SEND's half is that of its tile: R353 brings the item to the half that DTILE names. -/
def takeAck (s : State) (_ : Half) (i : Item) : State :=
  let h := tileHalf i.stile.toNat
  if isAbsent s i.src then countStale s
  else
    match (half s h).kept.find? (keptFor · i) with
    | none => s
    | some k => kick (acceptSend (modHalf s h fun x => { x with kept := x.kept.filter fun d => !keptFor d i }) k.tile.toNat k.chan k.xid) h

/-- R355: a NAK makes the sender code the kept packet afresh and send it again with REPLAY one higher. -/
def takeNak (s : State) (_ : Half) (i : Item) : State :=
  let h := tileHalf i.stile.toNat
  if isAbsent s i.src then countStale s
  else
    match (half s h).kept.find? (keptFor · i) with
    | none => s
    | some k =>
      let k' : Kept := { k with replay := k.replay + 1, ce := 0 }
      let it := keptItem s k'
      let s1 := modHalf s h fun x => { x with kept := x.kept.map fun d => if keptFor d i then { k' with gen := it.2 } else d }
      pushOut (countStage { s1 with group := { s1.group with replays := inc16 s1.group.replays } } k.ce) h it.1

/-- R354: the ACK or NAK of an item. -/
def replyItem (s : State) (i : Item) (kind : Nat) (pz : Bool) (reason : Nat) : Item :=
  { i with kind := kind, dst := i.src, src := s.su.addr, pz := pz, reason := reason, body := [] }

/-- R356: the logged item of the same stream, TURN and XID. -/
def loggedItem (s : State) (h : Half) (i : Item) (scale : Bool) : Option LogItem :=
  (half s h).log.find? fun l => l.src == i.src && l.stile == i.stile && l.dtile == i.dtile && l.chan == i.chan && l.scale == scale
    && l.turn == i.turn && l.xid == i.xid

/-- R356: the item's stream, TURN and XID are already in the log. -/
def logged (s : State) (h : Half) (i : Item) (scale : Bool) : Bool := (loggedItem s h i scale).isSome

/-- R356: a duplicate of a logged item: answered ACK again, with PZ as it was committed (R354), discarded, and counted in DUP. -/
def ackAgain (s : State) (h : Half) (i : Item) (l : LogItem) : State :=
  pushOut { s with group := { s.group with dup := inc16 s.group.dup } } h (replyItem s i 3 l.pz 0)

/-- R356: an item's packet written to the log and answered with ACK. -/
def logAck (s : State) (h : Half) (i : Item) (ws : List QWord) (pz : Bool) : State :=
  let l : LogItem :=
    { src := i.src, stile := i.stile, dtile := i.dtile, chan := i.chan, scale := i.scale, turn := i.turn, xid := i.xid, words := ws
      pz := pz, ce := 0 }
  pushOut (modHalf s h fun x => { x with log := x.log ++ [l] }) h (replyItem s i 3 pz 0)

/-- The number of times an item has been NAKed (R357). -/
def nakCount (s : State) (h : Half) (i : Item) : Nat :=
  (((half s h).naks.find? fun p => p.1 == { i with replay := 0, size := 0, body := [], coded := false }).map (·.2)).getD 0

/-- R356: an item answered with NAK. -/
def sendNak (s : State) (h : Half) (i : Item) (reason : Nat) : State :=
  let key : Item := { i with replay := 0, size := 0, body := [], coded := false }
  let n := nakCount s h i
  pushOut (modHalf s h fun x => { x with naks := (x.naks.filter fun p => p.1 != key) ++ [(key, n + 1)] }) h (replyItem s i 4 false reason)

/-- The packet words of `n` words of 256 B from bytes. -/
def bytesPacket (n : Nat) (bs : List PByte) : List QWord :=
  (chunks 256 (bs ++ List.replicate (256 * n - bs.length) (0, false))).take n |>.map bytesWord

/-- R357, R407 point 0x13: an item committed poisoned is counted and logged. -/
def countPoisoned (s : State) (h : Half) (i : Item) : State :=
  detect { s with group := { s.group with poisoned := inc16 s.group.poisoned } }
    (Detect.plain 0x13 h ((memberOf s i.src).getD 0))

/-- R126, R364: every word of a packet poisoned. -/
def poisonAll (ws : List QWord) : List QWord := ws.map (markWord true)

/-- The packet of a DATA item: raw words, or the blocks decoded, each block that fails or that poison has reached poisoned (R357, R361,
R364). -/
def dataPacket (i : Item) (bl : List RBlock) : List QWord :=
  if i.coded then bytesPacket i.words (bl.flatMap fun b => b.data.map fun x => (x, b.pz || b.bad.isSome)) else bytesPacket i.words i.body

/-- R364: BODY is the sum of the block lengths, and the block count is that of WORDS. -/
def shapeOk (i : Item) (bl : List RBlock) (sum : Nat) : Bool :=
  i.body.length == i.size && sum == i.size && bl.length * blockBytes i.width == 256 * i.words

/-- The blocks of a DATA item with its NAK reason, and its packet: where header and body disagree every word is poisoned (R364). -/
def dataBlocks (s : State) (i : Item) : List RBlock × Option Nat × List QWord :=
  let r := decodeBody s i.width (i.body.length + 1) i.body
  let bl := seqRun r.1
  let ok := shapeOk i bl r.2
  (bl, (firstBad bl).orElse fun _ => if ok then none else some 4, if ok then dataPacket i bl else poisonAll (dataPacket i bl))

/-- R356, R357: an item whose checks gave `bad`: NAK it, or on its third arrival accept it, with the words that its failing blocks affect
poisoned in `ws`. -/
def settle (s : State) (h : Half) (i : Item) (ws : List QWord) (bad : Option Nat) : State :=
  match bad with
  | none => logAck s h i ws false
  | some r => if nakCount s h i < 2 then sendNak s h i r else logAck (countPoisoned s h i) h i ws true

/-- The SEQ of each record of a SCALE item (R365). -/
def scaleSeqs (i : Item) : List Nat := (chunks 64 (i.body.map (·.1))).map fun r => (r.getD 7 0).toNat / 16

/-- The held item of the other stream of a channel, for the same TURN and XID (R365). -/
def pairOf (s : State) (h : Half) (i : Item) : Option HeldItem :=
  (half s h).pairs.find? fun p => p.item.src == i.src && p.item.stile == i.stile && p.item.dtile == i.dtile && p.item.chan == i.chan
    && p.item.scale != i.scale && p.item.turn == i.turn && p.item.xid == i.xid

/-- R365: a held item taken out. -/
def dropPair (s : State) (h : Half) (p : HeldItem) : State := modHalf s h fun x => { x with pairs := x.pairs.filter fun q => q != p }

/-- The words of a packet of `size`-byte pieces with those poisoned that hold a piece of `bad`. -/
def markPieces (size : Nat) (bad : List Nat) (ws : List QWord) : List QWord :=
  ws.zipIdx.map fun p => markWord (bad.any fun k => decide (k * size < 256 * (p.2 + 1) ∧ 256 * p.2 < (k + 1) * size)) p.1

/-- R365: both items of a pair: where the SEQ of a block differs both are NAKed, else both are logged. -/
def settlePair (s : State) (h : Half) (d c : HeldItem) : State :=
  let bad := (List.range d.seqs.length).filter fun k => d.seqs[k]? != c.seqs[k]?
  let reason := if bad.isEmpty then none else some 2
  settle (settle s h d.item (markPieces (blockBytes d.item.width) bad d.words) reason) h c.item (markPieces 64 bad c.words) reason

/-- R357, R365: an item that its third arrival has put in the log releases the one that waited for it. -/
def releasePair (s : State) (h : Half) (i : Item) : State :=
  match pairOf s h i with
  | none => s
  | some p => if logged s h i i.scale then logAck (dropPair s h p) h p.item p.words false else s

/-- The next plan of a half, as far as it is known: the oldest plan that waits, or the turn after the current one (R281, R301; log 106). -/
def nextPlan (s : State) (h : Half) : W32 := ((half s h).waiting.head?.map (·.1)).getD (s.turns.cur + 1)

/-- R356: where an arriving item's TURN falls against the previous, current and next plans of the half. -/
def turnStale (s : State) (h : Half) (t : W32) : Bool := later (half s h).prevTurn t || later t (nextPlan s h)

/-- R356, R365: a DATA item. One whose SCALE item has been logged poisoned meanwhile has nothing to wait for. -/
def takeData (s : State) (h : Half) (i : Item) : State :=
  if turnStale s h i.turn || isAbsent s i.src then countStale s
  else
    match loggedItem s h i false with
    | some l => ackAgain s h i l
    | none =>
      if !i.coded then
        let ok := i.body.length == i.size && i.size == 256 * i.words
        let ws := dataPacket i []
        releasePair (settle s h i (if ok then ws else poisonAll ws) (if ok then none else some 4)) h i
      else
        let b := dataBlocks s i
        match b.2.1 with
        | some r => releasePair (settle s h i b.2.2 (some r)) h i
        | none =>
          let d : HeldItem := { item := i, words := b.2.2, seqs := b.1.map (·.seq) }
          match pairOf s h i with
          | some p => settlePair (dropPair s h p) h d p
          | none =>
            if logged s h i true then logAck s h i d.words false else modHalf s h fun x => { x with pairs := x.pairs ++ [d] }

/-- R356, R365: a SCALE item. -/
def takeScale (s : State) (h : Half) (i : Item) : State :=
  if turnStale s h i.turn || isAbsent s i.src then countStale s
  else
    match loggedItem s h i true with
    | some l => ackAgain s h i l
    | none =>
      let ws := bytesPacket i.words i.body
      if i.body.length ≠ i.size ∨ i.size ≠ 256 * i.words then releasePair (settle s h i (poisonAll ws) (some 4)) h i
      else if logged s h i false then logAck s h i ws false
      else
        let c : HeldItem := { item := i, words := ws, seqs := scaleSeqs i }
        match pairOf s h i with
        | some p => settlePair (dropPair s h p) h p c
        | none => modHalf s h fun x => { x with pairs := x.pairs ++ [c] }

/-- R353: an IN slot read, with its lines with poison counted (R348), and returned to HOST; the item in it, or none where the slot does not read
BLOCK. -/
def takeIn (s : State) (h : Half) (k : Nat) : Option (Nat × Item × State) :=
  let off := xchSlot s (inRing h) k
  if windowOpen s ∧ k < 2 ^ s.group.areaLog2.toNat ∧ ownedByBlock s off then
    let s1 := countPoison s (winAddr s off) (64 + (readItem s off).body.length)
    some (off, readItem s off, setOwner s1 off 1)
  else none

/-- R354: an item that is none, discarded and counted. -/
def countBad (s : State) : State := { s with group := { s.group with baditem := inc16 s.group.baditem } }

/-- An arriving item of a given KIND, taken by `f`; a bad one is counted; one of another KIND is not what this command names. -/
def arriveItem (s : State) (h : Half) (k kind : Nat) (f : State → Half → Item → State) : State :=
  match takeIn s h k with
  | none => s
  | some (off, i, s1) => if itemOk s off = false then (if i.kind = kind then countBad s1 else s) else if i.kind = kind then f s1 h i else s

/-- R356: the logged item that the RECV of tile `t` expects. -/
def recvItem (s : State) (t : Nat) (c : Chan) (xid : Nat) (turn : W32) : Option LogItem :=
  (half s (tileHalf t)).log.find? fun l => l.src == c.block && l.stile == c.tile && l.dtile.toNat == t && l.chan == c.chan && l.scale == c.scale
    && l.turn == turn && l.xid == xid

/-- A packet of `n` words that read as zero with PZ set (R126, R358). -/
def poisonPacket (n : Nat) : List QWord := List.replicate n { lanes := List.replicate 32 0, pz := true }

/-- The buffer of a local channel stream, as tile `src` sends to tile `dst` (R125). -/
def localItems (s : State) (src dst : Nat) (c : Chan) : List (List QWord) :=
  ((s.group.chans.find? fun b => b.src == src && b.dst == dst && b.chan == c.chan && b.scale == c.scale).map (·.items)).getD []

/-- The state with a local channel buffer replaced. -/
def setLocal (s : State) (src dst : Nat) (c : Chan) (l : List (List QWord)) : State :=
  let rest := s.group.chans.filter fun b => !(b.src == src && b.dst == dst && b.chan == c.chan && b.scale == c.scale)
  { s with
    group := { s.group with
      chans := if l.isEmpty then rest else rest ++ [{ src := src, dst := dst, chan := c.chan, scale := c.scale, items := l }] } }

/-- R358, R424: the RECV commits at once with PZ: its member is absent, or its local source half is stopped. -/
def recvDead (s : State) (c : Chan) : Bool := if c.isLocal then farStopped s c else isAbsent s c.block

/-- R126, R356: the packet a RECV completes with, and the state after it is taken; none while its item has not arrived. -/
def recvPacket (s : State) (t : Nat) (c : Chan) (n xid : Nat) (turn : W32) : Option (List QWord × State) :=
  if recvDead s c then some (poisonPacket n, s)
  else if c.isLocal then
    match localItems s c.tile.toNat t c with
    | [] => none
    | p :: ps => some (p, setLocal s c.tile.toNat t c ps)
  else
    (recvItem s t c xid turn).map fun l =>
      (l.words, countStage (modHalf s (tileHalf t) fun x => { x with log := x.log.map fun m => if m = l then { m with ce := 0 } else m }) l.ce)

end Sys2Proof.Machine
end

