-- ==== Sys2Proof/Machine/TileRun.lean ====
section
/-! DEFINITION. Issue, completion, faults and the stream loader of a tile (spec/03 R77 to R83, spec/04 R89 to R102, R132 to R136). -/

namespace Sys2Proof.Machine

/-- R60: the instructions in flight an engine may have. -/
def flightLimit : Eng → Nat
  | .ld => 64
  | .mx => 2
  | .vx => 4
  | .tr => 16
  | .au => 4
  | .xf => 32
  | .sq => 1

/-- R89: the number of operations an engine's encoding table defines. -/
def opsOf : Eng → Nat
  | .ld => 9
  | .mx => 5
  | .vx => 18
  | .tr => 5
  | .au => 3
  | .xf => 4
  | .sq => 19

/-- R89: the engine executes the word. -/
def wordLegal (e : Eng) (w : W64) : Bool := wOpcode w / 32 == engNum e && decide (wOpcode w % 32 < opsOf e)

/-- The instructions of an engine that have not completed. -/
def inFlight (x : EngState) : List InFlight := x.flight.filter fun f => !f.done

/-- R169: the MX units a word needs: 1 the array, 2 the drain. -/
def mxUnits (w : W64) : Nat :=
  if wOpcode w = 0x22 then (if bit w 42 then 3 else 1) else if wOpcode w = 0x23 then 2 else if wOpcode w = 0x24 then 1 else 0

/-- R116: the queue an LDQ writes, plus 1; 0 for every other word. -/
def ldqUnit (w : W64) : Nat := if wOpcode w = 0x04 then (ldqQueue (fld w 42 2)).1 + 1 else 0

/-- R208: the TR unit a word needs: 1 the front stage, 2 the summer; a TWALK takes one of 16 walkers, which the limit of R60 covers. -/
def trUnit (w : W64) : Nat := if wOpcode w = 0x63 then 1 else if wOpcode w = 0x64 then 2 else 0

/-- The unit an instruction occupies while it is in flight. -/
def unitOf (e : Eng) (w : W64) : Nat :=
  match e with
  | .mx => mxUnits w
  | .ld => ldqUnit w
  | .tr => trUnit w
  | _ => 0

/-- R78: the unit the instruction needs is free: an MX unit, a TR unit, or the packet of the queue that an LDQ writes. R208 does not say when
TR's front stage and summer are free again: the model holds them until the instruction completes (DESIGN CHOICE, log 132). -/
def unitFree (e : Eng) (x : EngState) (w : W64) : Bool :=
  match e with
  | .mx => (inFlight x).all fun f => Nat.land f.unit (mxUnits w) == 0
  | .ld => ldqUnit w == 0 || (inFlight x).all fun f => f.unit != ldqUnit w
  | .tr => trUnit w == 0 || (inFlight x).all fun f => f.unit != trUnit w
  | _ => true

/-- R70, R71, R135: words moved from the instruction queue `q`, whose items are given, into the store of `x` until position `n` is there;
the positions of words delivered with PZ are kept, and a parity failure is marked in the queue. -/
def pullWords (n : Nat) : List QItem → Queue → EngState → Queue × EngState
  | [], q, x => (q, x)
  | i :: is, q, x =>
    if n < x.store.length then (q, x)
    else
      let d := (qDeliver i).words.headD ⟨[], false⟩
      pullWords n is { q with items := is, parity := q.parity || !i.flips.isEmpty }
        { x with store := x.store ++ [d.lanes.headD 0], tagged := if d.pz then x.tagged ++ [x.store.length] else x.tagged }

/-- The tile with the words of engine `e` up to position `n` taken from its instruction queue. -/
def pullTo (tl : Tile) (e : Eng) (n : Nat) : Tile :=
  let q := tileQ tl (engNum e)
  let r := pullWords n q.items q (eng tl e)
  setEng (setQ tl (engNum e) r.1) e r.2

/-- R135: SQ reads on towards a branch target that has not arrived: the words before it are taken from the queue and stored, as the
branch issues and as further ones come. -/
def readOn (tl : Tile) (e : Eng) : Tile :=
  let x := eng tl e
  if e = .sq ∧ x.store.length < x.pos then pullTo tl e (x.pos - 1) else tl

/-- The engine's front end with the word at its next position, where that has arrived (R76, R135). -/
def fetchWord (tl : Tile) (e : Eng) : Option (W64 × Tile) :=
  let x := eng tl e
  if x.length ≤ x.pos then none
  else
    let tl1 := pullTo tl e x.pos
    (eng tl1 e).store[x.pos]?.map fun w => (w, tl1)

/-- R102: a REPEAT at position `p` with the last body word before `past` may stand where it does: at top level, or as the one REPEAT of an
outer body (log 103). -/
def repeatFits (p past : Nat) : List Loop → Bool
  | [] => true
  | [l] => decide (past ≤ l.past) && (match l.inner with
      | none => true
      | some k => k == p)
  | _ => false

/-- R102: the structure rules a REPEAT, BR or JMP breaks where it is reached; R104: KENTER first and nowhere else. -/
def reachFault (e : Eng) (x : EngState) (w : W64) : Option Nat :=
  let op := wOpcode w % 32
  if e = .sq ∧ ((x.pos = 0 ∧ op ≠ 2) ∨ (x.pos ≠ 0 ∧ op = 2)) then some 0x14
  else if e = .sq ∧ (op = 7 ∨ op = 8) ∧ !x.loops.isEmpty then some 0x15
  else if op = 1 then
    let past := x.pos + 2 + fld w 40 8
    if x.length < past ∨ !repeatFits x.pos past x.loops then some 0x15 else none
  else none

/-- R100: the bodies that end where the position stands: the next execution, or on past the body. -/
def closeLoops : Nat → List Loop → Nat × List Loop
  | p, [] => (p, [])
  | p, l :: ls =>
    if p ≠ l.past then (p, l :: ls)
    else if l.left = 0 then closeLoops p ls
    else (l.first, { l with left := l.left - 1, done := l.done + 1 } :: ls)

/-- The front end past the word it issued; `j` is a taken branch's offset (R100, R107). -/
def advance (x : EngState) (w : W64) (j : Option Int) : EngState :=
  match j with
  | some d => { x with pos := ((x.pos : Int) + d).toNat }
  | none =>
    let ls := if wOpcode w % 32 = 1 then
        { first := x.pos + 1, past := x.pos + 2 + fld w 40 8, left := fld w 0 16, done := 0, inner := none }
          :: x.loops.map fun l => { l with inner := some x.pos }
      else x.loops
    let r := closeLoops (x.pos + 1) ls
    { x with pos := r.1, loops := r.2 }

/-- R107: a taken branch's target lies outside the stream. -/
def badTarget (x : EngState) (j : Option Int) : Bool :=
  match j with
  | none => false
  | some d => decide ((x.pos : Int) + d < 0) || decide ((x.length : Int) ≤ x.pos + d)

/-- The dispatched job that runs on a tile. -/
def jobOf (s : State) (t : Nat) : Option Job := (half s (tileHalf t)).jobs.find? fun j => j.tile == t

/-- R82, R407: a fault recorded in a tile and reported: point 0x02 for fault 0x10, attributed to the kernel's tenant; point 0x01 else,
attributed to every request with a row in the faulted job. A later fault in a stopped tile is counted only. -/
def tileFault (s : State) (t code queue engine idx : Nat) : State :=
  let was := (tileOf s t).stopped
  let s1 := setTile s t (recordFault (tileOf s t) code queue engine idx)
  if was then s1
  else
    let j := jobOf s t
    let rows := ((j.map (·.rows)).getD []).filter fun r => rowLive s r
    let d : Detect :=
      { src := if code = 0x10 then 0x02 else 0x01, half := tileHalf t, fault := code, tenant := (j.map (·.tenant)).getD 0
        reqs := if code = 0x10 then [] else (rows.map fun r => (r.slot, r.sgen)).eraseDups
        pos := if code = 0x10 then 0 else (rows.head?.map (·.first)).getD 0, addr := 0, unit := t, job := j.map Job.num }
    detect s1 d

/-- R63: uncorrectable scratch reads counted, by tile. -/
def addUe (s : State) (l : List (Nat × Nat)) : State :=
  l.foldl (fun s p => if p.2 = 0 then s else
    setTile s p.1 { tileOf s p.1 with ue := BitVec.ofNat 16 (satAdd (tileOf s p.1).ue.toNat p.2 16) }) s

/-- R407: the image whose region holds address `a`: its bytes in the staging store, or one of its segments. -/
def imageAt (s : State) (a : Nat) : Option Image :=
  ((images s).find? fun p => decide (p.2.base ≤ a ∧ a < p.2.base + p.2.len)
    || p.2.segs.any fun g => decide (g.1 ≤ a ∧ a < g.1 + g.2)).map (·.2)

/-- R407 points 0x03 and 0x04: LD of tile `t` read poison at `a`. -/
def readPoison (s : State) (t a : Nat) : State :=
  let s1 := addPoisonRd s a
  let d := { (Detect.plain 0x03 (tileHalf t) t) with addr := a, job := (jobOf s t).map Job.num }
  match imageAt s a with
  | some i => detect s1 { d with tenant := i.tenant }
  | none =>
    match pageOfAddr s a with
    | none => s1
    | some (h, k) =>
      let reqs := requestsOfPage s h k
      if reqs.isEmpty then s1
      else detect s1 { d with src := 0x04, reqs := reqs, pos := (reqs.head?.map fun q => posOfAddr s q.1 k a).getD 0 }

/-- R407 point 0x05: LD stored poison at `a`, in a page of the page region. -/
def wrotePoison (s : State) (t a : Nat) : State :=
  match pageOfAddr s a with
  | none => s
  | some (h, k) =>
    let reqs := requestsOfPage s h k
    if reqs.isEmpty then s
    else
      detect s
        { (Detect.plain 0x05 (tileHalf t) t) with
          addr := a, reqs := reqs.take 1, job := (jobOf s t).map Job.num, pos := (reqs.head?.map fun q => posOfAddr s q.1 k a).getD 0 }

/-- R372: the stack bytes of the ranges counted to the job of tile `t`. -/
def addBytes (s : State) (t : Nat) (l : List (Nat × Nat)) : State :=
  let n := ((l.filter fun r => r.1 < stackEnd).map (·.2)).sum
  if n = 0 then s
  else
    modHalf s (tileHalf t) fun x => { x with jobs := x.jobs.map fun j => if j.tile = t then { j with bytes := j.bytes + n } else j }

/-- R346: a range of stack addresses meets a port that retrains. -/
def portWaits (s : State) (r : Nat × Nat) : Bool :=
  decide (r.1 < stackEnd) && (tab (r.2 / 4096 + 2) fun i => (mpOf s (portOf (min (r.1 + 4096 * i) (r.1 + r.2 - 1)))).retrain).any (·)

/-- What a body reads of the block. -/
def envOf (s : State) (t : Nat) (x : EngState) : Env :=
  { mem := s.mem, tile := t, enabled := tileEnabled s, busy := fun u => (tileOf s u).kernel, ownAddr := s.su.addr.toNat
    member := fun a => (memberOf s (BitVec.ofNat 16 a)).isSome
    last := match x.loops with
      | [] => true
      | l :: _ => l.left == 0
    pz := x.tagged.contains x.pos }

/-- R82, R129: queue overruns recorded for the instruction at `idx`. -/
def addOverruns (s : State) (t : Nat) (e : Eng) (idx : Nat) (qs : List Nat) : State :=
  qs.foldl (fun s q => tileFault s t 0x02 q (engNum e) idx) s

/-- R105, R129: an SQ stream whose words run out before a KEND. The spec names no faulting instruction: INDEX is the stream's length, and the
fault comes as the last word issues (log 104). -/
def runOut (s : State) (t : Nat) (e : Eng) (w : W64) : State :=
  let x := eng (tileOf s t) .sq
  if e = .sq ∧ wOpcode w ≠ 0xc3 ∧ x.length ≤ x.pos then tileFault s t 0x14 0 6 x.length else s

/-- R125: a SEND issued: to a local tile its item waits for completion; to another block it is kept and sent. -/
def sendIssued (s : State) (t : Nat) (p : Pend) : State :=
  match p with
  | .send c coded width table ws xid _ => if c.isLocal then s else issueSend s t c coded width table ws xid
  | _ => s

/-- R63, R406: a read met a correctable error in the word at `b`: it is written back corrected, and counted at its tile, or in ERR_CE.STAGE. -/
def correctUnit (s : State) (b : Nat) : State :=
  let s1 := { s with mem := { s.mem with single := smErase s.mem.single b } }
  match regionOf b 8 with
  | .window t => setTile s1 t { tileOf s1 t with ce := BitVec.ofNat 32 (satAdd (tileOf s1 t).ce.toNat 1 32) }
  | .stage _ => { s1 with errs := { s1.errs with ceStage := BitVec.ofNat 32 (satAdd s1.errs.ceStage.toNat 1 32) } }
  | _ => s1

/-- R63: the words with a correctable error that reads of the given ranges meet. -/
def singlesOf (m : Mem) (rs : List (Nat × Nat)) : List Nat := (rs.flatMap fun p => singleUnits m p.1 p.2).eraseDups

/-- R63, R406: the block reads the given ranges: what they hold that is correctable is corrected and counted. -/
def correctReads (s : State) (rs : List (Nat × Nat)) : State := (singlesOf s.mem rs).foldl correctUnit s

/-- The effects of an issued instruction outside its tile: poison met (R407), counts, and transfers. -/
def afterIssue (s : State) (t : Nat) (e : Eng) (idx : Nat) (r : IRes) : State :=
  let s1 := addBytes (addUe s r.ue) t r.touch
  let s2 := r.readBad.foldl (fun s a => readPoison s t a) s1
  let s3 := r.wroteBad.foldl (fun s a => wrotePoison s t a) s2
  addOverruns (sendIssued s3 t r.pend) t e idx r.overran

/-- R77, R78: the credit counter an instruction waits for: the kernel start counter 0 for KENTER, WAIT for every other one. -/
def waitCtr (w : W64) : Nat := if wOpcode w = 0xc2 then 0 else wWait w

/-- R78: the instruction waits for a credit. -/
def waits (w : W64) : Bool := waitCtr w != 0 || wOpcode w == 0xc2

/-- R78: the tile with the credit that the instruction takes. -/
def paid (tl : Tile) (w : W64) : Tile := if waits w then setCredit tl (waitCtr w) (credit tl (waitCtr w) - 1) else tl

/-- R78: engine `e` has a place in flight and the unit for word `w`. -/
def hasRoom (e : Eng) (x : EngState) (w : W64) : Bool := decide ((inFlight x).length < flightLimit e) && unitFree e x w

/-- R78: engine `g` has reached an instruction that could issue and waits for counter `c`. -/
def claims (tl : Tile) (g : Eng) (c : Nat) : Bool :=
  match fetchWord tl g with
  | none => false
  | some (w, tl1) => waits w && waitCtr w == c && wordLegal g w && (reachFault g (eng tl1 g) w).isNone && hasRoom g (eng tl1 g) w

/-- R78: how many engines that are served before `e`, in the order LD, MX, VX, TR, AU, XF, SQ, wait for counter `c` too. -/
def servedFirst (tl : Tile) (e : Eng) (c : Nat) : Nat := (engines.filter fun g => decide (engNum g < engNum e) && claims tl g c).length

/-- R78: the instruction at the engine's position issues, where its limit, its unit, its wait counter and the ports allow; a counter that
cannot satisfy every engine that waits on it serves them in order. The word has been fetched into `tl`; an instruction that does not issue is
still in its instruction queue, where LEVEL and ITEMS count it (log 102). An underrun found at issue, like every fault found there, ends the
instruction: it never goes in flight and never signals (DESIGN CHOICE, log 131). -/
def issueWord (s : State) (t : Nat) (e : Eng) (w : W64) (body : Body) (tl : Tile) : State :=
  let x := eng tl e
  if !hasRoom e x w ∨ (waits w && decide ((credit tl (waitCtr w)).toNat ≤ servedFirst tl e (waitCtr w))) then s
  else
    let r := body (envOf s t x) (iterOf x) w (paid tl w)
    if r.touch.any (portWaits s) then s
    else
      let ce := singlesOf s.mem r.reads
      match r.fault with
      | some (code, q) =>
        let s1 := addUe (ce.foldl correctUnit { setTile s t r.tile with mem := r.mem }) r.ue
        let s2 := r.readBad.foldl (fun s a => readPoison s t a) s1
        tileFault s2 t code q (engNum e) x.pos
      | none =>
        let tl2 := r.tile
        let bad := badTarget x r.jump
        let sg := r.sigCtr.getD (wSig w, 1)
        let f : InFlight := { idx := x.pos, sig := sg.1, n := sg.2, done := false, unit := unitOf e w, since := s.now, pend := r.pend }
        let y := eng tl2 e
        if bad then tileFault (setTile s t tl2) t 0x14 0 (engNum e) x.pos
        else
          let s1 := { setTile s t (readOn (setEng tl2 e { advance y w r.jump with flight := y.flight ++ [f] }) e) with mem := r.mem }
          runOut (afterIssue (ce.foldl correctUnit s1) t e x.pos r) t e w

/-- The engine of tile `t` reaches word `w` and issues it with meaning `body`, where `w` is what it reaches (R76, R78, R82, R89). -/
def issueAt (s : State) (t : Nat) (e : Eng) (w : W64) (body : Body) : State :=
  let tl := tileOf s t
  if !tileRuns s t ∨ !tl.kernel ∨ tl.stopped then s
  else
    match fetchWord tl e with
    | none => s
    | some (w', tl1) =>
      if w' ≠ w then s
      else
        match reachFault e (eng tl1 e) w with
        | some code => tileFault (setTile s t tl1) t code 0 (engNum e) (eng tl1 e).pos
        | none => issueWord s t e w body tl1

/-- A command of tile `t`: it faults where the ID names no tile (R40). -/
def onTile (t : BitVec 10) (s s' : State) : Host.Outcome State Fault Refusal :=
  if tileNamed t.toNat then .next s' else (fun _ => .fault (.noSuchTile t)) s

/-- An instruction command of one engine and one operation: without effect when the word is not that operation's. -/
def issueOp (op : Nat) (body : Body) (t : BitVec 10) (w : W64) (s : State) : Host.Outcome State Fault Refusal :=
  onTile t s
    (match engOf (op / 32) with
     | none => s
     | some e => if wOpcode w = op then issueAt s t.toNat e w body else s)

/-- NOP and REPEAT, which every engine has (R91). -/
def issueAny (op : Nat) (body : Body) (t : BitVec 10) (w : W64) (s : State) : Host.Outcome State Fault Refusal :=
  onTile t s
    (match engOf (wOpcode w / 32) with
     | none => s
     | some e => if wOpcode w % 32 = op then issueAt s t.toNat e w body else s)

/-- R79: the signals that are applied now, those whose earlier ones are no longer held, in program order; and the flight left. -/
def dueSigs : List InFlight → Bool → List InFlight × List InFlight
  | [], _ => ([], [])
  | f :: fs, held =>
    if f.done ∧ (f.sig = 0 ∨ !held) then
      let r := dueSigs fs held
      (f :: r.1, r.2)
    else
      let r := dueSigs fs (held || f.sig != 0)
      (r.1, f :: r.2)

/-- R80: one increment: a counter that would pass 255 stays there, with its TILE_CREDIT_OVF bit. -/
def addSig (tl : Tile) (f : InFlight) : Tile :=
  let v := (credit tl f.sig).toNat + f.n
  if f.sig = 0 then tl
  else if v ≤ 255 then setCredit tl f.sig (BitVec.ofNat 8 v)
  else { setCredit tl f.sig 255 with ovf := tl.ovf ||| BitVec.ofNat 16 (2 ^ f.sig) }

/-- R80: the position that a credit-overflow fault names: the earliest of the increments `due` of the lowest-numbered counter that they
take above 255. -/
def overflowAt (tl : Tile) (due : List InFlight) : Option Nat :=
  let over_ (c : Nat) : Bool := decide (255 < (credit tl c).toNat + ((due.filter fun f => f.sig == c).map (·.n)).sum)
  (((List.range 16).drop 1).find? over_).bind fun c => (due.find? fun f => f.sig == c).map (·.idx)

/-- R79, R80: the engine's pending signals applied in one cycle, with the fault of an overflow. -/
def signal (s : State) (t : Nat) (e : Eng) : State :=
  let tl := tileOf s t
  let r := dueSigs (eng tl e).flight false
  let tl1 := r.1.foldl addSig tl
  let s1 := setTile s t (setEng tl1 e { eng tl1 e with flight := r.2 })
  match overflowAt tl r.1 with
  | none => s1
  | some i => tileFault s1 t 0x03 0 (engNum e) i

/-- The flight of an engine with one entry changed. -/
def modFlight (tl : Tile) (e : Eng) (k : Nat) (f : InFlight → InFlight) : Tile :=
  setEng tl e { eng tl e with flight := (eng tl e).flight.zipIdx.map fun p => if p.2 = k then f p.1 else p.1 }

/-- The entry has completed; its signal follows. -/
def finish (s : State) (t : Nat) (e : Eng) (k : Nat) : State :=
  signal (setTile s t (modFlight (tileOf s t) e k fun f => { f with done := true })) t e

/-- R94: registers written at completion. -/
def writeRegs (tl : Tile) (sl : List (BitVec 5 × Lane)) (al : List (BitVec 4 × ALane)) (taint : Bool) : Tile :=
  let t1 := sl.foldl (fun t p => sSet t p.1 p.2) tl
  let t2 := al.foldl (fun t p => aSet t p.1 p.2) t1
  { t2 with tainted := t2.tainted || taint }

/-- R126: every earlier RECV of the stream has committed. -/
def recvFirst (x : EngState) (k : Nat) : Bool :=
  (x.flight.take k).all fun f =>
    match f.pend with
    | .recv .. => f.done
    | _ => true

/-- R375: how long a remote RECV has waited, kept for WAIT_MAX. -/
def noteWait (s : State) (t : Nat) (f : InFlight) (c : Chan) : State :=
  if c.isLocal then s else modHalf s (tileHalf t) fun x => { x with waitRun := max x.waitRun (s.now - f.since) }

/-- R123: every earlier SEND of the stream has been accepted. -/
def sendFirst (x : EngState) (k : Nat) (c : Chan) : Bool :=
  (x.flight.take k).all fun f =>
    match f.pend with
    | .send d .. => f.done || d != c
    | _ => true

/-- R126: a word that reached XF with poison reads as zero. -/
def poisonZero (w : QWord) : QWord := if w.pz then { lanes := List.replicate 32 0, pz := true } else w

/-- R126: a RECV commits its packet of `n` words to XF_LD; another length is fault 0x17, and the instruction does not signal. The packet's KIND
is 0 (DESIGN CHOICE, log 134). -/
def recvCommit (s : State) (t k idx n : Nat) (p : List QWord) : State :=
  let pz := (eng (tileOf s t) .xf).tagged.contains idx
  if p.length ≠ n then
    let s1 := setTile s t (modFlight (tileOf s t) .xf k fun f => { f with done := true, sig := 0 })
    signal (tileFault s1 t 0x17 0 5 idx) t .xf
  else
    let q := qPutPacket qXfLd (tileQ (tileOf s t) qXfLd) 0 (p.map fun w => markWord pz (poisonZero w))
    let s1 := setTile s t (setQ (tileOf s t) qXfLd q.1)
    finish (addOverruns s1 t .xf idx (List.replicate q.2 qXfLd)) t .xf k

/-- R79: the instruction at place `k` of the engine's flight completes, where what it waits for has come. KEND waits for the kernel's
end (R105). -/
def completeAt (s : State) (t : Nat) (e : Eng) (k : Nat) : State :=
  let tl := tileOf s t
  let x := eng tl e
  match x.flight[k]? with
  | none => s
  | some f =>
    if f.done then s
    else
      match f.pend with
      | .none => finish s t e k
      | .regs sl al taint => finish (setTile s t (writeRegs tl sl al taint)) t e k
      | .push w =>
        let q := qPutWord qSqVx (tileQ tl qSqVx) w
        finish (addOverruns (setTile s t (setQ tl qSqVx q.1)) t e f.idx (if q.2 then [qSqVx] else [])) t e k
      | .ldq q kind ws =>
        let d := qDatas q (tileQ tl q) ws
        finish (addOverruns (setTile s t (setQ tl q (qCommit d.1 kind))) t e f.idx (List.replicate d.2 q)) t e k
      | .send c _ _ _ ws _ phase =>
        if c.isLocal then
          if farStopped s c then finish s t e k
          else
            let l := localItems s t c.tile.toNat c
            if l.length < 2 ∧ sendFirst x k c then finish (setLocal s t c.tile.toNat c (l ++ [ws])) t e k else s
        else if phase = 2 ∨ isAbsent s c.block then finish s t e k else s
      | .recv c _ _ n xid turn =>
        if !recvFirst x k then s
        else
          match recvPacket s t c n xid turn with
          | none => s
          | some (p, s1) => recvCommit (noteWait s1 t f c) t k f.idx n p
      | .bad code q =>
        let s1 := setTile s t (modFlight tl e k fun f => { f with done := true, sig := if code < 0x10 then f.sig else 0 })
        signal (tileFault s1 t code q (engNum e) f.idx) t e
      | .kend => s

/-- R87: the state of an engine in TILE_STATE. -/
def engStatus (tl : Tile) (e : Eng) : Nat :=
  let x := eng tl e
  if tl.stopped then 4
  else if !tl.kernel then 0
  else if x.length ≤ x.pos then (if (inFlight x).isEmpty then 0 else 1)
  else
    match fetchWord tl e with
    | none => 3
    | some (w, _) =>
      if waits w ∧ credit tl (waitCtr w) = 0 then 2 else 1

/-- R83: the in-flight instructions of an engine that count as outstanding: all but a KEND. -/
def outstanding (x : EngState) : Bool :=
  (inFlight x).any fun f =>
    match f.pend with
    | .kend => false
    | _ => true

/-- R83: SQ counts as idle when its KEND has issued. -/
def stallIdle (tl : Tile) (e : Eng) : Bool :=
  engStatus tl e == 0 || (e == .sq && (inFlight (eng tl .sq)).any fun f => f.pend == .kend)

/-- R83: the condition of a credit stall: every engine idle or waiting, one waiting, nothing outstanding. -/
def creditStalled (tl : Tile) : Bool :=
  tl.kernel && !tl.stopped && engines.all (fun e => stallIdle tl e || engStatus tl e == 2) && engines.any (fun e => engStatus tl e == 2)
    && engines.all fun e => !outstanding (eng tl e)

/-- R134, R407: the stream loader delivers the next word of an engine's stream while the queue's LEVEL is below 256; a poisoned word is
points 0x02 and 0x03. -/
def loaderFill (s : State) (t : Nat) (e : Eng) : State :=
  let tl := readOn (tileOf s t) e
  let x := eng tl e
  let q := tileQ tl (engNum e)
  if !tileRuns s t ∨ !tl.kernel ∨ x.length ≤ x.sent ∨ 256 ≤ qLevel (engNum e) q then s
  else
    let a := x.start + 8 * x.sent
    let pz := memAnyPz s.mem a 8
    let w : QWord := { lanes := [memWord s.mem a], pz := pz }
    let tl1 := setEng (setQ tl (engNum e) (qPutWord (engNum e) q w).1) e { x with sent := x.sent + 1 }
    let s1 := correctReads (setTile s t (readOn tl1 e)) [(a, 8)]
    if pz then
      let tn := ((jobOf s t).map (·.tenant)).getD 0
      let d := { (Detect.plain 0x02 (tileHalf t) t) with tenant := tn, job := (jobOf s t).map Job.num }
      detect (detect s1 d) { d with src := 0x03, addr := a }
    else s1

/-- R359: the item counts that a kernel of descriptor `desc` and arguments `args` had at its dispatch in the plan of `turn`. -/
def xidStart (tl : Tile) (turn : W32) (desc : W48) (args : List W32) : Option (SMap Nat) :=
  (tl.starts.find? fun p => p.turn == turn && p.desc == desc && p.args == args.drop 2).map (·.xids)

/-- R74: a tile flush. The items of the abandoned kernel are counted again when it is replayed (R359). -/
def tileFlush (tl : Tile) : Tile :=
  { tl with
    kernel := false
    stopped := false
    ovf := 0
    credits := []
    xids := (xidStart tl tl.turn tl.desc tl.args).getD tl.xids
    queues := (List.range 18).foldl (fun m n => smSet Queue.empty m n (qFlush (smGet Queue.empty m n))) tl.queues
    engs := [] }

/-- No instruction of a faulted tile is in flight but a KEND that will never complete, and the transfers that an abandoned job drops
(R74, R82, R127). -/
def tileQuiet (tl : Tile) : Bool :=
  engines.all fun e => (inFlight (eng tl e)).all fun f =>
    match f.pend with
    | .kend => true
    | .send .. => true
    | .recv .. => true
    | _ => false

/-- R127, R359: what an abandoned tile still had to send is dropped; its receivers wait for the replay. -/
def dropTransfers (s : State) (t : Nat) : State :=
  modHalf s (tileHalf t) fun x =>
    { x with
      kept := x.kept.filter fun k => k.tile.toNat != t
      outQueue := x.outQueue.filter fun i => i.stile.toNat != t || 2 < i.kind }

/-- R93, R134, R137, R159: a kernel dispatched to a tile: the descriptor and arguments written, c0 counted, registers zero, each engine
given its stream. A replay counts its transfers from where the kernel first did in its own plan (R359, R412). -/
def dispatchTile (s : State) (t desc : Nat) (args : List W32) (turn : W32) (job : Nat) (mset : BitVec 16) (again : Bool) : State :=
  let tl := tileOf s t
  let w0 := memWord s.mem desc
  let kid := BitVec.ofNat 16 (fld w0 48 16)
  let xids := if tl.turn = turn then tl.xids else []
  let first := if again then xidStart tl turn (BitVec.ofNat 48 desc) args else none
  let kept := if tl.turn = turn then tl.starts else tl.starts.filter fun p => p.turn == tl.turn
  let here (p : XidStart) : Bool := p.turn == turn && p.desc == BitVec.ofNat 48 desc && p.args == args.drop 2
  let stream (e : Eng) : EngState :=
    let w := memWord s.mem (desc + 8 * (1 + engNum e))
    { EngState.idle with start := desc + 8 * fld w 16 24, length := fld w 0 16 }
  let tl1 : Tile :=
    { setCredit tl 0 (credit tl 0 + 1) with
      kernel := true
      s := []
      a := []
      tainted := false
      v := []
      acc := []
      bank := []
      kernelId := kid
      desc := BitVec.ofNat 48 desc
      args := args
      job := job
      mset := mset
      xids := first.getD xids
      back := if again then tl.back.orElse fun _ => some (tl.turn, tl.xids) else none
      starts := if again then tl.starts
        else (kept.filter fun p => !here p) ++ [{ turn := turn, desc := BitVec.ofNat 48 desc, args := args.drop 2, xids := xids }]
      turn := turn
      engs := [] }
  let tl2 := engines.foldl (fun a e => setEng a e (stream e)) tl1
  let s1 := correctReads (setTile s t tl2) [(desc, 64)]
  let s2 := if memAnyPz s.mem desc 64 then
      let d := { (Detect.plain 0x02 (tileHalf t) t) with tenant := ((jobOf s t).map (·.tenant)).getD 0, job := some job }
      detect (detect s1 d) { d with src := 0x03, addr := desc }
    else s1
  if fld (memWord s.mem (desc + 56)) 0 16 = 0 then tileFault s2 t 0x14 0 6 0 else s2

end Sys2Proof.Machine
end

