-- ==== Sys2Proof/Machine/ClockOps.lean ====
section
/-! DEFINITION. Relocks, power modes and ports as the clocks move them (spec/14 R385 to R389, spec/10 R303 to R310, spec/12 R346). -/

namespace Sys2Proof.Machine

/-- R398: the V-F offsets written take effect at a relock of their tile groups. -/
def latchVf (s : State) : State := { s with cal := { s.cal with vfNow := s.cal.vf } }

/-- R387 to R389: a relock for a change of REF begins, or one in progress restarts its count with the newer REF. -/
def startRelock (s : State) : State :=
  latchVf { s with clocks := { s.clocks with relock := some (s.now + 40), relockAll := true, relocks := inc16 s.clocks.relocks } }

/-- R388, R389: a relock for a mode change begins; during a relock in progress it is made in the same relock. -/
def modeRelock (s : State) : State :=
  latchVf
    (if s.clocks.relock.isSome then s
     else { s with clocks := { s.clocks with relock := some (s.now + 40), relockAll := false, relocks := inc16 s.clocks.relocks } })

/-- The event sent when its clocks run again is kept (R404); it is sent at once while they run. -/
def clockEvent (s : State) (code : BitVec 16) (extra : W64) : State := sendBlockEvent s code extra

/-- R387, R404: events that arose while the clocks were stopped, written after the restart. -/
def flushEvs (s : State) : State := s.clocks.evs.foldl sendEvent { s with clocks := { s.clocks with evs := [] } }

/-- R305: Boxcars is allowed. -/
def wornOf (m : Modes) : Bool := decide (7200000 ≤ m.wearBase.toNat + m.usedUs / 1000000)

/-- R308: the thermal account in whole milliseconds. -/
def thermalMs (m : Modes) : Nat := m.thermal / 5000

/-- R305: Boxcars is allowed: THERMAL at least 1 ms, RECOVERING, WORN and HOT all 0. -/
def boxAllowed (m : Modes) : Bool := decide (1 ≤ thermalMs m) && !m.recovering && !wornOf m && !m.hot

/-- R310: BOX_HORIZON.HORIZON. -/
def horizon (m : Modes) : Nat :=
  if boxAllowed m then min (min (thermalMs m) ((7200000000 - (m.wearBase.toNat * 1000 + m.usedUs / 1000)))) 0xffffffff else 0

/-- R307, R389: the spacing that a relock of the block's own choice keeps. -/
def mayRelock (s : State) : Bool :=
  match s.clocks.chosenAt with
  | none => true
  | some t => decide (t + 1000 ≤ s.now)

/-- R307, R389: a mode change may be made: its spacing is kept, or it is made in a relock for a change of REF, or with another change of the same
plan start. -/
def mayChange (s : State) : Bool :=
  mayRelock s || (s.clocks.relock.isSome && s.clocks.relockAll) || (s.clocks.relock.isSome && s.clocks.chosenAt == some s.now)

/-- A relock that the block chooses to make starts now (R307, R389). -/
def chosenNow (s : State) : State := { s with clocks := { s.clocks with chosenAt := some s.now } }

/-- R306: Boxcars left at once; the running plan goes on at BASE. -/
def leaveBoxcars (s : State) : State :=
  if s.modes.boxing then chosenNow (modeRelock { s with modes := { s.modes with boxing := false } }) else s

/-- R312: MODE_STAT.BOX_NOW: the tiles run at Boxcars. -/
def boxNowBit (s : State) : Bool := s.modes.boxing && clocksRun s

/-- R308: THERMAL counts in units of 200 ns of Boxcars time: 5 a microsecond down at Boxcars, 1 up in any other mode, up to 40,000 ms. It
stands still while the tile clocks do (R302's example; log 117). -/
def account (m : Modes) (n : Nat) : Modes :=
  if m.boxing then { m with thermal := m.thermal - 5 * n, usedUs := m.usedUs + n } else { m with thermal := min 200000000 (m.thermal + n) }

/-- R306, R308, R309: THERMAL at 0 or the wear allowance used leaves Boxcars, with its event; THERMAL at 20,000 ms ends RECOVERING. -/
def settlePower (s : State) : State :=
  let m := s.modes
  if m.boxing ∧ m.thermal = 0 then sendBlockEvent (leaveBoxcars { s with modes := { m with recovering := true } }) 0x0209 0
  else if m.boxing ∧ wornOf m then sendBlockEvent (leaveBoxcars s) 0x020a 0
  else if m.recovering ∧ 20000 ≤ thermalMs m then { s with modes := { m with recovering := false } }
  else s

/-- R405: PWR_IN is measured every 1 ms, with PEAK; the sensors' temperatures with it (log 5). -/
def measure (s : State) : State :=
  let n := s.power.samples
  let w := Config.pinSample n
  { s with
    power := { s.power with
      vin := Config.vinSample n, iin := Config.iinSample n, pin := w, peak := if s.power.peak.toNat < w.toNat then w else s.power.peak
      temps := (List.range 24).foldl (fun m k => smSet 0 m k (Config.tempSample k n)) s.power.temps, samples := n + 1 } }

/-- `n` microseconds pass (log 2). The 4 s of R283 and the 2 us of R329 stand still while the CT clocks do, and in CLOCK-HOLD nothing is measured
(R386). -/
def elapse (s : State) (n : Nat) : State :=
  let s1 := { s with
    now := s.now + n, modes := if clocksRun s then account s.modes n else s.modes
    turns := if ctRuns s then s.turns else { s.turns with stallAt := s.turns.stallAt + n }
    halfA := if ctRuns s then s.halfA else { s.halfA with bullSince := s.halfA.bullSince + n }
    halfB := if ctRuns s then s.halfB else { s.halfB with bullSince := s.halfB.bullSince + n } }
  settlePower (if s.now / 1000 = s1.now / 1000 ∨ s.su.off ∨ s.clocks.src = 2 then s1 else measure s1)

/-- Time passes up to the instant `t`, where it is not past (log 2). -/
def elapseTo (s : State) (t : Nat) : State := elapse s (t - s.now)

/-- R346: a memory port that is UP loses training: it retrains and holds its requests. -/
def portRetrain (s : State) (p : Nat) : State :=
  let x := mpOf s p
  if x.st ≠ .up then s
  else
    let s1 := { s with ports := smSet MemPort.off s.ports p { x with st := .training, retrain := true, retrains := inc8 x.retrains } }
    sendHalfEvent s1 (if p < 16 then .A else .B) 0x0401 (mk64 p)

/-- R407 point 0x0c and R346: a memory port becomes FAILED; its reads return zero with poison and its writes are discarded. -/
def portFail (s : State) (p : Nat) (cause : Nat) : State :=
  let x := mpOf s p
  let wasUp := x.st == .up || x.retrain
  let s1 := { s with
    ports := smSet MemPort.off s.ports p { x with st := .failed, retrain := false, cause := BitVec.ofNat 4 cause }
    mem := { s.mem with failed := s.mem.failed ||| BitVec.ofNat 32 (2 ^ p) } }
  if wasUp then
    let h : Half := if p < 16 then .A else .B
    detect (sendHalfEvent s1 h 0x0402 (mk64 (p + 256 * cause))) (Detect.plain 0x0c h p)
  else s1

/-- R314: a trained host port loses training. -/
def hostDown (s : State) (p : Nat) : State :=
  let x := hpOf s p
  if !x.trained then s
  else
    sendHalfEvent (setHp s p { x with trained := false, downs := inc8 x.downs }) (if p < 2 then .A else .B) 0x0309 (mk64 p)

/-- R386: entry into CLOCK-HOLD: every REF-derived clock stops, the ports lose training, NMI cause 1, log point 0x11. -/
def enterHold (s : State) : State :=
  let s1 := { s with clocks := { s.clocks with src := 2, relock := none, relockAll := false, holds := inc16 s.clocks.holds, holdAt := s.now } }
  let s2 := (List.range 32).foldl portRetrain s1
  let s3 := (List.range 4).foldl hostDown s2
  detect (raiseNmi s3 1) (Detect.plain 0x11 .A 0)

/-- R385: fallback to LOSC: NMI cause 0, CLOCK_FALLBACK with its cause, log point 0x10. -/
def fallBack (s : State) (cause : Nat) : State :=
  let s1 := { s with clocks := { s.clocks with src := 1, fallbacks := inc16 s.clocks.fallbacks, fallbackAt := s.now, returnReq := false } }
  detect (clockEvent (raiseNmi (startRelock s1) 0) 0x0601 (mk64 cause)) (Detect.plain 0x10 .A 0)

/-- The input that PREF names. -/
def prefIn (s : State) : TbIn := if s.clocks.pref then .tb1 else .tb0

/-- The input a return or the end of CLOCK-HOLD uses: PREF when both are eligible (R385). -/
def returnIn (s : State) : TbIn := if (tbOf s (prefIn s)).elig then prefIn s else tbOther (prefIn s)

/-- An RCLK is eligible. -/
def anyRclk (s : State) : Bool := s.tb0.elig || s.tb1.elig

/-- FCNT of a start-of-frame payload (R377). -/
def sofFcnt (p : W64) : Nat := fld p 48 8

/-- MARK of a start-of-frame payload (R377). -/
def sofMark (p : W64) : Bool := bit p 8

/-- TURN of a start-of-frame payload (R377). -/
def sofTurn (p : W64) : W32 := BitVec.ofNat 32 (fld p 16 32)

/-- R379: FCNT `f` follows `l`. -/
def follows (f l : Nat) : Bool := decide (1 ≤ (f + 256 - l) % 256 ∧ (f + 256 - l) % 256 ≤ 127)

/-- R379: the new input's history gives every mark whose FCNT follows the last frame taken from the old input. -/
def historyMarks (s : State) (i : TbIn) : List (Nat × W64) :=
  (tbOf s i).hist.filter fun p => sofMark p.2 && (match s.clocks.lastFcnt with | none => false | some l => follows (sofFcnt p.2) l.toNat)

/-- R379: FCNT of the last frame taken once a new input's history has been: that of its last frame, where it follows. -/
def historyFcnt (s : State) (i : TbIn) : Option Byte :=
  match (tbOf s i).hist.getLast?, s.clocks.lastFcnt with
  | some p, some l => if follows (sofFcnt p.2) l.toNat then some (BitVec.ofNat 8 (sofFcnt p.2)) else some l
  | _, l => l

/-- R379: the input in use becomes `i`: its history's marks are to be taken, and the frames that the old input gave are passed over. -/
def takeInput (s : State) (i : TbIn) : State :=
  if s.clocks.inUse = i then s
  else
    { s with
      clocks := { s.clocks with
        inUse := i, catchMarks := s.clocks.catchMarks ++ historyMarks s i, lastFcnt := historyFcnt s i, catching := true } }

/-- R379: REF becomes the RCLK of input `i`. -/
def useInput (s : State) (i : TbIn) : State :=
  let s1 := takeInput s i
  { s1 with clocks := { s1.clocks with src := 0 } }

/-- R379, R385: a switch of input by a relock, with TB_SWITCHED. -/
def switchInput (s : State) (i : TbIn) : State := clockEvent (startRelock (useInput s i)) 0x0603 (mk64 (tbNum i))

/-- R379: while REF is LOSC the input in use, which gives the marks, changes by a relock too, REF staying LOSC (log 121). -/
def switchMarks (s : State) (i : TbIn) : State := clockEvent (startRelock (takeInput s i)) 0x0603 (mk64 (tbNum i))

/-- R385: a return from LOSC to an RCLK. -/
def forceReturn (s : State) : State :=
  let s1 := useInput s (returnIn s)
  startRelock { s1 with clocks := { s1.clocks with returnReq := false } }

/-- R385: a return at a plan start, with CLOCK_RETURNED. -/
def returnClock (s : State) : State := clockEvent (forceReturn s) 0x0602 (mk64 (tbNum (returnIn s)))

/-- R386: the end of CLOCK-HOLD: a relock to the RCLK, and CLOCK_HOLD_ENDED with the duration in microseconds. -/
def leaveHold (s : State) : State :=
  clockEvent (startRelock (useInput s (returnIn s))) 0x0604 (mk64 (s.now - s.clocks.holdAt))

/-- R385: what a change of eligibility does to REF; `cause` is that of a fallback (R404). -/
def clockCheck (s : State) (cause : Nat) : State :=
  if s.clocks.src = 0 then
    if (tbOf s s.clocks.inUse).elig then s
    else if (tbOf s (tbOther s.clocks.inUse)).elig then switchInput s (tbOther s.clocks.inUse)
    else if s.clocks.losc then fallBack s cause
    else enterHold s
  else if s.clocks.src = 1 then
    if !s.clocks.losc then (if anyRclk s then raiseNmi (forceReturn s) 2 else enterHold s)
    else if !(tbOf s s.clocks.inUse).elig ∧ (tbOf s (tbOther s.clocks.inUse)).elig then switchMarks s (tbOther s.clocks.inUse)
    else s
  else if s.clocks.src = 2 then (if anyRclk s then leaveHold s else s)
  else s

/-- R385, R379, R307, R389: the relocks the block chooses at a plan start: a return from LOSC, or a revert to PREF. -/
def clockAtStart (s : State) : State :=
  if s.clocks.src = 1 ∧ anyRclk s ∧ mayRelock s ∧ (if s.clocks.manual then s.clocks.returnReq else decide (s.clocks.fallbackAt + 1000 ≤ s.now)) then
    returnClock (chosenNow s)
  else if s.clocks.src = 0 ∧ s.clocks.revert ∧ s.clocks.inUse ≠ prefIn s ∧ (tbOf s (prefIn s)).elig ∧ mayRelock s then
    switchInput (chosenNow s) (prefIn s)
  else if s.clocks.src = 1 ∧ s.clocks.revert ∧ s.clocks.inUse ≠ prefIn s ∧ (tbOf s (prefIn s)).elig ∧ mayRelock s then
    switchMarks (chosenNow s) (prefIn s)
  else s

end Sys2Proof.Machine
end

