-- ==== Sys2Proof/Machine/TileCmds.lean ====
section
/-! DEFINITION. The engine instructions as commands (spec/04, spec/06, spec/07, spec/08): each issues where its engine reaches the
word it carries; and what a tile does by itself (R79, R83, R89, R134). -/

namespace Sys2Proof.Machine

/-- NOP (R91), in whichever engine reaches it. -/
def execNop (t : BitVec 10) (w : W64) (s : State) : Host.Outcome State Fault Refusal := issueAny 0x00 bodyNop t w s

/-- REPEAT (R100), in whichever engine reaches it. -/
def execRepeat (t : BitVec 10) (w : W64) (s : State) : Host.Outcome State Fault Refusal := issueAny 0x01 bodyRepeat t w s

/-- KENTER (R104). -/
def execKenter (t : BitVec 10) (w : W64) (s : State) : Host.Outcome State Fault Refusal := issueOp 0xc2 bodyKenter t w s

/-- KEND (R105). -/
def execKend (t : BitVec 10) (w : W64) (s : State) : Host.Outcome State Fault Refusal := issueOp 0xc3 bodyKend t w s

/-- LI (R106). -/
def execLi (t : BitVec 10) (w : W64) (s : State) : Host.Outcome State Fault Refusal := issueOp 0xc4 bodyLi t w s

/-- ALU (R106). -/
def execAlu (t : BitVec 10) (w : W64) (s : State) : Host.Outcome State Fault Refusal := issueOp 0xc5 bodyAlu t w s

/-- ALUI (R106). -/
def execAlui (t : BitVec 10) (w : W64) (s : State) : Host.Outcome State Fault Refusal := issueOp 0xc6 bodyAlui t w s

/-- BR (R107). -/
def execBr (t : BitVec 10) (w : W64) (s : State) : Host.Outcome State Fault Refusal := issueOp 0xc7 bodyBr t w s

/-- JMP (R107). -/
def execJmp (t : BitVec 10) (w : W64) (s : State) : Host.Outcome State Fault Refusal := issueOp 0xc8 bodyJmp t w s

/-- SETA (R108). -/
def execSeta (t : BitVec 10) (w : W64) (s : State) : Host.Outcome State Fault Refusal := issueOp 0xc9 bodySeta t w s

/-- ADDA (R108). -/
def execAdda (t : BitVec 10) (w : W64) (s : State) : Host.Outcome State Fault Refusal := issueOp 0xca bodyAdda t w s

/-- ADDAS (R108). -/
def execAddas (t : BitVec 10) (w : W64) (s : State) : Host.Outcome State Fault Refusal := issueOp 0xcb bodyAddas t w s

/-- AREAD (R108). -/
def execAread (t : BitVec 10) (w : W64) (s : State) : Host.Outcome State Fault Refusal := issueOp 0xcc bodyAread t w s

/-- KARG (R109). -/
def execKarg (t : BitVec 10) (w : W64) (s : State) : Host.Outcome State Fault Refusal := issueOp 0xcd bodyKarg t w s

/-- CREDIT (R110). -/
def execCredit (t : BitVec 10) (w : W64) (s : State) : Host.Outcome State Fault Refusal := issueOp 0xce bodyCredit t w s

/-- QRD (R111). -/
def execQrd (t : BitVec 10) (w : W64) (s : State) : Host.Outcome State Fault Refusal := issueOp 0xcf bodyQrd t w s

/-- QWR (R111). -/
def execQwr (t : BitVec 10) (w : W64) (s : State) : Host.Outcome State Fault Refusal := issueOp 0xd0 bodyQwr t w s

/-- QSTAT (R112). -/
def execQstat (t : BitVec 10) (w : W64) (s : State) : Host.Outcome State Fault Refusal := issueOp 0xd1 bodyQstat t w s

/-- TRAP (R113). -/
def execTrap (t : BitVec 10) (w : W64) (s : State) : Host.Outcome State Fault Refusal := issueOp 0xd2 bodyTrap t w s

/-- LOAD (R115). -/
def execLoad (t : BitVec 10) (w : W64) (s : State) : Host.Outcome State Fault Refusal := issueOp 0x02 bodyLoad t w s

/-- STORE (R115). -/
def execStore (t : BitVec 10) (w : W64) (s : State) : Host.Outcome State Fault Refusal := issueOp 0x03 bodyStore t w s

/-- LDQ (R116). -/
def execLdq (t : BitVec 10) (w : W64) (s : State) : Host.Outcome State Fault Refusal := issueOp 0x04 bodyLdq t w s

/-- QST (R117). -/
def execQst (t : BitVec 10) (w : W64) (s : State) : Host.Outcome State Fault Refusal := issueOp 0x05 bodyQst t w s

/-- GATHER (R118). -/
def execGather (t : BitVec 10) (w : W64) (s : State) : Host.Outcome State Fault Refusal := issueOp 0x06 bodyGather t w s

/-- EBAG (R119). -/
def execEbag (t : BitVec 10) (w : W64) (s : State) : Host.Outcome State Fault Refusal := issueOp 0x07 bodyEbag t w s

/-- ZERO (R121). -/
def execZero (t : BitVec 10) (w : W64) (s : State) : Host.Outcome State Fault Refusal := issueOp 0x08 bodyZero t w s

/-- SEND (R124). -/
def execSend (t : BitVec 10) (w : W64) (s : State) : Host.Outcome State Fault Refusal := issueOp 0xa2 bodySend t w s

/-- RECV (R126). -/
def execRecv (t : BitVec 10) (w : W64) (s : State) : Host.Outcome State Fault Refusal := issueOp 0xa3 bodyRecv t w s

/-- MMW (R164). -/
def execMmw (t : BitVec 10) (w : W64) (s : State) : Host.Outcome State Fault Refusal := issueOp 0x22 bodyMmw t w s

/-- MXOUT (R167). -/
def execMxout (t : BitVec 10) (w : W64) (s : State) : Host.Outcome State Fault Refusal := issueOp 0x23 bodyMxout t w s

/-- MZERO (R167). -/
def execMzero (t : BitVec 10) (w : W64) (s : State) : Host.Outcome State Fault Refusal := issueOp 0x24 bodyMzero t w s

/-- VLD (R173). -/
def execVld (t : BitVec 10) (w : W64) (s : State) : Host.Outcome State Fault Refusal := issueOp 0x42 bodyVld t w s

/-- VST (R173). -/
def execVst (t : BitVec 10) (w : W64) (s : State) : Host.Outcome State Fault Refusal := issueOp 0x43 bodyVst t w s

/-- VPOP (R173). -/
def execVpop (t : BitVec 10) (w : W64) (s : State) : Host.Outcome State Fault Refusal := issueOp 0x44 bodyVpop t w s

/-- VPUSH (R173). -/
def execVpush (t : BitVec 10) (w : W64) (s : State) : Host.Outcome State Fault Refusal := issueOp 0x45 bodyVpush t w s

/-- VSCL (R173). -/
def execVscl (t : BitVec 10) (w : W64) (s : State) : Host.Outcome State Fault Refusal := issueOp 0x46 bodyVscl t w s

/-- VOP (R174). -/
def execVop (t : BitVec 10) (w : W64) (s : State) : Host.Outcome State Fault Refusal := issueOp 0x47 bodyVop t w s

/-- VOPI (R174). -/
def execVopi (t : BitVec 10) (w : W64) (s : State) : Host.Outcome State Fault Refusal := issueOp 0x48 bodyVopi t w s

/-- VRED (R176). -/
def execVred (t : BitVec 10) (w : W64) (s : State) : Host.Outcome State Fault Refusal := issueOp 0x49 bodyVred t w s

/-- VROT (R177). -/
def execVrot (t : BitVec 10) (w : W64) (s : State) : Host.Outcome State Fault Refusal := issueOp 0x4a bodyVrot t w s

/-- VPICK (R178). -/
def execVpick (t : BitVec 10) (w : W64) (s : State) : Host.Outcome State Fault Refusal := issueOp 0x4b bodyVpick t w s

/-- VSIDE (R178). -/
def execVside (t : BitVec 10) (w : W64) (s : State) : Host.Outcome State Fault Refusal := issueOp 0x4c bodyVside t w s

/-- VQZ (R179). -/
def execVqz (t : BitVec 10) (w : W64) (s : State) : Host.Outcome State Fault Refusal := issueOp 0x4d bodyVqz t w s

/-- VQNT (R180). -/
def execVqnt (t : BitVec 10) (w : W64) (s : State) : Host.Outcome State Fault Refusal := issueOp 0x4e bodyVqnt t w s

/-- VQS (R181). -/
def execVqs (t : BitVec 10) (w : W64) (s : State) : Host.Outcome State Fault Refusal := issueOp 0x4f bodyVqs t w s

/-- VPACK (R182). -/
def execVpack (t : BitVec 10) (w : W64) (s : State) : Host.Outcome State Fault Refusal := issueOp 0x50 bodyVpack t w s

/-- VUNPK (R182). -/
def execVunpk (t : BitVec 10) (w : W64) (s : State) : Host.Outcome State Fault Refusal := issueOp 0x51 bodyVunpk t w s

/-- TWALK (R206). -/
def execTwalk (t : BitVec 10) (w : W64) (s : State) : Host.Outcome State Fault Refusal := issueOp 0x62 bodyTwalk t w s

/-- TFE (R205). -/
def execTfe (t : BitVec 10) (w : W64) (s : State) : Host.Outcome State Fault Refusal := issueOp 0x63 bodyTfe t w s

/-- TOUT (R207). -/
def execTout (t : BitVec 10) (w : W64) (s : State) : Host.Outcome State Fault Refusal := issueOp 0x64 bodyTout t w s

/-- ASTEP (R233). -/
def execAstep (t : BitVec 10) (w : W64) (s : State) : Host.Outcome State Fault Refusal := issueOp 0x82 bodyAstep t w s

/-- INSTRUCTION_COMPLETE (R79): the instruction at place `k` of the engine's instructions in flight completes. -/
def execInstructionComplete (t : BitVec 10) (e : Eng) (k : Nat) (s : State) : Host.Outcome State Fault Refusal :=
  onTile t s (if domainRuns s (tileDomain t.toNat) then completeAt s t.toNat e k else s)

/-- CREDIT_STALL (R83): the stall condition has held for 65,536 cycles. -/
def execCreditStall (t : BitVec 10) (s : State) : Host.Outcome State Fault Refusal :=
  onTile t s (if tileRuns s t.toNat ∧ creditStalled (tileOf s t.toNat) then tileFault s t.toNat 0x04 0 7 0 else s)

/-- STREAM_LOADER_FILL (R134): the next word of an engine's stream. -/
def execStreamLoaderFill (t : BitVec 10) (e : Eng) (s : State) : Host.Outcome State Fault Refusal :=
  onTile t s (loaderFill s t.toNat e)

/-- The fault of a word the engine does not execute, when the engine reaches it (R89). -/
def reachIllegal (s : State) (t : Nat) (e : Eng) (w : W64) : State :=
  let tl := tileOf s t
  if !tileRuns s t ∨ !tl.kernel ∨ tl.stopped ∨ wordLegal e w then s
  else
    match fetchWord tl e with
    | none => s
    | some (w', tl1) => if w' ≠ w then s else tileFault (setTile s t tl1) t 0x10 0 (engNum e) (eng tl1 e).pos

/-- ILLEGAL_OPCODE (R89): the engine reaches a word whose opcode its encoding table does not define. -/
def execIllegalOpcode (t : BitVec 10) (e : Eng) (w : W64) (s : State) : Host.Outcome State Fault Refusal :=
  onTile t s (reachIllegal s t.toNat e w)

end Sys2Proof.Machine
end

