-- ==== Sys2Proof/Machine/Admission.lean ====
section
/-! DEFINITION. Admission: capacities, the ledger, the prompt promise (spec/10 R295 to R300), and the mask lane's queue (R287, R293). -/

namespace Sys2Proof.Machine

/-- MODE_STAT.ECO_PENDING (R304): MODE_CTL selects Eco and Sustain is still in force. -/
def ecoPending (m : Modes) : Bool := m.base == 1 && m.baseNow == 0

/-- R296, R304: f_base in tile-cycles per microsecond. -/
def fBase (m : Modes) : Nat := if m.baseNow = 1 ∨ ecoPending m then 1200 else 1750

/-- R296: T_adm in microseconds. -/
def tAdm (t : Turns) : Nat := t.spacings.foldl min t.nom.toNat

/-- R312: TURN_PERIOD.NOM lies in its range. -/
def nomOk (t : Turns) : Bool := decide (2000 ≤ t.nom.toNat ∧ t.nom.toNat ≤ 4000000)

/-- A half that admits nothing: stopped by a HALF-class error (R424), or without its CT domain (R392). -/
def halfDown (s : State) (h : Half) : Bool := (half s h).stopped || !halfRuns s h

/-- The mask-lane tiles that a plan sets aside on a half, those enabled and no tile of a batch (R287). -/
def planMaskTiles (s : State) (plan : Option PlanDef) (h : Half) : List Nat :=
  match plan with
  | none => []
  | some p => ((if h = .A then p.maskTilesA else p.maskTilesB).map BitVec.toNat).filter fun t =>
      tileHalf t == h && tileEnabled s t && p.kernels.all fun k => k.tile.toNat != t

/-- The mask-lane tiles that the plan in force sets aside on a half (R287, R296). -/
def maskTiles (s : State) (h : Half) : List Nat := planMaskTiles s s.group.plan h

/-- R351: the plan that a half's running plan, or its last one, runs under. -/
def halfPlan (s : State) (h : Half) : Option PlanDef := planFor s (half s h).lastTurn

/-- Enabled tiles of a half (R52, R53). -/
def enabledTiles (s : State) (h : Half) : Nat := ((List.range 512).filter fun i => tileEnabled s (512 * halfNum h + i)).length

/-- What a ledger turn carries (R297): tile-cycles, memory-port bytes, mask-lane tile-cycles, and whether every load has a class. -/
structure Demand where
  tile : Nat
  mem : Nat
  mask : Nat
  classed : Bool
  deriving DecidableEq, Repr

/-- A demand with another added. -/
def addDemand (a b : Demand) : Demand :=
  { tile := a.tile + b.tile, mem := a.mem + b.mem, mask := a.mask + b.mask, classed := a.classed && b.classed }

/-- R296: the capacities of a half per turn at `f` tile-cycles per microsecond. -/
def capacity (s : State) (h : Half) (f : Nat) : Demand :=
  let m := (maskTiles s h).length
  { tile := (enabledTiles s h - m) * f * tAdm s.turns, mem := 13500000 * tAdm s.turns, mask := m * f * tAdm s.turns, classed := true }

/-- R296: `d` lies within the allowance of capacity `c`. -/
def within (c d : Demand) (margin : Byte) : Bool :=
  let k := 256 - margin.toNat
  d.classed && decide (d.tile * 256 ≤ c.tile * k) && decide (d.mem * 256 ≤ c.mem * k) && decide (d.mask * 256 ≤ c.mask * k)

/-- A reservation to price (R299): the image, a steady part, and prompt tokens by plan. -/
structure Reserve where
  image : Nat
  steady : Bool
  plans : List (W32 × Nat)
  deriving DecidableEq, Repr

/-- No reservation. -/
def Reserve.none : Reserve := { image := 0, steady := false, plans := [] }

/-- Prompt tokens of a plan list in plan `j`. -/
def planTokens (l : List (W32 × Nat)) (j : W32) : Nat := ((l.filter fun p => p.1 == j).map (·.2)).sum

/-- R297: the reservation of plan `j` in a half is not yet released. -/
def planOpen (x : HalfState) (j : W32) : Bool := later j x.lastTurn || (x.run.map (·.turn)) == some j

/-- R297: load_t(j) of an image on a half, with a further reservation. -/
def loadOf (s : State) (h : Half) (n : Nat) (i : Image) (r : Reserve) (j : W32) : Nat :=
  let mine := (s.slots.filter fun p => slotHalf p.1 == h && p.2.w.image == n && slotLive p.2.r.st).map (·.2.w)
  let steady := (mine.filter (·.steady)).length + b2n (r.steady && r.image == n)
  let held := if planOpen (half s h) j then (mine.map fun w => planTokens w.plans j).sum else 0
  let more := if r.image = n then planTokens r.plans j else 0
  ceilDiv (steady * i.rate + 16 * (held + more)) 16

/-- R297, R412: the first class entry whose ROWS_MAX covers a number of rows. -/
def classFor (l : List ClassEnt) (rows : Nat) : Option ClassEnt := l.find? fun e => rows ≤ e.rowsMax

/-- R352: the plan in force holds kernels with remote transfers for a tenant on a half. -/
def hasRemote (s : State) (h : Half) (t : BitVec 16) : Bool :=
  match s.group.plan with
  | none => false
  | some p => p.kernels.any fun k => k.half == h && k.tenant == t && k.fixed.isSome

/-- R295: an entry's TC and MB, with mask-lane work. -/
def classDemand (e : ClassEnt) (mask : Nat) : Demand := { tile := e.tc * 1024, mem := e.mb * 1048576, mask := mask, classed := true }

/-- R297: what one image adds to demand(j). -/
def imageDemand (s : State) (h : Half) (n : Nat) (i : Image) (r : Reserve) (j : W32) : Demand :=
  let load := loadOf s h n i r j
  if load = 0 then
    match (if hasRemote s h i.tenant then i.classes.head? else none) with
    | none => { tile := 0, mem := 0, mask := 0, classed := true }
    | some e => classDemand e 0
  else
    match classFor i.classes load with
    | none => { tile := 0, mem := 0, mask := 0, classed := false }
    | some e => classDemand e (i.maskc * load)

/-- R297: demand(j) of a half. -/
def demandAt (s : State) (h : Half) (r : Reserve) (j : W32) : Demand :=
  ((images s).map fun p => imageDemand s h p.1 p.2 r j).foldl addDemand { tile := 0, mem := 0, mask := 0, classed := true }

/-- R297: the ledger turns: the current one and the 63 after it. -/
def ledgerTurns (s : State) : List W32 := tab 64 fun k => s.turns.cur + BitVec.ofNat 32 k

/-- R297: a reservation keeps every ledger turn it affects within the allowances. -/
def fits (s : State) (h : Half) (r : Reserve) : Bool :=
  let c := capacity s h (fBase s.modes)
  (ledgerTurns s).all fun j =>
    if r.steady || r.plans.any (fun p => p.1 == j) then within c (demandAt s h r j) s.turns.margin else true

/-- R298: `q` prompt tokens in each of the plans a + 1 to a + k. -/
def evenPlans (s : State) (k q : Nat) : List (W32 × Nat) := tab k fun i => (s.turns.cur + BitVec.ofNat 32 (i + 1), q)

/-- R298: n tokens over k plans, ceil(n / k) in each, the last taking the remainder. -/
def sharePlans (s : State) (n k : Nat) : List (W32 × Nat) :=
  let q := ceilDiv n k
  tab k fun i => (s.turns.cur + BitVec.ofNat 32 (i + 1), min q (n - q * i))

/-- R297 to R299: the price of a prompt run of `n` tokens, with a steady reservation or without: the promise P and the plans, or none
for NO_CAPACITY. With no tokens P is 0, and with no steady part either the message is not priced (R299). -/
def price (s : State) (h : Half) (img : Nat) (steady : Bool) (n : Nat) : Option (Nat × List (W32 × Nat)) :=
  match imageOf s img with
  | none => none
  | some i =>
    if n = 0 ∧ !steady then some (0, [])
    else if !s.turns.seen ∨ !nomOk s.turns ∨ halfDown s h then none
    else if n = 0 then
      if fits s h { image := img, steady := steady, plans := [] } then some (0, []) else none
    else
      match (List.range (i.pmax - 1)).find? fun k0 =>
        fits s h { image := img, steady := steady, plans := evenPlans s (k0 + 1) (ceilDiv n (k0 + 1)) } with
      | none => none
      | some k0 => some (k0 + 2, sharePlans s n (k0 + 1))

/-- R312: allow_tile minus the largest tile demand of any ledger turn, in units of 2^10 tile-cycles, floored at 0. -/
def tileFree (s : State) (h : Half) : Nat :=
  let top := ((ledgerTurns s).map fun j => (demandAt s h Reserve.none j).tile).foldl max 0
  if halfDown s h then 0
  else ((capacity s h (fBase s.modes)).tile * (256 - s.turns.margin.toNat) / 256 - top) / 1024

/-- R312: allow_mem minus the largest memory demand of any ledger turn, in units of 2^20 bytes, floored at 0. -/
def memFree (s : State) (h : Half) : Nat :=
  let top := ((ledgerTurns s).map fun j => (demandAt s h Reserve.none j).mem).foldl max 0
  if halfDown s h then 0
  else ((capacity s h (fBase s.modes)).mem * (256 - s.turns.margin.toNat) / 256 - top) / 1048576

/-- R253: the half with the larger remaining admission capacity, ties to A (log 32). -/
def placeHalf (s : State) : Half := if tileFree s .A < tileFree s .B then .B else .A

/-- R304: every ledger turn's demand of both halves lies within the allowances at 1.2 GHz. -/
def ecoFits (s : State) : Bool :=
  [Half.A, Half.B].all fun h => (ledgerTurns s).all fun j => within (capacity s h 1200) (demandAt s h Reserve.none j) s.turns.margin

/-- A tenant's mask-lane kernel in the plan that a half runs under, with the arguments the plan states for it (R109, R287). -/
def maskKernel (s : State) (h : Half) (t : BitVec 16) : Option (BitVec 16 × List W32) :=
  match halfPlan s h with
  | none => none
  | some p => (p.maskKernels.find? fun k => k.1 == t).map (·.2)

/-- R293: a mask-lane job enters the queue: those within the priced load ahead of those beyond it. -/
def insertMask (l : List Job) (j : Job) : List Job :=
  if j.excess then l ++ [j] else (l.filter fun x => !x.excess) ++ [j] ++ l.filter fun x => x.excess

/-- A mask-lane job of slot `n` for positions `p` to `q - 1`. -/
def maskJob (s : State) (n p q : Nat) (k : BitVec 16 × List W32) (excess : Bool) : Job :=
  let x := slotOf s n
  { num := (half s (slotHalf n)).nextJob, half := slotHalf n, tile := 0, tenant := x.r.tenant, image := x.w.image, lane := Sys2Proof.Lane.mask
    rows := [{ slot := n, sgen := x.r.sgen, first := p, past := q, upto := q }], kernel := k.1, fixed := none, args := k.2, verdict := false
    turn := s.turns.cur, since := s.now, dead := false, entry := none, bytes := 0, excess := excess, snap := [], held := [] }

/-- A mask-lane job queued under its number (R410). -/
def queueMask (s : State) (h : Half) (j : Job) : State :=
  modHalf s h fun x => { x with nextJob := x.nextJob + 1, maskJobs := insertMask x.maskJobs j }

/-- R293: a tenant's priced load of the current turn on a half: that of all its images. -/
def pricedLoad (s : State) (h : Half) (t : BitVec 16) : Nat :=
  (((images s).filter fun p => p.2.tenant == t).map fun p => loadOf s h p.1 p.2 Reserve.none s.turns.cur).sum

/-- R287, R293: mask-lane work for positions `p` to `q - 1` of slot `n`, as the message that carries them is applied: the positions within the
priced load of the turn, and apart from them those beyond it. -/
def addMaskJob (s : State) (n p q : Nat) : State :=
  let h := slotHalf n
  let r := (slotOf s n).r
  let img := (slotOf s n).w.image
  if !r.masks ∨ q ≤ p then s
  else
    match maskKernel s h r.tenant, imageOf s img with
    | some k, some _ =>
      let used := smGet 0 (half s h).maskLoad r.tenant.toNat
      let m := min q (p + (pricedLoad s h r.tenant - used))
      let s1 := modHalf s h fun x => { x with maskLoad := smSet 0 x.maskLoad r.tenant.toNat (used + (q - p)) }
      let s2 := if p < m then queueMask s1 h (maskJob s1 n p m k false) else s1
      if m < q then queueMask s2 h (maskJob s2 n m q k true) else s2
    | _, _ => s

/-- R287: the mask-lane kernel of a TAKEBACK to `p`: a job without positions (log 107). -/
def addBackJob (s : State) (n p : Nat) : State :=
  let x := slotOf s n
  match x.r.masks, maskKernel s (slotHalf n) x.r.tenant, imageOf s x.w.image with
  | true, some k, some _ => queueMask s (slotHalf n) (maskJob s n p p k false)
  | _, _, _ => s

end Sys2Proof.Machine
end

