-- ==== Sys2Proof/Machine/Messages.lean ====
section
/-! DEFINITION. Request messages (spec/09 R250 to R269, R468): their checks in order, and what each does when it is accepted. -/

namespace Sys2Proof.Machine

/-- R246: the most positions a request holds. -/
def maxPos : Nat := 1049088

/-- TYPE of a message (R323). -/
def msgType (m : Msg) : Nat := fld m.w0 56 8

/-- TENANT of a message (R251). -/
def msgTenant (m : Msg) : Nat := fld m.w1 48 16

/-- R323: TYPE, WVER and the reserved bits of the entry header. -/
def hdrOk (m : Msg) (type : Nat) : Bool := msgType m == type && fld m.w0 48 8 == 2 && fld m.w0 0 32 == 0

/-- R325: `n` token words at window offset `off`: inside the window and aligned. -/
def tokInWin (s : State) (off n : Nat) : Bool := off % 4 == 0 && decide (off < winBytes s) && decide (off + 4 * n ≤ winBytes s)

/-- The token words at a window offset. -/
def readToks (s : State) (off n : Nat) : List W32 := tab n fun i => BitVec.ofNat 32 (memNum s.mem (winAddr s off + 4 * i) 4)

/-- R325 and R251: the token words a message uses lie in the window, and bits [31:20] of those read without poison are zero; one with poison is
refused later (R409, R468). -/
def toksOk (s : State) (off n : Nat) : Bool :=
  tokInWin s off n
    && (List.range n).all fun i => memPz s.mem (winAddr s off + 4 * i) || decide (memNum s.mem (winAddr s off + 4 * i) 4 < 2 ^ 20)

/-- R409: a token word reads with poison. -/
def toksPz (s : State) (off n : Nat) : Bool := decide (0 < n) && memAnyPz s.mem (winAddr s off) (4 * n)

/-- R348, R409: the token words that a message refused at that step read with poison, counted at their ports. -/
def countToks (s : State) (off n : Nat) (bad : Option Nat) : State := if bad = some 0x14 then countPoison s (winAddr s off) (4 * n) else s

/-- The message is the next to be decided (R250, R324). -/
def isNext (s : State) (m : Msg) : Bool := windowOpen s && s.taken.head? == some m

/-- The message taken from the front of those waiting. -/
def dropTaken (s : State) : State := { s with taken := s.taken.tail }

/-- R370: a message whose EPOCH differs from its slot's is counted. -/
def countEpoch (s : State) (m : Msg) : State :=
  if fld m.w0 32 16 = (slotOf s (msgSlot m)).r.epoch.toNat then s
  else { s with group := { s.group with mismatch := inc16 s.group.mismatch } }

/-- R244: the slot check. -/
def slotStale (s : State) (m : Msg) : Bool :=
  let r := (slotOf s (msgSlot m)).r
  r.st == .free || r.tenant.toNat != msgTenant m || r.sgen.toNat != msgSgen m

/-- R244, R255, R256, R424: the status of a message the slot no longer takes: STALE, ENDED, or ALREADY_COMPLETE for a RESIGN. `final`
says that the message is one a FINAL position shuts out. -/
def slotGate (s : State) (m : Msg) (final resign : Bool) : Option Nat :=
  let x := slotOf s (msgSlot m)
  if (half s (slotHalf (msgSlot m))).stopped then some 0x11
  else if slotStale s m then some 0x10
  else if x.r.st = .done then some (if resign then 0x02 else 0x11)
  else if slotEnded x.r.st then some 0x11
  else if final ∧ x.w.final.isSome then some 0x11
  else none

/-- The answer of the first failed check, or the effect of the accepted message. -/
def decide1 (s : State) (m : Msg) (bad : Option Nat) (f : State → State) : State :=
  match bad with
  | some st => answerSlot s m st 0
  | none => f s

/-- The first check that fails, of a list in order (R468). -/
def firstFail : List (Bool × Nat) → Option Nat
  | [] => none
  | (true, st) :: _ => some st
  | (false, _) :: l => firstFail l

/-- Rows of a slot cut at position `p` (R258); a row left without positions goes. -/
def trimRows (n p : Nat) (l : List Row) : List Row :=
  (l.filter fun r => r.slot != n || decide (r.first < min r.past p) || decide (r.first = r.past ∧ r.first ≤ p)).map fun r =>
    if r.slot = n then { r with past := min r.past p, upto := min r.upto p } else r

/-- Rows of a slot whose results at `p` and above are discarded (R258). -/
def discardRows (n p : Nat) (l : List Row) : List Row := l.map fun r => if r.slot = n then { r with upto := min r.upto p } else r

/-- R258: a job of a half has been dispatched: a kernel of it runs, or one with rows of slot `n` has ended. -/
def jobBegun (s : State) (n num : Nat) : Bool :=
  (half s (slotHalf n)).jobs.any (fun j => j.num == num) || (slotOf s n).w.ran.any fun k => k.num == num

/-- A mask-lane job that is no replay. -/
def firstMask (j : Job) : Bool := j.lane == Sys2Proof.Lane.mask && j.entry.isNone

/-- R258: positions from `p` on dropped from every job not yet dispatched; of a dispatched one the results are discarded. The first work of the
mask lane goes on: its records are owed to the messages before the takeback (R27, R228; log 107). -/
def trimJobs (s : State) (n p : Nat) : State :=
  let cut (num : Nat) (l : List Row) : List Row := if jobBegun s n num then discardRows n p l else trimRows n p l
  modHalf s (slotHalf n) fun x =>
    { x with
      jobs := x.jobs.map fun j => if firstMask j then j else { j with rows := discardRows n p j.rows }
      maskJobs := (x.maskJobs.map fun j => if firstMask j then j else { j with rows := cut j.num j.rows }).filter fun j => !j.rows.isEmpty
      replayJobs := (x.replayJobs.map fun j => { j with rows := cut j.num j.rows }).filter fun j => !j.rows.isEmpty || j.fixed.isSome
      run := x.run.map fun q => { q with batches := q.batches.map fun b => { b with rows := cut b.num b.rows } } }

/-- R228: the mask records owed to a slot as a takeback to `dst` releases pages past it: each keeps the address of its block there. -/
def keepOwed (s : State) (n dst : Nat) (o : OwedMask) : OwedMask :=
  if o.addr.isNone ∧ entriesFor dst ≤ (o.pos - 1) / 64 then { o with addr := some (maskAddr s n (o.pos - 1)) } else o

/-- R258: HEAD set to `dst`; with a mask automaton and a moved head, the mask record of the new head is owed after those of the messages before
(R27, R227, R228), and a mask-lane kernel is dispatched (R287). -/
def takeBack (s0 : State) (n dst : Nat) : State :=
  let head := (slotOf s0 n).r.head
  if dst = head then s0
  else
    let s := drainMasks s0 n
    let s1 := releaseFrom (trimJobs s n dst) n (entriesFor dst) (entriesFor head)
    let s2 := modSlot s1 n fun x =>
      { x with
        r := { x.r with head := dst }
        w := { x.w with
          toks := x.w.toks.take dst
          screened := min x.w.screened dst
          computed := min x.w.computed dst
          deferred := min x.w.deferred dst
          masked := if x.r.masks then x.w.masked else min x.w.masked dst
          entered := min x.w.entered dst
          excused := (x.w.excused.map fun q => (q.1, min q.2 dst)).filter fun q => q.1 < q.2
          maskPos := if x.r.masks then x.w.maskPos.map (keepOwed s n dst) ++ [{ pos := dst, back := true, addr := none }] else x.w.maskPos } }
    drainMasks (addBackJob s2 n dst) n

/-- R256: the position fields of a TOKENS message. -/
def tokensPosOk (r : SlotRec) (m : Msg) : Bool :=
  let n := fld m.w2 32 8
  let c := fld m.w1 0 24
  (n == 0 || fld m.w2 40 24 == r.head) && decide (r.commit ≤ c ∧ c ≤ r.head + n) && (!bit m.w2 31 || (c == r.head + n && decide (0 < c)))

/-- R256: what an accepted TOKENS does; its tokens count as produced in turn `turn`. -/
def applyTokens (s : State) (m : Msg) (turn : W32) : State :=
  let k := msgSlot m
  let n := fld m.w2 32 8
  let c := fld m.w1 0 24
  let old := (slotOf s k).r
  let toks := readToks s (fld m.w3 0 36) n
  let s1 := takePages s k old.head (old.head + n)
  let s2 := modSlot s1 k fun x =>
    { x with
      r := { x.r with st := if x.r.st = .ready then .generating else x.r.st, head := old.head + n }
      w := { x.w with
        toks := x.w.toks ++ toks
        prod := if old.commit < c then x.w.prod ++ [(c, turn)] else x.w.prod
        final := if bit m.w2 31 then some (c - 1) else x.w.final
        maskPos := if x.r.masks && n != 0 then x.w.maskPos ++ [{ pos := old.head + n, back := false, addr := none }] else x.w.maskPos } }
  addMaskJob (stampDue (setDeadline (commitTo s2 k c) k) k) k old.head (old.head + n)

/-- R30: the tokens that a message commits in a turn later than the one they were sent for are counted in LATE_TOKENS, with their EVENT; that
turn is a free value (log 115). -/
def lateTokens (s : State) (m : Msg) (turn : W32) (n : Nat) : State :=
  if n = 0 ∨ !later turn (Config.intendedTurn m.ring m.idx) then s
  else
    sendBlockEvent { s with turns := { s.turns with lateTokens := BitVec.ofNat 32 (satAdd s.turns.lateTokens.toNat n 32) } } 0x0208
      (mk64 (msgSlot m))

/-- R30, R325: the turn in which the doorbell of a message rang. -/
def bellTurn (s : State) (m : Msg) : W32 :=
  ((s.replies.find? fun r => r.ring == m.ring.toNat && r.idx == m.idx).map (·.turn)).getD s.turns.cur

/-- R269, R291: the positions that a held message commits are excused. -/
def excuseHeld (s : State) (k p q : Nat) : State :=
  if q ≤ p then s else modSlot s k fun x => { x with w := { x.w with excused := x.w.excused ++ [(p, q)] } }

/-- R468 steps 6, 7 and 9 of a TOKENS message. -/
def tokensFail (s : State) (m : Msg) : Option Nat :=
  let k := msgSlot m
  let n := fld m.w2 32 8
  let r := (slotOf s k).r
  firstFail
    [(!tokensPosOk r m, 0x13), (decide (maxPos < r.head + n), 0x15), (toksPz s (fld m.w3 0 36) n, 0x14),
     (decide (freePages s (slotHalf k) < pagesNeeded s k r.head (r.head + n)), 0x16)]

/-- R258: the position field of a TAKEBACK; in READY only TO = HEAD (R255). -/
def takebackFail (s : State) (m : Msg) : Option Nat :=
  let r := (slotOf s (msgSlot m)).r
  let dst := fld m.w1 0 24
  firstFail [(!(decide (r.commit ≤ dst ∧ dst ≤ r.head) && (r.st != .ready || dst == r.head)), 0x13)]

/-- A TOKENS message decided in READY or GENERATING, its tokens produced in turn `turn`. -/
def decideTokens (s : State) (m : Msg) (turn : W32) : State :=
  let c := (slotOf s (msgSlot m)).r.commit
  decide1 (countToks s (fld m.w3 0 36) (fld m.w2 32 8) (tokensFail s m)) m (tokensFail s m) fun s =>
    publishSlot (lateTokens (answerSlot (applyTokens (countEpoch s m) m turn) m 0 0) m turn (fld m.w1 0 24 - c)) (msgSlot m)

/-- R268 step 6, R291: a held TOKENS message decided in turn `turn`, in which it counts as arrived; its doorbell may have been late (R30). -/
def decideHeld (s : State) (m : Msg) (turn : W32) : State :=
  let k := msgSlot m
  decide1 (countToks s (fld m.w3 0 36) (fld m.w2 32 8) (tokensFail s m)) m (tokensFail s m) fun s =>
    let c := (slotOf s k).r.commit
    publishSlot
      (lateTokens (answerSlot (applyTokens (excuseHeld (countEpoch s m) k c (fld m.w1 0 24)) m turn) m 0 0) m (bellTurn s m) (fld m.w1 0 24 - c)) k

/-- A TAKEBACK message decided in READY or GENERATING. -/
def decideTakeback (s : State) (m : Msg) : State :=
  decide1 s m (takebackFail s m) fun s => answerSlot (takeBack (countEpoch s m) (msgSlot m) (fld m.w1 0 24)) m 0 0

/-- R268 step 6: the held messages of a request applied in submission order; one whose request has ended is answered ENDED. -/
def applyHeld : List Msg → State → W32 → State
  | [], s, _ => s
  | m :: ms, s, r =>
    let s1 := match slotGate s m true false with
      | some st => answerSlot s m st 0
      | none => if msgType m = 2 then decideHeld s m r else decideTakeback s m
    applyHeld ms s1 r

/-- R268 steps 4 to 6, once a rebuild has ended and its prompt verdict, if any, is published. -/
def afterRebuild (s : State) (n : Nat) : State :=
  let x := slotOf s n
  if x.r.st ≠ .lost ∨ x.r.sub ≠ 1 ∨ x.w.rebuild.isSome ∨ x.w.runOpen then s
  else
    let held := x.w.held
    let st : SlotSt := if held.any (fun m => msgType m == 2) then .generating else .ready
    let s1 := modSlot s n fun x =>
      { x with
        r := { x.r with st := st, sub := 0 }
        w := { x.w with held := [], maskPos := if x.r.masks then x.w.maskPos ++ [{ pos := x.r.head, back := false, addr := none }] else x.w.maskPos } }
    applyHeld held (drainMasks s1 n) x.w.runEnd

/-- R288 and R227: what a slot can publish, and what follows from it. -/
def publish (s : State) (n : Nat) : State := afterRebuild (drainMasks (publishSlot s n) n) n

/-- Every slot that is not FREE, ascending. -/
def usedSlots (s : State) : List Nat := (s.slots.filter fun p => p.2.r.st != .free).map (·.1)

/-- What follows from records published in a batch (R268, R227). -/
def afterBatches (s : State) : State := (usedSlots s).foldl (fun s n => afterRebuild (drainMasks s n) n) s

/-- R158: the scale record at E_INIT with CLEAN 0. -/
def initScale (i : Image) : List W64 :=
  tab 8 fun t =>
    match i.tqds.find? fun d => fld d 16 4 == t + 1 with
    | none => 0
    | some d => mk64 (put (fld d 40 8) 56 8)

/-- TOKENS (R255, R256, R267). -/
def onTokens (s : State) (m : Msg) : State :=
  let n := fld m.w2 32 8
  let off := fld m.w3 0 36
  let st := (slotOf s (msgSlot m)).r.st
  let bad :=
    !hdrOk m 2 || fld m.w2 0 31 != 0 || decide (64 < n) || fld m.w3 36 28 != 0 || m.w4 != 0 || (decide (0 < n) && !toksOk s off n)
  if bad then answerSlot s m 0x14 0
  else
    match slotGate s m true false with
    | some x => answerSlot s m x 0
    | none =>
      if st = .lost then modSlot s (msgSlot m) fun x => { x with w := { x.w with held := x.w.held ++ [m] } }
      else if st = .ready ∨ st = .generating then publish (decideTokens s m (bellTurn s m)) (msgSlot m)
      else answerSlot s m 0x12 0

/-- TAKEBACK (R255, R258, R267). -/
def onTakeback (s : State) (m : Msg) : State :=
  let st := (slotOf s (msgSlot m)).r.st
  if !hdrOk m 3 ∨ m.w2 ≠ 0 ∨ m.w3 ≠ 0 ∨ m.w4 ≠ 0 then answerSlot s m 0x14 0
  else
    match slotGate s m true false with
    | some x => answerSlot s m x 0
    | none =>
      if st = .lost then modSlot s (msgSlot m) fun x => { x with w := { x.w with held := x.w.held ++ [m] } }
      else if st = .ready ∨ st = .generating then decideTakeback s m
      else answerSlot s m 0x12 0

/-- RESIGN (R255, R259). -/
def onResign (s : State) (m : Msg) : State :=
  if !hdrOk m 4 ∨ fld m.w1 0 24 ≠ 0 ∨ m.w2 ≠ 0 ∨ m.w3 ≠ 0 ∨ m.w4 ≠ 0 then answerSlot s m 0x14 0
  else
    match slotGate s m false true with
    | some x => answerSlot s m x 0
    | none => answerSlot (endRequest (countEpoch s m) (msgSlot m) .resigned 3) m 0 0

/-- PAUSE (R31, R255, R265, R266): what is speculative is taken back, and the drain begins. -/
def onPause (s : State) (m : Msg) : State :=
  let k := msgSlot m
  let r := (slotOf s k).r
  if !hdrOk m 5 ∨ fld m.w1 0 23 ≠ 0 ∨ fld m.w2 40 24 = 0 ∨ fld m.w2 0 40 ≠ 0 ∨ m.w3 ≠ 0 ∨ m.w4 ≠ 0 then answerSlot s m 0x14 0
  else
    match slotGate s m true false with
    | some x => answerSlot s m x 0
    | none =>
      if r.st ≠ .ready ∧ r.st ≠ .generating then answerSlot s m 0x12 0
      else
        let s1 := modSlot (takeBack (countEpoch s m) k r.commit) k fun x =>
          { x with
            r := { x.r with st := .paused, sub := 0, expiry := 0 }
            w := { x.w with pause := { x.w.pause with ttl := fld m.w2 40 24, retain := bit m.w1 23, ioWait := false, chain := [] } } }
        answerSlot s1 m 0 0

/-- The entries of a half's handle table that a tenant and value name. -/
def findHandle (s : State) (t : Nat) (v : W32) : Option (Half × Nat × Handle) :=
  let look (h : Half) : Option (Half × Nat × Handle) :=
    (half s h).handles.findSome? fun p => p.2.bind fun x => if x.tenant.toNat = t ∧ x.value = v then some (h, p.1, x) else none
  match look .A with
  | some x => some x
  | none => look .B

/-- R264, R248: a handle leaves its table; its page references drop at the next turn close. -/
def dropHandle (s : State) (h : Half) (i : Nat) (x : Handle) : State :=
  modHalf s h fun y => { y with handles := smErase y.handles i, unused := y.unused ++ x.pages ++ if x.ext = 0 then [] else [x.ext] }

/-- The first number at or after `k` that a rising list does not hold. -/
def firstGap : List Nat → Nat → Nat
  | [], k => k
  | j :: l, k => if j = k then firstGap l (k + 1) else firstGap l k

/-- The lowest free index of a half's handle table of 16,384 entries (R262). -/
def freeHandle (s : State) (h : Half) : Option Nat :=
  let i := firstGap ((half s h).handles.map (·.1)) 0
  if i < 16384 then some i else none

/-- R263: the scale record a handle of length `len` keeps, where the turn that committed its last position has closed. -/
def scaleAt (w : SlotWork) (len : Nat) : Option (List W64) := (w.hist.find? fun p => len ≤ p.1).map (·.2)

/-- R248, R263: a MARK at `len` shares the page that holds position `len` while the request has positions in it from `len` on: the block copies it
for the request at once (log 112). -/
def markCopies (x : Slot) (len : Nat) : Bool := decide (len < x.r.head) && len % 64 != 0

/-- R249, R262: the pages that a MARK takes: an extension page for a prefix past 512 positions, and the copy of R248. -/
def markPages (x : Slot) (len : Nat) : Nat := b2n (decide (8 < entriesFor len)) + b2n (markCopies x len)

/-- R246, R262: the extension page of a handle, with the entries of its list from 8 on. -/
def handleExt (s : State) (h : Half) (pages : List Nat) : State × Nat :=
  if pages.length ≤ 8 then (s, 0)
  else
    let k := nextPage s h
    let s1 := addRef s h k
    let ws := (pages.drop 8).flatMap fun p => bytesOf 4 p
    ({ s1 with mem := memWrite s1.mem (pageAddr s1 h k) (clean (ws ++ List.replicate (65536 - ws.length) 0)) }, k)

/-- R263: a handle made at table index `i`. -/
def makeHandle (s : State) (k i len : Nat) (v : W32) (ttl : Nat) : State :=
  let x := slotOf s k
  let h := slotHalf k
  let pages := slotPages s k (entriesFor len)
  let sc := scaleAt x.w len
  let ext := handleExt (pages.foldl (fun s p => addRef s h p) s) h pages
  let e : Handle :=
    { tenant := x.r.tenant, value := v, len := len, pages := pages, ext := ext.2, scale := sc.getD x.r.scale
      toksum := crc32c (tokBytes (x.w.toks.take len)), expiry := s.turns.cur + BitVec.ofNat 32 ttl, image := x.w.image
      toks := x.w.toks.take len, hist := x.w.hist.filter fun p => p.1 ≤ len
      source := if sc.isSome then none else some (k, x.r.sgen), filling := if x.w.pause.fetch then some (k, x.r.sgen) else none }
  let s1 := modHalf ext.1 h fun y => { y with handles := smSet none y.handles i (some e) }
  if markCopies x len then takeEntry s1 k (len / 64) else s1

/-- R251: a PREFIX_REF's fields. -/
def prefixBad (m : Msg) : Bool :=
  !hdrOk m 7 || decide (2 ≤ fld m.w1 22 2) || fld m.w1 0 22 != 0 || fld m.w2 32 32 == 0 || fld m.w2 0 8 != 0 || fld m.w3 0 40 != 0
    || m.w4 != 0

/-- PREFIX_REF with OP MARK (R263). -/
def onMark (s : State) (m : Msg) : State :=
  let k := msgSlot m
  let x := slotOf s k
  let len := fld m.w2 8 24
  let v := BitVec.ofNat 32 (fld m.w2 32 32)
  if prefixBad m then answerSlot s m 0x14 0
  else
    match slotGate s m false false with
    | some e => answerSlot s m e 0
    | none =>
      if x.r.st ≠ .ready ∧ x.r.st ≠ .generating then answerSlot s m 0x12 0
      else if len = 0 ∨ x.r.commit < len ∨ x.w.published < len then answerSlot s m 0x13 0
      else if (findHandle s x.r.tenant.toNat v).isSome then answerSlot s m 0x24 0
      else
        match freeHandle s (slotHalf k) with
        | none => answerSlot s m 0x25 0
        | some i =>
          if freePages s (slotHalf k) < markPages x len then answerSlot s m 0x16 0
          else answerSlot (makeHandle (countEpoch s m) k i len v (fld m.w3 40 24)) m 0 0

/-- PREFIX_REF with OP DROP (R251, R264); its reply names no slot (R323). -/
def onDrop (s : State) (m : Msg) : State :=
  if prefixBad m ∨ msgSlot m ≠ 0 ∨ msgSgen m ≠ 0 then answer s m 0x14 0 0 0
  else
    match findHandle s (msgTenant m) (BitVec.ofNat 32 (fld m.w2 32 32)) with
    | none => answer s m 0x23 0 0 0
    | some (h, i, x) => answer (dropHandle s h i x) m 0 0 0 0

/-- R368, R370: the live map an EPOCH names. -/
def mapOf (s : State) (epoch : Nat) : Option RouteMap :=
  match s.group.newMap with
  | some m => if m.epoch.toNat = epoch then some m else s.group.oldMap.filter fun o => o.epoch.toNat == epoch
  | none => none

/-- R23, R368: a map homes tenant `t` on this block or on its plan group. -/
def homedHere (s : State) (m : RouteMap) (t : Nat) : Bool :=
  let e := m.ents.getD t 0
  (fld e 62 2 == 1 && fld e 32 16 == s.su.addr.toNat)
    || (fld e 62 2 == 2 && (s.group.plan.map fun p => p.group.toNat) == some (fld e 32 16))

/-- R453, R454: the image that serves new ADMITs of a tenant, with its number: while the plan in force schedules the tenant. -/
def admitImage (s : State) (t : Nat) : Option (Nat × Image) :=
  let planned := match s.group.plan with
    | none => false
    | some p => p.kernels.any fun k => k.tenant.toNat == t
  if planned then ((images s).filter fun p => p.2.tenant.toNat == t && p.2.admits && p.2.serves).getLast? else none

/-- The offset of verdict ring descriptor `n` (R327). -/
def vrOff (s : State) (n : Nat) : Nat := fld (dirWord s 0) 0 36 + 16 * (n - 1)

/-- R409, R468 step 7: the verdict ring descriptor reads with poison. -/
def ringPz (s : State) (n : Nat) : Bool := memAnyPz s.mem (winAddr s (vrOff s n)) 16

/-- R327: the verdict ring an ADMIT names cannot be used: none, held by another live request, malformed, or outside the window. A descriptor with
poison is refused later (R468). -/
def ringBad (s : State) (n : Nat) : Bool :=
  let d0 := winWord s (vrOff s n)
  let d1 := winWord s (vrOff s n + 8)
  let e := fld d1 0 17
  n == 0 || decide (fld (dirWord s 1) 0 16 < n) || (s.slots.any fun p => slotLive p.2.r.st && !p.2.r.omode && p.2.r.ring.toNat == n)
    || (!ringPz s n && (fld d0 36 28 != 0 || fld d1 17 47 != 0 || fld d0 0 6 != 0 || decide (e < 2 ∨ 65536 < e) || Nat.land e (e - 1) != 0
      || decide (winBytes s < fld d0 0 36 + 64 * e)))

/-- R253: the lowest-numbered FREE slot of a half. -/
def freeSlot (s : State) (h : Half) : Option Nat :=
  let lo := 32768 * halfNum h
  let n := firstGap ((s.slots.filter fun p => p.2.r.st != .free && decide (lo ≤ p.1)).map (·.1)) lo
  if n < lo + 32768 then some n else none

/-- R251: an ADMIT's header and payload fields, and R325 of its tokens. -/
def admitBad (s : State) (m : Msg) : Bool :=
  let plen := fld m.w2 40 24
  !hdrOk m 1 || fld m.w1 0 45 != 0 || plen == 0 || decide (maxPos < plen) || fld m.w2 36 4 != 0 || fld m.w3 0 16 != 0
    || !toksOk s (fld m.w2 0 36) plen

/-- The handle an ADMIT cites, where it cites one: found, and of the image that serves the tenant (R454). -/
def admitHandle (s : State) (m : Msg) (img : Nat) : Option (Half × Nat × Handle) :=
  (findHandle s (msgTenant m) (BitVec.ofNat 32 (fld m.w3 32 32))).filter fun h => h.2.2.image == img

/-- R242, R244, R264: the slot an accepted ADMIT fills, before its pages are taken. -/
def admitSlot (s : State) (m : Msg) (n img : Nat) (i : Image) (hd : Option (Half × Nat × Handle)) (p : Nat) (pl : List (W32 × Nat)) :
    State :=
  let len := (hd.map fun h => h.2.2.len).getD 0
  let plen := fld m.w2 40 24
  let ring := fld m.w3 16 16
  let pages := (hd.map fun h => h.2.2.pages).getD []
  let s1 := pages.foldl (fun s k => addRef s (slotHalf n) k) s
  let s2 := modSlot s1 n fun x =>
    { r := { SlotRec.free with
        st := .prompt, prio := BitVec.ofNat 3 (fld m.w1 45 3), plag := i.plag, omode := i.omode, masks := i.masks
        tenant := i.tenant, sgen := x.r.sgen + 1, epoch := BitVec.ofNat 16 (fld m.w0 32 16), commit := len, head := len
        ring := BitVec.ofNat 16 ring, hix := BitVec.ofNat 16 ((hd.map fun h => h.2.1 + 1).getD 0)
        toksum := (hd.map fun h => h.2.2.toksum).getD 0, ctag := m.w4
        scale := (hd.map fun h => h.2.2.scale).getD (initScale i) }
      w := { SlotWork.none with
        image := img, runFrom := len, runTo := len + plen, runTurn := s.turns.cur, runP := p, runOpen := true, screened := len
        computed := len, published := len, masked := len, entered := len, closed := len, firstOut := len + plen, steady := true
        plans := pl, ringBase := fld (winWord s (vrOff s ring)) 0 36, ringCount := fld (winWord s (vrOff s ring + 8)) 0 17
        toks := (hd.map fun h => h.2.2.toks).getD [] ++ readToks s (fld m.w2 0 36) plen
        hist := (hd.map fun h => h.2.2.hist ++ if h.2.2.source.isNone then [(len, h.2.2.scale)] else []).getD []
        scaleFrom := hd.bind fun h => h.2.2.source, fillFrom := hd.bind fun h => h.2.2.filling } }
  let s3 := if pages.length ≤ 8 then s2 else takeExt s2 n pages.length
  pages.zipIdx.foldl (fun s q => setSlotPage s n q.2 q.1) s3

/-- ADMIT (R255, R264, R299, R468). -/
def onAdmit (s : State) (m : Msg) : State :=
  let t := msgTenant m
  let plen := fld m.w2 40 24
  let no (st : Nat) : State := answer s m st 0 0 0
  if admitBad s m then no 0x14
  else
    match mapOf s (fld m.w0 32 16) with
    | none => no 0x21
    | some map =>
      if !homedHere s map t then no 0x21
      else
        match (if s.turns.seen && nomOk s.turns then admitImage s t else none) with
        | none => no 0x20
        | some (img, i) =>
          let hd := if fld m.w3 32 32 = 0 then none else admitHandle s m img
          let h := (hd.map (·.1)).getD (placeHalf s)
          let len := (hd.map fun x => x.2.2.len).getD 0
          let early := firstFail
            [(fld m.w3 32 32 != 0 && hd.isNone, 0x23),
             (if i.omode then fld m.w3 16 16 != 0 || (poolOf s t).2.1 == 0 else ringBad s (fld m.w3 16 16), 0x14),
             (decide (maxPos < len + plen), 0x15)]
          let ring := !i.omode && ringPz s (fld m.w3 16 16)
          let s := if i.omode then countPoison s (winAddr s (poolAt s t)) 16 else s
          let no (st : Nat) : State := answer s m st 0 0 0
          match early with
          | some st => no st
          | none =>
            if toksPz s (fld m.w2 0 36) plen || ring then
              let s1 := countPoison s (winAddr s (fld m.w2 0 36)) (4 * plen)
              answer (if ring then countPoison s1 (winAddr s (vrOff s (fld m.w3 16 16))) 16 else s1) m 0x14 0 0 0
            else
            match freeSlot s h with
            | none => no 0x22
            | some n =>
              let s1 := admitSlot s m n img i hd 0 []
              if freePages s1 h < pagesNeeded s1 n len (len + plen) + 1 then no 0x16
              else
                match price s h img true plen with
                | none => no 0x20
                | some (p, pl) =>
                  let s2 := takePages (admitSlot s m n img i hd p pl) n len (len + plen)
                  let s3 := addMaskJob (setDeadline s2 n) n len (len + plen)
                  answer s3 m 0 p n (slotOf s3 n).r.sgen.toNat

/-- R251: a RESUME's header and payload fields. -/
def resumeBad (s : State) (m : Msg) : Bool :=
  let new := fld m.w2 40 24
  let old := fld m.w3 40 24
  let rb := bit m.w1 23
  let loss := bit m.w1 22
  !hdrOk m 6 || fld m.w1 0 22 != 0 || decide (maxPos < new) || fld m.w2 36 4 != 0 || fld m.w3 36 4 != 0 || m.w4 != 0 || (rb && loss)
    || (!rb && old != 0) || ((rb || loss) && fld m.w3 0 36 != 0)
    || (!loss && decide (0 < new + old) && !toksOk s (fld m.w2 0 36) (new + old))
    || (!rb && !loss && (fld m.w3 0 36 % 4 != 0 || decide (winBytes s ≤ fld m.w3 0 36)))

/-- A prompt run of `n` new tokens at a slot's head (R265, R299). -/
def openRun (s : State) (k n p : Nat) (pl : List (W32 × Nat)) (toks : List W32) : State :=
  modSlot s k fun x =>
    { x with
      w := { x.w with
        runFrom := x.r.commit, runTo := x.r.commit + n, runTurn := s.turns.cur, runP := p, runOpen := decide (0 < n), plans := pl
        toks := x.w.toks ++ toks } }

/-- RESUME in its ordinary form (R255, R265, R299). In SUB 0 and 1 the pages are still held; in SUB 2 the image is fetched into fresh
pages. -/
def onResume (s : State) (m : Msg) : State :=
  let k := msgSlot m
  let x := slotOf s k
  let n := fld m.w2 40 24
  let off := fld m.w2 0 36
  let c := x.r.commit
  let away := x.r.sub == 2
  if resumeBad s m then answerSlot s m 0x14 0
  else
    match slotGate s m false false with
    | some e => answerSlot s m e 0
    | none =>
      if x.r.st ≠ .paused then answerSlot s m 0x12 0
      else
        match firstFail
          [(decide (maxPos < c + n), 0x15), (toksPz s off n, 0x14),
           (decide (freePages s (slotHalf k) < pagesNeeded s k (if away then 0 else c) (c + n)), 0x16)] with
        | some e => answerSlot (countToks s off n (some e)) m e 0
        | none =>
          match price s (slotHalf k) x.w.image away n with
          | none => answerSlot s m 0x20 0
          | some (p, pl) =>
            let s1 := takePages (countEpoch s m) k (if away then 0 else c) (c + n)
            let s2 := openRun s1 k n p pl (readToks s off n)
            let fetch := away || x.w.pause.fetch
            let s3 := modSlot s2 k fun y =>
              { y with
                r := { y.r with st := if n = 0 then .ready else .prompt, sub := if fetch then 1 else 0, expiry := 0 }
                w := { y.w with
                  steady := true
                  masked := if away then 0 else y.w.masked
                  pause := { y.w.pause with
                    fetch := fetch
                    chain := []
                    imgOff := if away then fld m.w3 0 36 else y.w.pause.imgOff } } }
            let s4 := addMaskJob (setDeadline s3 k) k c (c + n)
            answerSlot s4 m (if away then 0 else 1) p

/-- R267: a slot enters LOST: its pages, rows, run and reservations go, and what was applied while the image was fetched loses its
effect; its mask records stop. `quiet` leaves REBUILD_NEEDED out (R266). -/
def enterLost (s : State) (n : Nat) (quiet : Bool) : State :=
  let x := slotOf s n
  let c := x.w.pause.commit
  let s1 := releaseAll (modHalf (dropRows s n) (slotHalf n) fun h => dropMasks h n) n (entriesFor (max x.r.head x.w.runTo))
  let s2 := modSlot s1 n fun y =>
    { y with
      r := { y.r with st := .lost, sub := 0, commit := c, head := c, toksum := y.w.pause.toksum, dlv := false, deadline := 0, expiry := 0 }
      w := { y.w with
        runOpen := false, runTo := c, final := none, screened := c, computed := c, published := c, prod := [], steady := false, plans := []
        excused := [], deferred := c, rebuild := none, maskPos := [], masked := c, entered := c, closed := min y.w.closed c, toks := y.w.toks.take c, wait := false
        hist := y.w.hist.filter fun p => p.1 ≤ c
        pause := { y.w.pause with fetch := false } } }
  let s3 := if x.w.pause.fetch then voidFill s2 n else s2
  if quiet then s3 else sendSlotEvent s3 n 0x0101 (mk64 c)

/-- RESUME with LOSS = 1 (R255, R266). -/
def onResumeLoss (s : State) (m : Msg) : State :=
  let k := msgSlot m
  let r := (slotOf s k).r
  let fits := (r.st == .paused && r.sub == 2) || ((r.st == .prompt || r.st == .ready || r.st == .generating) && r.sub == 1)
  if resumeBad s m then answerSlot s m 0x14 0
  else
    match slotGate s m false false with
    | some e => answerSlot s m e 0
    | none => if fits then answerSlot (enterLost (countEpoch s m) k false) m 0 0 else answerSlot s m 0x12 0

/-- R156: the doubling update of one scale record entry, from the sums over the turn's positions. -/
def doubleEntry (d e : W64) (total clip half : Nat) : W64 :=
  let ex := sext (fld e 56 8) 8
  let clean := fld e 52 4
  let nclean := fld d 20 4
  let mk (x : Int) (c : Nat) : W64 := mk64 (put (wrap x 8) 56 8 + put c 52 4)
  if total = 0 then e
  else if clip * 2 ^ 16 > fld d 24 16 * total then mk (min (ex + 1) (sext (fld d 56 8) 8)) 0
  else if half = 0 then
    let c := min (clean + 1) 15
    if nclean ≠ 0 ∧ nclean ≤ c then mk (max (ex - 1) (sext (fld d 48 8) 8)) 0 else mk ex c
  else mk ex 0

/-- The values per token of tracked tensor `t` of an image (R156; log 7). -/
def valuesOf (i : Image) (t : Nat) : Nat := ((i.values.find? fun p => p.1 == t).map (·.2)).getD 0

/-- R155, R156: the scale record of a slot after the update over positions [p, q). Positions not yet screened hold no counts; of an entry read
with poison the bits count as they are (log 113). -/
def doubleRecord (s : State) (n : Nat) (i : Image) (p q : Nat) (sc : List W64) : List W64 :=
  sc.zipIdx.map fun e =>
    let t := e.2 + 1
    match i.tqds.find? fun d => fld d 16 4 == t with
    | none => e.1
    | some d =>
      let ws := tab (min q (slotOf s n).w.entered - p) fun k => memWord s.mem (scaleAddr s n (p + k) t)
      doubleEntry d e.1 ((q - p) * valuesOf i t) (ws.map fun w => fld w 0 24).sum (ws.map fun w => fld w 24 24).sum

/-- R348: the position entries that the update over positions [p, q) reads with poison, counted at their ports. -/
def countEntries (s : State) (n : Nat) (i : Image) (p q : Nat) : State :=
  (tab (min q (slotOf s n).w.entered - p) fun k => p + k).foldl
    (fun s k =>
      i.tqds.foldl
        (fun s d => if fld d 16 4 = 0 ∨ 8 < fld d 16 4 then s else countPoison s (scaleAddr s n k (fld d 16 4)) 8) s) s

/-- R156: the scale record of slot `n` with the update over the positions committed since the last close. -/
def scaleDue (s : State) (n : Nat) : List W64 :=
  let x := slotOf s n
  match imageOf s x.w.image with
  | none => x.r.scale
  | some i => if x.w.closed < closedTo x then doubleRecord s n i x.w.closed (closedTo x) x.r.scale else x.r.scale

/-- RESUME in the rebuild form (R255, R267, R268, R299): positions 0 to NOLD + NEW - 1 are screened from an empty state. Handles that wait for the
close still take the record of what was committed before the loss (R156, R263). -/
def onResumeRebuild (s : State) (m : Msg) : State :=
  let k := msgSlot m
  let x := slotOf s k
  let new := fld m.w2 40 24
  let old := fld m.w3 40 24
  let off := fld m.w2 0 36
  if resumeBad s m then answerSlot s m 0x14 0
  else
    match slotGate s m false false with
    | some e => answerSlot s m e 0
    | none =>
      if x.r.st ≠ .lost ∨ x.r.sub ≠ 0 then answerSlot s m 0x12 0
      else
        match firstFail
          [(old != x.r.commit, 0x13), (decide (maxPos < old + new), 0x15), (toksPz s off (old + new), 0x14),
           (decide (freePages s (slotHalf k) < pagesNeeded s k 0 (old + new)), 0x16)] with
        | some e => answerSlot (countToks s off (old + new) (some e)) m e 0
        | none =>
          match price s (slotHalf k) x.w.image true (old + new), imageOf s x.w.image with
          | some (p, pl), some i =>
            let s1 := takePages (countEpoch s m) k 0 (old + new)
            let s2 := modSlot s1 k fun y =>
              { y with
                r := { y.r with sub := 1, scale := initScale i }
                w := { y.w with
                  runFrom := 0, runTo := old + new, runTurn := s.turns.cur, runP := p, runOpen := false, rebuild := some old
                  screened := 0, computed := 0, deferred := 0, masked := 0, entered := 0, closed := old, steady := true, plans := pl
                  owedScale := some (y.w.owedScale.getD (scaleDue s k))
                  toks := readToks s off (old + new) } }
            answerSlot (addMaskJob (setDeadline s2 k) k 0 (old + new)) m 0 p
          | _, _ => answerSlot s m 0x20 0

/-- The effect of a message of any kind (R250 to R269). -/
def decideMsg (s : State) (m : Msg) : State :=
  match msgType m with
  | 1 => onAdmit s m
  | 2 => onTokens s m
  | 3 => onTakeback s m
  | 4 => onResign s m
  | 5 => onPause s m
  | 6 => if bit m.w1 22 == bit m.w1 23 then onResume s m else if bit m.w1 22 then onResumeLoss s m else onResumeRebuild s m
  | 7 => if fld m.w1 22 2 = 1 then onDrop s m else onMark s m
  | _ => s

/-- R250, R286: the messages taken are decided in submission order (log 109). -/
def decideTaken (s : State) : State :=
  if windowOpen s then s.taken.foldl decideMsg { s with taken := [] } else s

/-- A command that names a message: the message is decided when it is the next one and of that command's kind. -/
def onMessage (s : State) (m : Msg) (kind : Bool) (f : State → Msg → State) : State :=
  if isNext s m ∧ kind then f (dropTaken s) m else s

/-- ADMIT (R255). -/
def execAdmit (m : Msg) (s : State) : Host.Outcome State Fault Refusal := .next (onMessage s m (msgType m == 1) onAdmit)

/-- TOKENS (R256). -/
def execTokens (m : Msg) (s : State) : Host.Outcome State Fault Refusal := .next (onMessage s m (msgType m == 2) onTokens)

/-- TAKEBACK (R258). -/
def execTakeback (m : Msg) (s : State) : Host.Outcome State Fault Refusal := .next (onMessage s m (msgType m == 3) onTakeback)

/-- RESIGN (R259). -/
def execResign (m : Msg) (s : State) : Host.Outcome State Fault Refusal := .next (onMessage s m (msgType m == 4) onResign)

/-- PAUSE (R265). -/
def execPause (m : Msg) (s : State) : Host.Outcome State Fault Refusal := .next (onMessage s m (msgType m == 5) onPause)

/-- RESUME in its ordinary form, and the form with REBUILD and LOSS both 1, which is refused (R251, R265). -/
def execResume (m : Msg) (s : State) : Host.Outcome State Fault Refusal :=
  .next (onMessage s m (msgType m == 6 && bit m.w1 23 == bit m.w1 22) onResume)

/-- RESUME with LOSS = 1 (R255). -/
def execResumeLoss (m : Msg) (s : State) : Host.Outcome State Fault Refusal :=
  .next (onMessage s m (msgType m == 6 && bit m.w1 22 && !bit m.w1 23) onResumeLoss)

/-- RESUME in the rebuild form (R267). -/
def execResumeRebuild (m : Msg) (s : State) : Host.Outcome State Fault Refusal :=
  .next (onMessage s m (msgType m == 6 && bit m.w1 23 && !bit m.w1 22) onResumeRebuild)

/-- PREFIX_REF with OP MARK, and an OP that is not defined, which is refused (R251, R263). -/
def execPrefixRefMark (m : Msg) (s : State) : Host.Outcome State Fault Refusal :=
  .next (onMessage s m (msgType m == 7 && fld m.w1 22 2 != 1) onMark)

/-- PREFIX_REF with OP DROP (R264). -/
def execPrefixRefDrop (m : Msg) (s : State) : Host.Outcome State Fault Refusal :=
  .next (onMessage s m (msgType m == 7 && fld m.w1 22 2 == 1) onDrop)

end Sys2Proof.Machine
end

