-- ==== Sys2Proof/Machine/MaskSets.lean ====
section
/-! DEFINITION. Mask sets in the window, and the freeing of tenant images (spec/11 R332, spec/16 R454). -/

namespace Sys2Proof.Machine

/-- R332: the window offset of entry `k` of the mask-set table. -/
def msetEntry (s : State) (k : Nat) : Nat := fld (dirWord s 3) 0 36 + 64 * k

/-- R334: EXTRA of MASKSET_OFFERED and MASKSET_RETIRED. -/
def msetExtra (i : Image) : W64 := mk64 (put i.tenant.toNat 16 16 + put i.mset.toNat 0 16)

/-- R332: a mask set retired: its entry's words 0 to 6 zero, the owner left BLOCK, its units and MSET_ID free with the image. -/
def retireMset (s : State) (n : Nat) (i : Image) : State :=
  sendBlockEvent (setImage (winPut s (msetEntry s i.msEntry) (List.replicate 7 0)) n none) 0x0304 (msetExtra i)

/-- R454: an image that no ADMIT reaches is used: by a live request, a handle, a job, or a plan in force that dispatches its kernels
whatever rows they hold (R352); one just loaded, until its command ends (R453). -/
def imageUsed (s : State) (n : Nat) (i : Image) : Bool :=
  (match s.su.stw with | .result _ _ img => img == some n | _ => false)
    || s.slots.any (fun p => slotLive p.2.r.st && p.2.w.image == n)
    || [s.halfA, s.halfB].any fun x =>
      x.handles.any (fun p => match p.2 with | none => false | some e => e.image == n)
        || x.jobs.any (fun j => j.image == n) || x.maskJobs.any (fun j => j.image == n) || x.replayJobs.any (fun j => j.image == n)
        || hasRemote s .A i.tenant || hasRemote s .B i.tenant

/-- R454, R332: an unused image that no ADMIT reaches is freed; its mask set is retired once its table entry reads BLOCK. -/
def freeImage (s : State) (n : Nat) (i : Image) : State :=
  if i.admits ∨ imageUsed s n i then s
  else if i.mset = 0 then setImage s n none
  else if windowOpen s ∧ ownedByBlock s (msetEntry s i.msEntry) then retireMset s n i
  else setImage s n (some { i with retiring := true, len := 0, kernels := [], segs := [] })

/-- Every image that may go is freed (R454). -/
def freeImages (s : State) : State := (images s).foldl (fun s p => freeImage s p.1 p.2) s

/-- R332: table entry `k` has returned to BLOCK: a set that waits for it is retired. -/
def msetReturned (s : State) (k : Nat) : State :=
  if !windowOpen s ∨ !ownedByBlock s (msetEntry s k) then s
  else
    match (images s).find? fun p => p.2.retiring && p.2.msEntry == k with
    | none => s
    | some (n, i) => retireMset s n i

/-- MASKSET_ENTRY_RETURNED (R332). -/
def execMasksetEntryReturned (idx : BitVec 16) (s : State) : Host.Outcome State Fault Refusal := .next (msetReturned s idx.toNat)

end Sys2Proof.Machine
end

