-- ==== Sys2Proof/Machine/Sequencer.lean ====
section
/-! DEFINITION. Turn marks, plans, cuts, turn closes (spec/10 R281 to R301, spec/05 R156, spec/09 R248, R255, spec/13 R351, R366,
R371, R372). -/

namespace Sys2Proof.Machine

/-- R266: the expiry of a paused slot. -/
def expireSlot (s : State) (n : Nat) : State :=
  let x := slotOf s n
  if x.r.st = .paused ∧ x.r.sub = 2 ∧ notEarlier s.turns.cur x.r.expiry then
    if x.w.pause.retain then endRequest (enterLost s n true) n .done 6 else enterLost s n false
  else s

/-- R264: the expiry of a prefix handle, with HANDLE_EXPIRED. -/
def expireHandle (s : State) (h : Half) (i : Nat) : State :=
  match smGet none (half s h).handles i with
  | none => s
  | some x =>
    if notEarlier s.turns.cur x.expiry then
      sendHalfEvent (dropHandle s h i x) h 0x0104 (mk64 x.value.toNat)
    else s

/-- The handles of a half, by index. -/
def handleKeys (s : State) (h : Half) : List Nat := (half s h).handles.map (·.1)

/-- R284: every expiry that has come: slots ascending, then handle tables by index. -/
def expireAll (s : State) : State :=
  let s1 := (usedSlots s).foldl expireSlot s
  let s2 := (handleKeys s1 .A).foldl (fun s i => expireHandle s .A i) s1
  (handleKeys s2 .B).foldl (fun s i => expireHandle s .B i) s2

/-- R263, R264: a slot admitted from a handle that waits for the close of request `n` takes its scale record. -/
def slotTakesScale (n : Nat) (sc : List W64) (x : Slot) : Slot :=
  if (x.w.scaleFrom.map (·.1)) = some n then
    { x with r := { x.r with scale := sc }, w := { x.w with scaleFrom := none, hist := x.w.hist ++ [(x.w.closed, sc)] } }
  else x

/-- R263: the handles that wait for this close take the scale record, and the slots admitted from them. -/
def giveScale (s : State) (n : Nat) (sc : List W64) : State :=
  let s1 := modHalf s (slotHalf n) fun x =>
    { x with
      handles := x.handles.map fun p =>
        (p.1, p.2.map fun e => if (e.source.map (·.1)) = some n then { e with scale := sc, source := none } else e) }
  { s1 with slots := s1.slots.map fun p => (p.1, slotTakesScale n sc p.2) }

/-- R156, R157: the doubling update of one slot at a turn close, of a request that has ended in the turn as of every other. -/
def doubleSlot (s : State) (n : Nat) : State :=
  let x := slotOf s n
  let q := closedTo x
  match imageOf s x.w.image with
  | none => s
  | some i =>
    let new := decide (x.w.closed < q)
    let sc := scaleDue s n
    giveScale
      (modSlot (if new then countEntries s n i x.w.closed q else s) n fun x =>
        { x with
          r := { x.r with scale := sc }
          w := { x.w with closed := q, away := [], awayTo := 0, owedScale := none, hist := if new then x.w.hist ++ [(q, sc)] else x.w.hist } })
      n (x.w.owedScale.getD sc)

/-- R248: the references that became unused are dropped; a mask record still owed from such a page is not given (log 107). -/
def dropUnused (s : State) (h : Half) : State :=
  let mine := (s.slots.filter fun p => slotHalf p.1 == h && !p.2.w.unused.isEmpty).map fun p => (p.1, p.2.w.unused)
  let s1 := mine.foldl
    (fun s p =>
      modSlot (dropRefs s h p.2) p.1 fun x => { x with w := { x.w with unused := [], maskPos := x.w.maskPos.filter fun o => o.addr.isNone } }) s
  modHalf (dropRefs s1 h (half s1 h).unused) h fun x => { x with unused := [] }

/-- R255: a dispatched job of the half holds rows of the slot, or did until the slot's request ended. -/
def inJobs (s : State) (n : Nat) : Bool :=
  (half s (slotHalf n)).jobs.any fun j => (j.rows.any fun r => r.slot == n) || j.held.contains n

/-- R255: an ended slot whose terminal record has passed to the host and whose jobs have ended returns to FREE, its SGEN kept. -/
def freeSlotNow (s : State) (n : Nat) : State :=
  let x := slotOf s n
  if slotEnded x.r.st ∧ x.w.term.isNone ∧ !inJobs s n then
    setSlot s n { r := { SlotRec.free with sgen := x.r.sgen }, w := SlotWork.none }
  else s

/-- R372: the composition a map gives a tenant that it homes somewhere. -/
def compIn (m : Option RouteMap) (t : Nat) : Option Nat :=
  match m with
  | none => none
  | some x => if fld (x.ents.getD t 0) 62 2 = 0 then none else some (fld (x.ents.getD t 0) 20 12)

/-- R372: the composition a tenant's kernels are charged to: in NEW, or in OLD when NEW has no home for it. -/
def kernelComp (s : State) (t : BitVec 16) : Option Nat :=
  match compIn s.group.newMap t.toNat with
  | some c => some c
  | none => compIn s.group.oldMap t.toNat

/-- A meter: TILE 0, MEM 1, REQ 2 of composition `c` (R372). -/
def meterOf (s : State) (c k : Nat) : Nat := smGet 0 s.group.meters (4 * c + k)

/-- The state with `n` added to a meter, modulo 2^64 (R372). -/
def addMeter (s : State) (c k n : Nat) : State :=
  { s with group := { s.group with meters := smSet 0 s.group.meters (4 * c + k) ((meterOf s c k + n) % 2 ^ 64) } }

/-- R372: the tile time and bytes of the kernels ended since the last close, added to the meters, the remainders carried. A half keeps
tile time under 2 c, in microseconds times 2^16, and bytes under 2 c + 1. -/
def meterKernels (s : State) (h : Half) : State :=
  let unit (k : Nat) : Nat := if k % 2 = 0 then max 1 (tAdm s.turns) else 64
  let l := (half s h).acc
  let s1 := l.foldl (fun s p => addMeter s (p.1 / 2) (p.1 % 2) (p.2 / unit p.1)) s
  modHalf s1 h fun x => { x with acc := (l.map fun p => (p.1, p.2 % unit p.1)).filter fun p => p.2 != 0 }

/-- R372: one request-turn for each live slot of the half, charged under its own epoch's map. -/
def meterSlots (s : State) (h : Half) : State :=
  (s.slots.filter fun p => slotHalf p.1 == h && slotLive p.2.r.st).foldl
    (fun s p =>
      match compIn (mapOf s p.2.r.epoch.toNat) p.2.r.tenant.toNat with
      | none => s
      | some c => addMeter s c 2 1) s

/-- R371: OLD is retired once no slot that is not FREE carries its epoch, with EPOCH_RETIRED. -/
def retireOld (s : State) : State :=
  match s.group.oldMap with
  | none => s
  | some m =>
    if s.slots.any fun p => p.2.r.st != .free && p.2.r.epoch == m.epoch then s
    else sendBlockEvent { s with group := { s.group with oldMap := none } } 0x0503 (mk64 m.epoch.toNat)

/-- R366: the use count of generation `g` of table `t`: coded blocks in the retransmit stores. -/
def useCount (s : State) (t g : Nat) : Nat :=
  let mine := (s.halfA.kept ++ s.halfB.kept).filter fun k => k.coded && k.table == t && k.gen == some g && !k.waiting
  (mine.map fun k => (packetBlocks k.width k.words).length).sum

/-- R366: DRAINING generations whose use count is 0 become EMPTY at a close after their plan. -/
def drainCodes (s : State) (turn : W32) : State :=
  let one (t : Nat) (c : CodeTable) : CodeTable :=
    { c with
      gens := c.gens.zipIdx.map fun g =>
        if g.1.st = 3 ∧ notEarlier turn g.1.turn ∧ useCount s t g.2 = 0 then { g.1 with st := 0, turn := 0, lens := [] } else g.1 }
  { s with group := { s.group with codes := s.group.codes.map fun p => (p.1, one p.1 p.2) } }

/-- The other half has closed turn `t` already, or has no such turn to close. -/
def otherClosed (s : State) (h : Half) (t : W32) : Bool :=
  let x := half s (otherHalf h)
  (x.run.map (·.turn)).all (fun u => later u t) && x.waiting.all (fun p => later p.1 t) && x.planLess.all fun u => later u t

/-- R275, R289 step 1: a half's part of the BATCH buffers of turn `t`; they go over once both halves have closed it. -/
def closeBatches (s : State) (h : Half) (t : W32) : State :=
  let last := otherClosed s h t
  let ts := (batchTenants s ++ (s.bwaits.filter fun w => w.turn == t).map (·.tenant)).eraseDups
  let s1 := ts.foldl (fun s u => batchJoin s h u t last) s
  if last then afterBatches (ts.foldl drainTenant s1) else s1

/-- R289: the close of turn `t` in a half, in its five steps. -/
def closeTurn (s : State) (h : Half) (t : W32) : State :=
  let s1 := closeBatches s h t
  let mine := (usedSlots s1).filter fun n => slotHalf n == h
  let s2 := dropUnused (mine.foldl doubleSlot s1) h
  let s3 := mine.foldl freeSlotNow s2
  let s4 := meterSlots (meterKernels s3 h) h
  let s5 := drainCodes (retireOld s4) t
  freeImages { s5 with group := { s5.group with lastClose := t } }

/-- R351: a plan-group plan takes over at the start of its plan START: absent bits are cleared (R358). -/
def takeOver (s : State) (t : W32) : State :=
  match s.group.next with
  | none => s
  | some p =>
    if notEarlier t p.start then
      { s with
        group := { s.group with
          plan := some p, old := s.group.plan, next := none, absent := 0
          member := BitVec.ofNat 9 ((p.addrs.findIdx? (· == s.su.addr)).getD 0) } }
    else s

/-- R361: SEQ counts afresh in a half that starts the plan START of the plan in force, or the first after it. -/
def freshSeqs (s : State) (h : Half) (t : W32) : State :=
  match s.group.plan with
  | none => s
  | some p => if notEarlier t p.start && later p.start (half s h).lastTurn then modHalf s h fun x => { x with seqs := [] } else s

/-- R366: one activation: the generation becomes CURRENT, and the CURRENT one DRAINING, with TABLE_ACTIVE. -/
def activate (s : State) (t g : Nat) (turn : W32) : State :=
  let c := smGet CodeTable.empty s.group.codes t
  let gens := c.gens.zipIdx.map fun x =>
    if x.2 = g then { x.1 with st := 2, turn := turn } else if x.1.st = 2 then { x.1 with st := 3, turn := turn } else x.1
  sendBlockEvent { s with group := { s.group with codes := smSet CodeTable.empty s.group.codes t { c with cur := g, gens := gens } } }
    0x0504 (mk64 (put t 2 12 + put g 0 2))

/-- R366: the activations scheduled for plan `t` or an earlier one. -/
def planActs (s : State) (t : W32) : State :=
  let due := s.group.acts.filter fun a => notEarlier t a.2.2
  due.foldl (fun s a => activate s a.1 a.2.1 a.2.2)
    { s with group := { s.group with acts := s.group.acts.filter fun a => !notEarlier t a.2.2 } }

/-- R453: images whose load ended OK serve from the first plan start after it; no ADMIT reaches an older one of the tenant then (R454). -/
def serveImages (s : State) : State :=
  let newer (n : Nat) (i : Image) : Bool := (images s).any fun q => decide (n < q.1) && q.2.tenant == i.tenant && q.2.admits
  { s with
    images := s.images.map fun p =>
      (p.1, p.2.map fun i => if i.admits then { i with serves := true, admits := !newer p.1 i } else i) }

/-- R304, R307: a change of BASE at a plan start, with MODE_CHANGED; while Boxcars holds it moves no tile clock. -/
def changeBase (s : State) (t : W32) : State :=
  let m := s.modes
  let due := m.base != m.baseNow && (notEarlier t m.atTurn || notEarlier s.turns.cur m.atTurn)
  let s1 := { s with modes := { m with baseNow := m.base } }
  if !due ∨ (m.base = 1 ∧ !ecoFits s) ∨ (!m.boxing ∧ !mayChange s) then s
  else sendBlockEvent (if m.boxing then s1 else chosenNow (modeRelock s1)) 0x020c (mk64 m.base.toNat)

/-- R305, R307: Boxcars chosen or left at a plan start. -/
def chooseBox (s : State) (h : Half) (t : W32) : State :=
  let m := s.modes
  let box := if notEarlier t m.atTurn ∨ notEarlier s.turns.cur m.atTurn then m.box else m.boxNow
  let o := half s (otherHalf h)
  let late := decide (0 < (half s h).lag) || (o.run.isSome && decide (0 < o.lag))
  let want := boxAllowed m && (box == 2 || (box == 1 && late))
  let s1 := { s with modes := { m with boxNow := box } }
  if want = m.boxing ∨ !mayChange s then s1 else chosenNow (modeRelock { s1 with modes := { s1.modes with boxing := want } })

/-- R301: CATCHUP_BEGIN and CATCHUP_END as a half's plans start late or at lag 0. -/
def catchUp (s : State) (h : Half) (t : W32) : State :=
  let x := half s h
  let late := decide (0 < x.lag)
  let s1 := modHalf s h fun x => { x with catchup := late }
  if late ∧ !x.catchup then sendBlockEvent s1 0x0204 (mk64 x.lag)
  else if !late ∧ x.catchup then sendBlockEvent s1 0x0205 (mk64 t.toNat)
  else s1

/-- R356: the log and NAK counts of items older than the previous plan go. -/
def pruneLog (x : HalfState) : HalfState :=
  { x with
    log := x.log.filter fun l => !later x.prevTurn l.turn
    naks := x.naks.filter fun n => !later x.prevTurn n.1.turn
    pairs := x.pairs.filter fun p => !later x.prevTurn p.item.turn
    seqLog := x.seqLog.filter fun q => !later x.prevTurn q.2.1 }

/-- R157, R302: a REQUEST entry of the half is not yet closed: its replay belongs to the running plan (log 114). -/
def errsOpen (s : State) (h : Half) : Bool := s.errs.log.any fun e => e.cls == .request && e.half == h && !stepFinal e.step

/-- The BATCH slots of a half read before a turn closes (R157). -/
def checkHalf (s : State) (h : Half) : State := ((usedSlots s).filter fun n => slotHalf n == h).foldl checkReady s

/-- R281, R301: the plan-less turns before turn `t` close; a replay that is called for comes first (R157; log 114). -/
def closePlanLess (s : State) (h : Half) (t : W32) : State :=
  let due := (half s h).planLess.filter fun u => later t u
  let s1 := if due.isEmpty then s else checkHalf s h
  if errsOpen s1 h ∧ !(half s1 h).stopped then s1
  else due.foldl (fun s u => closeTurn (modHalf s h fun x => { x with planLess := x.planLess.filter fun v => v != u }) h u) s1

/-- R285, R301: plan `t`, whose mark came at `marked`, starts in a half: plan-less turns before it close first. -/
def beginPlan (s : State) (h : Half) (t : W32) (marked : Nat) : State :=
  let s2 := serveImages (planActs (freshSeqs (takeOver (closePlanLess s h t) t) h t) t)
  let ks : List PlanKernel := match planFor s2 t with
    | none => []
    | some p => if (half s2 h).stopped then [] else p.kernels.filter fun k => k.half == h
  let s3 := modHalf s2 h fun x =>
    pruneLog { x with
      lag := s.now - marked
      prevTurn := x.lastTurn
      lastTurn := t
      run := some { turn := t, marked := marked, left := ks.map fun k => (k, none), cut := [], batches := [] } }
  let late := decide (marked < s.now)
  let s4 := { s3 with
    turns := { s3.turns with plan := t, latePlans := if late then inc16 s3.turns.latePlans else s3.turns.latePlans } }
  chooseBox (changeBase (clockAtStart (catchUp s4 h t)) t) h t

/-- Entries at the front of a plan that dispatch nothing: kernels without remote transfers whose batch is empty (R286, R352). -/
def skipEmpty (b : List Batch) : List (PlanKernel × Option Nat) → List (PlanKernel × Option Nat)
  | [] => []
  | (k, none) :: l => (k, none) :: l
  | (k, some i) :: l =>
    if k.fixed.isNone && !b.any (fun x => x.image == i && x.tenant == k.tenant && !x.rows.isEmpty) then skipEmpty b l else (k, some i) :: l

/-- The last kernel of the running plan has ended (R289): none is left, none runs, and no replay is called for or under way (R302). -/
def planDone (s : State) (h : Half) : Bool :=
  let x := half s h
  match x.run with
  | none => false
  | some p =>
    (x.stopped || (skipEmpty p.batches p.left).isEmpty) && x.jobs.all (fun j => j.lane == Sys2Proof.Lane.mask) && x.replayJobs.isEmpty
      && (x.stopped || !errsOpen s h)

/-- R268 steps 1 to 3: a rebuild ends with plan `r`. -/
def rebuildEnd (s : State) (n : Nat) (r : W32) : State :=
  let x := slotOf s n
  match x.w.rebuild with
  | none => s
  | some old =>
    if x.r.st ≠ .lost ∨ x.w.computed < x.w.runTo then s
    else if crc32c (tokBytes (x.w.toks.take old)) ≠ x.r.toksum then failRequest s n 5
    else
      let s1 := sendSlotEvent s n 0x0102 (mk64 r.toNat)
      let new := decide (old < x.w.runTo)
      let s2 := modSlot s1 n fun y =>
        { y with
          r := { y.r with head := y.w.runTo }
          w := { y.w with rebuild := none, runFrom := old, runOpen := new, runEnd := r, plans := [] } }
      publish (stampDue (setDeadline (commitTo s2 n x.w.runTo) n) n) n

/-- R375: a half has completed plan `t`: once both halves have, or where the other one does not run, WAIT_MAX is the longest wait of a remote RECV in it. -/
def waitEnd (s : State) (h : Half) (t : W32) : State :=
  let n := (half s h).waitRun
  let s1 := modHalf s h fun x => { x with waitRun := 0 }
  match (if halfRuns s (otherHalf h) then s.group.waitEnds.find? fun p => p.1 == t else some (t, 0)) with
  | none => { s1 with group := { s1.group with waitEnds := s1.group.waitEnds ++ [(t, n)] } }
  | some p =>
    { s1 with
      group := { s1.group with
        waitEnds := s1.group.waitEnds.filter fun q => q.1 != t
        waitMax := BitVec.ofNat 32 (min (max n p.2) (2 ^ 32 - 1)) } }

/-- R285, R289, R301: while the running plan has ended, its turn closes, once nothing of it is to be replayed (R157), and the oldest waiting plan
starts; by fuel. -/
def settlePlans : Nat → State → Half → State
  | 0, s, _ => s
  | k + 1, s, h =>
    match (half s h).run with
    | none => s
    | some p =>
      let s0 := closePlanLess s h p.turn
      let s1 := if planDone s0 h then checkHalf (((usedSlots s0).filter fun n => slotHalf n == h).foldl (fun s n => rebuildEnd s n p.turn) s0) h else s0
      if !planDone s1 h then s1
      else
        let s3 := closeTurn (modHalf (waitEnd s1 h p.turn) h fun x => { x with run := none }) h p.turn
        match (half s3 h).waiting with
        | [] => s3
        | (t, m) :: ws =>
          if s3.turns.stalled then s3
          else settlePlans k (beginPlan (modHalf s3 h fun x => { x with waiting := ws }) h t m) h

/-- Settle a half's plans. -/
def settleHalf (s : State) (h : Half) : State := settlePlans ((half s h).waiting.length + 2) s h

/-- R301: an accepted mark reaches a half whose CT domain runs: its plan starts at once, or waits for the running plan. -/
def markHalf (s : State) (h : Half) (t : W32) (marked : Nat) : State :=
  if !halfRuns s h then s
  else
  let s1 := modHalf s h fun x => { x with planLess := x.planLess.filter fun u => u != t, waiting := x.waiting ++ [(t, marked)], maskLoad := [] }
  match (half s1 h).run, (half s1 h).waiting with
  | none, (u, m) :: ws => settleHalf (beginPlan (modHalf s1 h fun x => { x with waiting := ws }) h u m) h
  | _, _ => s1

/-- Turns from `a` on, `n` of them. -/
def turnRange (a : W32) (n : Nat) : List W32 := tab n fun k => a + BitVec.ofNat 32 k

/-- R281, R282: plan-less turns noted in both halves. -/
def addPlanLess (s : State) (l : List W32) : State :=
  let add (x : HalfState) : HalfState := { x with planLess := x.planLess ++ l.filter fun t => !x.planLess.contains t }
  { s with halfA := add s.halfA, halfB := add s.halfB }

/-- R281, R283, R284: mark `t`, which came at time `at_`, is accepted: turn `t` opens, expiries act, and the halves take the mark. -/
def acceptMark (s : State) (t : W32) (at_ : Nat) (skipped : Bool) : State :=
  let first := s.turns.last + 1
  let sp := s.turns.spacings ++ [at_ - s.turns.lastTime]
  let s1 := { s with
    turns := { s.turns with
      cur := t, seen := true, last := t, lastTime := at_, stalled := false, missSent := [], stallAt := at_ + 4000000
      excessSent := s.turns.excessSent.filter fun e => !later (t - 64) e.2
      spacings := if s.turns.seen then sp.drop (sp.length - 64) else [] } }
  let s2 := if skipped then sendBlockEvent s1 0x0203 (mk64 first.toNat) else s1
  let s3 := if s.turns.stalled then sendBlockEvent s2 0x0202 (mk64 t.toNat) else s2
  let s4 := expireAll s3
  markHalf (markHalf s4 .A t at_) .B t at_

/-- R281: a mark with number `t` whose frame began at time `at_`, classified against the last accepted mark. -/
def takeMark (s : State) (t : W32) (at_ : Nat) : State :=
  let c := s.turns.last
  if !s.turns.seen then acceptMark s t at_ false
  else if !later t c then { s with turns := { s.turns with badMark := inc16 s.turns.badMark } }
  else if at_ < s.turns.lastTime + 2000 then
    let s1 := addPlanLess s (turnRange (c + 1) (t - c).toNat)
    { s1 with
      turns := { s1.turns with cur := t, merged := inc16 s1.turns.merged, missSent := [] }
      halfA := { s1.halfA with maskLoad := [] }, halfB := { s1.halfB with maskLoad := [] } }
  else if t = c + 1 then acceptMark s t at_ false
  else
    let s1 := addPlanLess s (turnRange (c + 1) ((t - c).toNat - 1))
    acceptMark { s1 with turns := { s1.turns with skipped := inc16 s1.turns.skipped } } t at_ true

/-- R379, R387: marks taken from a new input's history, or held while the domains are stopped, act in order. -/
def takeMarks : List (Nat × W64) → State → State
  | [], s => s
  | p :: ps, s => takeMarks ps (takeMark s (sofTurn p.2) p.1)

/-- The phases of the start-up sequencer in which the CT clocks run, the block not stopped (R435). -/
def ctPhase : Phase → Bool
  | .reset => false
  | .power => false
  | .fuse => false
  | .clock => false
  | .shut => false
  | .stopped => false
  | _ => true

/-- The marks that wait for the clocks, taken once they run. -/
def flushMarks (s : State) : State :=
  if !ctPhase s.su.phase ∨ s.errs.block then { s with clocks := { s.clocks with catchMarks := [] } }
  else if ctRuns s then
    takeMarks s.clocks.catchMarks { s with clocks := { s.clocks with catchMarks := [] } }
  else s

/-- R377: a start-of-frame payload is good: TYPE, CHK and the reserved bits. -/
def sofGood (p : W64) : Bool := fld p 0 8 == 0xd2 && fld p 9 7 == 0 && crc8 (bytesOf 7 p.toNat) == fld p 56 8

/-- R392: the timebase unit of an input decodes: its half's CT domain is on and clocked. -/
def tbRuns (s : State) : TbIn → Bool
  | .tb0 => !s.su.off
  | .tb1 => !s.su.off && s.power.on.getLsbD 34 && (s.power.clk.getLsbD 34 || !s.power.clk.getLsbD 16)

/-- R380: SKEW, the arrival of a frame at TB1 minus that at TB0, in units of 6.4 ns, from the newest frame that both histories hold. The
histories keep microseconds; the rest is a free value (log 5). -/
def skewOf (s : State) : Option (BitVec 16) :=
  s.tb1.hist.reverse.findSome? fun b =>
    (s.tb0.hist.reverse.find? fun a => a.2 == b.2).map fun a =>
      BitVec.ofNat 16 (wrap (((b.1 : Int) - (a.1 : Int)) * 625 / 4 + (Config.skewSample s.now).toNat % 157) 16)

/-- R379: after a change of input, a frame that does not follow the last one of the old input has been taken from it. -/
def frameTaken (s : State) (p : W64) : Bool :=
  s.clocks.catching && (match s.clocks.lastFcnt with | none => false | some l => !follows (sofFcnt p) l.toNat)

/-- R379: a good start-of-frame block joins its input's history of 64; the block takes its mark when the input is the one in use and
valid, outside CLOCK-HOLD (R378, R386), and the old input has not given the frame already. -/
def sofArrives (s : State) (i : TbIn) (p : W64) : State :=
  let tb := tbOf s i
  let hist := tb.hist ++ [(s.now, p)]
  let s0 := setTb s i { tb with hist := hist.drop (hist.length - 64) }
  let s1 := { s0 with power := { s0.power with skew := (skewOf s0).getD s0.power.skew } }
  if s.clocks.inUse ≠ i ∨ !tb.blockLock ∨ !tb.frameLock ∨ s.clocks.src = 2 ∨ frameTaken s p then s1
  else
    let s2 := { s1 with clocks := { s1.clocks with lastFcnt := some (BitVec.ofNat 8 (sofFcnt p)), catching := false } }
    if sofMark p then flushMarks { s2 with clocks := { s2.clocks with catchMarks := s2.clocks.catchMarks ++ [(s.now, p)] } } else s2

/-- TURN_MARK (R281): a good start-of-frame block arrives at a frame position of input `i`. -/
def execTurnMark (i : TbIn) (payload : W64) (s : State) : Host.Outcome State Fault Refusal :=
  .next (if sofGood payload ∧ (tbOf s i).blockLock ∧ (tbOf s i).frameLock ∧ tbRuns s i then sofArrives s i payload else s)

/-- R283: a stall: no plan starts, and the current turn stays current. -/
def stallNow (s : State) : State :=
  sendBlockEvent { s with turns := { s.turns with stalled := true, stalls := inc16 s.turns.stalls } } 0x0201 (mk64 s.turns.last.toNat)

/-- R283: a mark has been accepted and none since, outside a stall, in the phases in which marks are accepted. -/
def mayStall (s : State) : Bool :=
  s.turns.seen && !s.turns.stalled && ctPhase s.su.phase && ctRuns s && !s.errs.block

/-- TURN_STALL (R283): no mark has been accepted for 4 s. -/
def execTurnStall (s : State) : Host.Outcome State Fault Refusal :=
  .next (if mayStall s then stallNow (elapseTo s s.turns.stallAt) else s)

/-- PAUSE_EXPIRY (R266). -/
def execPauseExpiry (slot : BitVec 16) (s : State) : Host.Outcome State Fault Refusal :=
  .next (if windowOpen s then expireSlot s slot.toNat else s)

/-- HANDLE_EXPIRY (R264). -/
def execHandleExpiry (h : Half) (idx : BitVec 14) (s : State) : Host.Outcome State Fault Refusal :=
  .next (if windowOpen s then expireHandle s h idx.toNat else s)

end Sys2Proof.Machine
end

