-- ==== Sys2Proof/Machine/Kernels.lean ====
section
/-! DEFINITION. Cuts and batches, kernels dispatched and ended (spec/10 R286 to R293, spec/13 R352, spec/15 R410 to R414). -/

namespace Sys2Proof.Machine

/-- Positions [first, past) of a slot. -/
structure Want where
  slot : Nat
  first : Nat
  past : Nat
  deriving DecidableEq, Repr

/-- The slot's request has positions a cut may take: it is not LOST but for a rebuild, and no image is being fetched into its pages (R265,
R268). -/
def cutSlot (x : Slot) : Bool :=
  !x.w.pause.fetch && x.w.fillFrom.isNone
    && (match x.r.st with
      | .prompt => true
      | .ready => true
      | .generating => true
      | .paused => true
      | .lost => x.r.sub == 1
      | _ => false)

/-- A prompt run or a rebuild is being screened. -/
def runActive (w : SlotWork) : Bool := w.runOpen || w.rebuild.isSome

/-- R286, R298: the position up to which admission has assigned the run to plan `t` or an earlier one. -/
def assignedTo (w : SlotWork) (t : W32) : Nat :=
  min w.runTo (w.runFrom + ((w.plans.filter fun p => notEarlier t p.1).map (·.2)).sum)

/-- R293: what a slot wants in group 1, 2 or 3 of a cut in plan `t`. -/
def wantOf (x : Slot) (n : Nat) (t : W32) (group : Nat) : Want :=
  let p := x.w.screened
  let d := min x.r.head (max p x.w.deferred)
  if runActive x.w then { slot := n, first := p, past := if group = 1 then max p (assignedTo x.w t) else p }
  else if group = 2 then { slot := n, first := p, past := d }
  else if group = 3 then { slot := n, first := d, past := x.r.head }
  else { slot := n, first := p, past := p }

/-- R293: the wants of a cut granted in order within the budget: each with the position up to which it is granted. -/
def grant : List Want → Nat → List (Want × Nat)
  | [], _ => []
  | w :: ws, b =>
    let n := min b (w.past - w.first)
    (w, w.first + n) :: grant ws (b - n)

/-- The position up to which a slot is granted, and up to which it asked. -/
def grantedTo (l : List (Want × Nat)) (n p : Nat) : Nat := ((l.filter fun g => g.1.slot == n && g.1.first < g.2).map (·.2)).foldl max p

/-- The position up to which a slot asked. -/
def askedTo (l : List (Want × Nat)) (n p : Nat) : Nat :=
  ((l.filter fun g => g.1.slot == n && g.1.first < g.1.past).map (·.1.past)).foldl max p

/-- R155, R293: E copied into E_USED for one position, for each tracked tensor of the image. The position's verdict cell starts empty (log 111). -/
def enterPos (i : Image) (n : Nat) (s0 : State) (p : Nat) : State :=
  let s := { s0 with mem := memWrite s0.mem (cellAddr s0 n p) (clean (List.replicate 64 0)) }
  let sc := (slotOf s n).r.scale
  i.tqds.foldl
    (fun s d =>
      let t := fld d 16 4
      if t = 0 ∨ 8 < t then s
      else { s with mem := memPutWord s.mem (entryAddr s n p t) (mk64 (put (fld (sc.getD (t - 1) 0) 56 8) 56 8)) }) s

/-- R155: E_USED set in positions `p` to `q - 1` of a slot, those that have none yet. -/
def enterPositions (s : State) (i : Image) (n q : Nat) : State :=
  let e := (slotOf s n).w.entered
  modSlot ((tab (q - e) fun k => e + k).foldl (enterPos i n) s) n fun x => { x with w := { x.w with entered := max e q } }

/-- R291, R292: the positions of [p, q) that plan `t` screens too late for L = 1: output tokens that count as produced in an earlier
turn, so that their TOKENS came after the cut of that turn's plan. -/
def lateCarried (r : SlotRec) (w : SlotWork) (t : W32) (p q : Nat) : List (Nat × Nat) :=
  let past := min q r.commit
  if lagOf r ≠ 1 ∨ runActive w then []
  else
    let n := ((tab (past - p) fun k => p + k).filter fun k => later t (prodTurn w k)).length
    if n = 0 then [] else [(p, p + n)]

/-- R286, R293: a slot's part of the cut in plan `t`: screened up to `got`; what it asked for past that is deferred and excused. -/
def cutSlotTo (i : Image) (t : W32) (l : List (Want × Nat)) (s : State) (n : Nat) : State :=
  let p := (slotOf s n).w.screened
  let got := grantedTo l n p
  let ask := askedTo l n p
  if ask ≤ p then s
  else
    modSlot (enterPositions s i n ask) n fun x =>
      { x with
        w := { x.w with
          screened := got
          deferred := if got < ask then ask else x.w.deferred
          excused := x.w.excused ++ lateCarried x.r x.w t p got ++ if got < ask then [(got, ask)] else [] } }

/-- R293: a cut in plan `turn` that defers counts EXCESS and sends LOAD_EXCESS once for the tenant and turn. -/
def countExcess (s : State) (t : BitVec 16) (turn : W32) : State :=
  if s.turns.excessSent.contains (t, turn) then s
  else
    sendBlockEvent { s with turns := { s.turns with excess := inc16 s.turns.excess, excessSent := (t, turn) :: s.turns.excessSent } } 0x0207
      (mk64 t.toNat)

/-- R286, R293, R454: the batch of one image at its tenant's cut in the running plan of turn `t`. -/
def formBatch (s : State) (h : Half) (t : W32) (n : Nat) (i : Image) : State × Batch :=
  let slots := (s.slots.filter fun p => slotHalf p.1 == h && p.2.w.image == n && slotLive p.2.r.st && cutSlot p.2).map (·.1)
  let wants := [1, 2, 3].flatMap fun g => slots.map fun k => wantOf (slotOf s k) k t g
  let l := grant wants (loadOf s h n i Reserve.none t)
  let rows := slots.filterMap fun k =>
    let p := (slotOf s k).w.screened
    let q := grantedTo l k p
    if p < q then some { slot := k, sgen := (slotOf s k).r.sgen, first := p, past := q, upto := q } else none
  let s1 := slots.foldl (cutSlotTo i t l) s
  let s2 := if l.any fun g => g.2 < g.1.past then countExcess s1 i.tenant t else s1
  let b : Batch := { num := (half s2 h).nextJob, tenant := i.tenant, image := n, rows := rows }
  (modHalf s2 h fun x => { x with nextJob := x.nextJob + 1 }, b)

/-- The batches of a tenant's images, one by one. -/
def formBatches (h : Half) (t : W32) : List (Nat × Image) → State → State × List Batch
  | [], s => (s, [])
  | (n, i) :: l, s =>
    let r := formBatch s h t n i
    let r2 := formBatches h t l r.1
    (r2.1, r.2 :: r2.2)

/-- R286: a tenant's cut: its batches are formed, and its kernels in the plan run once for each of its images (R454). -/
def cutTenant (s : State) (h : Half) (p : PlanRun) (t : BitVec 16) : State :=
  let imgs := (images s).filter fun x => x.2.tenant == t && x.2.serves && !x.2.retiring
  let r := formBatches h p.turn imgs s
  let left := p.left.flatMap fun k => if k.2.isNone ∧ k.1.tenant = t then imgs.map fun x => (k.1, some x.1) else [k]
  modHalf r.1 h fun x => { x with run := some { p with left := left, cut := t :: p.cut, batches := p.batches ++ r.2 } }

/-- R132: the descriptor of a kernel of an image by KERNEL_ID and CLASS. -/
def descOf (s : State) (i : Image) (k : BitVec 16) (c : Byte) : Option Nat :=
  i.kernels.find? fun a => fld (memWord s.mem a) 48 16 == k.toNat && fld (memWord s.mem a) 16 8 == c.toNat

/-- The tokens of rows. -/
def rowTokens (l : List Row) : Nat := (l.map fun r => r.past - r.first).sum

/-- R109: the arguments of a dispatch: the turn, the tokens of the batch, then the plan's values. -/
def dispatchArgs (j : Job) : List W32 := (j.turn :: BitVec.ofNat 32 (rowTokens j.rows) :: j.args).take 16

/-- R352, R412: the class a job's kernel is dispatched in: its fixed class, or the smallest that covers its rows. -/
def jobClass (i : Image) (j : Job) : Byte :=
  match j.fixed with
  | some c => c
  | none => ((classFor i.classes (rowTokens j.rows)).map (·.cls)).getD 0

/-- A tile that can take a kernel (R82, R93): it runs, no kernel is on it, no fault has stopped it. -/
def tileFree1 (s : State) (t : Nat) : Bool :=
  tileRuns s t && !(tileOf s t).kernel && !(tileOf s t).stopped && (jobOf s t).isNone

/-- The half's plan sequencer dispatches: READY, no shutdown begun, no halt, not stopped, clocks and CT domain running (R392, R401, R424, R427,
R446). -/
def mayDispatch (s : State) (h : Half) : Bool := serving s && !halted s && !(half s h).stopped && halfRuns s h

/-- R248: the pages that a job writes are the request's own: a shared page among them is copied first. -/
def ownPages (s : State) (r : Row) : State := if rowLive s r then takePages s r.slot r.first r.past else s

/-- R155, R158: CLIP and HALF of one position back at zero before it is computed again, E_USED kept; an entry with poison stays. -/
def clearCounts (i : Image) (n : Nat) (s : State) (p : Nat) : State :=
  i.tqds.foldl
    (fun s d =>
      let t := fld d 16 4
      let a := entryAddr s n p t
      if t = 0 ∨ 8 < t then s
      else if memAnyPz s.mem a 8 then countPoison s a 8
      else { s with mem := memPutWord s.mem a (mk64 (put (fld (memWord s.mem a) 56 8) 56 8)) }) s

/-- The counts of positions [p, q) of a slot back at zero (R158). -/
def clearPositions (s : State) (i : Image) (n p q : Nat) : State := (tab (q - p) fun k => p + k).foldl (clearCounts i n) s

/-- R158: as the first kernel of a replay is dispatched, the counts of a row's positions begin again, and positions screened for the first time
take their E_USED. -/
def beginCounts (i : Image) (num : Nat) (s : State) (r : Row) : State :=
  let e := (slotOf s r.slot).w.entered
  if jobBegun s r.slot num ∨ !rowLive s r then s
  else enterPositions (clearPositions s i r.slot r.first (min r.past e)) i r.slot r.past

/-- A job dispatched to its tile. -/
def startJob (s : State) (j : Job) (i : Image) (desc : Nat) : State :=
  let j1 : Job := { j with since := s.now }
  let s0 := j.rows.foldl ownPages s
  let s1 := if j.lane = .replay then j.rows.foldl (beginCounts i j.num) s0 else s0
  dispatchTile (modHalf s1 j.half fun x => { x with jobs := x.jobs ++ [j1] }) j.tile desc (dispatchArgs j) j.turn j.num i.mset j.entry.isSome

/-- The next kernel of the running plan that dispatches something, its tenant cut first (R286), the messages taken decided before that (log 109);
a kernel its image does not hold is passed over. By fuel, at most two entries of the plan a step. -/
def dispatchPlan : Nat → State → Half → State
  | 0, s, _ => s
  | f + 1, s, h =>
    match (half s h).run with
    | none => s
    | some p =>
      match skipEmpty p.batches p.left with
      | [] => modHalf s h fun x => { x with run := some { p with left := [] } }
      | (k, none) :: rest =>
        if !tileFree1 s k.tile.toNat then s
        else if windowOpen s ∧ !s.taken.isEmpty then dispatchPlan f (decideTaken s) h
        else dispatchPlan f (cutTenant s h { p with left := (k, none) :: rest } k.tenant) h
      | (k, some n) :: rest =>
        if !tileFree1 s k.tile.toNat then s
        else
          let s1 := modHalf s h fun x => { x with run := some { p with left := rest } }
          match imageOf s n, p.batches.find? fun b => b.image == n && b.tenant == k.tenant with
          | some i, some b =>
            let j : Job :=
              { num := b.num, half := h, tile := k.tile.toNat, tenant := k.tenant, image := n, lane := Sys2Proof.Lane.plan, rows := b.rows
                kernel := k.kernel, fixed := k.fixed, args := k.args, verdict := k.verdict, turn := p.turn, since := 0, dead := false
                entry := none, bytes := 0, excess := false, snap := [], held := [] }
            match descOf s i k.kernel (jobClass i j) with
            | some d => startJob s1 j i d
            | none => dispatchPlan f s1 h
          | _, _ => dispatchPlan f s1 h

/-- R248: there are pages for the copies that a replay needs before it writes. -/
def replayRoom (s : State) (j : Job) : Bool :=
  j.entry.isNone
    || decide (((j.rows.filter (rowLive s)).map fun r => pagesNeeded s r.slot r.first r.past).sum ≤ freePages s j.half)

/-- Two jobs hold rows of one request. -/
def sameSlot (a b : Job) : Bool := a.rows.any fun x => b.rows.any fun y => x.slot == y.slot

/-- R287, R412: of two mask-lane jobs of one request, `a` goes first: a replay before new work, then the older. -/
def maskBefore (a b : Job) : Bool := (a.entry.isSome && b.entry.isNone) || (a.entry.isSome == b.entry.isSome && decide (a.num < b.num))

/-- R287: the first mask-lane job whose request runs no other mask-lane job, has no job to go before it, and has its pages. -/
def nextMask (s : State) (h : Half) : Option Job :=
  (half s h).maskJobs.find? fun j =>
    (half s h).jobs.all (fun r => r.lane != Sys2Proof.Lane.mask || !sameSlot r j)
      && (half s h).maskJobs.all (fun k => !(sameSlot k j && maskBefore k j))
      && replayRoom s j && j.rows.all fun r => !(slotOf s r.slot).w.pause.fetch && (slotOf s r.slot).w.fillFrom.isNone

/-- R287, R293: the next mask-lane kernel, on a free mask-lane tile of the plan the half runs under. -/
def dispatchMask (s : State) (h : Half) : State :=
  match nextMask s h, (planMaskTiles s (halfPlan s h) h).find? (tileFree1 s) with
  | some j, some t =>
    match imageOf s j.image with
    | none => s
    | some i =>
      let c := jobClass i j
      match (descOf s i j.kernel c).orElse fun _ => i.kernels.find? fun a => fld (memWord s.mem a) 48 16 == j.kernel.toNat with
      | none => s
      | some d => startJob (modHalf s h fun x => { x with maskJobs := x.maskJobs.erase j }) { j with tile := t } i d
  | _, _ => s

/-- R412: the next replay kernel, ahead of every further kernel of the running plan; it waits for the pages it needs (R248). One whose image does
not hold it is passed over. -/
def dispatchReplay (s : State) (h : Half) : State :=
  match (half s h).replayJobs with
  | [] => s
  | j :: rest =>
    if !tileFree1 s j.tile ∨ !replayRoom s j then s
    else
      match (imageOf s j.image).bind fun i => (descOf s i j.kernel (jobClass i j)).map fun d => (i, d) with
      | some (i, d) => startJob (modHalf s h fun x => { x with replayJobs := rest }) j i d
      | none => modHalf s h fun x => { x with replayJobs := rest }

/-- KERNEL_DISPATCH (R93, R286, R287, R412): the half's plan sequencer dispatches its next kernel of a lane. -/
def kernelDispatch (s : State) (h : Half) (l : Sys2Proof.Lane) : State :=
  if !mayDispatch s h then s
  else
    match l with
    | .plan =>
      if !(half s h).replayJobs.isEmpty then s
      else
        let n := ((half s h).run.map fun p => 2 * p.left.length).getD 0
        settleHalf (dispatchPlan (n * ((images s).length + 1) + 3) s h) h
    | .mask => dispatchMask s h
    | .replay => settleHalf (dispatchReplay s h) h

/-- R372: a kernel's tile time and bytes kept for the close of the turn. -/
def meterJob (s : State) (j : Job) : State :=
  match kernelComp s j.tenant with
  | none => s
  | some c =>
    modHalf s j.half fun x =>
      let a := smSet 0 x.acc (2 * c) (smGet 0 x.acc (2 * c) + (s.now - j.since) * 65536)
      { x with acc := smSet 0 a (2 * c + 1) (smGet 0 a (2 * c + 1) + j.bytes) }

/-- R288: the verdicts of a row are computed; publication follows. -/
def rowComputed (s : State) (r : Row) : State :=
  if !rowLive s r then s
  else
    let s1 := modSlot s r.slot fun x =>
      { x with w := { x.w with computed := if r.first ≤ x.w.computed then max x.w.computed (rowEnd r) else x.w.computed } }
    publish (stampDue s1 r.slot) r.slot

/-- R227: the mask blocks of a row are written; the records owed follow. -/
def rowMasked (s : State) (r : Row) : State :=
  if !rowLive s r then s
  else
    drainMasks
      (modSlot s r.slot fun x => { x with w := { x.w with masked := if r.first ≤ x.w.masked then max x.w.masked (rowEnd r) else x.w.masked } })
      r.slot

/-- A POISON bulletin named position `p` of slot `n`, and its record has not been published again (R330, R414). -/
def maskNamed (s : State) (n p : Nat) : Bool := (half s (slotHalf n)).bullPz.contains (n * 2 ^ 24 + p)

/-- The note of a POISON bulletin for position `p` of slot `n` dropped: its record is published again. -/
def clearNamed (n : Nat) (s : State) (p : Nat) : State :=
  modHalf s (slotHalf n) fun x => { x with bullPz := x.bullPz.filter (· != n * 2 ^ 24 + p) }

/-- R414: a replayed mask record is published again when a POISON bulletin named its position, or it is still that of the head. A record that
is owed is published once, as such; while the request is LOST none is (R267). -/
def rowMaskedAgain (s : State) (r : Row) : State :=
  if !rowLive s r then s
  else
    let owed := (slotOf s r.slot).w.maskPos.map (·.pos)
    let ps := tab (rowEnd r - r.first) fun k => r.first + k + 1
    let s1 := rowMasked ((ps.filter fun p => owed.contains p).foldl (clearNamed r.slot) s) r
    (ps.filter fun p => !owed.contains p && (slotOf s r.slot).r.st != .lost).foldl
      (fun s p =>
        if maskNamed s r.slot p ∨ p = (slotOf s r.slot).r.head then publishMask (clearNamed r.slot s p) r.slot p (maskAddr s r.slot (p - 1))
        else s) s1

/-- R277, R407 point 0x09: a published cell that a replay computed again is compared, and its PUB, DUE and TURN put back. -/
def checkSnap (j : Job) (s : State) (c : Nat × Nat × List W64) : State :=
  let a := cellAddr s c.1 c.2.1
  let now := memWords s.mem a 4
  if slotPage s c.1 (c.2.1 / 64) = 0 ∨ !slotLive (slotOf s c.1).r.st then s
  else if cellKey now = cellKey c.2.2 then { s with mem := memPutWords s.mem a c.2.2 }
  else detect s { (Detect.plain 0x09 j.half j.tile) with job := some j.num }

/-- R411, R414: publication goes on for the requests of a half that no entry not yet closed names. -/
def unblock (s : State) (h : Half) : State :=
  let held (n : Nat) : Bool := s.errs.log.any fun e => !stepFinal e.step && e.half == h && e.reqs.any fun q => q.1 == n
  let ns := (s.slots.filter fun p => slotHalf p.1 == h && p.2.w.blocked && !held p.1).map (·.1)
  ns.foldl (fun s n => publish (modSlot s n fun x => { x with w := { x.w with blocked := false } }) n) s

/-- R411 steps 4 and 6: an entry whose last replay kernel has ended is PUBLISHED, then DONE. -/
def entryReplayed (s : State) (l : W32) : State :=
  let open_ := [s.halfA, s.halfB].any fun x =>
    x.replayJobs.any (fun j => j.entry == some l) || x.jobs.any (fun j => j.entry == some l) || x.maskJobs.any fun j => j.entry == some l
  match entryOf s l with
  | none => s
  | some e =>
    if open_ ∨ e.step ≠ .replaying then s
    else
      let s1 := modEntry (modEntry s l fun g => { g with step := .published }) l fun g => { g with step := .done }
      unblock (if s1.errs.handling = some l then { s1 with errs := { s1.errs with handling := none } } else s1) e.half

/-- What the end of a replay kernel does: the compare of R277, the verdicts of its rows, and the entry's end. -/
def replayEnd (s : State) (j : Job) : State :=
  let s1 := if j.verdict then
      j.rows.foldl (fun s r => rowComputed (modSlot s r.slot fun x => { x with w := { x.w with blocked := false } }) r)
        (j.snap.foldl (checkSnap j) s)
    else s
  match j.entry with
  | none => s1
  | some l => entryReplayed s1 l

/-- Another kernel of the job still has verdicts to compute: one on another tile, or one the plan has yet to dispatch. -/
def verdictLeft (s : State) (j : Job) : Bool :=
  (half s j.half).jobs.any (fun k => k.num == j.num && k.verdict)
    || ((half s j.half).run.map fun p => p.left.any fun k => k.1.verdict && k.1.tenant == j.tenant && k.2 == some j.image).getD false

/-- The rows of a job whose last verdict kernel has ended. -/
def verdictRows (s : State) (j : Job) : State :=
  if j.verdict ∧ !verdictLeft s j then j.rows.foldl rowComputed s else s

/-- The larger count of each stream. -/
def maxCounts (a b : SMap Nat) : SMap Nat := b.foldl (fun m p => smSet 0 m p.1 (max (smGet 0 m p.1) p.2)) a

/-- R359: after a replay the tile's item counts go on in the plan it ran before, from the furthest reached. -/
def resumeCounts (s : State) (t : Nat) : State :=
  let tl := tileOf s t
  match tl.back with
  | none => s
  | some (u, x) => setTile s t { tl with xids := if u = tl.turn then maxCounts x tl.xids else x, turn := u, back := none }

/-- R413: a replay kernel that does not end clean takes the rest of its request's replay with it. -/
def dropReplay (s : State) (j : Job) : State :=
  modHalf s j.half fun x =>
    { x with
      replayJobs := x.replayJobs.filter fun k => k.entry != j.entry || k.rows.all fun a => j.rows.all fun b => a.slot != b.slot }

/-- R410: the job kept for a request whose row it held. -/
def noteRan (j : Job) (s : State) (r : Row) : State :=
  let n : Ran := { num := j.num, first := r.first, past := r.past, mask := j.lane == Sys2Proof.Lane.mask, turn := j.turn }
  if rowLive s r then modSlot s r.slot fun x => { x with w := { x.w with ran := (x.w.ran.filter fun k => k.num != j.num) ++ [n] } } else s

/-- R74, R127: the flush of an abandoned tile, with the transfers it drops. -/
def flushTile (s : State) (t : Nat) : State := dropTransfers (setTile s t (tileFlush (tileOf s t))) t

/-- R74, R105: what the plan sequencer does when a kernel has ended, or its abandoned tile is flushed. -/
def jobEnded (s : State) (j : Job) : State :=
  let s0 := modHalf s j.half fun x => { x with jobs := x.jobs.filter fun k => k.tile != j.tile }
  let s1 := resumeCounts (meterJob (if j.dead then flushTile s0 j.tile else j.rows.foldl (noteRan j) s0) j) j.tile
  let s2 :=
    if j.dead then
      match j.entry with
      | none => s1
      | some l => entryReplayed (dropReplay s1 j) l
    else
      match j.lane with
      | .plan => verdictRows s1 j
      | .mask =>
        match j.entry with
        | none => j.rows.foldl rowMasked s1
        | some l => entryReplayed (j.rows.foldl rowMaskedAgain s1) l
      | .replay => replayEnd s1 j
  noteQuiet (freeImages (settleHalf s2 j.half))

/-- R105: every engine has completed every instruction of its stream, and KEND waits for nothing else. SQ's stream ends with its KEND: a KEND before
its last word never completes (log 128). -/
def kernelOver (tl : Tile) : Bool :=
  engines.all (fun e => decide ((eng tl e).length ≤ (eng tl e).pos) && !outstanding (eng tl e))
    && (inFlight (eng tl .sq)).any fun f => f.pend == .kend

/-- R127: nothing but SENDs and RECVs is in flight on the tile, and one is. -/
def onlyTransfers (tl : Tile) : Bool :=
  tileQuiet tl && (inFlight (eng tl .xf)).any fun f =>
    match f.pend with
    | .send .. => true
    | .recv .. => true
    | _ => false

/-- KERNEL_END (R74, R81, R105): the kernel of tile `t` ends: at its KEND with the check of R81, or, for an abandoned job, or a replay, of
a tile that a fault has stopped, by the flush once nothing is in flight (R413); so does an abandoned job that waits for a transfer, which it
drops (R127; log 122); at once where the tile has lost its power (R424). -/
def kernelEnd (s : State) (t : Nat) : State :=
  let tl := tileOf s t
  match jobOf s t with
  | none => s
  | some j =>
    if tl.stopped ∨ !tl.kernel ∨ (j.dead ∧ (onlyTransfers tl ∨ !s.power.on.getLsbD (tileDomain t))) then
      (if (j.dead ∨ j.entry.isSome) ∧ (tileQuiet tl ∨ !s.power.on.getLsbD (tileDomain t)) then jobEnded s { j with dead := true } else s)
    else if !domainRuns s (tileDomain t) ∨ s.errs.block ∨ !kernelOver tl then s
    else
      let imbalance := (List.range 15).any fun k => credit tl (k + 1) != 0
      let tl1 := { tl with kernel := false, engs := [] }
      if imbalance then
        tileFault (setTile s t ((List.range 15).foldl (fun a k => setCredit a (k + 1) 0) tl1)) t 0x05 0 7 0
      else jobEnded (setTile s t tl1) j

/-- KERNEL_DISPATCH (R93). -/
def execKernelDispatch (h : Half) (l : Sys2Proof.Lane) (s : State) : Host.Outcome State Fault Refusal := .next (kernelDispatch s h l)

/-- KERNEL_END (R105). -/
def execKernelEnd (t : BitVec 10) (s : State) : Host.Outcome State Fault Refusal := onTile t s (kernelEnd s t.toNat)

end Sys2Proof.Machine
end

