-- ==== Sys2Proof/Machine/Recovery.lean ====
section
/-! DEFINITION. The error manager: REQUEST, TENANT and HALF entries handled one at a time in LSEQ order (spec/15 R410 to R424). -/

namespace Sys2Proof.Machine

/-- R411 step 1, R413: one attributed request: its first error counts, its second moves it to FAILED; one that has ended is recorded as
ended: it is not among the requests of COUNT (R419; log 55). -/
def attribReq (l : W32) (s : State) (q : Nat × Byte) : State :=
  let r := (slotOf s q.1).r
  if r.sgen ≠ q.2 ∨ !slotLive r.st then s
  else
    let s1 := modEntry s l fun e => { e with count := inc16 e.count }
    if r.errs = 0 then modSlot s1 q.1 fun x => { x with r := { x.r with errs := x.r.errs + 1 } }
    else modEntry (failRequest s1 q.1 4) l fun e => { e with failed := inc16 e.failed }

/-- The dispatched kernels of a job (R410). -/
def jobKernels (s : State) (h : Half) (num : Option Nat) : List Job :=
  match num with
  | none => []
  | some k => (half s h).jobs.filter fun j => j.num == k

/-- R411 step 2: a job abandoned: its kernels end at their boundaries by a flush, and what is left of it is not dispatched; kernels with
remote transfers still to come run without rows (R352). -/
def abandonJob (s : State) (h : Half) (num : Option Nat) : State :=
  match num with
  | none => s
  | some k =>
    modHalf s h fun x =>
      { x with
        jobs := x.jobs.map fun j => if j.num = k then { j with dead := true } else j
        run := x.run.map fun p => { p with batches := p.batches.map fun b => if b.num = k then { b with rows := [] } else b } }

/-- A request to replay from position `first` (its F), in the mask lane or in its tenant's kernels. -/
structure Replay where
  slot : Nat
  sgen : Byte
  first : Nat
  mask : Bool
  turn : W32
  deriving DecidableEq, Repr

/-- R412: the position past the last that a replay covers: the head, or what a run has been screened to. -/
def replayTo (x : Slot) : Nat := if runActive x.w then x.w.screened else max x.r.head x.w.screened

/-- R410, R411: the rows of a job that is still dispatched: those of its kernels on tiles, and those of its batch while the running plan has
kernels of it to come. -/
def jobRows (s : State) (h : Half) (num : Option Nat) : List Replay :=
  let of (m : Bool) (t : W32) (r : Row) : Replay := { slot := r.slot, sgen := r.sgen, first := r.first, mask := m, turn := t }
  let batch := match (half s h).run with
    | none => []
    | some p =>
      (p.batches.filter fun b => some b.num == num && p.left.any fun k => k.2 == some b.image && k.1.tenant == b.tenant).flatMap fun b =>
        b.rows.map (of false p.turn)
  ((jobKernels s h num).flatMap fun j => j.rows.map (of (j.lane == Sys2Proof.Lane.mask) j.turn)) ++ batch

/-- R410, R412: the replay of an attributed request whose job has ended: from F of that job, or of the last job that wrote the entry's position,
in its lane; from the entry's position where no job of the request wrote it. -/
def endedReplay (s : State) (e : ErrEntry) (q : Nat × Byte) : Replay :=
  let w := (slotOf s q.1).w
  let mask := e.src == 0x07
  let pos := if mask then e.pos.toNat - 1 else e.pos.toNat
  match (w.ran.find? fun k => some k.num == e.job).orElse fun _ => ranFor w mask pos with
  | some k => { slot := q.1, sgen := q.2, first := k.first, mask := k.mask, turn := k.turn }
  | none => { slot := q.1, sgen := q.2, first := min pos w.published, mask := mask, turn := (half s e.half).lastTurn }

/-- R411 step 3: what an entry replays: every live request with rows in its job, or an attributed one whose job has ended. -/
def replaysOf (s : State) (e : ErrEntry) : List Replay :=
  let rows := jobRows s e.half e.job
  let ended := (e.reqs.filter fun q => !rows.any fun r => r.slot == q.1).map (endedReplay s e)
  (rows ++ ended).eraseDups.filter fun r => (slotOf s r.slot).r.sgen == r.sgen && slotLive (slotOf s r.slot).r.st

/-- R277: the published cells that a replay of positions `p` to `q - 1` computes again. -/
def snapCells (s : State) (n p q : Nat) : List (Nat × Nat × List W64) :=
  ((tab (min q (slotOf s n).w.entered - p) fun k => p + k).filter fun k => slotPage s n (k / 64) != 0 && bit (memWord s.mem (cellAddr s n k)) 60).map fun k =>
    (n, k, memWords s.mem (cellAddr s n k) 4)

/-- R412: a replay job of one request for each kernel that screens its tenant, in the plan's order. -/
def replayJobs (s : State) (h : Half) (l : W32) (r : Replay) (num : Nat) : List Job :=
  let x := slotOf s r.slot
  let past := replayTo x
  let base : Job :=
    { num := num, half := h, tile := 0, tenant := x.r.tenant, image := x.w.image, lane := Sys2Proof.Lane.replay
      rows := [{ slot := r.slot, sgen := r.sgen, first := r.first, past := past, upto := past }], kernel := 0, fixed := none, args := []
      verdict := false, turn := r.turn, since := 0, dead := false, entry := some l, bytes := 0, excess := false, snap := [], held := [] }
  match planFor s r.turn with
  | none => []
  | some p =>
    (p.kernels.filter fun k => k.half == h && k.tenant == x.r.tenant).map fun k =>
      { base with
        tile := k.tile.toNat, kernel := k.kernel, fixed := k.fixed, args := k.args, verdict := k.verdict
        snap := if k.verdict then snapCells s r.slot r.first past else [] }

/-- R412: a mask-lane replay, ahead of new mask-lane kernels. -/
def maskReplay (s : State) (h : Half) (l : W32) (r : Replay) (num : Nat) : List Job :=
  let x := slotOf s r.slot
  let past := max x.r.head x.w.runTo
  match maskKernel s h x.r.tenant with
  | none => []
  | some k =>
    [{ num := num, half := h, tile := 0, tenant := x.r.tenant, image := x.w.image, lane := Sys2Proof.Lane.mask
       rows := [{ slot := r.slot, sgen := r.sgen, first := r.first, past := past, upto := past }], kernel := k.1, fixed := none
       args := k.2, verdict := false, turn := s.turns.cur, since := 0, dead := false, entry := some l, bytes := 0, excess := false
       snap := [], held := [] }]

/-- R411 step 3: one replay dispatched: its kernels wait for their tiles. -/
def addReplay (l : W32) (s : State) (r : Replay) : State :=
  let h := slotHalf r.slot
  let num := (half s h).nextJob
  if r.mask then
    modHalf s h fun x => { x with nextJob := num + 1, maskJobs := maskReplay s h l r num ++ x.maskJobs }
  else
    let past := replayTo (slotOf s r.slot)
    let js := replayJobs s h l r num
    let s2 := modSlot s r.slot fun x => { x with w := { x.w with blocked := !js.isEmpty, screened := max x.w.screened past } }
    modHalf s2 h fun x => { x with nextJob := num + 1, replayJobs := x.replayJobs ++ js }

/-- R411: a REQUEST entry through its steps up to REPLAYING, or to DONE when nothing is replayed. -/
def handleRequest (s : State) (e : ErrEntry) : State :=
  let l := e.lseq
  let s1 := e.reqs.foldl (attribReq l) (setStep s l .attributed)
  let rs := replaysOf s1 e
  let s2 := setStep (abandonJob s1 e.half e.job) l .abandoned
  let s3 := rs.foldl (addReplay l) (setStep { s2 with errs := { s2.errs with handling := some l } } l .replaying)
  entryReplayed s3 l

/-- Requests moved to FAILED one by one, counted in the entry (R415, R423, R424). -/
def failAll (l : W32) (s : State) (ns : List Nat) : State :=
  ns.foldl (fun s n => modEntry (failRequest s n 4) l fun e => { e with failed := inc16 e.failed }) s

/-- The live slots that satisfy `p`, ascending. -/
def liveSlots (s : State) (p : Nat → Slot → Bool) : List Nat := (s.slots.filter fun x => slotLive x.2.r.st && p x.1 x.2).map (·.1)

/-- R423 step 2: the tenant's prefix handles dropped, with HANDLE_EXPIRED for each. -/
def dropTenant (t : BitVec 16) (s : State) (h : Half) : State :=
  (half s h).handles.foldl
    (fun s p =>
      match p.2 with
      | none => s
      | some x =>
        if x.tenant = t then sendHalfEvent (dropHandle s h p.1 x) h 0x0104 (mk64 x.value.toNat) else s) s

/-- R454: no ADMIT reaches the tenant's images any longer. -/
def closeImages (s : State) (t : BitVec 16) : State :=
  { s with images := s.images.map fun p => (p.1, p.2.map fun i => if i.tenant = t then { i with admits := false } else i) }

/-- R423: a TENANT entry withdraws the tenant's program. -/
def handleTenant (s : State) (e : ErrEntry) : State :=
  let l := e.lseq
  let s1 := abandonJob (supersede s (overtakes e)) e.half e.job
  let s2 := failAll l s1 (liveSlots s1 fun _ x => x.r.tenant == e.tenant)
  let s3 := dropTenant e.tenant (dropTenant e.tenant s2 .A) .B
  setStep (freeImages (closeImages s3 e.tenant)) l .done

/-- R424: a HALF entry stops its half. -/
def stopHalf (s : State) (e : ErrEntry) : State :=
  let h := e.half
  let l := e.lseq
  let s1 := modHalf (supersede s (overtakes e)) h fun x =>
    { x with
      stopped := true, maskJobs := [], replayJobs := [], jobs := x.jobs.map fun j => { j with dead := true }
      run := x.run.map fun p => { p with left := [], batches := p.batches.map fun b => { b with rows := [] } } }
  let s2 := failAll l s1 (liveSlots s1 fun n _ => slotHalf n == h)
  let s3 := (half s2 h).handles.foldl (fun s p => match p.2 with | none => s | some x => dropHandle s h p.1 x) s2
  settleHalf (setStep s3 l .done) h

/-- R424: a HALF entry; one for the second half is detection point 0x0d. -/
def handleHalf (s : State) (e : ErrEntry) : State :=
  if (half s (otherHalf e.half)).stopped then
    blockStop { s with errs := { s.errs with handling := some e.lseq } } (Detect.plain 0x0d e.half e.unit.toNat)
  else stopHalf s e

/-- R417: the next queued entry, in LSEQ order. -/
def nextEntry (s : State) : Option ErrEntry := s.errs.log.find? fun e => e.step == .queued

/-- The entry being handled, closed where nothing is left of its replay (its requests have ended, R419). -/
def closeHandled (s : State) : State :=
  match s.errs.handling with
  | none => s
  | some l => entryReplayed s l

/-- R417: with no entry being handled, the next queued one is. -/
def handleOne (s : State) : State :=
  let s1 := closeHandled s
  if s1.errs.handling.isSome then s1
  else
    match nextEntry s1 with
    | none => s1
    | some e =>
      match e.cls with
      | .request => handleRequest s1 e
      | .tenant => handleTenant s1 e
      | .half => handleHalf s1 e
      | _ => s1

/-- R417: the next entry handled. A plan that waited for it alone ends (R289; log 114). -/
def handleNext (s : State) : State := if s.errs.block ∨ !ctRuns s then s else settleHalf (settleHalf (handleOne s) .A) .B

/-- ERROR_ENTRY_HANDLE (R417). -/
def execErrorEntryHandle (s : State) : Host.Outcome State Fault Refusal := .next (handleNext s)

/-- RECOVERY_STEP_TIMEOUT (R422): a step of the entry being handled has not advanced within 10 ms. -/
def execRecoveryStepTimeout (s : State) : Host.Outcome State Fault Refusal :=
  .next
    (match s.errs.handling with
     | none => s
     | some l => if ctRuns s then blockStop s (Detect.plain 0x15 (((entryOf s l).map (·.half)).getD .A) 0) else s)

end Sys2Proof.Machine
end

