-- ==== Sys2Proof/Machine/Regs.lean ====
section
/-! DEFINITION. What a read of each management register returns (spec/17 R457, R463 and the register tables of R58, R87, R137, R240,
R279, R312, R337, R348, R375, R405, R434, R456). -/

namespace Sys2Proof.Machine

/-- A register block of R457. -/
inductive RegBlock where
  | ident
  | req (h : Half)
  | turns
  | window
  | ports
  | group
  | clocks
  | errs
  | startup
  | tile (t : Nat)
  deriving DecidableEq, Repr

/-- R457: the register block that holds an address, with the offset in it; none for every other address. -/
def regBlock (a : Nat) : Option (RegBlock × Nat) :=
  let page := (a - mgmtBase) / 4096
  let off := a % 4096
  if a < mgmtBase ∨ a % 8 ≠ 0 then none
  else if 0x100000 ≤ page ∧ page < 0x100400 then some (.tile (page - 0x100000), off)
  else if page = 0x00 then some (.ident, off)
  else if page = 0x20 then some (.req .A, off)
  else if page = 0x21 then some (.req .B, off)
  else if page = 0x30 then some (.turns, off)
  else if page = 0x40 then some (.window, off)
  else if page = 0x50 then some (.ports, off)
  else if page = 0x60 then some (.group, off)
  else if page = 0x70 then some (.clocks, off)
  else if page = 0x80 then some (.errs, off)
  else if page = 0x90 then some (.startup, off)
  else none

/-- The index of an 8-byte register at offset `off` in an array of `n` that begins at `base`. -/
def regIdx (off base n : Nat) : Option Nat := if base ≤ off ∧ off < base + 8 * n then some ((off - base) / 8) else none

/-- R57: a fuse field reads zero until the fuses are loaded. -/
def fused (s : State) (n : Nat) : Nat := if s.fuse.valid then n else 0

/-- R58. -/
def readIdent (s : State) (off : Nat) : Nat :=
  let f := s.fuse
  if off = 0x000 then put 0x53a7 16 16 + put 0x4b02 0 16
  else if off = 0x008 then put 2 32 8 + put 2 24 8 + put 2 16 8 + put 2 8 8 + put 4 0 8
  else if off = 0x010 then fused s (put f.maskSet.toNat 4 4 + put f.metal.toNat 0 4)
  else if off = 0x018 then fused s f.serial.toNat
  else if off = 0x020 then
    fused s (put f.bin.toNat 40 2 + put 1 32 1 + put f.enTotal.toNat 20 10 + put f.enB.toNat 9 9 + put f.enA.toNat 0 9)
  else
    match regIdx off 0x100 24 with
    | some g => fused s (f.map.getD g 0).toNat
    | none => 0

/-- The words of a slot record (R242). -/
def recWords (r : SlotRec) : List W64 :=
  let pg (i : Nat) : W64 := mk64 (put (r.pages.getD (2 * i) 0) 40 24 + put (r.pages.getD (2 * i + 1) 0) 16 24)
  [mk64 (put (slotStNum r.st) 60 4 + put r.sub.toNat 57 3 + put r.prio.toNat 54 3 + put r.plag.toNat 50 4 + put (b2n r.omode) 49 1
      + put (b2n r.masks) 48 1 + put r.tenant.toNat 32 16 + put r.sgen.toNat 24 8 + put r.errs.toNat 22 2 + put (b2n r.dlv) 21 1
      + put r.epoch.toNat 0 16),
   mk64 (put r.commit 40 24 + put r.head 16 24 + put r.ring.toNat 0 16),
   mk64 (put r.deadline.toNat 32 32 + put r.oseq.toNat 0 32), pg 0, pg 1, pg 2, pg 3,
   mk64 (put r.ext 40 24 + put r.hix.toNat 24 16), mk64 (put r.toksum.toNat 32 32 + put r.expiry.toNat 0 32), r.ctag]
    ++ tab 8 (fun t => r.scale.getD t 0) ++ List.replicate 14 0

/-- R279. -/
def readReq (s : State) (h : Half) (off : Nat) : Nat :=
  let x := half s h
  let mine (p : Slot → Bool) : Nat := (s.slots.filter fun q => slotHalf q.1 == h && p q.2).length
  if off = 0x000 then x.pageBase.toNat
  else if off = 0x008 then put (freePages s h) 32 24 + x.pageCount.toNat
  else if off = 0x010 then
    put x.handles.length 32 16 + put (mine fun y => y.r.st == .lost) 16 16 + put (mine fun y => slotLive y.r.st) 0 16
  else if off = 0x018 then x.selSlot.toNat
  else
    match regIdx off 0x100 32 with
    | some w => (x.selData.getD w 0).toNat
    | none => 0

/-- R312. -/
def readTurns (s : State) (off : Nat) : Nat :=
  let t := s.turns
  let m := s.modes
  if off = 0x00 then put t.cur.toNat 32 32 + t.plan.toNat
  else if off = 0x08 then put (tAdm t) 32 32 + t.nom.toNat
  else if off = 0x10 then
    put (min 0xffff (max s.halfA.waiting.length s.halfB.waiting.length)) 32 16 + min 0xffffffff (max s.halfA.lag s.halfB.lag)
  else if off = 0x18 then t.margin.toNat
  else if off = 0x20 then put t.merged.toNat 48 16 + put t.skipped.toNat 32 16 + put t.stalls.toNat 16 16 + t.badMark.toNat
  else if off = 0x28 then put t.missed.toNat 32 32 + put t.latePlans.toNat 16 16 + t.excess.toNat
  else if off = 0x30 then put t.excused.toNat 32 32 + t.lateTokens.toNat
  else if off = 0x38 then put m.atTurn.toNat 32 32 + put m.box.toNat 2 2 + m.base.toNat
  else if off = 0x40 then
    put (b2n m.hot) 7 1 + put (b2n (wornOf m)) 6 1 + put (b2n m.recovering) 5 1 + put (b2n (ecoPending m)) 4 1 + put (b2n (boxNowBit s)) 3 1
      + m.baseNow.toNat
  else if off = 0x48 then put (thermalMs m) 32 32 + horizon m
  else if off = 0x50 then put (m.usedUs / 1000000) 32 32 + m.wearBase.toNat
  else if off = 0x80 then put (min 0xffffffff (tileFree s .A)) 32 32 + min 0xffffffff (memFree s .A)
  else if off = 0x88 then put (min 0xffffffff (tileFree s .B)) 32 32 + min 0xffffffff (memFree s .B)
  else 0

/-- R337. -/
def readWindow (s : State) (off : Nat) : Nat :=
  let w := s.win
  if off = 0x00 then w.base.toNat
  else if off = 0x08 then w.size.toNat
  else if off = 0x10 then w.dir.toNat
  else if off = 0x18 then put w.noticeUs.toNat 4 4 + w.nport.toNat
  else if off = 0x20 then put w.hclkB.toNat 8 3 + put w.hclkE.toNat 4 3 + w.hclkS.toNat
  else if off = 0x28 then put w.early.toNat 48 16 + put w.poisoned.toNat 32 16 + put w.lost.toNat 16 16 + w.baddb.toNat
  else
    match regIdx off 0x100 4, regIdx off 0x200 16 with
    | some p, _ =>
      let x := hpOf s p
      put (b2n x.trained) 63 1 + put x.repaired.toNat 56 7 + put x.downs.toNat 48 8 + put x.badpkt.toNat 32 16 + put x.badwr.toNat 16 16
        + x.retries.toNat
    | none, some r => (smGet 0 w.ci r).toNat
    | none, none => 0

/-- STATE of MP_STAT (R348). -/
def portStNum : PortSt → Nat
  | .off => 0
  | .training => 1
  | .up => 2
  | .failed => 3

/-- Bits [31:0] with bit `n` set for every port that satisfies `p`. -/
def portBits (s : State) (p : MemPort → Bool) : Nat := ((List.range 32).map fun n => put (b2n (p (mpOf s n))) n 1).sum

/-- R348. -/
def readPorts (s : State) (off : Nat) : Nat :=
  if off = 0 then put (portBits s fun x => x.st == .up) 32 32 + portBits s (·.pg)
  else
    match regIdx off 0x100 32 with
    | none => 0
    | some n =>
      let x := mpOf s n
      put (portStNum x.st) 62 2 + put x.cause.toNat 56 4 + put x.repaired.toNat 48 8 + put x.retrains.toNat 40 8
        + put x.poisonRd.toNat 16 16 + x.retries.toNat

/-- R375, R371: slots not FREE under the epoch of a live map. -/
def slotsUnder (s : State) (m : Option RouteMap) : Nat :=
  match m with
  | none => 0
  | some x => (s.slots.filter fun p => p.2.r.st != .free && p.2.r.epoch == x.epoch).length

/-- R375: CODE_INFO and CODE_USE of table `t`. WIDTH of the fixed table 0xfff is N8 (R367). -/
def codeWords (s : State) (t : Nat) : List W64 :=
  let code := smGet CodeTable.empty s.group.codes t
  let width := if t = 0xfff then 2 else code.width
  [mk64 (put code.cur 62 2 + put width 60 2 + ((List.range 4).map fun k => put ((code.gens.map (·.st)).getD k 0) (52 + 2 * k) 2).sum),
   mk64 ((List.range 4).map fun k => put (min 0xffff (useCount s t k)) (16 * k) 16).sum]

/-- R375. -/
def readGroup (s : State) (off : Nat) : Nat :=
  let g := s.group
  let epoch (m : Option RouteMap) : Nat := (m.map fun x => x.epoch.toNat).getD 0
  if off = 0x000 then
    match g.plan with
    | none => 0
    | some p => put 1 63 1 + put g.member.toNat 48 9 + put (p.addrs.length - 1) 32 9 + put p.group.toNat 16 16
  else if off = 0x008 then put ((g.plan.map fun p => p.start.toNat).getD 0) 32 32
  else if off = 0x010 then g.timeout.toNat
  else if off = 0x080 then put g.areaLog2.toNat 32 4 + g.areaBase.toNat
  else if off = 0x088 then put g.logSize.toNat 32 16 + g.logBase.toNat
  else if off = 0x090 then put g.replays.toNat 48 16 + put g.poisoned.toNat 32 16 + put g.timeouts.toNat 16 16 + g.stale.toNat
  else if off = 0x098 then put g.baditem.toNat 48 16 + put g.dup.toNat 32 16 + g.waitMax.toNat
  else if off = 0x108 then
    put (epoch g.newMap) 48 16 + put (epoch g.oldMap) 32 16 + put (b2n g.newMap.isSome) 31 1 + put (b2n g.oldMap.isSome) 30 1
      + put g.routeResult.toNat 28 2 + g.mismatch.toNat
  else if off = 0x110 then put (slotsUnder s g.oldMap) 32 32 + slotsUnder s g.newMap
  else if off = 0x190 then g.codeStat.toNat
  else if off = 0x198 then g.codeSel.toNat
  else if off = 0x1a0 then (g.codeData.getD 0 0).toNat
  else if off = 0x1a8 then (g.codeData.getD 1 0).toNat
  else if off = 0x200 then g.meterSel.toNat
  else
    match regIdx off 0x040 8, regIdx off 0x208 4 with
    | some w, _ => g.absent.toNat >>> (64 * w) % 2 ^ 64
    | none, some w => (g.meterData.getD w 0).toNat
    | none, none => 0

/-- R398: the user offset clamped to its bounds. -/
def clampUser (u : Int) (lo hi : Nat) : Int := max (-(lo : Int)) (min (hi : Int) u)

/-- R398: factory + clamp(user), in `len` bits, both signed. -/
def effective (fact user lo hi len : Nat) : Nat := wrap (sext fact len + clampUser (sext user len) lo hi) len

/-- R398: CLAMPED. -/
def clampedBit (user lo hi len : Nat) : Nat := b2n (clampUser (sext user len) lo hi != sext user len)

/-- R397: the effective trim base. -/
def oscBase (s : State) : Nat := effective s.fuse.oscFact.toNat s.cal.osc.toNat s.fuse.oscB.toNat s.fuse.oscB.toNat 16

/-- R397, R399: an effective voltage of tile group `n`; voltages are not signed. -/
def vfEff (s : State) (n fact : Nat) : Nat :=
  wrap ((fact : Int) + clampUser (sext (smGet 0 s.cal.vfNow n).toNat 8) s.fuse.vfDn.toNat s.fuse.vfUp.toNat) 8

/-- R405: a CAL_VF register. -/
def readVf (s : State) (n : Nat) : Nat :=
  let f := (s.fuse.vf.getD n 0).toNat
  let u := (smGet 0 s.cal.vf n).toNat
  fused s (put (clampedBit u s.fuse.vfDn.toNat s.fuse.vfUp.toNat 8) 63 1 + put (vfEff s n (f / 65536 % 256)) 48 8
    + put (vfEff s n (f / 256 % 256)) 40 8 + put (vfEff s n (f % 256)) 32 8 + put f 0 24) + put u 24 8

/-- R397, R398: the effective thermal offset of sensor `n`, signed. -/
def thermOffset (s : State) (n : Nat) : Int :=
  let b := s.fuse.thB.toNat
  sext (effective (s.fuse.therm.getD n 0).toNat (smGet 0 s.cal.therm n).toNat b b 8) 8

/-- R398: the effective temperature of sensor `n` where it senses `t`: its offset acts at once. -/
def effTemp (s : State) (n : Nat) (t : BitVec 16) : BitVec 16 := BitVec.ofNat 16 (wrap (sext t.toNat 16 + thermOffset s n) 16)

/-- R405: a CAL_THERM register. -/
def readTherm (s : State) (n : Nat) : Nat :=
  let f := (s.fuse.therm.getD n 0).toNat
  let u := (smGet 0 s.cal.therm n).toNat
  let b := s.fuse.thB.toNat
  put (effTemp s n (smGet 0 s.power.temps n)).toNat 48 16 + put u 8 8 + fused s (put (clampedBit u b b 8) 31 1 + put (effective f u b b 8) 16 8 + f)

/-- R405: a CAL_DESKEW register. -/
def readDeskew (s : State) (n : Nat) : Nat :=
  let u := (smGet 0 s.cal.deskew n).toNat
  put u 32 8 + fused s (put (clampedBit u s.fuse.dkB.toNat s.fuse.dkB.toNat 8) 63 1 + (s.fuse.deskew.getD n 0).toNat)

/-- R401: PIN_STAT.HALTED. -/
def allIdle (s : State) : Bool := halted s && s.tiles.all fun p => !p.2.kernel

/-- R405: a TB_STAT register. -/
def readTb (s : State) (i : TbIn) : Nat :=
  let x := tbOf s i
  put (b2n (s.clocks.inUse == i)) 63 1 + put (b2n x.elig) 62 1 + put (b2n (x.blockLock && x.frameLock)) 61 1 + put (b2n x.blockLock) 60 1
    + put (b2n x.frameLock) 59 1 + put x.goodwin 54 5 + put s.power.skew.toNat 32 16 + put x.badsof.toNat 16 16 + x.losses.toNat

/-- R405. -/
def readClocks (s : State) (off : Nat) : Nat :=
  let c := s.clocks
  let p := s.power
  let n := s.pins
  let f := s.fuse
  if off = 0x00 then
    put c.src.toNat 62 2 + put (b2n c.losc) 61 1 + put (b2n c.loscWatch) 60 1 + put (b2n c.relock.isSome) 59 1
      + put (b2n (c.src == 1 && anyRclk s)) 58 1 + put c.fallbacks.toNat 32 16 + put c.holds.toNat 16 16 + c.relocks.toNat
  else if off = 0x08 then b2n c.manual
  else if off = 0x10 then
    put c.auto.toNat 32 11 + put (b2n (!anyRclk s)) 31 1 + fused s (wrap (sext (oscBase s) 16 + sext c.auto.toNat 11) 16)
  else if off = 0x18 then put (b2n c.revert) 1 1 + b2n c.pref
  else if off = 0x20 then readTb s .tb0
  else if off = 0x28 then readTb s .tb1
  else if off = 0x30 then
    put (b2n n.resetN) 63 1 + put (b2n n.pwrOk) 62 1 + put (b2n n.haltReq) 61 1 + put (b2n n.stuck) 60 1 + put (b2n (allIdle s)) 59 1
      + put n.glitchRst.toNat 32 16 + put n.glitchPwr.toNat 16 16 + n.glitchHalt.toNat
  else if off = 0x40 then put p.vin.toNat 48 16 + put p.iin.toNat 32 16 + put p.pin.toNat 16 16 + p.peak.toNat
  else if off = 0x48 then p.on.toNat
  else if off = 0x50 then p.clk.toNat
  else if off = 0x58 then p.fault.toNat
  else if off = 0x68 then put p.gateResult.toNat 62 2 + put p.gateDomain.toNat 48 6 + put p.gateOp.toNat 40 2 + p.gateCycles.toNat
  else if off = 0x100 then
    fused s (put f.oscB.toNat 48 16 + put f.vfUp.toNat 40 8 + put f.vfDn.toNat 32 8 + put f.thB.toNat 24 8 + put f.dkB.toNat 16 8)
  else if off = 0x108 then
    put s.cal.osc.toNat 16 16
      + fused s (put (clampedBit s.cal.osc.toNat f.oscB.toNat f.oscB.toNat 16) 63 1 + put f.oscFact.toNat 32 16 + oscBase s)
  else
    match regIdx off 0x200 24, regIdx off 0x300 24, regIdx off 0x400 36 with
    | some k, _, _ => readVf s k
    | none, some k, _ => readTherm s k
    | none, none, some k => readDeskew s k
    | none, none, none => 0

/-- R434. -/
def readErrs (s : State) (off : Nat) : Nat :=
  let e := s.errs
  if off = 0x00 then
    put e.request.toNat 48 16 + put e.failed.toNat 32 16 + put e.tenant.toNat 24 8 + put e.half.toNat 20 4 + put (b2n s.halfB.stopped) 19 1
      + put (b2n s.halfA.stopped) 18 1 + put (b2n e.block) 17 1 + e.corrected.toNat
  else if off = 0x08 then e.nmi.toNat
  else if off = 0x10 then put e.ceStage.toNat 32 32 + e.ceCtrl.toNat
  else if off = 0x18 then put e.next.toNat 32 32 + put e.overwritten.toNat 16 16 + (openEntries e).length
  else if off = 0x20 then e.sel.toNat
  else
    match regIdx off 0x100 8 with
    | some w => (e.data.getD w 0).toNat
    | none => 0

/-- PHASE (R435). -/
def phaseNum : Phase → Nat
  | .reset => 0
  | .power => 1
  | .fuse => 2
  | .clock => 3
  | .domains => 4
  | .links => 5
  | .selftest => 6
  | .fwWait => 7
  | .fwAuth => 8
  | .sealWait => 9
  | .sealCheck => 10
  | .ready => 11
  | .shut => 12
  | .stopped => 15

/-- R435: ELAPSED, in milliseconds from the filtered rise of PWR_OK. -/
def elapsedMs (s : State) : Nat := if s.su.counting then (s.now - s.su.since) / 1000 % 2 ^ 32 else s.su.elapsed.toNat

/-- R456. -/
def readStartup (s : State) (off : Nat) : Nat :=
  let u := s.su
  if off = 0x00 then put (phaseNum u.phase) 60 4 + put u.code.toNat 52 8 + put (b2n u.sealed) 51 1 + elapsedMs s
  else if off = 0x18 then put u.fwResult.toNat 62 2 + put u.fwCause.toNat 59 3 + put u.fwVer.toNat 32 16 + u.fwTries.toNat
  else if off = 0x20 then put (b2n u.seated) 16 1 + u.addr.toNat
  else if off = 0x28 then put u.badcrc.toNat 48 16 + put u.dropped.toNat 32 16 + put u.refused.toNat 16 16 + u.nmiSent.toNat
  else if off = 0x30 then u.bist.toNat
  else if off = 0x40 then put u.stwLen.toNat 40 24 + u.stwOff.toNat
  else if off = 0x50 then put u.stwResult.toNat 60 4 + put u.stwOp.toNat 56 4 + put u.stwTenant.toNat 32 16 + u.stwDetail.toNat
  else 0

/-- R87, R137, R240. -/
def readTile (tl : Tile) (off : Nat) : Nat :=
  let cnt (b : Nat) : Nat := ((List.range 8).map fun k => put (credit tl (b + k)).toNat (8 * k) 8).sum
  if off = 0x000 then put (b2n tl.kernel) 32 1 + (engines.map fun e => put (engStatus tl e) (4 * engNum e) 4).sum
  else if off = 0x008 then cnt 0
  else if off = 0x010 then cnt 8
  else if off = 0x018 then tl.ovf.toNat
  else if off = 0x020 then tl.fault.toNat
  else if off = 0x030 then put tl.ue.toNat 48 16 + tl.ce.toNat
  else if off = 0x038 then put tl.kernelId.toNat 48 16 + tl.desc.toNat
  else if off = 0x080 then put tl.auSymbols.toNat 32 32 + put tl.auDropped.toNat 16 16 + tl.auEditOvf.toNat
  else
    match regIdx off 0x040 8, regIdx off 0x100 18 with
    | some k, _ => put (tl.args.getD (2 * k + 1) 0).toNat 32 32 + (tl.args.getD (2 * k) 0).toNat
    | none, some q => (qStatus q (tileQ tl q)).toNat
    | none, none => 0

/-- What a read of a register returns. -/
def regWord (s : State) (b : RegBlock) (off : Nat) : W64 :=
  mk64
    (match b with
     | .ident => readIdent s off
     | .req h => readReq s h off
     | .turns => readTurns s off
     | .window => readWindow s off
     | .ports => readPorts s off
     | .group => readGroup s off
     | .clocks => readClocks s off
     | .errs => readErrs s off
     | .startup => readStartup s off
     | .tile t => readTile (tileOf s t) off)

/-- How the block answers a management access (R460): served, with access-error status, not ready, or held until the restart. -/
inductive Avail where
  | served
  | access
  | notReady
  | held
  deriving DecidableEq, Repr

/-- The domain of a register block that R460 names: the TG domain of a tile, half B's CT domain. -/
def regDomain : RegBlock → Option Nat
  | .tile t => some (tileDomain t)
  | .req .B => some 34
  | _ => none

/-- R395: new transactions to domain `d` wait at its crossings: its clock is closed, or a gate handshake has stopped its interfaces. -/
def domainShut (s : State) (d : Nat) : Bool :=
  s.power.on.getLsbD d && (!s.power.clk.getLsbD d || (s.power.gateDomain.toNat == d && (match s.power.gateWait with | .close _ => true | _ => false)))

/-- R87, R457, R460: the answer to an access of an address. An access to a domain whose crossings are shut waits (R395). Before half A's CT rails
are good, in RESET and once the chiplets have stopped, no register answers (R390, R445, R447); the CT clocks first run once their first lock in
DOMAINS has ended (R437). After a BLOCK stop reads are served though the fault was that of half A's CT domain (R427). -/
def avail (s : State) (a : Nat) : Avail :=
  match regBlock a with
  | none => .access
  | some (b, _) =>
    let dead := match b with
      | .tile t => !tileEnabled s t
      | _ => false
    let early := b == .ident || b == .startup
    if s.su.off ∨ (early ∧ (s.su.phase = .power ∨ s.su.phase = .reset)) then .notReady
    else if dead then .access
    else if early then .served
    else if s.clocks.src = 2 ∨ s.clocks.src = 3 ∨ (!s.power.clk.getLsbD 16 ∧ !s.errs.block)
        ∨ !(ctPhase s.su.phase || s.su.phase == .shut || s.su.phase == .stopped) ∨ (s.su.phase = .domains ∧ s.clocks.relock.isSome) then .notReady
    else if (regDomain b).any fun d => !s.power.on.getLsbD d then .access
    else if s.clocks.relock.isSome then .held
    else if (regDomain b).any (domainShut s) then .held
    else .served

/-- The register block and offset of an address that is served. -/
def served (s : State) (a : Nat) : Option (RegBlock × Nat) := if avail s a = .served then regBlock a else none

end Sys2Proof.Machine
end

