-- ==== Sys2Proof/Machine/Gates.lean ====
section
/-! DEFINITION. Power domains and their gate commands (spec/14 R392 to R398). -/

namespace Sys2Proof.Machine

/-- The memory with the bytes [a, a + n) and their poison at their reset contents (R439). -/
def clearRange (m : Mem) (a n : Nat) : Mem :=
  { m with
    cells := m.cells.filter fun c => c.1 < a || a + n ≤ c.1
    poison := m.poison.filter fun c => c.1 < a || a + n ≤ c.1
    single := m.single.filter fun c => c.1 < a || a + n ≤ c.1 }

/-- A tile whose domain loses its power: its registers and its scratch hold their reset contents. -/
def loseTile (s : State) (t : Nat) : State := { setTile s t Tile.idle with mem := clearRange s.mem (scratchBase t) windowSize }

/-- The MPG domain of a memory port (R392). -/
def mpDomain (p : Nat) : Nat := 18 * (p / 16) + 12 + p % 16 / 4

/-- The HPD domain of a host port (R392). -/
def hpDomain (p : Nat) : Nat := 18 * (p / 2) + 17

/-- A timebase input that holds no lock (R384: after reset no clock is eligible). -/
def Tb.unlocked : Tb :=
  { blockLock := false, frameLock := false, elig := false, goodwin := 0, watchRun := 0, badsof := 0, losses := 0, hist := [] }

/-- A memory port whose domain loses its power: a FAILED port stays FAILED (R346). Its stack answers as that of a FAILED port until it trains
(log 118). -/
def losePort (s : State) (p : Nat) : State :=
  let x := mpOf s p
  let s1 := { s with mem := { s.mem with failed := s.mem.failed ||| BitVec.ofNat 32 (2 ^ p) } }
  if x.st = .failed then s1 else { s1 with ports := smSet MemPort.off s1.ports p { x with st := .off, retrain := false } }

/-- The request table, handle table, plan sequencer, staging store and timebase unit of a half at their reset contents (R392, R439). -/
def loseHalf (s : State) (h : Half) : State :=
  let s1 := setTb (setHalf s h (HalfState.reset h)) (match h with | .A => .tb0 | .B => .tb1) Tb.unlocked
  noteQuiet { s1 with
    slots := s1.slots.filter fun p => slotHalf p.1 != h
    images := s1.images.filter fun p => p.2.all fun i => decide (i.base < stageBase h ∨ stageBase h + stageSize ≤ i.base)
    mem := clearRange s1.mem (stageBase h) stageSize }

/-- R396: the state of a domain that is switched off is lost. -/
def loseDomain (s : State) (d : Nat) : State :=
  let h := halfOf (d / 18)
  let k := d % 18
  if k < 12 then (List.range 24).foldl (fun s i => loseTile s (512 * halfNum h + 32 * k + i)) s
  else if k < 16 then (List.range 4).foldl (fun s i => losePort s (16 * halfNum h + 4 * (k - 12) + i)) s
  else if k = 16 then loseHalf s h
  else (List.range 2).foldl (fun s i => hostDown s (2 * halfNum h + i)) s

/-- One bit of a domain vector. -/
def domBit (d : Nat) : BitVec 36 := BitVec.ofNat 36 (2 ^ d)

/-- A domain switched off: not powered, not clocked, its state lost (R393, R396). Half A's CT domain holds the sequencers and the
M-chain interface: with it the block stands still. -/
def domainOff (s : State) (d : Nat) : State :=
  let s1 := loseDomain s d
  let s2 := { s1 with
    power := { s1.power with on := s1.power.on &&& ~~~(domBit d), clk := s1.power.clk &&& ~~~(domBit d) }
    su := { s1.su with off := s1.su.off || d == 16 } }
  if d = 34 then clockCheck s2 1 else s2

/-- R345: a port whose domain is on and whose STK_PG is high trains. -/
def startTraining (s : State) (p : Nat) : State :=
  let x := mpOf s p
  if x.st = .off ∧ x.pg ∧ s.power.on.getLsbD (18 * (p / 16) + 12 + p % 16 / 4) then
    { s with ports := smSet MemPort.off s.ports p { x with st := .training } }
  else s

/-- R398: the V-F offset of a tile group that is powered on, and the deskew of a port that trains, take effect. -/
def latchGroup (s : State) (d : Nat) : State :=
  if d % 18 < 12 then
    let n := 12 * (d / 18) + d % 18
    { s with cal := { s.cal with vfNow := smSet 0 s.cal.vfNow n (smGet 0 s.cal.vf n) } }
  else s

/-- R398: the deskew offset of port `n` takes effect at its training. -/
def latchDeskew (s : State) (n : Nat) : State :=
  { s with cal := { s.cal with deskewNow := smSet 0 s.cal.deskewNow n (smGet 0 s.cal.deskew n) } }

/-- R396: a domain that is powered on holds the reset state; its clock stays closed; memory ports of an MPG domain train. -/
def domainOn (s : State) (d : Nat) : State :=
  let s1 := latchGroup { s with power := { s.power with on := s.power.on ||| domBit d, clk := s.power.clk &&& ~~~(domBit d) } } d
  if 12 ≤ d % 18 ∧ d % 18 < 16 then
    (List.range 4).foldl (fun s i => startTraining s (16 * (d / 18) + 4 * (d % 18 - 12) + i)) s1
  else s1

/-- The result of the gate command (PWR_GATE_STAT): 0 OK, 1 TIMEOUT, 2 REFUSED, 3 PENDING. -/
def gateEnd (s : State) (res : Nat) (w : GateWait) : State :=
  { s with power := { s.power with gateResult := BitVec.ofNat 2 res, gateWait := w } }

/-- R394 to R396: a gate command runs: 0 CLOSE_CLOCK, 1 OPEN_CLOCK, 2 POWER_OFF, 3 POWER_ON. The clock of a domain without power stays closed. -/
def runGate (s : State) (op d : Nat) : State :=
  let on := s.power.on.getLsbD d
  let clk := s.power.clk.getLsbD d
  if op = 0 then (if on && clk then gateEnd s 3 (.close false) else gateEnd { s with power := { s.power with clk := s.power.clk &&& ~~~(domBit d) } } 0 .idle)
  else if op = 1 then gateEnd (if on then { s with power := { s.power with clk := s.power.clk ||| domBit d } } else s) 0 .idle
  else if op = 2 then (if on && clk then gateEnd s 3 (.close true) else gateEnd (domainOff s d) 0 .idle)
  else if on then gateEnd s 0 .idle
  else gateEnd s 3 .rail

/-- R394: a write of PWR_GATE. -/
def gateCmd (s : State) (op d : Nat) : State :=
  if s.errs.block ∨ s.su.off ∨ s.power.gateWait ≠ .idle then s
  else
    let s1 := { s with power := { s.power with gateDomain := BitVec.ofNat 6 d, gateOp := BitVec.ofNat 2 op } }
    if s.su.phase = .ready ∨ 35 < d then gateEnd s1 2 .idle
    else if s.clocks.relock.isSome ∨ !ctRuns s then gateEnd s1 3 .clocks
    else runGate s1 op d

/-- The gate command that waited for the clocks runs once they do (R394). -/
def resumeGate (s : State) : State :=
  if s.power.gateWait = .clocks ∧ ctRuns s ∧ s.clocks.relock.isNone then runGate s s.power.gateOp.toNat s.power.gateDomain.toNat else s

/-- R395: the domain's bus interfaces report idle after `cycles` of its clock: the gate closes; a POWER_OFF goes on. -/
def handshakeDone (s : State) (cycles : Nat) : State :=
  let d := s.power.gateDomain.toNat
  match s.power.gateWait with
  | .close thenOff =>
    if domainRuns s d ∧ cycles ≤ 4096 then
      let s1 := { s with power := { s.power with gateCycles := BitVec.ofNat 13 cycles, clk := s.power.clk &&& ~~~(domBit d) } }
      gateEnd (if thenOff then domainOff s1 d else s1) 0 .idle
    else s
  | _ => s

/-- R395: cycle 4,096 without every interface idle: the clock runs on, and the result is TIMEOUT. -/
def handshakeTimeout (s : State) : State :=
  match s.power.gateWait with
  | .close _ =>
    if domainRuns s s.power.gateDomain.toNat then
      gateEnd { s with power := { s.power with gateCycles := 4096 } } 1 .idle
    else s
  | _ => s

/-- R396: the rail of a domain being powered on is good, or is not within 200 us. -/
def railDone (s : State) (good : Bool) : State :=
  match s.power.gateWait with
  | .rail =>
    if !ctRuns s then s
    else if good then gateEnd (domainOn s s.power.gateDomain.toNat) 0 .idle
    else gateEnd s 1 .idle
  | _ => s

/-- GATE_HANDSHAKE_DONE (R395). -/
def execGateHandshakeDone (cycles : BitVec 13) (s : State) : Host.Outcome State Fault Refusal := .next (handshakeDone s cycles.toNat)

/-- GATE_TIMEOUT (R395). -/
def execGateTimeout (s : State) : Host.Outcome State Fault Refusal := .next (handshakeTimeout s)

/-- RAIL_GOOD (R396). -/
def execRailGood (s : State) : Host.Outcome State Fault Refusal := .next (railDone s true)

/-- RAIL_TIMEOUT (R396). -/
def execRailTimeout (s : State) : Host.Outcome State Fault Refusal := .next (railDone s false)

end Sys2Proof.Machine
end

