-- ==== Sys2Proof/Machine/Seal.lean ====
section
/-! DEFINITION. The seal and its checks (spec/16 R442, R443, spec/11 R321, spec/02 R59), and what a write of SU_CTL, FW_LOAD and STW_CMD
begins (spec/16 R441, R446, R451). -/

namespace Sys2Proof.Machine

/-- `n` is a power of two from `lo` to `hi`. -/
def powerIn (n lo hi : Nat) : Bool := decide (lo ≤ n ∧ n ≤ hi) && Nat.land n (n - 1) == 0

/-- A region of the window: its offset, its length and the alignment of its base. -/
structure Span where
  off : Nat
  len : Nat
  align : Nat
  deriving DecidableEq, Repr

/-- The 48 words of the window directory (R321). -/
def readDir (s : State) : List W64 := memWords s.mem (winAddr s s.win.dir.toNat) 48

/-- R321: the regions that a directory names. The slots of bulletin and event rings are 64-byte units (R322). -/
def dirSpans (w : List W64) : List Span :=
  let d (i : Nat) : W64 := w.getD i 0
  let lo (i : Nat) : Nat := fld (d i) 0 36
  let hi (i : Nat) : Nat := fld (d i) 48 16
  [{ off := lo 0, len := 16 * fld (d 1) 0 16, align := 16 }, { off := lo 2, len := 16 * 65536, align := 16 },
   { off := lo 3, len := 64 * hi 3, align := 64 }, { off := lo 4, len := 65536 * hi 4, align := 65536 },
   { off := lo 5, len := hi 5 * fld (d 6) 0 16 * 65536, align := 65536 },
   { off := lo 7, len := hi 7 * (64 + 128 * fld (d 7) 40 8), align := 64 }, { off := lo 8, len := hi 8 * (64 + 128 * fld (d 8) 40 8), align := 64 },
   { off := lo 9, len := 64 * hi 9, align := 64 }, { off := lo 10, len := 64 * hi 10, align := 64 }]
    ++ tab 16 fun r => { off := lo (16 + 2 * r), len := 64 * fld (d (17 + 2 * r)) 0 17, align := 64 }

/-- R321: the counts of a directory lie in their ranges. -/
def dirCounts (w : List W64) : Bool :=
  let d (i : Nat) : W64 := w.getD i 0
  let units := fld (d 6) 0 16
  (fld (d 5) 48 16 == 0 || decide (1 ≤ units ∧ units ≤ 16384))
    && [7, 8].all (fun i => powerIn (fld (d i) 48 16) 2 32768 && decide (1 ≤ fld (d i) 40 8))
    && [9, 10].all (fun i => powerIn (fld (d i) 48 16) 2 32768)
    && (List.range 16).all fun r => fld (d (17 + 2 * r)) 0 17 == 0 || powerIn (fld (d (17 + 2 * r)) 0 17) 8 65536

/-- Two regions share a byte. -/
def meets (a alen b blen : Nat) : Bool := decide (0 < alen ∧ 0 < blen ∧ a < b + blen ∧ b < a + alen)

/-- No two regions of a list overlap. -/
def apart : List Span → Bool
  | [] => true
  | x :: l => l.all (fun y => !meets x.off x.len y.off y.len) && apart l

/-- R320, R321: the window lies inside the stacks, and its directory passes. -/
def windowOk (s : State) : Bool :=
  let w := readDir s
  let l := dirSpans w
  decide (1 ≤ s.win.size.toNat ∧ s.win.size.toNat ≤ 1048576 ∧ winAddr s (winBytes s) ≤ stackEnd) && s.win.dir.toNat % 4096 == 0
    && decide (s.win.dir.toNat + 384 ≤ winBytes s) && dirCounts w
    && l.all (fun x => x.off % x.align == 0 && decide (x.len = 0 ∨ x.off + x.len ≤ winBytes s)) && apart l

/-- R279: the page regions lie inside the stacks, apart from the window and from each other. -/
def pagesOk (s : State) : Bool :=
  let base (h : Half) : Nat := pageAddr s h 0
  let len (h : Half) : Nat := (half s h).pageCount.toNat * 65536
  [Half.A, Half.B].all (fun h => len h == 0 || (decide (base h + len h ≤ stackEnd) && !meets (base h) (len h) (winAddr s 0) (winBytes s)))
    && !meets (base .A) (len .A) (base .B) (len .B)

/-- R353, R443: the exchange area lies inside the window, apart from every directory region; the receive logs inside the staging stores. -/
def exchangeOk (s : State) : Bool :=
  let k := s.group.areaLog2.toNat
  let off := s.group.areaBase.toNat * 65536
  let len := 4 * 4096 * 2 ^ k
  decide (4 ≤ k ∧ k ≤ 14) && decide (off + len ≤ winBytes s) && (dirSpans (readDir s)).all (fun x => !meets off len x.off x.len)
    && decide ((s.group.logBase.toNat + s.group.logSize.toNat) * 65536 ≤ stageSize)

/-- The bits set among the low 24 of a word. -/
def ones24 (m : BitVec 24) : Nat := ((List.range 24).filter fun i => m.getLsbD i).length

/-- R53: the bin of a number of enabled tiles. -/
def binOf (n : Nat) : Option Nat := if n = 576 then some 0 else if 552 ≤ n ∧ n < 576 then some 1 else if 528 ≤ n ∧ n < 552 then some 2 else none

/-- R59: the tile maps agree with ID_TILES. -/
def fuseOk (f : Fuse) : Bool :=
  let a := ((f.map.take 12).map ones24).sum
  let b := (((f.map.drop 12).take 12).map ones24).sum
  f.enA.toNat == a && f.enB.toNat == b && f.enTotal.toNat == a + b && binOf (a + b) == some f.bin.toNat

/-- R443: the CODE of the first check that fails. -/
def sealFail (s : State) : Option Nat :=
  firstFail
    [(!s.su.seated, 0x10), (!windowOk s, 0x11), (!pagesOk s, 0x12), (!exchangeOk s, 0x13),
     (memAnyPz s.mem (winAddr s s.win.dir.toNat) 384, 0x14), (!fuseOk s.fuse, 0x15)]

/-- R348, R443: the directory lines that the checks of a seated block read with poison, counted at their ports. -/
def countDir (s : State) : State := if s.su.seated then countPoison s (winAddr s s.win.dir.toNat) 384 else s

/-- SU_CTL.SEAL (R442, R443): in SEAL_WAIT the checks are made; at the first failure its CODE is kept and LK fields stay writable; when all
pass, the seal takes effect, the directory is copied, and the block is READY. -/
def sealBlock (s : State) : State :=
  if s.su.phase ≠ .sealWait then s
  else
    let s0 := countDir s
    match sealFail s with
    | some c => { s0 with su := { s.su with code := BitVec.ofNat 8 c } }
    | none =>
      let s1 := stopElapsed s0
      { s1 with su := { s1.su with phase := .ready, sealed := true }, win := { s1.win with copy := readDir s } }

/-- SU_CTL.SHUTDOWN (R446 step 1). With no kernel in flight nothing further is written from now on. -/
def beginShutdown (s : State) : State :=
  if s.su.phase = .ready ∧ !s.errs.block then noteQuiet { s with su := { s.su with closing := true } } else s

/-- R341: the `n` bytes at address `a` as a loader reads them: past the stacks, where nothing is mapped, zero with poison (log 141). -/
def mappedRead (s : State) (a n : Nat) : List PByte :=
  (memRead s.mem a n).zipIdx.map fun p => if a + p.2 < stackEnd then p.1 else (0, true)

/-- FW_LOAD (R441): in FW_WAIT the hardware loader copies the image into steward memory. -/
def fwLoadWrite (s : State) (d : W64) : State :=
  if s.su.phase ≠ .fwWait then s
  else
    { countPoison s (winAddr s (fld d 0 36)) (64 * fld d 40 24) with
      su := { s.su with
        phase := .fwAuth, fwResult := 3, fwLen := BitVec.ofNat 24 (fld d 40 24)
        stewMem := mappedRead s (winAddr s (fld d 0 36)) (64 * fld d 40 24) } }

/-- The images of a tenant, with their numbers. -/
def imagesOf (s : State) (t : BitVec 16) : List (Nat × Image) := (images s).filter fun p => p.2.tenant == t

/-- R454: UNLOAD_PROGRAM stops new ADMITs of the tenant at once; images that nothing uses are freed. -/
def unloadTenant (s : State) (t : BitVec 16) : State := freeImages (closeImages s t)

/-- STW_CMD (R451, R455): the write starts a command; one at a time, and NOT_READY outside READY. -/
def stwCommand (s : State) (op : Nat) (t : BitVec 16) : State :=
  if s.su.stw ≠ .idle then s
  else
    let s1 := { s with su := { s.su with stwOp := BitVec.ofNat 4 op, stwTenant := t, stwDetail := 0 } }
    if s.su.phase ≠ .ready ∨ s.errs.block then { s1 with su := { s1.su with stwResult := 8 } }
    else
      let s2 := { s1 with su := { s1.su with stwResult := 1 } }
      if op = 2 then
        let found := (imagesOf s t).any fun p => p.2.admits || !p.2.retiring
        let s3 := unloadTenant s2 t
        { s3 with su := { s3.su with stw := .result (if found then 0 else 9) 0 none } }
      else if op = 1 ∨ op = 3 then { s2 with su := { s2.su with stw := .load op t } }
      else { s2 with su := { s2.su with stw := .result 3 0 none } }

end Sys2Proof.Machine
end

