-- ==== Sys2Proof/Machine/RegWrite.lean ====
section
/-! DEFINITION. What a write of each management register does (spec/01 R17, R18, R20, the register tables, spec/13 R366, R369, R373,
spec/17 R460, R462). -/

namespace Sys2Proof.Machine

/-- `len` bits of a written word from bit `lo` on. -/
def wf (d : W64) (lo len : Nat) : BitVec len := BitVec.ofNat len (fld d lo len)

/-- R462, R279: REQ_SLOT_SEL copies a slot's whole record; bit 15 must equal the half. -/
def selectSlot (s : State) (h : Half) (d : W64) : State :=
  let n := fld d 0 16
  if slotHalf n ≠ h then s
  else modHalf s h fun x => { x with selSlot := wf d 0 16, selData := recWords (slotOf s n).r }

/-- R279: a request-table register of a half. -/
def writeReq (s : State) (h : Half) (off : Nat) (d : W64) : State :=
  if off = 0x000 then (if s.su.sealed then s else modHalf s h fun x => { x with pageBase := wf d 0 32 })
  else if off = 0x008 then (if s.su.sealed then s else modHalf s h fun x => { x with pageCount := wf d 0 24 })
  else if off = 0x018 then selectSlot s h d
  else s

/-- R312: MODE_CTL; a BOX of 3, or a BASE of 2 or 3, leaves it unchanged. -/
def writeMode (s : State) (d : W64) : State :=
  if fld d 2 2 = 3 ∨ 2 ≤ fld d 0 2 then s
  else { s with modes := { s.modes with atTurn := wf d 32 32, box := wf d 2 2, base := wf d 0 2 } }

/-- R312. -/
def writeTurns (s : State) (off : Nat) (d : W64) : State :=
  let t := s.turns
  if off = 0x08 then { s with turns := { t with nom := wf d 0 32 } }
  else if off = 0x18 then (if 8 ≤ fld d 0 8 ∧ fld d 0 8 ≤ 128 then { s with turns := { t with margin := wf d 0 8 } } else s)
  else if off = 0x20 then
    { s with turns := { t with merged := wf d 48 16, skipped := wf d 32 16, stalls := wf d 16 16, badMark := wf d 0 16 } }
  else if off = 0x28 then { s with turns := { t with missed := wf d 32 32, latePlans := wf d 16 16, excess := wf d 0 16 } }
  else if off = 0x30 then { s with turns := { t with excused := wf d 32 32, lateTokens := wf d 0 32 } }
  else if off = 0x38 then writeMode s d
  else if off = 0x50 then (if s.su.sealed then s else { s with modes := { s.modes with wearBase := wf d 0 32 } })
  else s

/-- R337: HP_CLK; a field of 5 to 7 leaves it unchanged. -/
def writeHpClk (s : State) (d : W64) : State :=
  if s.su.sealed ∨ 4 < fld d 0 3 ∨ 4 < fld d 4 3 ∨ 4 < fld d 8 3 then s
  else { s with win := { s.win with hclkS := wf d 0 3, hclkE := wf d 4 3, hclkB := wf d 8 3 } }

/-- R337. -/
def writeWindow (s : State) (off : Nat) (d : W64) : State :=
  let w := s.win
  let open_ := !s.su.sealed
  if off = 0x00 then (if open_ then { s with win := { w with base := wf d 0 25 } } else s)
  else if off = 0x08 then (if open_ then { s with win := { w with size := wf d 0 21 } } else s)
  else if off = 0x10 then (if open_ then { s with win := { w with dir := wf d 0 36 } } else s)
  else if off = 0x18 then { s with win := { w with noticeUs := wf d 4 4, nport := wf d 0 2 } }
  else if off = 0x20 then writeHpClk s d
  else if off = 0x28 then { s with win := { w with early := wf d 48 16, poisoned := wf d 32 16, lost := wf d 16 16, baddb := wf d 0 16 } }
  else
    match regIdx off 0x100 4 with
    | none => s
    | some p => setHp s p { hpOf s p with downs := wf d 48 8, badpkt := wf d 32 16, badwr := wf d 16 16, retries := wf d 0 16 }

/-- R348. -/
def writePorts (s : State) (off : Nat) (d : W64) : State :=
  match regIdx off 0x100 32 with
  | none => s
  | some n =>
    { s with
      ports := smSet MemPort.off s.ports n { mpOf s n with retrains := wf d 40 8, poisonRd := wf d 16 16, retries := wf d 0 16 } }

/-- R369: ROUTE_LOAD starts a load, while none is being checked. -/
def routeLoadWrite (s : State) (d : W64) : State :=
  if s.errs.block ∨ s.group.routeLoad.isSome then s
  else { s with group := { s.group with routeLoad := some (wf d 48 16, wf d 0 36), routeResult := 3 } }

/-- R368, R369: a route map image: 64-byte aligned in the window, its header and its CRC, its entries without reserved bits or KIND 3;
its epoch and its entries. -/
def routeImage (s : State) (epoch off : Nat) : Option RouteMap :=
  let h0 := winWord s off
  let n := fld h0 32 16 + 1
  let ents := memWords s.mem (winAddr s (off + 64)) n
  let bytes := memBytes s.mem (winAddr s (off + 64)) (8 * n)
  if off % 64 = 0 ∧ off + 64 + 8 * n ≤ winBytes s ∧ fld h0 48 16 = epoch ∧ fld h0 0 32 = 0 ∧ fld (winWord s (off + 8)) 32 32 = 0
      ∧ (crc32c bytes).toNat = fld (winWord s (off + 8)) 0 32 ∧ memAnyPz s.mem (winAddr s off) (64 + 8 * n) = false
      ∧ (tab 6 fun i => winWord s (off + 16 + 8 * i)).all (· == 0) ∧ ents.all fun e => fld e 62 2 != 3 && fld e 48 14 == 0 && fld e 0 20 == 0 then
    some { epoch := BitVec.ofNat 16 epoch, ents := ents }
  else none

/-- R348: the lines of a route map image that the check reads with poison, counted at their ports. -/
def countRoute (s : State) (off : Nat) : State :=
  let len := 64 + 8 * (fld (winWord s off) 32 16 + 1)
  if off + len ≤ winBytes s then countPoison s (winAddr s off) len else s

/-- R7: a version that the block accepts: MAJOR 2, MINOR at most 4. -/
def versionOk (major minor : Nat) : Bool := major == 2 && decide (minor ≤ 4)

/-- R7, R368: the block accepts the version that the route map image at `off` was built for, a free value of its words (log 126). -/
def routeVersionOk (s : State) (off : Nat) : Bool :=
  let v := Config.routeVersion (memWords s.mem (winAddr s off) (9 + fld (winWord s off) 32 16))
  versionOk v.1 v.2

/-- R369, R7: the outcome of a route map load; an image of a version that the block does not accept is BAD. -/
def routeLoaded (s : State) : State :=
  match s.group.routeLoad with
  | none => s
  | some (e, off) =>
    let bad (s : State) (r : Nat) : State := { s with group := { s.group with routeLoad := none, routeResult := BitVec.ofNat 2 r } }
    if !ctRuns s ∨ s.errs.block then s
    else if s.group.oldMap.isSome then bad s 1
    else
      match routeImage s e.toNat off.toNat with
      | none => bad (countRoute s off.toNat) 2
      | some m =>
        let ok := routeVersionOk s off.toNat && match s.group.newMap with
          | none => true
          | some n => e == n.epoch + 1
        if ok then
          let g := { s.group with routeLoad := none, routeResult := 0, newMap := some m, oldMap := s.group.newMap }
          sendBlockEvent { s with group := g } 0x0502 (mk64 e.toNat)
        else bad s 2

/-- R375: CODE_STAT after a command. -/
def codeResult (s : State) (d : W64) (op res : Nat) : State :=
  { s with group := { s.group with codeStat := mk64 (put (fld d 52 12) 52 12 + put (fld d 50 2) 50 2 + put op 48 2 + put res 46 2) } }

/-- R362, R366: CODE_LOAD into a generation: BUSY unless it is EMPTY, BAD for a table that breaks R362. -/
def codeLoadWrite (s : State) (d : W64) : State :=
  let t := fld d 52 12
  let g := fld d 50 2
  let w := fld d 48 2
  let off := fld d 0 36
  let c := smGet CodeTable.empty s.group.codes t
  let lens := tableLens (memBytes s.mem (winAddr s off) 128)
  let other := c.gens.zipIdx.any fun x => x.2 != g && x.1.st != 0
  if s.errs.block then s
  else if t = 0xfff then codeResult s d 0 2
  else if ((c.gens[g]?).map (·.st)) ≠ some 0 then codeResult s d 0 1
  else if w = 3 ∨ (other ∧ w ≠ c.width) ∨ winBytes s < off + 128 then codeResult s d 0 2
  else if memAnyPz s.mem (winAddr s off) 128 ∨ !tableOk lens (widthBits w) then codeResult (countPoison s (winAddr s off) 128) d 0 2
  else
    let c1 : CodeTable := { c with width := w, gens := c.gens.set g { st := 1, turn := 0, lens := lens } }
    codeResult { s with group := { s.group with codes := smSet CodeTable.empty s.group.codes t c1 } } d 0 0

/-- R366, R375: CODE_ACT of a LOADED generation at a later turn. -/
def codeActWrite (s : State) (d : W64) : State :=
  let t := fld d 52 12
  let g := fld d 50 2
  let turn : W32 := wf d 0 32
  let c := smGet CodeTable.empty s.group.codes t
  if s.errs.block then s
  else if t = 0xfff ∨ ((c.gens[g]?).map (·.st)) ≠ some 1 ∨ !later turn s.turns.cur then codeResult s d 1 2
  else
    let acts := (s.group.acts.filter fun a => a.1 != t || a.2.1 != g) ++ [(t, g, turn)]
    codeResult { s with group := { s.group with acts := acts } } d 1 0

/-- R373, R462: METER_SEL copies a composition's meters as they stood at the last turn close. -/
def selectMeter (s : State) (d : W64) : State :=
  let c := fld d 0 12
  { s with
    group := { s.group with
      meterSel := wf d 0 12
      meterData := (tab 3 fun k => mk64 (meterOf s c k)) ++ [mk64 (put s.group.lastClose.toNat 32 32)] } }

/-- R375. -/
def writeGroup (s : State) (off : Nat) (d : W64) : State :=
  let g := s.group
  if off = 0x010 then (if fld d 0 8 = 0 then s else { s with group := { g with timeout := wf d 0 8 } })
  else if off = 0x080 then (if s.su.sealed then s else { s with group := { g with areaLog2 := wf d 32 4, areaBase := wf d 0 20 } })
  else if off = 0x088 then (if s.su.sealed then s else { s with group := { g with logSize := wf d 32 16, logBase := wf d 0 14 } })
  else if off = 0x090 then
    { s with group := { g with replays := wf d 48 16, poisoned := wf d 32 16, timeouts := wf d 16 16, stale := wf d 0 16 } }
  else if off = 0x098 then { s with group := { g with baditem := wf d 48 16, dup := wf d 32 16 } }
  else if off = 0x100 then routeLoadWrite s d
  else if off = 0x108 then { s with group := { g with mismatch := wf d 0 16 } }
  else if off = 0x180 then codeLoadWrite s d
  else if off = 0x188 then codeActWrite s d
  else if off = 0x198 then { s with group := { g with codeSel := wf d 0 12, codeData := codeWords s (fld d 0 12) } }
  else if off = 0x200 then selectMeter s d
  else
    match regIdx off 0x040 8 with
    | none => s
    | some w => { s with group := { g with absent := g.absent &&& ~~~(BitVec.ofNat 512 (d.toNat * 2 ^ (64 * w))) } }

/-- R385: CLK_CTL; RETURN_NOW requests a return while REF is LOSC. -/
def writeClkCtl (s : State) (now manual : Bool) : State :=
  { s with
    clocks := { s.clocks with manual := manual, returnReq := s.clocks.returnReq || (now && s.clocks.src == 1 && !s.errs.block) } }

/-- R397: a user offset, writable before seal. -/
def writeCal (s : State) (f : Cal → Cal) : State := if s.su.sealed then s else { s with cal := f s.cal }

/-- R405. -/
def writeClocks (s : State) (off : Nat) (d : W64) : State :=
  let c := s.clocks
  if off = 0x00 then { s with clocks := { c with fallbacks := wf d 32 16, holds := wf d 16 16, relocks := wf d 0 16 } }
  else if off = 0x08 then writeClkCtl s (bit d 1) (bit d 0)
  else if off = 0x18 then { s with clocks := { c with revert := bit d 1, pref := bit d 0 } }
  else if off = 0x20 then { s with tb0 := { s.tb0 with badsof := wf d 16 16, losses := wf d 0 16 } }
  else if off = 0x28 then { s with tb1 := { s.tb1 with badsof := wf d 16 16, losses := wf d 0 16 } }
  else if off = 0x30 then { s with pins := { s.pins with glitchRst := wf d 32 16, glitchPwr := wf d 16 16, glitchHalt := wf d 0 16 } }
  else if off = 0x40 then { s with power := { s.power with peak := wf d 0 16 } }
  else if off = 0x58 then { s with power := { s.power with fault := s.power.fault &&& ~~~(wf d 0 36) } }
  else if off = 0x60 then gateCmd s (fld d 8 2) (fld d 0 6)
  else if off = 0x108 then writeCal s fun x => { x with osc := wf d 16 16 }
  else
    match regIdx off 0x200 24, regIdx off 0x300 24, regIdx off 0x400 36 with
    | some n, _, _ => writeCal s fun x => { x with vf := smSet 0 x.vf n (wf d 24 8) }
    | none, some n, _ => writeCal s fun x => { x with therm := smSet 0 x.therm n (wf d 8 8) }
    | none, none, some n => writeCal s fun x => { x with deskew := smSet 0 x.deskew n (wf d 32 8) }
    | none, none, none => s

/-- R434, R462: ERR_LOG_SEL copies the entry, or zeros when it is no longer held. -/
def selectError (s : State) (d : W64) : State :=
  { s with
    errs := { s.errs with
      sel := wf d 0 32
      data := match entryOf s (wf d 0 32) with
        | none => List.replicate 8 0
        | some e => entryData e } }

/-- R434. -/
def writeErrs (s : State) (off : Nat) (d : W64) : State :=
  let e := s.errs
  if off = 0x00 then { s with errs := { e with request := wf d 48 16, failed := wf d 32 16, tenant := wf d 24 8, corrected := wf d 0 16 } }
  else if off = 0x08 then { s with errs := { e with nmi := e.nmi &&& ~~~(wf d 0 4) } }
  else if off = 0x10 then { s with errs := { e with ceStage := wf d 32 32, ceCtrl := wf d 0 32 } }
  else if off = 0x18 then { s with errs := { e with overwritten := wf d 16 16 } }
  else if off = 0x20 then selectError s d
  else s

/-- R456. -/
def writeStartup (s : State) (off : Nat) (d : W64) : State :=
  let u := s.su
  if off = 0x08 then
    let s1 := if bit d 0 then sealBlock s else s
    if bit d 1 ∧ s.su.phase = .ready then beginShutdown s1 else s1
  else if off = 0x10 then fwLoadWrite s d
  else if off = 0x18 then { s with su := { u with fwTries := wf d 0 16 } }
  else if off = 0x28 then
    { s with su := { u with badcrc := wf d 48 16, dropped := wf d 32 16, refused := wf d 16 16, nmiSent := wf d 0 16 } }
  else if off = 0x40 then { s with su := { u with stwLen := wf d 40 24, stwOff := wf d 0 36 } }
  else if off = 0x48 then stwCommand s (fld d 56 8) (wf d 32 16)
  else s

/-- R74, R87: TILE_FLUSH flushes the named queues, and changes nothing else of the tile. -/
def flushQueues (tl : Tile) (m : Nat) : Tile :=
  (List.range 18).foldl (fun tl q => if m.testBit q then setQ tl q (qFlush (tileQ tl q)) else tl) tl

/-- R87: TILE_FAULT: VALID is cleared by a 1, and MORE with it. -/
def clearFault (f d : W64) : W64 :=
  if bit d 63 then mk64 (f.toNat - put (fld f 63 1) 63 1 - put (fld f 44 4) 44 4) else f

/-- R87, R137, R240. -/
def writeTile (s : State) (t off : Nat) (d : W64) : State :=
  let tl := tileOf s t
  if off = 0x018 then setTile s t { tl with ovf := tl.ovf &&& ~~~(wf d 0 16) }
  else if off = 0x020 then setTile s t { tl with fault := clearFault tl.fault d }
  else if off = 0x028 then (if s.errs.block then s else setTile s t (flushQueues tl (fld d 0 18)))
  else if off = 0x030 then setTile s t { tl with ue := wf d 48 16, ce := wf d 0 32 }
  else if off = 0x080 then setTile s t { tl with auSymbols := wf d 32 32, auDropped := wf d 16 16, auEditOvf := wf d 0 16 }
  else
    match regIdx off 0x100 18 with
    | none => s
    | some q => setTile s t (setQ tl q (qStatWrite (tileQ tl q) d))

/-- What a write of a register does. -/
def regWrite (s : State) (b : RegBlock) (off : Nat) (d : W64) : State :=
  match b with
  | .ident => s
  | .req h => writeReq s h off d
  | .turns => writeTurns s off d
  | .window => writeWindow s off d
  | .ports => writePorts s off d
  | .group => writeGroup s off d
  | .clocks => writeClocks s off d
  | .errs => writeErrs s off d
  | .startup => writeStartup s off d
  | .tile t => writeTile s t off d

/-- A command that waits for the restart of the clocks (R387, R315). -/
def holdCmd (s : State) (i : Instr) : State := { s with clocks := { s.clocks with held := s.clocks.held ++ [{ cmd := i, turn := none }] } }

/-- R460: a management write of the word `d` at `a`. -/
def mgmtWrite (s : State) (a : Nat) (d : W64) : State :=
  match avail s a, regBlock a with
  | .served, some (b, off) => regWrite s b off d
  | .held, _ => holdCmd s (.registerWrite (BitVec.ofNat 48 a) d)
  | _, _ => s

/-- R394: a gate command; one that comes while the clocks are stopped waits for them. -/
def gateWrite (s : State) (op d : Nat) : State :=
  if (avail s (mgmtBase + 0x70060) = .notReady ∧ s.clocks.src = 2) ∨ avail s (mgmtBase + 0x70060) = .held then gateCmd s op d
  else mgmtWrite s (mgmtBase + 0x70060) (mk64 (put op 8 2 + put d 0 6))

/-- REGISTER_WRITE (R17, R460): a management write to a register. -/
def execRegisterWrite (addr : W48) (data : W64) (s : State) : Host.Outcome State Fault Refusal := .next (mgmtWrite s addr.toNat data)

/-- TILE_FLUSH (R74). -/
def execTileFlush (t : BitVec 10) (data : W64) (s : State) : Host.Outcome State Fault Refusal :=
  .next (mgmtWrite s (mgmtBase + 0x100000000 + 4096 * t.toNat + 0x028) data)

/-- REQ_SLOT_SEL (R279). -/
def execReqSlotSel (h : Half) (data : W64) (s : State) : Host.Outcome State Fault Refusal :=
  .next (mgmtWrite s (mgmtBase + 0x20018 + 4096 * halfNum h) data)

/-- ERR_LOG_SEL (R434). -/
def execErrLogSel (data : W64) (s : State) : Host.Outcome State Fault Refusal := .next (mgmtWrite s (mgmtBase + 0x80020) data)

/-- METER_SEL (R373). -/
def execMeterSel (data : W64) (s : State) : Host.Outcome State Fault Refusal := .next (mgmtWrite s (mgmtBase + 0x60200) data)

/-- CODE_SEL (R375). -/
def execCodeSel (data : W64) (s : State) : Host.Outcome State Fault Refusal := .next (mgmtWrite s (mgmtBase + 0x60198) data)

/-- ROUTE_LOAD (R369). -/
def execRouteLoad (data : W64) (s : State) : Host.Outcome State Fault Refusal := .next (mgmtWrite s (mgmtBase + 0x60100) data)

/-- ROUTE_LOAD_COMPLETE (R369). -/
def execRouteLoadComplete (s : State) : Host.Outcome State Fault Refusal := .next (routeLoaded s)

/-- CODE_LOAD (R366). -/
def execCodeLoad (data : W64) (s : State) : Host.Outcome State Fault Refusal := .next (mgmtWrite s (mgmtBase + 0x60180) data)

/-- CODE_ACT (R366). -/
def execCodeAct (data : W64) (s : State) : Host.Outcome State Fault Refusal := .next (mgmtWrite s (mgmtBase + 0x60188) data)

/-- CLOSE_CLOCK (R394, R395). -/
def execCloseClock (d : BitVec 6) (s : State) : Host.Outcome State Fault Refusal := .next (gateWrite s 0 d.toNat)

/-- OPEN_CLOCK (R394). -/
def execOpenClock (d : BitVec 6) (s : State) : Host.Outcome State Fault Refusal := .next (gateWrite s 1 d.toNat)

/-- POWER_OFF (R394, R396). -/
def execPowerOff (d : BitVec 6) (s : State) : Host.Outcome State Fault Refusal := .next (gateWrite s 2 d.toNat)

/-- POWER_ON (R394, R396). -/
def execPowerOn (d : BitVec 6) (s : State) : Host.Outcome State Fault Refusal := .next (gateWrite s 3 d.toNat)

/-- CLK_RETURN_NOW (R385): a write of 1 to CLK_CTL.RETURN_NOW that leaves RETURN as it stands. -/
def execClkReturnNow (s : State) : Host.Outcome State Fault Refusal :=
  .next (mgmtWrite s (mgmtBase + 0x70008) (mk64 (2 + b2n s.clocks.manual)))

/-- FW_LOAD (R441). -/
def execFwLoad (data : W64) (s : State) : Host.Outcome State Fault Refusal := .next (mgmtWrite s (mgmtBase + 0x90010) data)

/-- SEAL (R442). -/
def execSeal (s : State) : Host.Outcome State Fault Refusal := .next (mgmtWrite s (mgmtBase + 0x90008) 1)

/-- SHUTDOWN (R446). -/
def execShutdown (s : State) : Host.Outcome State Fault Refusal := .next (mgmtWrite s (mgmtBase + 0x90008) 2)

end Sys2Proof.Machine
end

