-- ==== Sys2Proof/Machine/PauseImage.lean ====
section
/-! DEFINITION. Pause images: the drain, the transfer, and the fetch of a returned image (spec/09 R265, spec/11 R335, R336, spec/13 R367). -/

namespace Sys2Proof.Machine

/-- R265: E, the extension entries an image of `c` positions holds. -/
def extEntries (ext c : Nat) : Nat := if ext = 0 then 0 else entriesFor c - 8

/-- R367: RAW_LEN. -/
def rawLen (ext c : Nat) : Nat := 144 + 4 * extEntries ext c + 1024 * c

/-- R367: the raw image of a slot, with the poison of what it is read from. EXPIRY of its record is the turn of the coding plus the pause's TTL
(R31, R266; log 108). -/
def rawImage (s : State) (n : Nat) : List PByte :=
  let r := (slotOf s n).r
  let e := s.turns.cur + BitVec.ofNat 32 (slotOf s n).w.pause.ttl
  clean (wordsBytes ((recWords { r with expiry := e }).take 18))
    ++ memRead s.mem (pageAddr s (slotHalf n) r.ext) (4 * extEntries r.ext r.commit)
    ++ (List.range r.commit).flatMap fun p => memRead s.mem (posAddr s n p) 1024

/-- Bytes zero-padded to a multiple of 256 (R367). -/
def pad256 (l : List PByte) : List PByte := l ++ List.replicate ((256 - l.length % 256) % 256) (0, false)

/-- R367: the pause image of a slot: prologue and coded raw image. -/
def pauseImage (s : State) (n : Nat) : List PByte :=
  let r := (slotOf s n).r
  let raw := rawImage s n
  let coded := encodeMarked fixedLens 2 0xfff 0 0 (chunks 256 (pad256 raw))
  clean (wordsBytes
    [mk64 raw.length, mk64 coded.length, mk64 (crc32c (raw.map (·.1))).toNat,
     mk64 (put r.tenant.toNat 48 16 + put n 32 16 + put r.sgen.toNat 24 8), 0, 0, 0, 0]) ++ coded

/-- R335: the size of an image buffer. -/
def imgSize (s : State) : Nat := fld (dirWord s 6) 0 16 * 65536

/-- R335: the number of image buffers. -/
def imgCount (s : State) : Nat := fld (dirWord s 5) 48 16

/-- R335: the offset of image buffer `k`. -/
def imgOffset (s : State) (k : Nat) : Nat := fld (dirWord s 5) 0 36 + k * imgSize s

/-- A buffer holds part of an image whose first buffer is not handed over yet (R335). -/
def imgTaken (s : State) (k : Nat) : Bool := s.slots.any fun p => p.2.w.pause.chain.contains k

/-- R335: BLOCK-owned buffers in the order in which an image takes them. -/
def imgFree (s : State) : List Nat :=
  (tab (imgCount s) fun k => (s.win.imgNext + k) % imgCount s).filter fun k => ownedByBlock s (imgOffset s k) && !imgTaken s k

/-- R335: one buffer written: its data, and its header with owner `o`. -/
def writeBuffer (s : State) (n k next part : Nat) (d : List PByte) (o : Nat) : State :=
  let r := (slotOf s n).r
  let off := imgOffset s k
  let s1 := { s with mem := memWrite s.mem (winAddr s (off + 64)) d }
  putSlotWords s1 off
    [mk64 (put r.tenant.toNat 48 16 + put n 32 16 + put r.sgen.toNat 24 8), mk64 (put next 32 32 + put part 0 32), mk64 d.length, 0, 0, 0, 0] o

/-- R335: the buffers of a chain written; all but the first are handed over. -/
def writeChain : List (List PByte) → List Nat → Nat → State → Nat → State
  | d :: ds, k :: ks, part, s, n =>
    writeChain ds ks (part + 1) (writeBuffer s n k (if ds.isEmpty then 0xffffffff else ks.headD 0) part d (if part = 0 then 2 else 1)) n
  | _, _, _, s, _ => s

/-- R348: the lines with poison that the reads of a slot's image meet, counted. -/
def countImage (s : State) (n : Nat) : State :=
  let r := (slotOf s n).r
  (List.range r.commit).foldl (fun s p => countPoison s (posAddr s n p) 1024)
    (countPoison s (pageAddr s (slotHalf n) r.ext) (4 * extEntries r.ext r.commit))

/-- R335 steps 1 to 3: the image is written once enough buffers read BLOCK; until then IMAGE_WAIT once and nothing is written. -/
def tryImage (s : State) (n : Nat) : State :=
  let cap := imgSize s - 64
  let parts := chunks (max 1 cap) (pauseImage s n)
  let free := imgFree s
  if free.length < parts.length ∨ cap = 0 then
    if (slotOf s n).w.pause.ioWait then s
    else
      sendSlotEvent (modSlot s n fun x => { x with w := { x.w with pause := { x.w.pause with ioWait := true } } }) n 0x0308
        (mk64 (parts.length - free.length))
  else
    let ks := free.take parts.length
    let s1 := writeChain parts ks 0 (countImage s n) n
    let s2 := modSlot s1 n fun x => { x with w := { x.w with pause := { x.w.pause with chain := ks } } }
    { s2 with win := { s2.win with imgNext := (ks.getLastD 0 + 1) % imgCount s } }

/-- A mask-lane job, queued or running, holds rows of the slot. -/
def maskBusy (s : State) (n : Nat) : Bool :=
  let x := half s (slotHalf n)
  (x.maskJobs ++ x.jobs.filter fun j => j.lane == Sys2Proof.Lane.mask).any fun j => j.rows.any fun r => r.slot == n

/-- R31 step 2, R265: every committed verdict of a paused slot is published, and the state below COMMIT is complete. -/
def pauseDrained (s : State) (n : Nat) : Bool :=
  let x := slotOf s n
  x.r.st == .paused && x.r.sub == 0 && !x.w.pause.fetch && decide (x.r.commit ≤ x.w.published) && !maskBusy s n

/-- R265: the drain has ended: the slot goes to SUB 1 and its image is written. -/
def beginTransfer (s : State) (n : Nat) : State :=
  if !windowOpen s ∨ pauseDrained s n = false then s
  else
    tryImage (modSlot s n fun x =>
      { x with r := { x.r with sub := 1 }, w := { x.w with pause := { x.w.pause with ioWait := false, chain := [] } } }) n

/-- R335: buffers have returned: a transfer that waits for them resumes. -/
def resumeTransfer (s : State) (n : Nat) : State :=
  let x := slotOf s n
  if windowOpen s ∧ x.r.st = .paused ∧ x.r.sub = 1 ∧ x.w.pause.chain.isEmpty ∧ x.w.pause.ioWait then tryImage s n else s

/-- R335 steps 3 and 4, R265: the first buffer is handed over; PAUSE_IMAGE; SUB 2, the pages released, EXPIRY set, the steady reservation
released (R297). -/
def endTransfer (s : State) (n : Nat) : State :=
  let x := slotOf s n
  match x.w.pause.chain with
  | [] => s
  | k :: _ =>
    if !windowOpen s ∨ x.r.st ≠ .paused ∨ x.r.sub ≠ 1 then s
    else
      let s1 := sendSlotEvent (setOwner s (imgOffset s k) 1) n 0x0305 (mk64 (imgOffset s k))
      let s2 := releaseAll s1 n (entriesFor (max x.r.head x.w.runTo))
      modSlot s2 n fun y =>
        { y with
          r := { y.r with sub := 2, expiry := s.turns.cur + BitVec.ofNat 32 y.w.pause.ttl }
          w := { y.w with
            steady := false, away := slotPages s n (entriesFor y.r.commit), awayTo := y.r.commit
            pause := { y.w.pause with commit := y.r.commit, oseq := y.r.oseq, toksum := y.r.toksum, chain := [], ioWait := false } } }

/-- R336: the data of a returned chain from the header at `off`, part `part`; none where a header fails a check. By fuel. -/
def readChain : Nat → State → Nat → Nat → Nat → Option (List PByte)
  | 0, _, _, _, _ => none
  | f + 1, s, n, off, part =>
    let r := (slotOf s n).r
    let w0 := winWord s off
    let w1 := winWord s (off + 8)
    let len := (winWord s (off + 16)).toNat
    let next := fld w1 32 32
    if memAnyPz s.mem (winAddr s off) 64 ∨ fld w0 48 16 ≠ r.tenant.toNat ∨ fld w0 32 16 ≠ n ∨ fld w0 24 8 ≠ r.sgen.toNat ∨ fld w1 0 32 ≠ part
        ∨ imgSize s - 64 < len ∨ winBytes s < off + 64 + len then none
    else
      let d := memRead s.mem (winAddr s (off + 64)) len
      if next = 0xffffffff then some d
      else if imgCount s ≤ next then none
      else (readChain f s n (imgOffset s next) (part + 1)).map fun l => d ++ l

/-- R348: the lines with poison that the reads of a returned chain meet, counted. By fuel. -/
def countChain : Nat → State → Nat → State
  | 0, s, _ => s
  | f + 1, s, off =>
    let len := (winWord s (off + 16)).toNat
    let next := fld (winWord s (off + 8)) 32 32
    let s1 := countPoison s (winAddr s off) 64
    if memAnyPz s.mem (winAddr s off) 64 ∨ imgSize s - 64 < len ∨ winBytes s < off + 64 + len then s1
    else
      let s2 := countPoison s1 (winAddr s (off + 64)) len
      if imgCount s ≤ next then s2 else countChain f s2 (imgOffset s next)

/-- R265: the slot fields that a returned image must carry. -/
def imageFields (s : State) (n : Nat) (ws : List W64) : Bool :=
  let r := (slotOf s n).r
  let k := (slotOf s n).w.pause
  let w (i : Nat) : W64 := ws.getD i 0
  fld (w 0) 32 16 == r.tenant.toNat && fld (w 0) 24 8 == r.sgen.toNat && fld (w 0) 0 16 == r.epoch.toNat && fld (w 1) 40 24 == k.commit
    && fld (w 2) 0 32 == k.oseq.toNat && fld (w 8) 32 32 == k.toksum.toNat && w 9 == r.ctag

/-- Bytes as 64-bit words (R14). -/
def bytesWords (l : List Byte) : List W64 := (chunks 8 l).map fun c => mk64 (numOf c)

/-- R336, R367: the raw image of a returned chain, when it passes every check. -/
def fetchImage (s : State) (n : Nat) : Option (List Byte) :=
  let k := (slotOf s n).w.pause
  let r := (slotOf s n).r
  match readChain (imgCount s + 1) s n k.imgOff 0 with
  | none => none
  | some l =>
    let pro := bytesWords ((l.take 64).map (·.1))
    let body := l.drop 64
    let d := decodeBody s 2 (body.length + 1) body
    let bl := seqRun d.1
    let raw := bl.flatMap (·.data)
    let len := (pro.getD 0 0).toNat
    let ws := bytesWords (raw.take 144)
    if l.any (·.2) ∨ body.length ≠ (pro.getD 1 0).toNat ∨ l.length < 64 ∨ (firstBad bl).isSome ∨ d.2 ≠ body.length
        ∨ bl.any (fun b => b.table != 0xfff) then none
    else if len ≠ rawLen (fld (ws.getD 7 0) 40 24) k.commit ∨ raw.length ≠ (len + 255) / 256 * 256 then none
    else if pro.getD 2 0 ≠ mk64 (crc32c (raw.take len)).toNat then none
    else if pro.getD 3 0 ≠ mk64 (put r.tenant.toNat 48 16 + put n 32 16 + put r.sgen.toNat 24 8) then none
    else if imageFields s n ws then some (raw.take len)
    else none

/-- R248, R263: the pages into which the image of slot `n` goes: the request's own, and where a MARK or an ADMIT made while it was fetched has
copied one, that copy: as the half, the page list and the position past the last (log 140). -/
def fillTargets (s : State) (n : Nat) : List (List Nat × Nat) :=
  let q := some (n, (slotOf s n).r.sgen)
  let c := (slotOf s n).w.pause.commit
  let hs := ((half s (slotHalf n)).handles.filterMap (·.2)).filter fun e => e.filling == q
  let ms := s.slots.filter fun p => p.2.w.fillFrom == q
  (slotPages s n (entriesFor c), c) :: hs.map (fun e => (e.pages, min c e.len))
    ++ ms.map fun p => (slotPages s p.1 (entriesFor p.2.w.runFrom), min c p.2.w.runFrom)

/-- R265: position `p` of a returned image written wherever it belongs. -/
def placePos (h : Half) (ts : List (List Nat × Nat)) (s : State) (q : List Byte × Nat) : State :=
  let ks := (((ts.filter fun t => q.2 < t.2).map fun t => t.1.getD (q.2 / 64) 0).filter (· != 0)).eraseDups
  ks.foldl (fun s k => { s with mem := memWrite s.mem (pageAddr s h k + q.2 % 64 * 1024) (clean q.1) }) s

/-- R265: the positions of a returned image written into the request's pages; what was marked and admitted over them meanwhile has its pages
filled. -/
def placeImage (s : State) (n : Nat) (raw : List Byte) : State :=
  let c := (slotOf s n).w.pause.commit
  let q := some (n, (slotOf s n).r.sgen)
  let s1 := (chunks 1024 (raw.drop (raw.length - 1024 * c))).zipIdx.foldl (placePos (slotHalf n) (fillTargets s n)) s
  let s2 := modHalf s1 (slotHalf n) fun x =>
    { x with handles := x.handles.map fun p => (p.1, p.2.map fun e => if e.filling = q then { e with filling := none } else e) }
  { s2 with slots := s2.slots.map fun p => (p.1, if p.2.w.fillFrom = q then { p.2 with w := { p.2.w with fillFrom := none } } else p.2) }

/-- R265, R336: the fetch of a returned image ends: its checks pass, and the slot returns to SUB 0 with the image's scale record and
IMAGE_TAKEN; or it enters LOST. -/
def endFetch (s : State) (n : Nat) : State :=
  let x := slotOf s n
  if !windowOpen s ∨ !x.w.pause.fetch ∨ !slotLive x.r.st then s
  else
    let s0 := countChain (imgCount s + 1) s x.w.pause.imgOff
    match fetchImage s n with
    | none => enterLost s0 n false
    | some raw =>
      let sc := (bytesWords (raw.take 144)).drop 10
      let s1 := modSlot (placeImage s0 n raw) n fun y =>
        { y with
          r := { y.r with sub := 0, scale := sc }
          w := { y.w with masked := max y.w.masked y.w.pause.commit, pause := { y.w.pause with fetch := false } } }
      drainMasks (sendSlotEvent s1 n 0x0306 (mk64 x.w.pause.imgOff)) n

/-- PAUSE_DRAINED (R265). -/
def execPauseDrained (slot : BitVec 16) (s : State) : Host.Outcome State Fault Refusal := .next (beginTransfer s slot.toNat)

/-- PAUSE_TRANSFER_DONE (R265, R335). -/
def execPauseTransferDone (slot : BitVec 16) (s : State) : Host.Outcome State Fault Refusal := .next (endTransfer s slot.toNat)

/-- IMAGE_FETCH_DONE (R265, R336). -/
def execImageFetchDone (slot : BitVec 16) (s : State) : Host.Outcome State Fault Refusal := .next (endFetch s slot.toNat)

/-- IMAGE_BUFFER_RETURNED (R335). -/
def execImageBufferReturned (slot : BitVec 16) (s : State) : Host.Outcome State Fault Refusal := .next (resumeTransfer s slot.toNat)

end Sys2Proof.Machine
end

