-- ==== Sys2Proof/Machine/Packets.lean ====
section
/-! DEFINITION. Wozan packets on the host ports (spec/11 R314 to R326) and the returns of window slots (R274, R319, R329, R331, R333). -/

namespace Sys2Proof.Machine

/-- The host port of a packet command. -/
def cmdPort : Instr → Option Nat
  | .mwr p _ _ _ => some p.toNat
  | .mrd p _ _ => some p.toNat
  | .doorbell p _ _ => some p.toNat
  | .badpkt p _ => some p.toNat
  | _ => none

/-- R315, R318, R387, R395: a packet is applied, with the turn in which it was received (R324). It waits under flow control while a relock runs or
its port's domain is shut; once received, while an earlier packet of the port waits, and while what it reaches is `shut`. -/
def portApply (s : State) (p : Nat) (i : Held) (shut : Bool) (f : State → W32 → State) : State :=
  let hold (x : Held) : State := { s with clocks := { s.clocks with held := s.clocks.held ++ [x] } }
  let turn := i.turn.getD s.turns.cur
  if s.clocks.relock.isSome ∨ domainShut s (hpDomain p) then hold i
  else if s.clocks.held.any (fun c => cmdPort c.cmd == some p) ∨ shut then hold { i with turn := some turn }
  else f s turn

/-- R314: a packet arrives on a trained port whose domain has power. -/
def onPort (s : State) (p : Nat) (i : Instr) (shut : Bool) (f : State → W32 → State) : State :=
  if !(hpOf s p).trained ∨ !s.power.on.getLsbD (hpDomain p) ∨ !refRuns s then s else portApply s p { cmd := i, turn := none } shut f

/-- R316: TYPE `type`, WVER 0x02, the reserved bits of word 0 zero. -/
def headOk (w0 : W64) (type : Nat) : Bool := fld w0 56 8 == type && fld w0 48 8 == 2 && fld w0 20 12 == 0

/-- R316: a packet discarded and counted. -/
def badPacket (s : State) (p : Nat) : State := setHp s p { hpOf s p with badpkt := inc16 (hpOf s p).badpkt }

/-- R317: an MWR discarded and counted. -/
def badWrite (s : State) (p : Nat) : State := setHp s p { hpOf s p with badwr := inc16 (hpOf s p).badwr }

/-- LEN of a packet (R316). -/
def pktLen (w0 : W64) : Nat := fld w0 8 12

/-- R317, R341: an access to the window of `n` words at offset `a`, all of them mapped. -/
def windowAccess (s : State) (a n : Nat) : Bool :=
  decide (1 ≤ n ∧ n ≤ 512) && a % 8 == 0 && decide (a + 8 * n ≤ winBytes s) && decide (winAddr s (a + 8 * n) ≤ stackEnd)

/-- R317: an access to a management register. -/
def mgmtAccess (a n : Nat) : Bool := n == 1 && a % 8 == 0 && decide (mgmtBase ≤ a)

/-- R346, R395: the `n` bytes at stack address `a` lie behind a port that retrains or whose domain is shut. -/
def rangeShut (s : State) (a n : Nat) : Bool :=
  portWaits s (a, n)
    || (tab (n / 4096 + 2) fun i => domainShut s (mpDomain (portOf (min (a + 4096 * i) (a + n - 1))))).any (·)

/-- R346, R387, R395: what an MWR or MRD reaches holds it. -/
def accessShut (s : State) (w0 w1 : W64) : Bool :=
  let a := fld w1 0 48
  if bit w1 63 then mgmtAccess a (pktLen w0) && avail s a == .held
  else !s.errs.block && windowAccess s a (pktLen w0) && rangeShut s (winAddr s a) (8 * pktLen w0)

/-- R317: an MWR whose header is good; one to an address that is no register's is discarded (R457). After a BLOCK stop a write to the window is
discarded (R427). -/
def applyWrite (s : State) (p : Nat) (w0 w1 : W64) (data : List W64) : State :=
  let a := fld w1 0 48
  if bit w1 63 then (if mgmtAccess a (pktLen w0) ∧ (regBlock a).isSome then mgmtWrite s a (data.headD 0) else badWrite s p)
  else if s.errs.block then s
  else if !windowAccess s a (pktLen w0) then badWrite s p
  else winPut s a data

/-- MWR (R316, R317): a packet carries LEN words of data. -/
def mwr (s : State) (p : Nat) (w0 w1 : W64) (data : List W64) : State :=
  if fld w0 56 8 ≠ 0x10 then s
  else if !headOk w0 0x10 ∨ fld w1 48 15 ≠ 0 then badPacket s p
  else if data.length ≠ pktLen w0 then s
  else applyWrite s p w0 w1 data

/-- R317: the CPL of an MRD: its data, or STATUS 0x01. A port that is down sends nothing (R314). -/
def complete (s : State) (p : Nat) (w0 : W64) (data : Option (List W64)) : State :=
  if !(hpOf s p).trained then s
  else sendPacket s
    { port := p
      w0 := packetHdr 0x12 (fld w0 32 16) ((data.map List.length).getD 0) (if data.isSome then 0 else 1)
      w1 := 0, data := data.getD [] }

/-- R348: reads of the window returned with poison, counted at their ports. -/
def countReads (s : State) (off n : Nat) : State := countPoison s (winAddr s off) n

/-- R317: an MRD whose header is good. -/
def applyRead (s : State) (p : Nat) (w0 w1 : W64) : State :=
  let a := fld w1 0 48
  let n := pktLen w0
  if bit w1 63 then
    (if mgmtAccess a n then
      match avail s a, regBlock a with
      | .served, some (b, off) => complete s p w0 (some [regWord s b off])
      | _, _ => complete s p w0 none
    else complete s p w0 none)
  else if !windowAccess s a n then complete s p w0 none
  else complete (countReads s a (8 * n)) p w0 (some (memWords s.mem (winAddr s a) n))

/-- MRD (R316, R317). -/
def mrd (s : State) (p : Nat) (w0 w1 : W64) : State :=
  if fld w0 56 8 ≠ 0x11 then s
  else if !headOk w0 0x11 ∨ fld w1 48 15 ≠ 0 then badPacket s p
  else applyRead s p w0 w1

/-- CI of a submission ring (R324). -/
def ciOf (s : State) (r : Nat) : W32 := smGet 0 s.win.ci r

/-- CI moved past one entry. -/
def nextCi (s : State) (r : Nat) : State := { s with win := { s.win with ci := smSet 0 s.win.ci r (ciOf s r + 1) } }

/-- ENTRIES of a submission ring; 0 when it is absent (R321). -/
def ringEntries (s : State) (r : Nat) : Nat := fld (dirWord s (17 + 2 * r)) 0 17

/-- R326: a poisoned entry: owner POISON, counted, ENTRY_POISONED, log point 0x12. -/
def poisonEntry (s : State) (r : Nat) (k : W32) : State :=
  let s1 := setOwner s (subEntry s r k) 3
  let s2 := sendBlockEvent { s1 with win := { s1.win with poisoned := inc16 s1.win.poisoned } } 0x0302 (mk64 (put r 32 4 + k.toNat))
  nextCi (detect s2 (Detect.plain 0x12 .A 0)) r

/-- R323, R324: a message taken, whose doorbell rang in turn `turn`: it waits to be decided in submission order; one of an unknown TYPE is answered
BAD_FIELD. -/
def takeEntryMsg (s : State) (r : Nat) (k turn : W32) : State :=
  let off := subEntry s r k
  let m : Msg :=
    { ring := BitVec.ofNat 4 r, idx := k, w0 := winWord s off, w1 := winWord s (off + 8), w2 := winWord s (off + 16)
      w3 := winWord s (off + 24), w4 := winWord s (off + 32) }
  let s1 := nextCi { s with replies := s.replies ++ [{ ring := r, idx := k, turn := turn, words := none }] } r
  if 1 ≤ msgType m ∧ msgType m ≤ 7 then { s1 with taken := s1.taken ++ [m] } else answerSlot s1 m 0x14 0

/-- R324: `n` entries of ring `r` taken from CI on; the block stops at one that does not read BLOCK. -/
def takeEntries : Nat → State → Nat → W32 → State
  | 0, s, _, _ => s
  | n + 1, s, r, turn =>
    let k := ciOf s r
    let off := subEntry s r k
    if memAnyPz s.mem (winAddr s off) 64 then takeEntries n (poisonEntry (countPoison s (winAddr s off) 64) r k) r turn
    else if ownedByBlock s off then takeEntries n (takeEntryMsg s r k turn) r turn
    else { s with win := { s.win with early := inc16 s.win.early } }

/-- R324, R446: a doorbell handled that rang in turn `turn`; once a shutdown has begun no entry is taken. -/
def ringBell (s : State) (r : Nat) (pi turn : W32) : State :=
  let n := (pi - ciOf s r).toNat
  if s.errs.block then s
  else if ringEntries s r = 0 ∨ ringEntries s r < n then { s with win := { s.win with baddb := inc16 s.win.baddb } }
  else if serving s then takeEntries n s r turn
  else s

/-- DOORBELL (R316, R324, R401), received in turn `turn`: while the halt is in force it is kept. -/
def doorbell (s : State) (p : Nat) (w0 w1 : W64) (turn : W32) : State :=
  if fld w0 56 8 ≠ 0x20 then s
  else if !headOk w0 0x20 ∨ fld w1 36 28 ≠ 0 then badPacket s p
  else if s.errs.block then s
  else if halted s then { s with pins := { s.pins with bells := s.pins.bells ++ [(fld w1 32 4, BitVec.ofNat 32 (fld w1 0 32), turn)] } }
  else ringBell s (fld w1 32 4) (BitVec.ofNat 32 (fld w1 0 32)) turn

/-- R401: the doorbells kept during a halt, handled in arrival order. -/
def ringBells (s : State) : State := s.pins.bells.foldl (fun s b => ringBell s b.1 b.2.1 b.2.2) { s with pins := { s.pins with bells := [] } }

/-- R274: the ring entry of a slot has returned, or a batch buffer of a tenant: what waits is published. -/
def entryReturned (s : State) (key : ReturnKey) : State :=
  if !windowOpen s then s
  else
    match key with
    | .slot n => publish s n.toNat
    | .tenant t => afterBatches (drainTenant s t)

/-- R329: 2 us have passed since the first record of the open bulletin. -/
def bulletinTimeout (s : State) (h : Half) : State :=
  if windowOpen s ∧ !(half s h).bullOpen.isEmpty then closeOpen (elapseTo s ((half s h).bullSince + 2)) h else s

/-- R331: bulletin slots have returned. -/
def bulletinReturned (s : State) (h : Half) : State := if windowOpen s then drainBulletins (half s h).bullWait s h else s

/-- R319: an interval ends: its pending notice is sent, which starts another, or none is. -/
def noticeEnd (s : State) (key : NoticeKey) : State :=
  if !windowOpen s then s
  else
    match s.win.notices.find? fun n => n.key == key with
    | none => s
    | some n =>
      if n.pending then
        sendNotice
          { s with
            win := { s.win with notices := s.win.notices.map fun m => if m.key = key then { m with pending := false } else m } } n
      else { s with win := { s.win with notices := s.win.notices.filter fun m => m.key != key } }

/-- MWR (R317). -/
def execMwr (port : BitVec 2) (w0 w1 : W64) (data : List W64) (s : State) : Host.Outcome State Fault Refusal :=
  .next (onPort s port.toNat (.mwr port w0 w1 data) (accessShut s w0 w1) fun s _ => mwr s port.toNat w0 w1 data)

/-- MRD (R317). -/
def execMrd (port : BitVec 2) (w0 w1 : W64) (s : State) : Host.Outcome State Fault Refusal :=
  .next (onPort s port.toNat (.mrd port w0 w1) (accessShut s w0 w1) fun s _ => mrd s port.toNat w0 w1)

/-- DOORBELL (R324). -/
def execDoorbell (port : BitVec 2) (w0 w1 : W64) (s : State) : Host.Outcome State Fault Refusal :=
  .next (onPort s port.toNat (.doorbell port w0 w1) false fun s turn => doorbell s port.toNat w0 w1 turn)

/-- BADPKT (R316): a packet whose TYPE is none that the host sends. -/
def execBadpkt (port : BitVec 2) (w0 : W64) (s : State) : Host.Outcome State Fault Refusal :=
  .next (onPort s port.toNat (.badpkt port w0) false fun s _ =>
    if [0x10, 0x11, 0x20].contains (fld w0 56 8) then s else badPacket s port.toNat)

/-- VERDICT_ENTRY_RETURNED (R274). -/
def execVerdictEntryReturned (key : ReturnKey) (s : State) : Host.Outcome State Fault Refusal := .next (entryReturned s key)

/-- BULLETIN_TIMEOUT (R329). -/
def execBulletinTimeout (h : Half) (s : State) : Host.Outcome State Fault Refusal := .next (bulletinTimeout s h)

/-- BULLETIN_SLOT_RETURNED (R331). -/
def execBulletinSlotReturned (h : Half) (s : State) : Host.Outcome State Fault Refusal := .next (bulletinReturned s h)

/-- EVENT_ENTRY_RETURNED (R333). -/
def execEventEntryReturned (h : Half) (s : State) : Host.Outcome State Fault Refusal :=
  .next (if windowOpen s then flushLost s h else s)

/-- NOTICE_INTERVAL (R319). -/
def execNoticeInterval (key : NoticeKey) (s : State) : Host.Outcome State Fault Refusal := .next (noticeEnd s key)

end Sys2Proof.Machine
end

