-- ==== Sys2Proof/Machine/Arrivals.lean ====
section
/-! DEFINITION. Exchange items as they arrive, OUT slots that return, and the exchange timeout (spec/13 R353 to R358). -/

namespace Sys2Proof.Machine

/-- XCH_DATA_ITEM (R356): the item in IN slot `idx` of a half. -/
def execXchDataItem (h : Half) (idx : BitVec 14) (s : State) : Host.Outcome State Fault Refusal := .next (arriveItem s h idx.toNat 1 takeData)

/-- XCH_SCALE_ITEM (R365). -/
def execXchScaleItem (h : Half) (idx : BitVec 14) (s : State) : Host.Outcome State Fault Refusal := .next (arriveItem s h idx.toNat 2 takeScale)

/-- XCH_ACK_ITEM (R355). -/
def execXchAckItem (h : Half) (idx : BitVec 14) (s : State) : Host.Outcome State Fault Refusal := .next (arriveItem s h idx.toNat 3 takeAck)

/-- XCH_NAK_ITEM (R355). -/
def execXchNakItem (h : Half) (idx : BitVec 14) (s : State) : Host.Outcome State Fault Refusal := .next (arriveItem s h idx.toNat 4 takeNak)

/-- R354: what is no item (a KIND the receiver does not know, or another fault of its header): discarded without an answer, and counted. -/
def badItem (s : State) (h : Half) (k : Nat) : State :=
  match takeIn s h k with
  | none => s
  | some (off, _, s1) => if itemOk s off then s else countBad s1

/-- BADITEM (R354). -/
def execBaditem (h : Half) (idx : BitVec 14) (s : State) : Host.Outcome State Fault Refusal := .next (badItem s h idx.toNat)

/-- OUT_SLOT_RETURNED (R355). -/
def execOutSlotReturned (h : Half) (s : State) : Host.Outcome State Fault Refusal :=
  .next (if (half s h).outQueue.isEmpty then s else drainOut (half s h).outQueue s h)

/-- R358: the member that a missing item was awaited from is marked absent; packets kept for it and items that wait to
go to it are discarded. -/
def markAbsent (s : State) (a : BitVec 16) : State :=
  let bit : BitVec 512 := match memberOf s a with
    | none => 0
    | some m => BitVec.ofNat 512 (2 ^ m)
  let drop (x : HalfState) : HalfState :=
    { x with kept := x.kept.filter fun k => k.chan.block != a, outQueue := x.outQueue.filter fun i => i.dst != a || 2 < i.kind }
  { s with
    group := { s.group with absent := s.group.absent ||| bit, timeouts := inc16 s.group.timeouts }
    halfA := drop s.halfA
    halfB := drop s.halfB }

/-- R358, R407 point 0x13: the remote RECV at place `k` of tile `t`'s XF flight has waited TIMEOUT for its item: it commits poisoned. -/
def exchangeTimeout (s : State) (t k : Nat) : State :=
  let x := eng (tileOf s t) .xf
  match x.flight[k]? with
  | none => s
  | some f =>
    match f.pend with
    | .recv c _ _ n xid turn =>
      if f.done ∨ c.isLocal ∨ !tileRuns s t ∨ !recvFirst x k ∨ (recvPacket s t c n xid turn).isSome then s
      else
        let m := (memberOf s c.block).getD 0
        let s1 := noteWait (sendBlockEvent (markAbsent s c.block) 0x0501 (mk64 m)) t f c
        recvCommit (detect s1 (Detect.plain 0x13 (tileHalf t) m)) t k f.idx n (poisonPacket n)
    | _ => s

/-- EXCHANGE_TIMEOUT (R358). -/
def execExchangeTimeout (t : BitVec 10) (k : Nat) (s : State) : Host.Outcome State Fault Refusal := onTile t s (exchangeTimeout s t.toNat k)

end Sys2Proof.Machine
end

