-- ==== Sys2Proof/Machine/MChain.lean ====
section
/-! DEFINITION. The M-chain: frames received, consumed, answered and forwarded (spec/16 R448 to R450). -/

namespace Sys2Proof.Machine

/-- R450: the M-chain interface runs: half A's CT rails are good and the block is out of reset. -/
def mcRuns (s : State) : Bool := !s.su.off && s.su.phase != .power && s.su.phase != .reset

/-- R448: the CRC of a frame holds. -/
def crcOk (f : Frame) : Bool := f.crc == BitVec.ofNat 16 (crc16 (frameBytes f))

/-- The first frame that satisfies `p`, and the rest. -/
def takeFrame (p : Frame → Bool) : List Frame → Option (Frame × List Frame)
  | [] => none
  | f :: fs => if p f then some (f, fs) else (takeFrame p fs).map fun r => (r.1, f :: r.2)

/-- R449: the frame that leaves on MC_OUT next: one to forward, else an NMI of the block's own, which NMI_SENT counts (R456), else an RSP. -/
def mcSend (s : State) : State :=
  match s.su.fwd with
  | f :: fs => { s with su := { s.su with fwd := fs, sent := s.su.sent ++ [f] } }
  | [] =>
    match (takeFrame (fun f => f.type == 5) s.su.own).orElse fun _ => takeFrame (fun _ => true) s.su.own with
    | none => s
    | some (f, fs) =>
      { s with su := { s.su with own := fs, sent := s.su.sent ++ [f], nmiSent := if f.type = 5 then inc16 s.su.nmiSent else s.su.nmiSent } }

/-- R449: a frame that is not consumed. -/
def mcPass (s : State) (f : Frame) : State := { s with su := { s.su with fwd := s.su.fwd ++ [f] } }

/-- R449: a frame arrives whole, while one leaves: with a bad CRC it is discarded and counted, else `k` takes it. -/
def mcArrive (s : State) (f : Frame) (k : State → State) : State :=
  if !mcRuns s then s
  else
    let s1 := mcSend s
    if crcOk f then k s1 else { s1 with su := { s1.su with badcrc := inc16 s1.su.badcrc } }

/-- R450: a SEAT frame. -/
def seat (s : State) (f : Frame) : State :=
  let n := fld f.arg 0 9
  let g := fld f.arg 16 8
  let next : Frame := { f with arg := f.arg + 1 }
  let refused (f : Frame) : Frame := sealFrame { f with flags := f.flags ||| 1 }
  let count (s : State) : State := { s with su := { s.su with refused := inc16 s.su.refused } }
  if 256 ≤ n then mcPass (count s) (refused f)
  else if s.su.sealed then mcPass (count s) (refused next)
  else mcPass { s with su := { s.su with addr := BitVec.ofNat 16 (g * 256 + n), seated := true } } (sealFrame next)

/-- R449: a frame addressed to the block. -/
def isMine (s : State) (f : Frame) : Bool := s.su.seated && f.dst == s.su.addr

/-- R448: the RSP of an RD or WR: STATUS 0 OK, 1 ACCESS_ERROR, 2 NOT_READY, and the register word. -/
def respond (s : State) (f : Frame) (status : Nat) (d : W64) : State :=
  ownFrame s
    (sealFrame
      { type := 4, flags := BitVec.ofNat 8 (put status 4 4 + put (b2n s.su.seated) 1 1), dst := 0, src := s.su.addr, tag := f.tag, arg := 0
        data := d, crc := 0 })

/-- The register address of an RD or WR (R448). -/
def mcAddr (f : Frame) : Nat := fld f.arg 0 48

/-- R459, R460: the answer to an access over the M-chain: those that arrive after one that waits, wait behind it. -/
def mcAvail (s : State) (a : Nat) : Avail :=
  let waits : Instr → Bool
    | .mcRd _ => true
    | .mcWr _ => true
    | _ => false
  if s.clocks.held.any (fun c => waits c.cmd) then .held else avail s a

/-- R449, R460: an RD answered; during a relock it waits. -/
def mcRead (s : State) (f : Frame) : State :=
  match mcAvail s (mcAddr f), regBlock (mcAddr f) with
  | .served, some (b, off) => respond s f 0 (regWord s b off)
  | .notReady, _ => respond s f 2 0
  | .held, _ => holdCmd s (.mcRd f)
  | _, _ => respond s f 1 0

/-- R449: a WR applied once and answered. -/
def mcWrite (s : State) (f : Frame) : State :=
  let key := (f.tag, mk64 (mcAddr f), f.data)
  match mcAvail s (mcAddr f), regBlock (mcAddr f) with
  | .held, _ => holdCmd s (.mcWr f)
  | .served, some (b, off) =>
    if s.su.lastWr = some key then respond s f 0 (regWord s b off)
    else
      let s1 := regWrite { s with su := { s.su with lastWr := some key } } b off f.data
      respond s1 f 0 (regWord s1 b off)
  | .notReady, _ => respond s f 2 0
  | _, _ => respond s f 1 0

/-- R449: the block consumes a frame: a SEAT, or an RD or WR addressed to it. -/
def consumed (s : State) (f : Frame) : Bool := f.type == 1 || ((f.type == 2 || f.type == 3) && isMine s f)

/-- MC_SEAT (R450). -/
def execMcSeat (f : Frame) (s : State) : Host.Outcome State Fault Refusal := .next (if f.type = 1 then mcArrive s f fun s => seat s f else s)

/-- MC_RD (R449). -/
def execMcRd (f : Frame) (s : State) : Host.Outcome State Fault Refusal :=
  .next (if f.type = 2 ∧ isMine s f then mcArrive s f fun s => mcRead s f else s)

/-- MC_WR (R449). -/
def execMcWr (f : Frame) (s : State) : Host.Outcome State Fault Refusal :=
  .next (if f.type = 3 ∧ isMine s f then mcArrive s f fun s => mcWrite s f else s)

/-- MC_FORWARD (R449): a frame that the block does not consume, or one whose CRC fails. -/
def execMcForward (f : Frame) (s : State) : Host.Outcome State Fault Refusal :=
  .next (if consumed s f ∧ crcOk f then s else mcArrive s f fun s => mcPass s f)

end Sys2Proof.Machine
end

