-- ==== Sys2Proof/Machine/Monitor.lean ====
section
/-! DEFINITION. The timebase inputs, the clock monitor, the trim and the end of a relock (spec/14 R378 to R389). -/

namespace Sys2Proof.Machine

/-- The clock monitor and the timebase units run: half A's CT rails are good and the block is out of reset (R381, R386). -/
def monitorRuns (s : State) : Bool := !s.su.off && s.su.phase != .power && s.su.phase != .reset

/-- WOSC runs, and with it the pin filters: half A's CT rails are good (R400). -/
def woscRuns (s : State) : Bool := !s.su.off && s.su.phase != .power

/-- R378: an input is valid while it holds both locks. -/
def tbValid (x : Tb) : Bool := x.blockLock && x.frameLock

/-- R384: the RCLK of an input becomes eligible. -/
def gainElig (s : State) (i : TbIn) : State :=
  let x := tbOf s i
  let c := s.clocks
  if tbValid x ∧ ((x.goodwin = 16 ∧ c.loscWatch) ∨ (16 ≤ x.watchRun ∧ !c.loscWatch)) then setTb s i { x with elig := true } else s

/-- R384: LOSC becomes eligible. -/
def gainLosc (s : State) : State :=
  if s.clocks.loscWatch ∧ (s.tb0.goodwin = 16 ∨ s.tb1.goodwin = 16) then { s with clocks := { s.clocks with losc := true } } else s

/-- R378, R383, R384: an input that loses a lock: it loses validity, GOODWIN and eligibility. -/
def loseLock (s : State) (i : TbIn) (block : Bool) : State :=
  let x := tbOf s i
  let losses := if tbValid x then inc16 x.losses else x.losses
  clockCheck (setTb s i { x with blockLock := x.blockLock && !block, frameLock := false, goodwin := 0, elig := false, losses := losses }) 1

/-- A count lies within bounds. -/
def inTol (c lo hi : Nat) : Bool := decide (lo ≤ c ∧ c ≤ hi)

/-- R383, R384: a window's count of 16 x RCLK of one input. -/
def windowInput (s : State) (i : TbIn) (c : Nat) : State :=
  let x := tbOf s i
  if !tbValid x then setTb s i { x with goodwin := 0 }
  else if inTol c 25003 25013 then setTb s i { x with goodwin := min 16 (x.goodwin + 1) }
  else setTb s i { x with goodwin := 0, elig := x.elig && !s.clocks.loscWatch }

/-- WINDOW_CHECK (R383). -/
def windowCheck (s : State) (c0 c1 : Nat) : State :=
  if !monitorRuns s then s
  else
    let s1 := gainLosc (windowInput (windowInput s .tb0 c0) .tb1 c1)
    clockCheck (gainElig (gainElig s1 .tb0) .tb1) 2

/-- R383, R384: a watch check of one RCLK. -/
def watchInput (s : State) (i : TbIn) (c : Nat) : State :=
  let x := tbOf s i
  if !inTol c 368640 450560 then setTb s i { x with elig := false, watchRun := 0 }
  else setTb s i { x with watchRun := if s.clocks.loscWatch then 0 else min 16 (x.watchRun + 1) }

/-- R383, R384: a watch check of LOSC. -/
def watchLosc (s : State) (c : Nat) : State :=
  let k := s.clocks
  if inTol c 368640 450560 then { s with clocks := { k with loscWatch := true, loscFails := 0 } }
  else { s with clocks := { k with loscWatch := false, loscFails := min 2 (k.loscFails + 1), losc := k.losc && decide (k.loscFails = 0) } }

/-- WATCH_CHECK (R383). An input whose own check fails is not eligible by that check (R384). -/
def watchCheck (s : State) (c r0 r1 : Nat) : State :=
  if !monitorRuns s then s
  else
    let s1 := gainLosc (watchInput (watchInput (watchLosc s c) .tb0 r0) .tb1 r1)
    let s2 := if inTol r0 368640 450560 then gainElig s1 .tb0 else s1
    clockCheck (if inTol r1 368640 450560 then gainElig s2 .tb1 else s2) 3

/-- A quotient rounded to the nearest integer, ties to even (R382). -/
def roundHalfEven (n : Int) (d : Nat) : Int :=
  let q := n / (d : Int)
  let r := 2 * (n % (d : Int))
  if r < d then q else if (d : Int) < r then q + 1 else if q % 2 = 0 then q else q + 1

/-- R382: AUTO after an interval in which LOSC counted `e` sixty-fourths of a cycle. -/
def nextAuto (auto : Int) (e : Nat) : Int :=
  let err : Int := (e : Int) - 262144 * 64
  let step := roundHalfEven (err * 10 ^ 7) (64 * 262144)
  max (-1000) (min 1000 (auto - max (-8) (min 8 step)))

/-- TRIM_UPDATE (R382), with TRIM_LIMIT as AUTO reaches a limit. -/
def trimUpdate (s : State) (e : Nat) : State :=
  if !monitorRuns s ∨ !(tbOf s s.clocks.inUse).elig then s
  else
    let old := sext s.clocks.auto.toNat 11
    let new := nextAuto old e
    let s1 := { s with clocks := { s.clocks with auto := BitVec.ofNat 11 (wrap new 11) } }
    if new ≠ old ∧ (new = 1000 ∨ new = -1000) then clockEvent s1 0x0605 (mk64 (wrap new 64)) else s1

/-- R378: a start-of-frame fault on a locked input. -/
def sofFault (s : State) (i : TbIn) (atPos : Bool) (p : W64) : State :=
  let x := tbOf s i
  if monitorRuns s ∧ tbRuns s i ∧ tbValid x ∧ atPos ≠ sofGood p then setTb s i { x with badsof := inc16 x.badsof } else s

/-- A command that waited, applied (R387, R315, R346, R395, R460); a packet has arrived already. -/
def replayHeld (s : State) (i : Held) : State :=
  match i.cmd with
  | .registerWrite a d => mgmtWrite s a.toNat d
  | .mwr p w0 w1 data => portApply s p.toNat i (accessShut s w0 w1) fun s _ => mwr s p.toNat w0 w1 data
  | .mrd p w0 w1 => portApply s p.toNat i (accessShut s w0 w1) fun s _ => mrd s p.toNat w0 w1
  | .doorbell p w0 w1 => portApply s p.toNat i false fun s turn => doorbell s p.toNat w0 w1 turn
  | .badpkt p _ => portApply s p.toNat i false fun s _ => badPacket s p.toNat
  | .mcRd f => mcRead s f
  | .mcWr f => mcWrite s f
  | _ => s

/-- The commands that wait, applied in order; those that still cannot be wait on. -/
def releaseHeld (s : State) : State := s.clocks.held.foldl replayHeld { s with clocks := { s.clocks with held := [] } }

/-- R401: doorbells kept during a halt that has ended, once the clocks run. -/
def resumeBells (s : State) : State := if halted s ∨ !ctRuns s then s else ringBells s

/-- R387: what the block had to write while the clocks stood still. -/
def resumeWork (s : State) : State :=
  let s0 := handBack s.replies [] { s with replies := [] }
  let s1 := [Half.A, Half.B].foldl (fun s h => if (half s h).outQueue.isEmpty then s else drainOut (half s h).outQueue s h) s0
  let s2 := bulletinReturned (bulletinReturned s1 .A) .B
  let s3 := (usedSlots s2).foldl publish s2
  freeImages (afterBatches (((s3.bwaits.map (·.tenant)).eraseDups).foldl drainTenant s3))

/-- R387: the restart: events, marks, what waited to be written, doorbells kept before, held accesses in order and a gate command go on. -/
def restart (s : State) : State :=
  let s1 := flushMarks (flushEvs { s with clocks := { s.clocks with relock := none, relockAll := false } })
  resumeGate (releaseHeld (resumeBells (resumeWork s1)))

/-- R387: the end of the relock in progress. -/
def relockEnd (s : State) : State :=
  match s.clocks.relock with
  | none => s
  | some t => if refRuns s then restart (elapseTo s t) else s

/-- R329: the open bulletin of a half closes once its 2 us have passed. -/
def tickBulletin (s : State) (h : Half) : State :=
  if !(half s h).bullOpen.isEmpty ∧ (half s h).bullSince + 2 ≤ s.now then bulletinTimeout s h else s

/-- R63, R406: storage at word `b` of a tile's scratch or of a staging store holds a correctable error from now on. -/
def upsetSingle (s : State) (b : Nat) : State :=
  let ok : Bool := match regionOf b 8 with
    | .window t => tileEnabled s t
    | .stage _ => true
    | _ => false
  if ok ∧ !memPz s.mem b then { s with mem := { s.mem with single := smSet false s.mem.single b true } } else s

/-- R63, R340, R406: the word at `b` holds an uncorrectable error from now on: its bits may differ, and a read returns it with poison. -/
def upsetDouble (s : State) (b : Nat) (x : W64) : State :=
  let ok : Bool := match regionOf b 8 with
    | .window t => tileEnabled s t
    | .stage _ => true
    | .stack => true
    | _ => false
  if ok then { s with mem := memWrite s.mem b ((bytesOf 8 (memWord s.mem b ^^^ x).toNat).map fun y => (y, true)) } else s

/-- R70: a lane of a word of a tile's queue no longer passes its parity check: the tile, the queue, the item and the word in it. -/
def upsetQueue (s : State) (n : Nat) : State :=
  let t := n % 1024
  let q := n / 1024 % 18
  if tileEnabled s t then setTile s t (setQ (tileOf s t) q (qFlip (tileQ (tileOf s t) q) (n / 2 ^ 15 % 2 ^ 16) (n / 2 ^ 31))) else s

/-- R406: a word of the retransmit store or the receive log of a half holds a correctable error, or one that no longer is: the half, the store, the
item and the word. -/
def upsetStore (s : State) (n : Nat) (double : Bool) : State :=
  let h := halfOf (n % 2)
  let k := n / 4 % 2 ^ 16
  let flip (ws : List QWord) : List QWord := ws.zipIdx.map fun p => if double ∧ p.2 = n / 2 ^ 18 then { p.1 with pz := true } else p.1
  if n / 2 % 2 = 0 then
    modHalf s h fun x =>
      { x with log := x.log.zipIdx.map fun p => if p.2 = k then { p.1 with words := flip p.1.words, ce := p.1.ce + b2n (!double) } else p.1 }
  else
    modHalf s h fun x =>
      { x with kept := x.kept.zipIdx.map fun p => if p.2 = k then { p.1 with words := flip p.1.words, ce := p.1.ce + b2n (!double) } else p.1 }

/-- R406, R407, R422: an uncorrectable error in a control structure, or an inconsistent state of the firmware: point 0x14, or 0x15 inside a
recovery step. -/
def upsetControl (s : State) (firmware : Bool) : State :=
  match s.errs.handling with
  | some l => blockStop s (Detect.plain 0x15 (((entryOf s l).map (·.half)).getD .A) 0)
  | none => if firmware then s else detect s (Detect.plain 0x14 .A 0)

/-- R63, R70, R406, R422: what befalls the block's storage in the microsecond that ends now, a free value (log 101). -/
def upset (s : State) : State :=
  let n := Config.upsetAt s.now
  if s.su.off then s
  else
    match Config.upsetKind s.now with
    | 1 => upsetSingle s (n / 8 * 8)
    | 2 => upsetDouble s (n / 8 * 8) (Config.upsetBits s.now)
    | 3 => upsetQueue s n
    | 4 => { s with errs := { s.errs with ceCtrl := inc32 s.errs.ceCtrl } }
    | 5 => upsetControl s false
    | 6 => upsetControl s true
    | 7 => upsetStore s n false
    | 8 => upsetStore s n true
    | _ => s

/-- One microsecond of an idle block (log 2): what falls due by then happens: a relock ends, what waited goes on, bulletins close, a stall
begins; a frame leaves on the M-chain. -/
def tick (s : State) : State :=
  let s1 := upset (elapse s 1)
  let s2 := if s1.clocks.relock.any fun t => t ≤ s1.now then relockEnd s1 else s1
  let s3 := if clocksRun s2 ∧ !s2.clocks.held.isEmpty then releaseHeld s2 else s2
  let s4 := tickBulletin (tickBulletin s3 .A) .B
  let s5 := if mayStall s4 ∧ s4.turns.stallAt ≤ s4.now then stallNow s4 else s4
  if mcRuns s5 then mcSend s5 else s5

/-- BLOCK_LOCK_ACQUIRED (R378). -/
def execBlockLockAcquired (i : TbIn) (s : State) : Host.Outcome State Fault Refusal :=
  .next (if monitorRuns s ∧ tbRuns s i then setTb s i { tbOf s i with blockLock := true } else s)

/-- BLOCK_LOCK_LOST (R378). -/
def execBlockLockLost (i : TbIn) (s : State) : Host.Outcome State Fault Refusal :=
  .next (if monitorRuns s ∧ (tbOf s i).blockLock then loseLock s i true else s)

/-- FRAME_LOCK_ACQUIRED (R378): stream-block lock is held. -/
def execFrameLockAcquired (i : TbIn) (s : State) : Host.Outcome State Fault Refusal :=
  .next
    (if monitorRuns s ∧ tbRuns s i ∧ (tbOf s i).blockLock then clockCheck (gainElig (setTb s i { tbOf s i with frameLock := true }) i) 1 else s)

/-- FRAME_LOCK_LOST (R378). -/
def execFrameLockLost (i : TbIn) (s : State) : Host.Outcome State Fault Refusal :=
  .next (if monitorRuns s ∧ (tbOf s i).frameLock then loseLock s i false else s)

/-- WINDOW_CHECK (R383). -/
def execWindowCheck (c0 c1 : Nat) (s : State) : Host.Outcome State Fault Refusal := .next (windowCheck s c0 c1)

/-- WATCH_CHECK (R383). -/
def execWatchCheck (losc r0 r1 : Nat) (s : State) : Host.Outcome State Fault Refusal := .next (watchCheck s losc r0 r1)

/-- TRIM_UPDATE (R382). -/
def execTrimUpdate (loscElapsed : Nat) (s : State) : Host.Outcome State Fault Refusal := .next (trimUpdate s loscElapsed)

/-- RELOCK_END (R387). -/
def execRelockEnd (s : State) : Host.Outcome State Fault Refusal := .next (relockEnd s)

/-- START_OF_FRAME_FAULT (R378). -/
def execStartOfFrameFault (i : TbIn) (atPosition : Bool) (payload : W64) (s : State) : Host.Outcome State Fault Refusal :=
  .next (sofFault s i atPosition payload)

end Sys2Proof.Machine
end

