-- ==== Sys2Proof/Machine/Pins.lean ====
section
/-! DEFINITION. Discrete inputs (spec/14 R400 to R402), domain faults (R393), memory-port and host-port training (spec/12 R345, R346,
spec/11 R314) and the Boxcars limits (spec/10 R306, R308). -/

namespace Sys2Proof.Machine

/-- R401: the halt ends: the doorbells kept are handled, once the clocks run. -/
def haltEnds (s : State) : State := resumeBells s

/-- HALT_REQ_ASSERT (R401). Until WOSC runs the level is kept, that of its filter's first sample (R400; log 124). -/
def haltAssert (s : State) : State := { s with pins := { s.pins with haltReq := true } }

/-- HALT_REQ_RELEASE (R401). -/
def haltRelease (s : State) : State :=
  let s1 := { s with pins := { s.pins with haltReq := false } }
  if s.pins.haltReq ∧ woscRuns s then haltEnds s1 else s1

/-- R402: the input is stuck: the halt ends, HALT_STUCK. -/
def haltStuck (s : State) : State :=
  if woscRuns s ∧ s.pins.haltReq ∧ !s.pins.stuck then
    haltEnds (sendBlockEvent { s with pins := { s.pins with stuck := true } } 0x0607 0)
  else s

/-- R402: the input re-arms: HALT_REARMED. -/
def haltRearmed (s : State) : State :=
  if woscRuns s ∧ s.pins.stuck ∧ !s.pins.haltReq then sendBlockEvent { s with pins := { s.pins with stuck := false } } 0x0608 0 else s

/-- R400: a pulse that a filter rejects is counted. -/
def filteredPulse (s : State) (p : Pin) : State :=
  let n := s.pins
  if !woscRuns s then s
  else
    match p with
    | .resetN => { s with pins := { n with glitchRst := inc16 n.glitchRst } }
    | .pwrOk => { s with pins := { n with glitchPwr := inc16 n.glitchPwr } }
    | .haltReq => { s with pins := { n with glitchHalt := inc16 n.glitchHalt } }

/-- R407: the detection point of a domain's fault: 0x0a for TG and HPD, 0x0b for CT and MPG. -/
def domainSrc (d : Nat) : Nat := if d % 18 < 12 ∨ d % 18 = 17 then 0x0a else 0x0b

/-- R393: a domain's regulator faults: DOMAIN_FAULT, the domain off at once with its state lost, its FAULT bit, and the error. The registers
stay readable after the BLOCK stop that a CT fault brings (R427). -/
def domainFault (s : State) (d : Nat) : State :=
  if !s.power.on.getLsbD d ∨ s.su.off then s
  else
    let h := halfOf (d / 18)
    let s1 := sendHalfEvent s h 0x0606 (mk64 d)
    let s2 := loseDomain s1 d
    let s3 := { s2 with
      power := { s2.power with
        on := s2.power.on &&& ~~~(domBit d), clk := s2.power.clk &&& ~~~(domBit d), fault := s2.power.fault ||| domBit d } }
    let s4 := detect s3 (Detect.plain (domainSrc d) h d)
    if d = 34 then clockCheck s4 1 else s4

/-- R345: STK_PG has read high for 1 ms; an OFF port whose domain is on trains. -/
def pgRise (s : State) (p : Nat) : State :=
  if woscRuns s then startTraining { s with ports := smSet MemPort.off s.ports p { mpOf s p with pg := true } } p else s

/-- R346, R464: the stack of port `p` loses its power, and with it what was written to it (log 1). -/
def loseStack (m : Mem) (p : Nat) : Mem :=
  let other (a : Nat) : Bool := decide (stackEnd ≤ a) || portOf a != p
  { m with
    cells := m.cells.filter fun c => other c.1, poison := m.poison.filter fun c => other c.1, single := m.single.filter fun c => other c.1 }

/-- R346: once a port no longer retrains, the accesses it held go on. -/
def resumeStacks (s : State) : State := if clocksRun s then releaseHeld s else s

/-- R346: the filtered STK_PG falls: an UP or retraining port is FAILED with cause 8; one that trains for the first time is OFF again. -/
def pgFall (s : State) (p : Nat) : State :=
  if !woscRuns s ∨ !(mpOf s p).pg then s
  else
    let s1 := { s with ports := smSet MemPort.off s.ports p { mpOf s p with pg := false }, mem := loseStack s.mem p }
    let x := mpOf s1 p
    if x.st = .up ∨ x.retrain then resumeStacks (portFail s1 p 8)
    else if x.st = .training then { s1 with ports := smSet MemPort.off s1.ports p { x with st := .off } }
    else s1

/-- R345, R346: a port completes its training, or its retraining, after which what it held goes on; its deskew takes effect (R398). -/
def portUp (s : State) (p : Nat) (repaired : Byte) (again : Bool) : State :=
  let x := mpOf s p
  if x.st = .training ∧ x.retrain = again ∧ refRuns s ∧ s.power.on.getLsbD (mpDomain p) then
    let s1 := { s with
      ports := smSet MemPort.off s.ports p { x with st := .up, retrain := false, repaired := repaired }
      mem := { s.mem with failed := s.mem.failed &&& ~~~(BitVec.ofNat 32 (2 ^ p)) } }
    (if again then resumeStacks else id) (latchDeskew s1 p)
  else s

/-- R345, R346: training, or a retrain, exceeds its limit: FAILED, with a cause of MP_STAT. -/
def portTimeout (s : State) (p cause : Nat) (again : Bool) : State :=
  let x := mpOf s p
  if x.st = .training ∧ x.retrain = again ∧ refRuns s then (if again then resumeStacks else id) (portFail s p cause) else s

/-- R346, R337: the adapter replays a flit: counted at its port. -/
def flitReplay (s : State) (mem : Bool) (p : Nat) : State :=
  if mem then
    let x := mpOf s p
    if x.st = .up then { s with ports := smSet MemPort.off s.ports p { x with retries := inc16 x.retries } } else s
  else
    let x := hpOf s p
    if x.trained ∧ p < 4 then setHp s p { x with retries := inc16 x.retries } else s

/-- R314: a host port trains, with HOST_PORT_UP; its deskew takes effect (R398). -/
def hostUp (s : State) (p : Nat) (repaired : BitVec 7) : State :=
  let x := hpOf s p
  if x.trained ∨ !refRuns s ∨ !s.power.on.getLsbD (hpDomain p) ∨ !s.power.clk.getLsbD (hpDomain p) then s
  else
    sendHalfEvent (latchDeskew (setHp s p { x with trained := true, repaired := repaired }) (32 + p)) (if p < 2 then .A else .B) 0x030a
      (mk64 p)

/-- R306, R308, R398: a sensor's effective temperature is above 100 degrees C: HOT, and Boxcars is left. -/
def boxHot (s : State) (sensor : Nat) (temp : BitVec 16) : State :=
  if 24 ≤ sensor ∨ (effTemp s sensor temp).toInt ≤ 400 ∨ !ctRuns s then s
  else
    let s1 := { s with
      modes := { s.modes with hot := true }, power := { s.power with temps := smSet 0 s.power.temps sensor temp } }
    if s1.modes.boxing then sendBlockEvent (leaveBoxcars s1) 0x020b (mk64 sensor) else s1

/-- R308, R398: every sensor's effective temperature is below 95 degrees C: HOT ends. -/
def hotClear (s : State) (temps : List (BitVec 16)) : State :=
  if temps.length = 24 ∧ temps.zipIdx.all (fun t => decide ((effTemp s t.2 t.1).toInt < 380)) ∧ ctRuns s then
    { s with
      modes := { s.modes with hot := false }
      power := { s.power with temps := temps.zipIdx.foldl (fun m p => smSet 0 m p.2 p.1) s.power.temps } }
  else s

/-- R306: the instant at which THERMAL reaches 0. -/
def boxSpent (s : State) : State := if s.modes.boxing ∧ clocksRun s then elapse s (ceilDiv s.modes.thermal 5) else s

/-- R306, R309: the instant at which the wear allowance is used, where THERMAL lasts until then. -/
def boxWorn (s : State) : State :=
  let n := 7200000000000 - (s.modes.wearBase.toNat * 1000000 + s.modes.usedUs)
  if s.modes.boxing ∧ clocksRun s ∧ 5 * n < s.modes.thermal then elapse s n else s

/-- R308: the instant at which THERMAL reaches 20,000 ms. -/
def thermalRecovered (s : State) : State :=
  if s.modes.recovering ∧ !s.modes.boxing ∧ clocksRun s then elapse s (100000000 - s.modes.thermal) else s

/-- HALT_REQ_ASSERT (R401). -/
def execHaltReqAssert (s : State) : Host.Outcome State Fault Refusal := .next (haltAssert s)

/-- HALT_REQ_RELEASE (R401). -/
def execHaltReqRelease (s : State) : Host.Outcome State Fault Refusal := .next (haltRelease s)

/-- HALT_STUCK (R402). -/
def execHaltStuck (s : State) : Host.Outcome State Fault Refusal := .next (haltStuck s)

/-- HALT_REARMED (R402). -/
def execHaltRearmed (s : State) : Host.Outcome State Fault Refusal := .next (haltRearmed s)

/-- FILTERED_PULSE (R400). -/
def execFilteredPulse (p : Pin) (s : State) : Host.Outcome State Fault Refusal := .next (filteredPulse s p)

/-- DOMAIN_FAULT (R393). -/
def execDomainFault (d : BitVec 6) (s : State) : Host.Outcome State Fault Refusal := .next (domainFault s d.toNat)

/-- STK_PG_RISE (R345). -/
def execStkPgRise (p : BitVec 5) (s : State) : Host.Outcome State Fault Refusal := .next (pgRise s p.toNat)

/-- STK_PG_FALL (R346). -/
def execStkPgFall (p : BitVec 5) (s : State) : Host.Outcome State Fault Refusal := .next (pgFall s p.toNat)

/-- MP_TRAINED (R345). -/
def execMpTrained (p : BitVec 5) (repaired : Byte) (s : State) : Host.Outcome State Fault Refusal := .next (portUp s p.toNat repaired false)

/-- MP_TRAIN_TIMEOUT (R345): causes 1 to 6 of MP_STAT. -/
def execMpTrainTimeout (p : BitVec 5) (cause : BitVec 4) (s : State) : Host.Outcome State Fault Refusal :=
  .next (if 1 ≤ cause.toNat ∧ cause.toNat ≤ 6 then portTimeout s p.toNat cause.toNat false else s)

/-- MEM_PORT_RETRAIN (R346). -/
def execMemPortRetrain (p : BitVec 5) (s : State) : Host.Outcome State Fault Refusal := .next (portRetrain s p.toNat)

/-- MP_RETRAINED (R346). -/
def execMpRetrained (p : BitVec 5) (repaired : Byte) (s : State) : Host.Outcome State Fault Refusal := .next (portUp s p.toNat repaired true)

/-- MP_RETRAIN_TIMEOUT (R346). -/
def execMpRetrainTimeout (p : BitVec 5) (s : State) : Host.Outcome State Fault Refusal := .next (portTimeout s p.toNat 7 true)

/-- LINK_FLIT_REPLAY (R346). -/
def execLinkFlitReplay (mem : Bool) (p : BitVec 5) (s : State) : Host.Outcome State Fault Refusal := .next (flitReplay s mem p.toNat)

/-- HOST_PORT_DOWN (R314). -/
def execHostPortDown (p : BitVec 2) (s : State) : Host.Outcome State Fault Refusal := .next (hostDown s p.toNat)

/-- HOST_PORT_UP (R314). -/
def execHostPortUp (p : BitVec 2) (repaired : BitVec 7) (s : State) : Host.Outcome State Fault Refusal := .next (hostUp s p.toNat repaired)

/-- BOXCARS_SPENT (R306). -/
def execBoxcarsSpent (s : State) : Host.Outcome State Fault Refusal := .next (boxSpent s)

/-- BOXCARS_WORN (R306). -/
def execBoxcarsWorn (s : State) : Host.Outcome State Fault Refusal := .next (boxWorn s)

/-- BOXCARS_HOT (R306). -/
def execBoxcarsHot (sensor : BitVec 5) (temp : BitVec 16) (s : State) : Host.Outcome State Fault Refusal := .next (boxHot s sensor.toNat temp)

/-- HOT_CLEAR (R308). -/
def execHotClear (temps : List (BitVec 16)) (s : State) : Host.Outcome State Fault Refusal := .next (hotClear s temps)

/-- THERMAL_RECOVERED (R308). -/
def execThermalRecovered (s : State) : Host.Outcome State Fault Refusal := .next (thermalRecovered s)

end Sys2Proof.Machine
end

