-- ==== Sys2Proof/Machine/Startup.lean ====
section
/-! DEFINITION. The start-up sequencer, reset, power and shutdown (spec/16 R435 to R447, spec/14 R390). -/

namespace Sys2Proof.Machine

/-- R382, R384, R405: no REF yet. -/
def Clocks.stopped : Clocks := { Clocks.reset with src := 3, losc := false, loscWatch := false }

/-- R396: the CT domains of both halves. -/
def ctBits : BitVec 36 := domBit 16 ||| domBit 34

/-- R439, R464: memory after the block has lost its own: the stacks alone keep their contents. -/
def stacksOnly (m : Mem) : Mem :=
  { cells := m.cells.filter fun c => c.1 < stackEnd, poison := m.poison.filter fun c => c.1 < stackEnd
    single := m.single.filter fun c => c.1 < stackEnd, failed := 0 }

/-- R4, R445, R447: the block with its contents lost and every register at its reset value; the fuses are to be loaded again (R57), no
clock is eligible, and the domains in `on` have power. Packets and frames already sent, the inputs' levels and the commands stand. -/
def freshBlock (s : State) (on : BitVec 36) (phase : Phase) : State :=
  { State.reset with
    pending := s.pending, now := s.now, mem := stacksOnly s.mem, fuse := { s.fuse with valid := false }, sent := s.sent
    tb0 := Tb.unlocked, tb1 := Tb.unlocked, clocks := Clocks.stopped
    pins := { Pins.reset with resetN := s.pins.resetN, haltReq := s.pins.haltReq }
    power := { Power.reset with on := on, clk := 0, samples := s.power.samples }
    su := { Startup.reset with phase := phase, since := s.su.since, sent := s.su.sent } }

/-- R57, R435: FUSE begins: what the fuses hold is to be loaded. -/
def beginFuse (s : State) : State := { s with su := { s.su with phase := .fuse }, fuse := { s.fuse with valid := false } }

/-- R445: a filtered fall of RESET_N. Until WOSC runs only the level is kept, that of its filter's first sample (R400; log 124). -/
def resetFall (s : State) : State :=
  let s1 := { s with pins := { s.pins with resetN := false } }
  if s.su.off ∨ s.su.phase = .power then s1
  else if !s.pins.resetN then s
  else freshBlock s1 ctBits .reset

/-- R445: a filtered rise of RESET_N: the sequence resumes at FUSE. -/
def resetRise (s : State) : State :=
  let s1 := { s with pins := { s.pins with resetN := true } }
  if s.su.off then s1
  else if s.su.phase = .reset then beginFuse s1
  else s1

/-- R390, R447: the chiplets stop: no step of the block runs, and its contents are lost. -/
def powerLost (s : State) : State :=
  let s1 := freshBlock s 0 .reset
  if s.su.off ∧ !s.pins.pwrOk then s
  else { s1 with pins := { s1.pins with pwrOk := false }, su := { s1.su with off := true, counting := false } }

/-- R390, R435: the chiplets see PWR_OK rise: POWER begins, and ELAPSED counts from here. -/
def powerRise (s : State) : State :=
  if s.pins.pwrOk then s
  else
    let s1 := freshBlock s 0 .power
    { s1 with su := { s1.su with since := s.now } }

/-- R447: the filtered fall of PWR_OK. -/
def powerFall (s : State) : State := if s.pins.pwrOk then powerLost s else s

/-- R379, R435: the core starts on an eligible RCLK, the input that PREF names, or the other one where only that is eligible; its CT loops lock
for 40 us (R437). -/
def startClock (s : State) : State :=
  clockCheck
    { s with clocks := { s.clocks with src := 0, inUse := prefIn s, relock := some (s.now + 40), relockAll := true }, power := { s.power with clk := ctBits }, su := { s.su with phase := .domains } } 1

/-- R437, R438: all 36 domains on and clocked; the ports of the MPG domains train. -/
def startDomains (s : State) : State :=
  let s1 := (List.range 36).foldl domainOn s
  { s1 with power := { s1.power with clk := 0xfffffffff }, su := { s1.su with phase := .links } }

/-- R439: every SRAM passes and holds its reset contents. -/
def selfTested (s : State) : State :=
  { s with
    mem := { stacksOnly s.mem with failed := s.mem.failed }
    tiles := [], slots := [], images := []
    halfA := { s.halfA with refs := [], handles := [], log := [] }
    halfB := { s.halfB with refs := [], handles := [], log := [] }
    su := { s.su with phase := .fwWait, stewMem := [] } }

/-- STARTUP_PHASE_END (R435): the current phase's end condition holds. FW_WAIT, FW_AUTH and SEAL_WAIT end by their own commands. -/
def phaseEnd (s : State) : State :=
  let go (p : Phase) : State := { s with su := { s.su with phase := p } }
  if s.su.off then s
  else
    match s.su.phase with
    | .power =>
      if s.pins.resetN then beginFuse { s with power := { s.power with on := ctBits } }
      else { go .reset with power := { s.power with on := ctBits } }
    | .reset => if s.pins.resetN then beginFuse s else s
    | .fuse => if fuseOk s.fuse then { go .clock with fuse := { s.fuse with valid := true } } else s
    | .clock => if anyRclk s then startClock s else s
    | .domains => if ctRuns s then startDomains s else s
    | .links => if (hpOf s 0).trained && (List.range 32).all fun p => (mpOf s p).st == .up then go .selftest else s
    | .selftest => selfTested s
    | .fwWait => s
    | .fwAuth => s
    | .sealWait => s
    | .sealCheck => s
    | .ready => s
    | .shut => s
    | .stopped => s

/-- R435: STOPPED with a CODE. -/
def stopWith (s : State) (c : Nat) : State :=
  let s1 := stopElapsed s
  { s1 with su := { s1.su with phase := .stopped, code := BitVec.ofNat 8 c } }

/-- R439, R456: the bytes of a unit that SELFTEST tests, by its UNIT: scratch (R62), staging store (R37), request table, the queues of a tile
(R75), steward memory (R456: an image of up to 16 MB). -/
def bistBytes (unit : Nat) : Nat :=
  match unit with
  | 1 => scratchSize
  | 2 => stageSize
  | 3 => 32768 * 256
  | 4 => ((List.range 18).map fun q => qDepth q * qLanes q * 8).sum
  | _ => 2 ^ 24

/-- R439, R456: SU_BIST names the word that failed: UNIT 1 to 5, an enabled tile (R52) where the unit is a tile's scratch or a queue, with its
HALF, and a word offset inside the unit. Which it is, is a free value (log 5). -/
def bistWord (s : State) (n : Nat) : W64 :=
  let x := Config.bistSample n
  let ts := (List.range 1024).filter (tileEnabled s)
  let unit := if ts.isEmpty then ([2, 3, 5] : List Nat).getD (fld x 60 4 % 3) 2 else fld x 60 4 % 5 + 1
  let ofTile := unit == 1 || unit == 4
  let tile := if ofTile then ts.getD (fld x 48 10 % ts.length) 0 else 0
  let half := if ofTile then tile / 512 else if unit = 5 then 0 else fld x 47 1
  mk64 (put unit 60 4 + put tile 48 10 + put half 47 1 + put (fld x 0 47 % (bistBytes unit / 8) * 8) 0 47)

/-- STARTUP_TIMEOUT (R435): the current phase fails with `cause`. -/
def phaseTimeout (s : State) (cause : Nat) : State :=
  let stop (p : Bool) : State := if p then stopWith s cause else s
  if s.su.off then s
  else
    match s.su.phase with
    | .power => stop (cause == 1)
    | .fuse => stop (cause == 2)
    | .domains => stop (cause == 3)
    | .links =>
      stop ((cause == 4 && !(hpOf s 0).trained) || (cause == 5 && (List.range 32).any fun p => (mpOf s p).st == .failed)
        || (cause == 6 && (List.range 32).any fun p => (mpOf s p).st == .off))
    | .selftest =>
      if cause = 7 then
        let s1 := stopWith s 7
        { s1 with
          power := { s1.power with samples := s1.power.samples + 1 }, su := { s1.su with bist := bistWord s s.power.samples } }
      else s
    | .fwAuth => { s with su := { s.su with phase := .fwWait, fwResult := 1, fwTries := inc16 s.su.fwTries } }
    | .sealCheck =>
      if 0x10 ≤ cause ∧ cause ≤ 0x15 then { s with su := { s.su with phase := .sealWait, code := BitVec.ofNat 8 cause } } else s
    | .reset => s
    | .clock => s
    | .fwWait => s
    | .sealWait => s
    | .ready => s
    | .shut => s
    | .stopped => s

/-- R446 steps 2 to 4: the kernels in flight have ended; the MPG clocks close, and the block enters SHUT. -/
def shutdownDone (s : State) : State :=
  if s.su.phase ≠ .ready ∨ !s.su.closing ∨ !ctRuns s ∨ !s.halfA.jobs.isEmpty ∨ !s.halfB.jobs.isEmpty then s
  else
    let mpg := (List.range 8).foldl (fun b k => b ||| domBit (18 * (k / 4) + 12 + k % 4)) 0
    { s with power := { s.power with clk := s.power.clk &&& ~~~mpg }, su := { s.su with phase := .shut } }

/-- RESET_N_FALL (R445). -/
def execResetNFall (s : State) : Host.Outcome State Fault Refusal := .next (resetFall s)

/-- RESET_N_RISE (R445). -/
def execResetNRise (s : State) : Host.Outcome State Fault Refusal := .next (resetRise s)

/-- PWR_OK_RISE (R390). -/
def execPwrOkRise (s : State) : Host.Outcome State Fault Refusal := .next (powerRise s)

/-- PWR_OK_FALL (R447). -/
def execPwrOkFall (s : State) : Host.Outcome State Fault Refusal := .next (powerFall s)

/-- VIN_OUT_OF_RANGE (R390). -/
def execVinOutOfRange (s : State) : Host.Outcome State Fault Refusal := .next (powerLost s)

/-- STARTUP_PHASE_END (R435). -/
def execStartupPhaseEnd (s : State) : Host.Outcome State Fault Refusal := .next (phaseEnd s)

/-- STARTUP_TIMEOUT (R435). -/
def execStartupTimeout (cause : BitVec 8) (s : State) : Host.Outcome State Fault Refusal := .next (phaseTimeout s cause.toNat)

/-- SHUTDOWN_COMPLETE (R446). -/
def execShutdownComplete (s : State) : Host.Outcome State Fault Refusal := .next (shutdownDone s)

end Sys2Proof.Machine
end

