-- ==== Sys2Proof/Machine/FwAuth.lean ====
section
/-! DEFINITION. Firmware authentication (spec/16 R440, R441): SHA-384 (FIPS 180-4), ECDSA on P-384 (FIPS 186-5), and the six checks. -/

namespace Sys2Proof.Machine

/-- The largest `r` below 2^n whose `k`-th power is at most `v`, by its bits. -/
def rootBits (k v : Nat) : Nat → Nat → Nat
  | 0, r => r
  | n + 1, r => rootBits k v n (if (r + 2 ^ n) ^ k ≤ v then r + 2 ^ n else r)

/-- The first `n` primes at or after `k`, by fuel. -/
def primesFrom : Nat → Nat → Nat → List Nat
  | 0, _, _ => []
  | _, 0, _ => []
  | f + 1, n + 1, k =>
    if (List.range k).all fun d => d < 2 || k % d != 0 then k :: primesFrom f n (k + 1) else primesFrom f (n + 1) (k + 1)

/-- FIPS 180-4: the 80 round constants, the first 64 fraction bits of the cube roots of the first 80 primes. -/
def shaK : List Nat := (primesFrom 500 80 2).map fun p => rootBits 3 (p * 2 ^ 192) 68 0 % 2 ^ 64

/-- FIPS 180-4: the initial hash value of SHA-384, from the square roots of the 9th to 16th primes. -/
def shaInit : List Nat := ((primesFrom 500 16 2).drop 8).map fun p => rootBits 2 (p * 2 ^ 128) 68 0 % 2 ^ 64

/-- A 64-bit word rotated right. -/
def ror64 (x n : Nat) : Nat := (x >>> n + x <<< (64 - n)) % 2 ^ 64

/-- Three words combined by exclusive or. -/
def xor3 (a b c : Nat) : Nat := Nat.xor a (Nat.xor b c)

/-- The message schedule, newest word first, extended by `n` words. -/
def shaSchedule : Nat → List Nat → List Nat
  | 0, w => w
  | n + 1, w =>
    let x (i : Nat) : Nat := w.getD (i - 1) 0
    let s0 := xor3 (ror64 (x 15) 1) (ror64 (x 15) 8) (x 15 >>> 7)
    let s1 := xor3 (ror64 (x 2) 19) (ror64 (x 2) 61) (x 2 >>> 6)
    shaSchedule n ((s1 + x 7 + s0 + x 16) % 2 ^ 64 :: w)

/-- One round on the eight working words. -/
def shaRound (v : List Nat) (kw : Nat × Nat) : List Nat :=
  match v with
  | [a, b, c, d, e, f, g, h] =>
    let t1 := h + xor3 (ror64 e 14) (ror64 e 18) (ror64 e 41) + Nat.xor (Nat.land e f) (Nat.land (2 ^ 64 - 1 - e) g) + kw.1 + kw.2
    let t2 := xor3 (ror64 a 28) (ror64 a 34) (ror64 a 39) + xor3 (Nat.land a b) (Nat.land a c) (Nat.land b c)
    [(t1 + t2) % 2 ^ 64, a, b, c, (d + t1) % 2 ^ 64, e, f, g]
  | _ => v

/-- One block of 128 bytes. -/
def shaBlock (ks : List Nat) (h : List Nat) (b : List Byte) : List Nat :=
  let w := (chunks 8 b).map fun c => numOf c.reverse
  let sched := (shaSchedule 64 w.reverse).reverse
  let v := (ks.zip sched).foldl shaRound h
  (h.zip v).map fun p => (p.1 + p.2) % 2 ^ 64

/-- The SHA-384 digest, as a number of 384 bits. -/
def sha384 (m : List Byte) : Nat :=
  let pad := List.replicate ((239 - m.length % 128) % 128) (0 : Byte)
  let padded := m ++ [0x80] ++ pad ++ (bytesOf 16 (8 * m.length)).reverse
  ((chunks 128 padded).foldl (shaBlock shaK) shaInit).take 6 |>.foldl (fun n w => n * 2 ^ 64 + w) 0

/-- The prime of P-384. -/
def p384 : Nat := 2 ^ 384 - 2 ^ 128 - 2 ^ 96 + 2 ^ 32 - 1

/-- The order of P-384. -/
def n384 : Nat := 0xffffffffffffffffffffffffffffffffffffffffffffffffc7634d81f4372ddf581a0db248b0a77aecec196accc52973

/-- The coefficient b of P-384. -/
def b384 : Nat := 0xb3312fa7e23ee7e4988e056be3f82d19181d9c6efe8141120314088f5013875ac656398d8a2ed19d2a85c8edd3ec2aef

/-- The base point of P-384. -/
def g384 : Nat × Nat :=
  (0xaa87ca22be8b05378eb1c71ef320ad746e1d3b628ba79b9859f741e082542a385502f25dbf55296c3a545e3872760ab7,
   0x3617de4a96262c6f5d9e98bf9292dc29f8f41dbd289a147ce9da3113b5f0b8c00a60b1ce1d7e819d7a431d7c90ea0e5f)

/-- `a` to the power of the low `n` bits of `e`, modulo `m`. -/
def powMod (m : Nat) : Nat → Nat → Nat → Nat
  | 0, _, _ => 1
  | n + 1, a, e => (if e % 2 = 1 then a else 1) * powMod m n (a * a % m) (e / 2) % m

/-- The inverse modulo a prime `m` below 2^384. -/
def invMod (m a : Nat) : Nat := powMod m 384 a (m - 2)

/-- A point of the curve y^2 z = x^3 - 3 x z^2 + b z^3 in homogeneous coordinates (x, y, z), the point at infinity with z = 0. -/
structure EcPoint where
  x : Nat
  y : Nat
  z : Nat

/-- The sum of any two points: the complete addition formulas for a curve of prime order with a = -3. -/
def ecAdd (a b : EcPoint) : EcPoint :=
  let p := p384
  let xx := a.x * b.x % p
  let yy := a.y * b.y % p
  let zz := a.z * b.z % p
  let xy := (a.x * b.y + b.x * a.y) % p
  let yz := (a.y * b.z + b.y * a.z) % p
  let xz := (a.x * b.z + b.x * a.z) % p
  let c := 3 * (xz + (p - b384) * zz) % p
  let d := 3 * (b384 * xz + (p - 3) * zz + (p - xx)) % p
  let g := 3 * (xx + (p - zz)) % p
  { x := (xy * (yy + c) + (p - yz) * d) % p, y := ((yy + c) * (yy + (p - c)) + g * d) % p, z := (yz * (yy + (p - c)) + xy * g) % p }

/-- A multiple of a point, by the low `n` bits of `k`. -/
def ecMul : Nat → Nat → EcPoint → EcPoint
  | 0, _, _ => { x := 0, y := 1, z := 0 }
  | n + 1, k, q =>
    let r := ecMul n (k / 2) (ecAdd q q)
    if k % 2 = 1 then ecAdd q r else r

/-- FIPS 186-5: the signature (r, s) of the digest `e` under the public key verifies. -/
def ecdsaOk (x y r s e : Nat) : Bool :=
  let w := invMod n384 s
  let q := ecAdd (ecMul 384 (e * w % n384) { x := g384.1, y := g384.2, z := 1 }) (ecMul 384 (r * w % n384) { x := x, y := y, z := 1 })
  decide (x < p384 ∧ y < p384 ∧ 0 < r ∧ r < n384 ∧ 0 < s ∧ s < n384) && y * y % p384 == (x * x * x + (p384 - 3) * x + b384) % p384
    && q.z != 0 && q.x * invMod p384 q.z % p384 % n384 == r

/-- R441: the first check that steward memory fails, from 1 to 6, or 0. -/
def fwCheck (s : State) : Nat :=
  let m := s.su.stewMem.map (·.1)
  let num (a n : Nat) : Nat := numOf ((m.drop a).take n)
  let len := num 12 4
  let code := (m.drop 208).take len
  if num 4 4 ≠ 0x4b534657 then 1
  else if num 1 1 ≠ 2 ∨ num 0 1 ≠ 4 then 2
  else if sha384 ((m.drop 16).take 96) ≠ s.fuse.keyHash.toNat then 3
  else if !ecdsaOk (num 16 48) (num 64 48) (num 112 48) (num 160 48) (sha384 (m.take 16 ++ code)) then 4
  else if 64 * s.su.fwLen.toNat < 208 + len then 5
  else if s.su.stewMem.any (·.2) then 6
  else 0

/-- R441: the firmware checks end. -/
def fwAuth (s : State) : State :=
  if s.su.phase ≠ .fwAuth ∨ !ctRuns s then s
  else
    match fwCheck s with
    | 0 =>
      { s with
        su := { s.su with
          phase := .sealWait, fwResult := 0, fwCause := 0, running := true
          fwVer := BitVec.ofNat 16 (numOf (((s.su.stewMem.map (·.1)).drop 2).take 2)) } }
    | c =>
      { s with
        su := { s.su with phase := .fwWait, fwResult := 1, fwCause := BitVec.ofNat 3 c, fwTries := inc16 s.su.fwTries } }

/-- FW_AUTH_COMPLETE (R441). -/
def execFwAuthComplete (s : State) : Host.Outcome State Fault Refusal := .next (fwAuth s)

end Sys2Proof.Machine
end

