-- ==== Sys2Proof/Machine/ImageCheck.lean ====
section
/-! DEFINITION. What the steward firmware checks in a tenant program image (spec/16 R452, R453; spec/01 R7, spec/04 R133, spec/05 R143,
R151, R153, spec/07 R211, spec/08 R239, spec/10 R295). -/

namespace Sys2Proof.Machine

/-- A check of an image: whether it fails, its RESULT (R455), and the image offset of the item. -/
structure Chk where
  bad : Bool
  res : Nat
  off : Nat
  deriving DecidableEq, Repr

/-- A check whose failure is BAD_IMAGE. -/
def chk (bad : Bool) (off : Nat) : Chk := { bad := bad, res := 3, off := off }

/-- An image under check: the memory, the address of its header, and its length in bytes. -/
structure Img where
  mem : Mem
  at_ : Nat
  len : Nat

/-- A word of an image. -/
def iw (g : Img) (off : Nat) : W64 := memWord g.mem (g.at_ + off)

/-- A number of `n` bytes in an image. -/
def inum (g : Img) (off n : Nat) : Nat := memNum g.mem (g.at_ + off) n

/-- A header word of an image. -/
def ihdr (g : Img) (k : Nat) : W64 := iw g (8 * k)

/-- R452: `n` bytes at `off` lie inside the image. -/
def inImage (g : Img) (off n : Nat) : Bool := decide (off + n ≤ g.len)

/-- R452: an offset of the header: 64-byte aligned, with `n` bytes inside the image. -/
def offOk (g : Img) (off n : Nat) : Bool := off % 64 == 0 && inImage g off n

/-- The count in bits [63:48] of header word `k`. -/
def icount (g : Img) (k : Nat) : Nat := fld (ihdr g k) 48 16

/-- The offset in bits [35:0] of header word `k`. -/
def ioff (g : Img) (k : Nat) : Nat := fld (ihdr g k) 0 36

/-- R452, R7: the header; `len` is what STW_ARG names in units of 64 B. -/
def checkHeader (g : Img) (t len : Nat) : List Chk :=
  [chk (fld (ihdr g 0) 48 16 != t || fld (ihdr g 0) 0 32 != len) 0,
   { bad := !versionOk (fld (ihdr g 0) 40 8) (fld (ihdr g 0) 32 8), res := 4, off := 0 },
   chk ([1, 3, 4, 5].any (fun k => fld (ihdr g k) 36 12 != 0) || fld (ihdr g 2) 36 28 != 0 || ihdr g 6 != 0 || ihdr g 7 != 0) 0,
   chk (icount g 1 != 0 && !offOk g (ioff g 1) 0) 8, chk (!offOk g (ioff g 2) 64) 16,
   chk (icount g 3 != 0 && !offOk g (ioff g 3) (8 * icount g 3)) 24, chk (icount g 4 != 0 && !offOk g (ioff g 4) (8 * icount g 4)) 32,
   chk (icount g 5 != 0 && !offOk g (ioff g 5) (16 * icount g 5)) 40]

/-- R295: the class entries of the admission record at `off`. -/
def classEnts (g : Img) : List ClassEnt :=
  let a := ioff g 2
  tab (fld (iw g a) 40 8) fun k =>
    let w0 := iw g (a + 64 + 16 * k)
    let w1 := iw g (a + 72 + 16 * k)
    { rowsMax := fld w0 48 16, cls := BitVec.ofNat 8 (fld w0 40 8), tc := fld w1 32 32, mb := fld w1 0 32 }

/-- Numbers rise strictly. -/
def rising : List Nat → Bool
  | [] => true
  | [_] => true
  | a :: b :: l => decide (a < b) && rising (b :: l)

/-- R295: the admission record. -/
def checkAdmission (g : Img) : List Chk :=
  let a := ioff g 2
  let w := iw g a
  let n := fld w 40 8
  [chk (fld w 48 12 == 0 || n == 0 || decide (32 < n) || decide (fld w 32 8 < 2 ∨ 64 < fld w 32 8)) a,
   chk ((tab 7 fun k => iw g (a + 8 + 8 * k)).any (· != 0)) a, chk (!inImage g a (64 + 16 * n)) a,
   chk (!rising ((classEnts g).map (·.rowsMax))) a] ++ tab n fun k => chk (fld (iw g (a + 64 + 16 * k)) 0 40 != 0) (a + 64 + 16 * k)

/-- The operand bits each opcode uses (R88, R90 and the encoding tables of spec/04, spec/06 to spec/08), by engine and OP from 0. -/
def opMasks : List (List Nat) :=
  let r := mask 47 40 + mask 15 0
  [[0, r, mask 47 2, mask 47 2, mask 47 13, mask 47 25, mask 47 19, mask 47 16, mask 47 34],
   [0, r, mask 47 1, mask 47 26, mask 47 40],
   [0, r, mask 47 10, mask 47 10, mask 47 37, mask 47 30, mask 47 35, mask 47 23, mask 47 33 + mask 31 0, mask 47 35, mask 47 21, mask 47 21,
    mask 47 23, mask 47 13, mask 47 15, mask 47 21, mask 47 36, mask 47 14],
   [0, r, mask 47 7, mask 47 0, mask 47 35], [0, r, mask 47 23], [0, r, mask 47 1, mask 47 9],
   [0, r, mask 15 0, 0, mask 47 43 + mask 31 0, mask 47 29, mask 47 34 + mask 15 0, mask 47 35 + mask 15 0, mask 15 0, mask 47 42 + mask 31 0,
    mask 47 40 + mask 31 0, mask 47 31, mask 47 38, mask 47 43 + mask 37 34, mask 47 44 + mask 7 0, mask 47 38, mask 47 38, mask 47 33, 0]]

/-- R133: ENG of the stream, an OP that is defined, no reserved bit. -/
def wordOk (e : Eng) (w : W64) : Bool :=
  fld w 61 3 == engNum e
    && (match ((opMasks.getD (engNum e) [])[wOpcode w % 32]?) with
      | none => false
      | some m => reservedOk w m)

/-- R133: the credit fields of KENTER, KEND and CREDIT. -/
def creditFieldsOk (e : Eng) (w : W64) : Bool :=
  e != .sq || (match wOpcode w % 32 with
    | 2 => wWait w == 0
    | 3 => wSig w == 0
    | 14 => wSig w == 0
    | _ => true)

/-- R102: the words of a stream of `n` words from position `i`, inside bodies that end before the positions `open_`; `inner` says that the outer
body has held its one further REPEAT. -/
def repeatsOk (e : Eng) (n : Nat) : List W64 → Nat → List Nat → Bool → Bool
  | [], _, _, _ => true
  | w :: ws, i, open_, inner =>
    let o := open_.filter fun p => i < p
    let op := wOpcode w % 32
    if e = .sq ∧ (op = 7 ∨ op = 8) ∧ !o.isEmpty then false
    else if op = 1 then
      let past := i + 2 + fld w 40 8
      (o.isEmpty || (o.length == 1 && !inner)) && decide (past ≤ n) && o.all (fun p => past ≤ p) && repeatsOk e n ws (i + 1) (past :: o) !o.isEmpty
    else repeatsOk e n ws (i + 1) o (inner && !o.isEmpty)

/-- R132: the stream of an engine in the descriptor at `d`: its image offset and its length in words. -/
def streamOf (g : Img) (d : Nat) (e : Eng) : Nat × Nat :=
  let w := iw g (d + 8 * (1 + engNum e))
  (d + 8 * fld w 16 24, fld w 0 16)

/-- R133: one stream. An empty stream must start inside the image like any other (log 127). -/
def checkStream (g : Img) (d : Nat) (e : Eng) : List Chk :=
  let x := streamOf g d e
  let ws := tab x.2 fun k => iw g (x.1 + 8 * k)
  [chk (fld (iw g (d + 8 * (1 + engNum e))) 40 24 != 0) (d + 8 * (1 + engNum e)), chk (!inImage g x.1 (8 * x.2)) d,
   chk (e == .sq && (decide (1024 < x.2) || (ws.head?.map wOpcode) != some 0xc2 || ws.all fun w => wOpcode w != 0xc3)) d]
    ++ ws.zipIdx.map (fun p => chk (!wordOk e p.1 || !creditFieldsOk e p.1) (x.1 + 8 * p.2)) ++ [chk (!repeatsOk e x.2 ws 0 [] false) x.1]

/-- R452: the offsets of the kernel descriptors. -/
def descOffs (g : Img) : List Nat := tab (icount g 4) fun k => fld (iw g (ioff g 4 + 8 * k)) 0 36

/-- R132, R133: one kernel descriptor. -/
def checkKernel (g : Img) (d : Nat) : List Chk :=
  let w := iw g d
  [chk (!offOk g d 64) d, chk (fld w 40 8 != 2 || fld w 0 16 != 0) d, { bad := !versionOk (fld w 32 8) (fld w 24 8), res := 4, off := d }]
    ++ engines.flatMap (checkStream g d)

/-- Spans of an image that share no byte. -/
def spansApart : List (Nat × Nat) → Bool
  | [] => true
  | a :: l => l.all (fun b => !meets a.1 a.2 b.1 b.2) && spansApart l

/-- R133: the kernel table and its kernels; no stream overlaps another. -/
def checkKernels (g : Img) : List Chk :=
  let ds := descOffs g
  let spans := ds.flatMap fun d => engines.map fun e => ((streamOf g d e).1, 8 * (streamOf g d e).2)
  (tab (icount g 4) fun k => chk (fld (iw g (ioff g 4 + 8 * k)) 36 28 != 0) (ioff g 4 + 8 * k)) ++ ds.flatMap (checkKernel g)
    ++ [chk (!spansApart spans) (ioff g 4)]

/-- R142: the tensor quantisation descriptors. -/
def tqdsOf (g : Img) : List W64 := tab (icount g 3) fun k => iw g (ioff g 3 + 8 * k)

/-- R143: one descriptor breaks its rules. A TRACK of 9 to 15, to which R142 gives no meaning, is refused too (DESIGN CHOICE, log 135). -/
def tqdBad (w : W64) : Bool :=
  let hi := sext (fld w 56 8) 8
  let lo := sext (fld w 48 8) 8
  let init := sext (fld w 40 8) 8
  let track := fld w 16 4
  fld w 0 2 != 0 || fld w 12 2 == 3 || fld w 14 2 == 3 || decide (8 < track)
    || (if track = 0 then fld w 24 40 != 0 || fld w 20 4 != 0 || fld w 2 8 != 0
      else fld w 14 2 != 1 || !(decide (lo ≤ init ∧ init ≤ hi) && expoOk lo && expoOk hi))

/-- R151: a side list breaks its rules. -/
def sideBad (g : Img) (off : Nat) : Bool :=
  let ch := tab 8 fun k => inum g (off + k) 1
  let n := inum g (off + 8) 1
  decide (8 < n) || !rising (ch.take n) || (ch.drop n).any (· != 0) || inum g (off + 9) 7 != 0

/-- R141, R143: a stored scale pair breaks its rules. -/
def pairBad (g : Img) (p : Nat × Nat) : Bool :=
  let v := inum g p.1 2
  !expoOk (sext (v / 256) 8) || decide (2 ^ widthBits p.2 ≤ v % 256)

/-- R153: the shift `k` of a requantisation of a tracked tensor `t` is refused. -/
def requantBad (g : Img) (t k : Nat) : Bool :=
  (tqdsOf g).any fun w =>
    fld w 16 4 == t && t != 0
      && (decide (47 < (k : Int) + (sext (fld w 56 8) 8 - sext (fld w 40 8) 8)) || decide ((k : Int) + (sext (fld w 48 8) 8 - sext (fld w 40 8) 8) < 0))

/-- R143, R150: descriptor `k` is that of a rotated tensor whose channel count is no multiple of 256, or of which none is named. -/
def rotBad (m : ImageMap) (w : W64) (k : Nat) : Bool :=
  let cs := (m.rotChannels.filter fun p => p.1 == k).map (·.2)
  bit w 11 && (cs.isEmpty || cs.any (· % 256 != 0))

/-- R143, R151: descriptor `k` is that of a tensor with side lists, and one breaks its rules, or there is none. -/
def sidesBad (g : Img) (m : ImageMap) (w : W64) (k : Nat) : Bool :=
  let os := (m.sideLists.filter fun p => p.1 == k).map (·.2)
  bit w 10 && (os.isEmpty || os.any (sideBad g))

/-- R143, R153: the quantisation of a program. -/
def checkQuant (g : Img) (m : ImageMap) : List Chk :=
  let ds := tqdsOf g
  let tracks := (ds.map fun w => fld w 16 4).filter (· != 0)
  ds.zipIdx.map (fun p => chk (tqdBad p.1) (ioff g 3 + 8 * p.2)) ++ m.weightPairs.map (fun p => chk (pairBad g (p.1, fld (ds.getD p.2 0) 12 2)) p.1)
    ++ ds.zipIdx.map (fun p => chk (rotBad m p.1 p.2 || sidesBad g m p.1 p.2) (ioff g 3 + 8 * p.2))
    ++ [chk (decide (8 < tracks.length) || tracks.eraseDups.length != tracks.length) (ioff g 3)]
    ++ m.requants.map fun p => chk (requantBad g p.2.1 p.2.2) p.1

/-- A binary32 number of an image. -/
def if32 (g : Img) (off : Nat) : W32 := BitVec.ofNat 32 (inum g off 4)

/-- binary32 values rise strictly, with no NaN among them (R211). -/
def edgesOk : List W32 → Bool
  | [] => true
  | [a] => !f32IsNaN a
  | a :: b :: l => f32Lt a b && edgesOk (b :: l)

/-- R189, R191, R211: entry `f` of a feature table breaks its rules. -/
def featureBad (g : Img) (x : FeatLoc) (f : Nat) : Bool :=
  let o := x.table + 16 * f
  let w := iw g (o + 8)
  let mode (k : Nat) : Nat := fld (iw g (x.table + 16 * k + 8)) 62 2
  match fld w 62 2 with
  | 0 =>
    let n := fld w 30 8
    n == 0 || fld w 38 12 != 0 || fld w 0 11 != 0 || f32IsNaN (if32 g o) || f32IsNaN (if32 g (o + 4))
      || !edgesOk (tab n fun k => if32 g (x.edges.getD f 0 + 4 * k))
  | 1 => iw g o != 0 || fld w 0 50 != 0
  | 2 =>
    iw g o != 0 || fld w 16 22 != 0 || decide (f ≤ fld w 50 12) || decide (f ≤ fld w 38 12) || decide (2 ≤ mode (fld w 50 12))
      || decide (2 ≤ mode (fld w 38 12))
  | _ => true

/-- R195: entry `t` of a tree table. -/
def startOf (g : Img) (x : TreeLoc) (t : Nat) : Nat := inum g (x.table + 4 * t) 4

/-- R193, R194: node `i` of the tree of nodes up to `past` breaks its rules. -/
def nodeBad (g : Img) (x : TreeLoc) (i past : Nat) : Bool :=
  let w := iw g (x.nodes + 8 * i)
  if bit w 63 then fld w 32 31 != 0
  else fld w 17 17 == 0 || fld w 0 17 == 0 || decide (past ≤ i + fld w 17 17) || decide (past ≤ i + fld w 0 17)

/-- R193 to R195, R203, R211: a tree table and its nodes. -/
def checkTrees (g : Img) (x : TreeLoc) : List Chk :=
  let starts := tab (x.trees + 1) (startOf g x)
  let last := startOf g x x.trees
  let head := (4 * (x.trees + 1) + 63) / 64 * 64
  [chk (x.table % 4 != 0 || !rising starts || decide (131071 < last)) x.table,
   chk (x.streamed && (x.table % 64 != 0 || x.nodes != x.table + head || decide (65536 < head + 8 * last)
     || (List.range (head - 4 * (x.trees + 1))).any fun k => inum g (x.table + 4 * (x.trees + 1) + k) 1 != 0)) x.table]
    ++ (List.range x.trees).flatMap fun t =>
      tab (startOf g x (t + 1) - startOf g x t) fun k =>
        chk (nodeBad g x (startOf g x t + k) (startOf g x (t + 1))) (x.nodes + 8 * (startOf g x t + k))

/-- R211. -/
def checkEnsembles (g : Img) (m : ImageMap) : List Chk :=
  m.features.flatMap (fun x => tab x.n fun f => chk (featureBad g x f) (x.table + 16 * f)) ++ m.trees.flatMap (checkTrees g)

/-- R215: the words of an automaton's header that R239 checks; VOCAB, where it is used, is the vocabulary size `vocab` of R213. -/
def headerBad (g : Img) (vocab : Nat) (x : AutLoc) : Bool :=
  let w (k : Nat) : W64 := iw g (x.hdr + 8 * k)
  let n := fld (w 1) 40 24
  let v := fld (w 3) 14 21
  x.hdr % 64 != 0 || fld (w 0) 24 20 != 0 || fld (w 1) 24 16 != 0 || fld (w 2) 24 16 != 0 || fld (w 3) 37 3 != 0 || fld (w 3) 0 14 != 0
    || fld (w 0) 0 24 % 16 != 0 || fld (w 1) 0 24 % 8 != 0 || fld (w 2) 0 24 % 8 != 0 || (tab 4 fun k => w (4 + k)).any (· != 0)
    || n == 0 || decide (1048576 < n) || fld (w 2) 40 24 == 0 || fld (w 3) 40 24 == 0 || decide (1048576 < fld (w 3) 40 24)
    || (bit (w 3) 35 && (v == 0 || decide (1048576 < v) || v != vocab)) || decide (n ≤ fld (w 0) 44 20)

/-- R220, R221, R239: action entry `i` breaks its rules; `v` is the vocabulary size. -/
def actionBad (g : Img) (x : AutLoc) (m : ImageMap) (i : Nat) : Bool :=
  let a := iw g (x.acts + 8 * i)
  let op := fld a 60 4
  if i = 0 then a != 0
  else
    decide (8 < op) || Nat.land (a.toNat % 2 ^ 59) (2 ^ 59 - 1 - actUsed op) != 0 || (op == 5 && bit a 59)
      || (op == 6 && decide (m.nmask < fld a 32 16)) || (decide (7 ≤ op) && decide (m.vocab ≤ fld a 0 20))

/-- R221: the list from action `i` ends within 16 entries and inside the array. -/
def listBad (g : Img) (x : AutLoc) (i : Nat) : Bool :=
  i != 0 && !((List.range 16).any fun k => decide (i + k < fld (iw g (x.hdr + 24)) 40 24) && bit (iw g (x.acts + 8 * (i + k))) 59)

/-- R216, R239: state record `k` breaks its rules. -/
def stateBad (g : Img) (x : AutLoc) (m : ImageMap) (k : Nat) : Bool :=
  let w0 := iw g (x.states + 16 * k)
  let w1 := iw g (x.states + 16 * k + 8)
  fld w0 0 12 != 0 || fld w1 0 28 != 0 || decide (fld (iw g (x.hdr + 8)) 40 24 ≤ fld w0 12 20) || decide (m.nmask < fld w1 48 16)
    || listBad g x (fld w1 28 20)

/-- R217, R239: transition entry `k` breaks its rules. -/
def transBad (g : Img) (x : AutLoc) (k : Nat) : Bool :=
  let w := iw g (x.trans + 8 * k)
  fld w 0 16 != 0 || decide (fld (iw g (x.hdr + 8)) 40 24 ≤ fld w 36 20) || listBad g x (fld w 16 20)

/-- R215 to R217, R220, R221, R239: one automaton. -/
def checkAutomaton (g : Img) (m : ImageMap) (x : AutLoc) : List Chk :=
  [chk (headerBad g m.vocab x) x.hdr] ++ tab (fld (iw g (x.hdr + 8)) 40 24) (fun k => chk (stateBad g x m k) (x.states + 16 * k))
    ++ tab (fld (iw g (x.hdr + 16)) 40 24) (fun k => chk (transBad g x k) (x.trans + 8 * k))
    ++ tab (fld (iw g (x.hdr + 24)) 40 24) fun k => chk (actionBad g x m k) (x.acts + 8 * k)

/-- R215: MROLE of an automaton. -/
def maskRole (g : Img) (x : AutLoc) : Bool := bit (iw g (x.hdr + 24)) 36

/-- R213: the rows of a class map, in bytes. -/
def mapBytes (v : Nat) : Nat := (v + 31) / 32 * 64

/-- R213: entry `t` of the class map breaks its rules. -/
def classBad (g : Img) (m : ImageMap) (t : Nat) : Bool :=
  let c := inum g (ioff g 1 + 2 * t) 2
  if t < m.vocab then decide (4095 ≤ c) else c != 0

/-- R213, R224, R239: the automata, the class map and the mask set; `taken` says that the tenant holds the MSET_ID already. -/
def checkMasks (g : Img) (m : ImageMap) (taken : Bool) : List Chk :=
  let roles := m.automata.filter (maskRole g)
  let set := icount g 1 != 0
  m.automata.flatMap (checkAutomaton g m)
    ++ [chk (decide (8 < m.automata.length ∨ 1 < roles.length) || (!roles.isEmpty && !set)) 8, chk (set && taken) 8,
        chk (set && (m.vocab == 0 || decide (1048576 < m.vocab ∨ 65535 < m.nmask) || !inImage g (ioff g 1) (mapBytes m.vocab)
          || !inImage g m.storeOff (512 * (m.nmask + 1)))) 8]
    ++ if set then tab ((m.vocab + 31) / 32 * 32) fun t => chk (classBad g m t) (ioff g 1 + 2 * t) else []

/-- R452: the segments: stack address, length in bytes, image offset. -/
def segsOf (g : Img) : List (Nat × Nat × Nat) :=
  tab (icount g 5) fun k =>
    let w0 := iw g (ioff g 5 + 16 * k)
    let w1 := iw g (ioff g 5 + 16 * k + 8)
    (fld w0 0 48, fld w1 40 24 * 65536, fld w1 0 36)

/-- R452, R453: a segment lies inside the stacks, apart from the page regions, the window and the segments of resident images. -/
def segBad (s : State) (g : Img) (q : Nat × Nat × Nat) : Bool :=
  let hit (a n : Nat) : Bool := meets q.1 q.2.1 a n
  q.1 % 65536 != 0 || q.2.2 % 64 != 0 || !inImage g q.2.2 q.2.1 || decide (stackEnd < q.1 + q.2.1) || hit (winAddr s 0) (winBytes s)
    || [Half.A, Half.B].any (fun h => hit (pageAddr s h 0) ((half s h).pageCount.toNat * 65536))
    || (images s).any fun p => p.2.segs.any fun r => hit r.1 r.2

/-- R452, R453: the segment table. -/
def checkSegs (s : State) (g : Img) : List Chk :=
  (segsOf g).zipIdx.map fun p =>
    let o := ioff g 5 + 16 * p.2
    chk (fld (iw g o) 48 16 != 0 || fld (iw g (o + 8)) 36 4 != 0 || segBad s g p.1) o

/-- R453: the first check that an image fails, in the order of R453. -/
def imageFail (s : State) (g : Img) (t len : Nat) (m : ImageMap) : Option Chk :=
  let taken := (images s).any fun p => p.2.tenant.toNat == t && p.2.mset.toNat == icount g 1
  let first (l : List Chk) : Option Chk := l.find? (·.bad)
  (first (checkHeader g t len)).orElse fun _ =>
    (first (checkKernels g)).orElse fun _ =>
      (first (checkQuant g m)).orElse fun _ =>
        (first (checkEnsembles g m)).orElse fun _ =>
          (first (checkMasks g m taken)).orElse fun _ => (first (checkAdmission g)).orElse fun _ => first (checkSegs s g)

end Sys2Proof.Machine
end

