-- ==== Sys2Proof/Machine/Steward.lean ====
section
/-! DEFINITION. The steward commands (spec/16 R451 to R455): LOAD_PROGRAM with its mask set (spec/11 R332), UNLOAD_PROGRAM, and
LOAD_PLAN (spec/13 R349, R350; spec/01 R7, R9; spec/02 R55). -/

namespace Sys2Proof.Machine

/-- The image that STW_ARG names, in the window (R451). -/
def stwImage (s : State) : Img := { mem := s.mem, at_ := winAddr s s.su.stwOff.toNat, len := 64 * s.su.stwLen.toNat }

/-- STW_ARG: 64-byte aligned, and the image lies in the window (R456, R320). -/
def stwInWindow (s : State) : Bool :=
  s.su.stwOff.toNat % 64 == 0 && s.su.stwLen != 0 && decide (s.su.stwOff.toNat + 64 * s.su.stwLen.toNat ≤ winBytes s)

/-- The staging-store ranges in use: resident images and receive logs (R453, R356). -/
def stageUsed (s : State) : List (Nat × Nat) :=
  (images s).map (fun p => (p.2.base, p.2.len))
    ++ [Half.A, Half.B].map fun h => (stageBase h + s.group.logBase.toNat * 65536, s.group.logSize.toNat * 65536)

/-- `n` bytes at `a` are free space of the staging store of `h`. -/
def stageFree (s : State) (h : Half) (a n : Nat) : Bool :=
  decide (stageBase h ≤ a ∧ a + n ≤ stageBase h + stageSize) && (stageUsed s).all fun r => !meets a n r.1 r.2

/-- R453: free staging-store space for `n` bytes: the lowest place in half A, then in half B (log 11). -/
def stagePlace (s : State) (n : Nat) : Option Nat :=
  let ends := (stageUsed s).map fun r => (r.1 + r.2 + 63) / 64 * 64
  let low (h : Half) : Option Nat := ((stageBase h :: ends).filter fun a => stageFree s h a n).min?
  (low .A).orElse fun _ => low .B

/-- R332: unit `u` of the mask-set area is held by a resident mask set. -/
def unitHeld (s : State) (u : Nat) : Bool :=
  (images s).any fun p => p.2.mset != 0 && decide (p.2.msUnit ≤ u ∧ u < p.2.msUnit + p.2.msCount)

/-- R332: the lowest run of `n` free units of the mask-set area. -/
def unitRun (s : State) (n : Nat) : Option Nat :=
  let units := fld (dirWord s 4) 48 16
  (List.range (units + 1)).find? fun u => decide (u + n ≤ units) && (List.range n).all fun k => !unitHeld s (u + k)

/-- R332: the lowest free entry of the mask-set table: it reads BLOCK, and no resident mask set holds it. -/
def freeEntry (s : State) : Option Nat :=
  (List.range (fld (dirWord s 3) 48 16)).find? fun k =>
    ownedByBlock s (msetEntry s k) && !((images s).any fun p => p.2.mset != 0 && p.2.msEntry == k)

/-- R332: the class map's bytes rounded up to 512, where the mask store begins. -/
def storeAt (m : ImageMap) : Nat := (mapBytes m.vocab + 511) / 512 * 512

/-- R332: the 64 KB units that a mask set takes; mask `i` of the store lies at 512 i (R224). -/
def setUnits (m : ImageMap) : Nat := ceilDiv (storeAt m + 512 * (m.nmask + 1)) 65536

/-- Bytes copied with their poison (R63). -/
def copyBytes (m : Mem) (dst src n : Nat) : Mem := memWrite m dst (memRead m src n)

/-- R332: the mask set of image `i` written to the area and offered by its table entry. -/
def offerSet (s : State) (g : Img) (m : ImageMap) (i : Image) : State :=
  let off := fld (dirWord s 4) 0 36 + 65536 * i.msUnit
  let s1 := { s with
    mem := copyBytes (copyBytes s.mem (winAddr s off) (g.at_ + ioff g 1) (mapBytes m.vocab)) (winAddr s (off + storeAt m))
      (g.at_ + m.storeOff) (512 * (m.nmask + 1)) }
  let ws := [mk64 (put i.tenant.toNat 48 16 + put i.mset.toNat 32 16), mk64 (put m.vocab 32 21 + put m.nmask 0 16), mk64 off,
    mk64 (off + storeAt m), 0, 0, 0]
  sendBlockEvent (putSlotWords s1 (msetEntry s i.msEntry) ws 1) 0x0303 (msetExtra i)

/-- R453: the record of an accepted image at staging address `a`, with its mask set's unit and entry. -/
def newImage (g : Img) (t : BitVec 16) (m : ImageMap) (a unit entry : Nat) : Image :=
  let w := iw g (ioff g 2)
  { tenant := t, base := a, len := g.len, plag := BitVec.ofNat 4 (fld w 60 4), rate := fld w 48 12, pmax := fld w 32 8, maskc := fld w 0 32
    classes := classEnts g, omode := m.batch, masks := m.automata.any (maskRole g), mset := BitVec.ofNat 16 (icount g 1), msUnit := unit
    msCount := if icount g 1 = 0 then 0 else setUnits m, msEntry := entry, tqds := tqdsOf g, values := m.values
    kernels := (descOffs g).map fun d => a + d, segs := (segsOf g).map fun q => (q.1, q.2.1), admits := false, serves := false
    retiring := false }

/-- The next image number. -/
def nextImage (s : State) : Nat := (s.images.map fun p => p.1 + 1).foldl max 1

/-- A steward command whose result is decided. -/
def stwDecide (s : State) (res off : Nat) (img : Option Nat) : State :=
  { s with su := { s.su with stw := .result res (BitVec.ofNat 32 off) img } }

/-- R453: an accepted image copied to `a`, its segments to their stack addresses, and its mask set offered. -/
def acceptImage (s : State) (g : Img) (m : ImageMap) (i : Image) : State :=
  let mem1 := (segsOf g).foldl (fun x q => copyBytes x q.1 (g.at_ + q.2.2) q.2.1) (copyBytes s.mem i.base g.at_ g.len)
  let n := nextImage s
  let s1 := if i.mset = 0 then s else offerSet { s with mem := mem1 } g m i
  stwDecide (setImage (if i.mset = 0 then { s with mem := mem1 } else s1) n (some i)) 0 0 (some n)

/-- The first poisoned byte of an image. -/
def poisonedAt (g : Img) : Option Nat := (badUnits g.mem g.at_ g.len).head?.map fun b => b - g.at_

/-- R453 to R455: LOAD_PROGRAM's copy and checks, with its result. -/
def loadImage (s : State) (t : BitVec 16) (m : ImageMap) : State :=
  let g := stwImage s
  if !stwInWindow s then stwDecide s 3 0 none
  else if 2 ≤ ((imagesOf s t).filter fun p => !p.2.retiring).length then stwDecide s 2 0 none
  else
    match poisonedAt g with
    | some o => stwDecide (countPoison s g.at_ g.len) 3 o none
    | none =>
      match imageFail s g t.toNat s.su.stwLen.toNat m, stagePlace s g.len, unitRun s (setUnits m), freeEntry s with
      | some c, _, _, _ => stwDecide s c.res c.off none
      | none, none, _, _ => stwDecide s 6 0 none
      | none, some a, u, e =>
        if icount g 1 = 0 then acceptImage s g m (newImage g t m a 0 0)
        else
          match u, e with
          | some u, some e => acceptImage s g m (newImage g t m a u e)
          | _, _ => stwDecide s 7 0 none

/-- A steward command as the host software writes it (R451). -/
def stwWrite (s : State) (op : Nat) (t : BitVec 16) : State :=
  mgmtWrite s (mgmtBase + 0x90048) (mk64 (put op 56 8 + put t.toNat 32 16))

/-- The state in which the steward firmware carries out command `op`: as its write left it, or the write itself where none is pending. -/
def stwBegin (s : State) (op : Nat) (t : BitVec 16) : State := if s.su.stw = .idle then stwWrite s op t else s

/-- R453: LOAD_PROGRAM. -/
def loadProgram (s : State) (t : BitVec 16) (m : ImageMap) : State :=
  let s1 := stwBegin s 1 t
  if windowOpen s1 ∧ s1.su.stw = .load 1 t then loadImage s1 t m else s1

/-- R7, R9: the version of a plan. A plan of one member is an ordinary plan. -/
def planVersion (p : PlanDef) : Bool :=
  if p.addrs.length ≤ 1 then versionOk p.major.toNat p.minor.toNat else p.major == 2 && p.minor == 4

/-- R349, R350, R55: why a plan is refused, as its RESULT (R455). -/
def planFail (s : State) (p : PlanDef) : Option Nat :=
  let mine := p.addrs.findIdx (· == s.su.addr)
  if !planVersion p then some 4
  else if p.addrs.length = 0 ∨ 512 < p.addrs.length ∨ p.maps.length ≠ p.addrs.length ∨ p.addrs.count s.su.addr ≠ 1 then some 3
  else if p.maps[mine]? ≠ some s.fuse.map then some 5
  else if !later p.start (s.turns.cur + 1) ∨ s.group.logSize.toNat < p.logb.toNat then some 3
  else none

/-- R350: LOAD_PLAN. An accepted plan takes over at START (R351). -/
def loadPlanDef (s : State) (p : PlanDef) : State :=
  let s1 := stwBegin s 3 0
  match s1.su.stw with
  | .load 3 _ =>
    if !windowOpen s1 then s1
    else
      match planFail s1 p with
      | some r => stwDecide s1 r 0 none
      | none => stwDecide { s1 with group := { s1.group with next := some p } } 0 0 none
  | _ => s1

/-- R455, R453: the result of a steward command; an image whose load ends OK waits for the next plan start. -/
def stwDone (s : State) : State :=
  match s.su.stw with
  | .result r d img =>
    if !windowOpen s then s
    else
      let s1 := { s with su := { s.su with stwResult := BitVec.ofNat 4 r, stwDetail := d, stw := .idle } }
      match img with
      | none => s1
      | some n =>
        match imageOf s1 n with
        | none => s1
        | some i => setImage s1 n (some { i with admits := true })
  | _ => s

/-- LOAD_PROGRAM (R453). -/
def execLoadProgram (tenant : BitVec 16) (map : ImageMap) (s : State) : Host.Outcome State Fault Refusal := .next (loadProgram s tenant map)

/-- UNLOAD_PROGRAM (R454). -/
def execUnloadProgram (tenant : BitVec 16) (s : State) : Host.Outcome State Fault Refusal := .next (stwWrite s 2 tenant)

/-- LOAD_PLAN (R350). -/
def execLoadPlan (plan : PlanDef) (s : State) : Host.Outcome State Fault Refusal := .next (loadPlanDef s plan)

/-- STEWARD_COMMAND_DONE (R455). -/
def execStewardCommandDone (s : State) : Host.Outcome State Fault Refusal := .next (stwDone s)

end Sys2Proof.Machine
end

