-- ==== Sys2Proof/Machine/Dispatch.lean ====
section
/-! DEFINITION. The meaning of every command, one arm per constructor of `Instr`. -/

namespace Sys2Proof.Machine

def exec (i : Instr) (s : State) : Host.Outcome State Fault Refusal :=
  match i with
  | .nop t w => Sys2Proof.Machine.execNop t w s
  | .repeat_ t w => Sys2Proof.Machine.execRepeat t w s
  | .kenter t w => Sys2Proof.Machine.execKenter t w s
  | .kend t w => Sys2Proof.Machine.execKend t w s
  | .li t w => Sys2Proof.Machine.execLi t w s
  | .alu t w => Sys2Proof.Machine.execAlu t w s
  | .alui t w => Sys2Proof.Machine.execAlui t w s
  | .br t w => Sys2Proof.Machine.execBr t w s
  | .jmp t w => Sys2Proof.Machine.execJmp t w s
  | .seta t w => Sys2Proof.Machine.execSeta t w s
  | .adda t w => Sys2Proof.Machine.execAdda t w s
  | .addas t w => Sys2Proof.Machine.execAddas t w s
  | .aread t w => Sys2Proof.Machine.execAread t w s
  | .karg t w => Sys2Proof.Machine.execKarg t w s
  | .credit t w => Sys2Proof.Machine.execCredit t w s
  | .qrd t w => Sys2Proof.Machine.execQrd t w s
  | .qwr t w => Sys2Proof.Machine.execQwr t w s
  | .qstat t w => Sys2Proof.Machine.execQstat t w s
  | .trap t w => Sys2Proof.Machine.execTrap t w s
  | .load t w => Sys2Proof.Machine.execLoad t w s
  | .store t w => Sys2Proof.Machine.execStore t w s
  | .ldq t w => Sys2Proof.Machine.execLdq t w s
  | .qst t w => Sys2Proof.Machine.execQst t w s
  | .gather t w => Sys2Proof.Machine.execGather t w s
  | .ebag t w => Sys2Proof.Machine.execEbag t w s
  | .zero t w => Sys2Proof.Machine.execZero t w s
  | .send t w => Sys2Proof.Machine.execSend t w s
  | .recv t w => Sys2Proof.Machine.execRecv t w s
  | .mmw t w => Sys2Proof.Machine.execMmw t w s
  | .mxout t w => Sys2Proof.Machine.execMxout t w s
  | .mzero t w => Sys2Proof.Machine.execMzero t w s
  | .vld t w => Sys2Proof.Machine.execVld t w s
  | .vst t w => Sys2Proof.Machine.execVst t w s
  | .vpop t w => Sys2Proof.Machine.execVpop t w s
  | .vpush t w => Sys2Proof.Machine.execVpush t w s
  | .vscl t w => Sys2Proof.Machine.execVscl t w s
  | .vop t w => Sys2Proof.Machine.execVop t w s
  | .vopi t w => Sys2Proof.Machine.execVopi t w s
  | .vred t w => Sys2Proof.Machine.execVred t w s
  | .vrot t w => Sys2Proof.Machine.execVrot t w s
  | .vpick t w => Sys2Proof.Machine.execVpick t w s
  | .vside t w => Sys2Proof.Machine.execVside t w s
  | .vqz t w => Sys2Proof.Machine.execVqz t w s
  | .vqnt t w => Sys2Proof.Machine.execVqnt t w s
  | .vqs t w => Sys2Proof.Machine.execVqs t w s
  | .vpack t w => Sys2Proof.Machine.execVpack t w s
  | .vunpk t w => Sys2Proof.Machine.execVunpk t w s
  | .tfe t w => Sys2Proof.Machine.execTfe t w s
  | .twalk t w => Sys2Proof.Machine.execTwalk t w s
  | .tout t w => Sys2Proof.Machine.execTout t w s
  | .astep t w => Sys2Proof.Machine.execAstep t w s
  | .instructionComplete t e k => Sys2Proof.Machine.execInstructionComplete t e k s
  | .creditStall t => Sys2Proof.Machine.execCreditStall t s
  | .kernelDispatch h l => Sys2Proof.Machine.execKernelDispatch h l s
  | .streamLoaderFill t e => Sys2Proof.Machine.execStreamLoaderFill t e s
  | .kernelEnd t => Sys2Proof.Machine.execKernelEnd t s
  | .turnMark inp payload => Sys2Proof.Machine.execTurnMark inp payload s
  | .turnStall => Sys2Proof.Machine.execTurnStall s
  | .pauseExpiry slot => Sys2Proof.Machine.execPauseExpiry slot s
  | .handleExpiry h idx => Sys2Proof.Machine.execHandleExpiry h idx s
  | .mwr port w0 w1 data => Sys2Proof.Machine.execMwr port w0 w1 data s
  | .mrd port w0 w1 => Sys2Proof.Machine.execMrd port w0 w1 s
  | .doorbell port w0 w1 => Sys2Proof.Machine.execDoorbell port w0 w1 s
  | .admitReq m => Sys2Proof.Machine.execAdmit m s
  | .tokens m => Sys2Proof.Machine.execTokens m s
  | .takeback m => Sys2Proof.Machine.execTakeback m s
  | .resign m => Sys2Proof.Machine.execResign m s
  | .pause m => Sys2Proof.Machine.execPause m s
  | .resume m => Sys2Proof.Machine.execResume m s
  | .resumeLoss m => Sys2Proof.Machine.execResumeLoss m s
  | .resumeRebuild m => Sys2Proof.Machine.execResumeRebuild m s
  | .prefixRefMark m => Sys2Proof.Machine.execPrefixRefMark m s
  | .prefixRefDrop m => Sys2Proof.Machine.execPrefixRefDrop m s
  | .pauseDrained slot => Sys2Proof.Machine.execPauseDrained slot s
  | .pauseTransferDone slot => Sys2Proof.Machine.execPauseTransferDone slot s
  | .imageFetchDone slot => Sys2Proof.Machine.execImageFetchDone slot s
  | .verdictEntryReturned key => Sys2Proof.Machine.execVerdictEntryReturned key s
  | .bulletinTimeout h => Sys2Proof.Machine.execBulletinTimeout h s
  | .bulletinSlotReturned h => Sys2Proof.Machine.execBulletinSlotReturned h s
  | .eventEntryReturned h => Sys2Proof.Machine.execEventEntryReturned h s
  | .imageBufferReturned slot => Sys2Proof.Machine.execImageBufferReturned slot s
  | .masksetEntryReturned idx => Sys2Proof.Machine.execMasksetEntryReturned idx s
  | .noticeInterval key => Sys2Proof.Machine.execNoticeInterval key s
  | .mcSeat f => Sys2Proof.Machine.execMcSeat f s
  | .mcRd f => Sys2Proof.Machine.execMcRd f s
  | .mcWr f => Sys2Proof.Machine.execMcWr f s
  | .mcForward f => Sys2Proof.Machine.execMcForward f s
  | .registerWrite addr data => Sys2Proof.Machine.execRegisterWrite addr data s
  | .tileFlush t data => Sys2Proof.Machine.execTileFlush t data s
  | .reqSlotSel h data => Sys2Proof.Machine.execReqSlotSel h data s
  | .errLogSel data => Sys2Proof.Machine.execErrLogSel data s
  | .meterSel data => Sys2Proof.Machine.execMeterSel data s
  | .codeSel data => Sys2Proof.Machine.execCodeSel data s
  | .routeLoad data => Sys2Proof.Machine.execRouteLoad data s
  | .routeLoadComplete => Sys2Proof.Machine.execRouteLoadComplete s
  | .codeLoad data => Sys2Proof.Machine.execCodeLoad data s
  | .codeAct data => Sys2Proof.Machine.execCodeAct data s
  | .closeClock d => Sys2Proof.Machine.execCloseClock d s
  | .openClock d => Sys2Proof.Machine.execOpenClock d s
  | .powerOff d => Sys2Proof.Machine.execPowerOff d s
  | .powerOn d => Sys2Proof.Machine.execPowerOn d s
  | .gateHandshakeDone cycles => Sys2Proof.Machine.execGateHandshakeDone cycles s
  | .gateTimeout => Sys2Proof.Machine.execGateTimeout s
  | .railGood => Sys2Proof.Machine.execRailGood s
  | .railTimeout => Sys2Proof.Machine.execRailTimeout s
  | .clkReturnNow => Sys2Proof.Machine.execClkReturnNow s
  | .fwLoad data => Sys2Proof.Machine.execFwLoad data s
  | .fwAuthComplete => Sys2Proof.Machine.execFwAuthComplete s
  | .seal => Sys2Proof.Machine.execSeal s
  | .shutdown => Sys2Proof.Machine.execShutdown s
  | .shutdownComplete => Sys2Proof.Machine.execShutdownComplete s
  | .loadProgram tenant map => Sys2Proof.Machine.execLoadProgram tenant map s
  | .unloadProgram tenant => Sys2Proof.Machine.execUnloadProgram tenant s
  | .loadPlan plan => Sys2Proof.Machine.execLoadPlan plan s
  | .stewardCommandDone => Sys2Proof.Machine.execStewardCommandDone s
  | .xchDataItem h idx => Sys2Proof.Machine.execXchDataItem h idx s
  | .xchScaleItem h idx => Sys2Proof.Machine.execXchScaleItem h idx s
  | .xchAckItem h idx => Sys2Proof.Machine.execXchAckItem h idx s
  | .xchNakItem h idx => Sys2Proof.Machine.execXchNakItem h idx s
  | .outSlotReturned h => Sys2Proof.Machine.execOutSlotReturned h s
  | .exchangeTimeout t k => Sys2Proof.Machine.execExchangeTimeout t k s
  | .resetNFall => Sys2Proof.Machine.execResetNFall s
  | .resetNRise => Sys2Proof.Machine.execResetNRise s
  | .pwrOkRise => Sys2Proof.Machine.execPwrOkRise s
  | .pwrOkFall => Sys2Proof.Machine.execPwrOkFall s
  | .vinOutOfRange => Sys2Proof.Machine.execVinOutOfRange s
  | .haltReqAssert => Sys2Proof.Machine.execHaltReqAssert s
  | .haltReqRelease => Sys2Proof.Machine.execHaltReqRelease s
  | .haltStuck => Sys2Proof.Machine.execHaltStuck s
  | .haltRearmed => Sys2Proof.Machine.execHaltRearmed s
  | .blockLockAcquired inp => Sys2Proof.Machine.execBlockLockAcquired inp s
  | .blockLockLost inp => Sys2Proof.Machine.execBlockLockLost inp s
  | .frameLockAcquired inp => Sys2Proof.Machine.execFrameLockAcquired inp s
  | .frameLockLost inp => Sys2Proof.Machine.execFrameLockLost inp s
  | .windowCheck c0 c1 => Sys2Proof.Machine.execWindowCheck c0 c1 s
  | .watchCheck losc r0 r1 => Sys2Proof.Machine.execWatchCheck losc r0 r1 s
  | .trimUpdate loscElapsed => Sys2Proof.Machine.execTrimUpdate loscElapsed s
  | .relockEnd => Sys2Proof.Machine.execRelockEnd s
  | .stkPgRise p => Sys2Proof.Machine.execStkPgRise p s
  | .mpTrained p repaired => Sys2Proof.Machine.execMpTrained p repaired s
  | .mpTrainTimeout p cause => Sys2Proof.Machine.execMpTrainTimeout p cause s
  | .stkPgFall p => Sys2Proof.Machine.execStkPgFall p s
  | .memPortRetrain p => Sys2Proof.Machine.execMemPortRetrain p s
  | .mpRetrained p repaired => Sys2Proof.Machine.execMpRetrained p repaired s
  | .mpRetrainTimeout p => Sys2Proof.Machine.execMpRetrainTimeout p s
  | .linkFlitReplay mem p => Sys2Proof.Machine.execLinkFlitReplay mem p s
  | .hostPortDown p => Sys2Proof.Machine.execHostPortDown p s
  | .hostPortUp p repaired => Sys2Proof.Machine.execHostPortUp p repaired s
  | .domainFault d => Sys2Proof.Machine.execDomainFault d s
  | .boxcarsSpent => Sys2Proof.Machine.execBoxcarsSpent s
  | .boxcarsWorn => Sys2Proof.Machine.execBoxcarsWorn s
  | .boxcarsHot sensor temp => Sys2Proof.Machine.execBoxcarsHot sensor temp s
  | .hotClear temps => Sys2Proof.Machine.execHotClear temps s
  | .thermalRecovered => Sys2Proof.Machine.execThermalRecovered s
  | .errorEntryHandle => Sys2Proof.Machine.execErrorEntryHandle s
  | .recoveryStepTimeout => Sys2Proof.Machine.execRecoveryStepTimeout s
  | .startupPhaseEnd => Sys2Proof.Machine.execStartupPhaseEnd s
  | .startupTimeout cause => Sys2Proof.Machine.execStartupTimeout cause s
  | .illegalOpcode t e w => Sys2Proof.Machine.execIllegalOpcode t e w s
  | .badpkt port w0 => Sys2Proof.Machine.execBadpkt port w0 s
  | .baditem h idx => Sys2Proof.Machine.execBaditem h idx s
  | .startOfFrameFault inp atPosition payload => Sys2Proof.Machine.execStartOfFrameFault inp atPosition payload s
  | .filteredPulse p => Sys2Proof.Machine.execFilteredPulse p s

end Sys2Proof.Machine
end

