-- ==== Sys2Proof/Safety.lean ====
section
/-! DEFINITION. What the claims say in common: what holds of every state, when an engine instruction issues, and what issuing leaves. -/

namespace Sys2Proof.Machine

/-- The invariant of memory: cells and poison in their one canonical form. -/
def CanonicalMemory (s : State) : Prop := Memory.wf s.mem

/-- R57: two states with the same factory fuses, whether or not they are loaded. -/
def SameFuses (s s' : State) : Prop := { s'.fuse with valid := s.fuse.valid } = s.fuse

/-- An engine instruction as a command: its tile and word, whether every engine has it (R91), its operation and its work. -/
structure EngineInstr where
  tile : BitVec 10
  word : W64
  every : Bool
  op : Nat
  body : Body

/-- The engine instruction a command is. -/
def engineInstr (i : Instr) : Option EngineInstr :=
  match i with
  | .nop t w => some { tile := t, word := w, every := true, op := 0x00, body := bodyNop }
  | .repeat_ t w => some { tile := t, word := w, every := true, op := 0x01, body := bodyRepeat }
  | .kenter t w => some { tile := t, word := w, every := false, op := 0xc2, body := bodyKenter }
  | .kend t w => some { tile := t, word := w, every := false, op := 0xc3, body := bodyKend }
  | .li t w => some { tile := t, word := w, every := false, op := 0xc4, body := bodyLi }
  | .alu t w => some { tile := t, word := w, every := false, op := 0xc5, body := bodyAlu }
  | .alui t w => some { tile := t, word := w, every := false, op := 0xc6, body := bodyAlui }
  | .br t w => some { tile := t, word := w, every := false, op := 0xc7, body := bodyBr }
  | .jmp t w => some { tile := t, word := w, every := false, op := 0xc8, body := bodyJmp }
  | .seta t w => some { tile := t, word := w, every := false, op := 0xc9, body := bodySeta }
  | .adda t w => some { tile := t, word := w, every := false, op := 0xca, body := bodyAdda }
  | .addas t w => some { tile := t, word := w, every := false, op := 0xcb, body := bodyAddas }
  | .aread t w => some { tile := t, word := w, every := false, op := 0xcc, body := bodyAread }
  | .karg t w => some { tile := t, word := w, every := false, op := 0xcd, body := bodyKarg }
  | .credit t w => some { tile := t, word := w, every := false, op := 0xce, body := bodyCredit }
  | .qrd t w => some { tile := t, word := w, every := false, op := 0xcf, body := bodyQrd }
  | .qwr t w => some { tile := t, word := w, every := false, op := 0xd0, body := bodyQwr }
  | .qstat t w => some { tile := t, word := w, every := false, op := 0xd1, body := bodyQstat }
  | .trap t w => some { tile := t, word := w, every := false, op := 0xd2, body := bodyTrap }
  | .load t w => some { tile := t, word := w, every := false, op := 0x02, body := bodyLoad }
  | .store t w => some { tile := t, word := w, every := false, op := 0x03, body := bodyStore }
  | .ldq t w => some { tile := t, word := w, every := false, op := 0x04, body := bodyLdq }
  | .qst t w => some { tile := t, word := w, every := false, op := 0x05, body := bodyQst }
  | .gather t w => some { tile := t, word := w, every := false, op := 0x06, body := bodyGather }
  | .ebag t w => some { tile := t, word := w, every := false, op := 0x07, body := bodyEbag }
  | .zero t w => some { tile := t, word := w, every := false, op := 0x08, body := bodyZero }
  | .send t w => some { tile := t, word := w, every := false, op := 0xa2, body := bodySend }
  | .recv t w => some { tile := t, word := w, every := false, op := 0xa3, body := bodyRecv }
  | .mmw t w => some { tile := t, word := w, every := false, op := 0x22, body := bodyMmw }
  | .mxout t w => some { tile := t, word := w, every := false, op := 0x23, body := bodyMxout }
  | .mzero t w => some { tile := t, word := w, every := false, op := 0x24, body := bodyMzero }
  | .vld t w => some { tile := t, word := w, every := false, op := 0x42, body := bodyVld }
  | .vst t w => some { tile := t, word := w, every := false, op := 0x43, body := bodyVst }
  | .vpop t w => some { tile := t, word := w, every := false, op := 0x44, body := bodyVpop }
  | .vpush t w => some { tile := t, word := w, every := false, op := 0x45, body := bodyVpush }
  | .vscl t w => some { tile := t, word := w, every := false, op := 0x46, body := bodyVscl }
  | .vop t w => some { tile := t, word := w, every := false, op := 0x47, body := bodyVop }
  | .vopi t w => some { tile := t, word := w, every := false, op := 0x48, body := bodyVopi }
  | .vred t w => some { tile := t, word := w, every := false, op := 0x49, body := bodyVred }
  | .vrot t w => some { tile := t, word := w, every := false, op := 0x4a, body := bodyVrot }
  | .vpick t w => some { tile := t, word := w, every := false, op := 0x4b, body := bodyVpick }
  | .vside t w => some { tile := t, word := w, every := false, op := 0x4c, body := bodyVside }
  | .vqz t w => some { tile := t, word := w, every := false, op := 0x4d, body := bodyVqz }
  | .vqnt t w => some { tile := t, word := w, every := false, op := 0x4e, body := bodyVqnt }
  | .vqs t w => some { tile := t, word := w, every := false, op := 0x4f, body := bodyVqs }
  | .vpack t w => some { tile := t, word := w, every := false, op := 0x50, body := bodyVpack }
  | .vunpk t w => some { tile := t, word := w, every := false, op := 0x51, body := bodyVunpk }
  | .twalk t w => some { tile := t, word := w, every := false, op := 0x62, body := bodyTwalk }
  | .tfe t w => some { tile := t, word := w, every := false, op := 0x63, body := bodyTfe }
  | .tout t w => some { tile := t, word := w, every := false, op := 0x64, body := bodyTout }
  | .astep t w => some { tile := t, word := w, every := false, op := 0x82, body := bodyAstep }
  | .instructionComplete _ _ _ => none
  | .creditStall _ => none
  | .kernelDispatch _ _ => none
  | .streamLoaderFill _ _ => none
  | .kernelEnd _ => none
  | .turnMark _ _ => none
  | .turnStall => none
  | .pauseExpiry _ => none
  | .handleExpiry _ _ => none
  | .mwr _ _ _ _ => none
  | .mrd _ _ _ => none
  | .doorbell _ _ _ => none
  | .admitReq _ => none
  | .tokens _ => none
  | .takeback _ => none
  | .resign _ => none
  | .pause _ => none
  | .resume _ => none
  | .resumeLoss _ => none
  | .resumeRebuild _ => none
  | .prefixRefMark _ => none
  | .prefixRefDrop _ => none
  | .pauseDrained _ => none
  | .pauseTransferDone _ => none
  | .imageFetchDone _ => none
  | .verdictEntryReturned _ => none
  | .bulletinTimeout _ => none
  | .bulletinSlotReturned _ => none
  | .eventEntryReturned _ => none
  | .imageBufferReturned _ => none
  | .masksetEntryReturned _ => none
  | .noticeInterval _ => none
  | .mcSeat _ => none
  | .mcRd _ => none
  | .mcWr _ => none
  | .mcForward _ => none
  | .registerWrite _ _ => none
  | .tileFlush _ _ => none
  | .reqSlotSel _ _ => none
  | .errLogSel _ => none
  | .meterSel _ => none
  | .codeSel _ => none
  | .routeLoad _ => none
  | .routeLoadComplete => none
  | .codeLoad _ => none
  | .codeAct _ => none
  | .closeClock _ => none
  | .openClock _ => none
  | .powerOff _ => none
  | .powerOn _ => none
  | .gateHandshakeDone _ => none
  | .gateTimeout => none
  | .railGood => none
  | .railTimeout => none
  | .clkReturnNow => none
  | .fwLoad _ => none
  | .fwAuthComplete => none
  | .seal => none
  | .shutdown => none
  | .shutdownComplete => none
  | .loadProgram _ _ => none
  | .unloadProgram _ => none
  | .loadPlan _ => none
  | .stewardCommandDone => none
  | .xchDataItem _ _ => none
  | .xchScaleItem _ _ => none
  | .xchAckItem _ _ => none
  | .xchNakItem _ _ => none
  | .outSlotReturned _ => none
  | .exchangeTimeout _ _ => none
  | .resetNFall => none
  | .resetNRise => none
  | .pwrOkRise => none
  | .pwrOkFall => none
  | .vinOutOfRange => none
  | .haltReqAssert => none
  | .haltReqRelease => none
  | .haltStuck => none
  | .haltRearmed => none
  | .blockLockAcquired _ => none
  | .blockLockLost _ => none
  | .frameLockAcquired _ => none
  | .frameLockLost _ => none
  | .windowCheck _ _ => none
  | .watchCheck _ _ _ => none
  | .trimUpdate _ => none
  | .relockEnd => none
  | .stkPgRise _ => none
  | .mpTrained _ _ => none
  | .mpTrainTimeout _ _ => none
  | .stkPgFall _ => none
  | .memPortRetrain _ => none
  | .mpRetrained _ _ => none
  | .mpRetrainTimeout _ => none
  | .linkFlitReplay _ _ => none
  | .hostPortDown _ => none
  | .hostPortUp _ _ => none
  | .domainFault _ => none
  | .boxcarsSpent => none
  | .boxcarsWorn => none
  | .boxcarsHot _ _ => none
  | .hotClear _ => none
  | .thermalRecovered => none
  | .errorEntryHandle => none
  | .recoveryStepTimeout => none
  | .startupPhaseEnd => none
  | .startupTimeout _ => none
  | .illegalOpcode _ _ _ => none
  | .badpkt _ _ => none
  | .baditem _ _ => none
  | .startOfFrameFault _ _ _ => none
  | .filteredPulse _ => none

/-- The tile ID that a command names. -/
def namedTile (i : Instr) : Option (BitVec 10) :=
  match i with
  | .nop t _ => some t
  | .repeat_ t _ => some t
  | .kenter t _ => some t
  | .kend t _ => some t
  | .li t _ => some t
  | .alu t _ => some t
  | .alui t _ => some t
  | .br t _ => some t
  | .jmp t _ => some t
  | .seta t _ => some t
  | .adda t _ => some t
  | .addas t _ => some t
  | .aread t _ => some t
  | .karg t _ => some t
  | .credit t _ => some t
  | .qrd t _ => some t
  | .qwr t _ => some t
  | .qstat t _ => some t
  | .trap t _ => some t
  | .load t _ => some t
  | .store t _ => some t
  | .ldq t _ => some t
  | .qst t _ => some t
  | .gather t _ => some t
  | .ebag t _ => some t
  | .zero t _ => some t
  | .send t _ => some t
  | .recv t _ => some t
  | .mmw t _ => some t
  | .mxout t _ => some t
  | .mzero t _ => some t
  | .vld t _ => some t
  | .vst t _ => some t
  | .vpop t _ => some t
  | .vpush t _ => some t
  | .vscl t _ => some t
  | .vop t _ => some t
  | .vopi t _ => some t
  | .vred t _ => some t
  | .vrot t _ => some t
  | .vpick t _ => some t
  | .vside t _ => some t
  | .vqz t _ => some t
  | .vqnt t _ => some t
  | .vqs t _ => some t
  | .vpack t _ => some t
  | .vunpk t _ => some t
  | .tfe t _ => some t
  | .twalk t _ => some t
  | .tout t _ => some t
  | .astep t _ => some t
  | .instructionComplete t _ _ => some t
  | .creditStall t => some t
  | .streamLoaderFill t _ => some t
  | .kernelEnd t => some t
  | .exchangeTimeout t _ => some t
  | .illegalOpcode t _ _ => some t
  | .kernelDispatch _ _ => none
  | .turnMark _ _ => none
  | .turnStall => none
  | .pauseExpiry _ => none
  | .handleExpiry _ _ => none
  | .mwr _ _ _ _ => none
  | .mrd _ _ _ => none
  | .doorbell _ _ _ => none
  | .admitReq _ => none
  | .tokens _ => none
  | .takeback _ => none
  | .resign _ => none
  | .pause _ => none
  | .resume _ => none
  | .resumeLoss _ => none
  | .resumeRebuild _ => none
  | .prefixRefMark _ => none
  | .prefixRefDrop _ => none
  | .pauseDrained _ => none
  | .pauseTransferDone _ => none
  | .imageFetchDone _ => none
  | .verdictEntryReturned _ => none
  | .bulletinTimeout _ => none
  | .bulletinSlotReturned _ => none
  | .eventEntryReturned _ => none
  | .imageBufferReturned _ => none
  | .masksetEntryReturned _ => none
  | .noticeInterval _ => none
  | .mcSeat _ => none
  | .mcRd _ => none
  | .mcWr _ => none
  | .mcForward _ => none
  | .registerWrite _ _ => none
  | .tileFlush _ _ => none
  | .reqSlotSel _ _ => none
  | .errLogSel _ => none
  | .meterSel _ => none
  | .codeSel _ => none
  | .routeLoad _ => none
  | .routeLoadComplete => none
  | .codeLoad _ => none
  | .codeAct _ => none
  | .closeClock _ => none
  | .openClock _ => none
  | .powerOff _ => none
  | .powerOn _ => none
  | .gateHandshakeDone _ => none
  | .gateTimeout => none
  | .railGood => none
  | .railTimeout => none
  | .clkReturnNow => none
  | .fwLoad _ => none
  | .fwAuthComplete => none
  | .seal => none
  | .shutdown => none
  | .shutdownComplete => none
  | .loadProgram _ _ => none
  | .unloadProgram _ => none
  | .loadPlan _ => none
  | .stewardCommandDone => none
  | .xchDataItem _ _ => none
  | .xchScaleItem _ _ => none
  | .xchAckItem _ _ => none
  | .xchNakItem _ _ => none
  | .outSlotReturned _ => none
  | .resetNFall => none
  | .resetNRise => none
  | .pwrOkRise => none
  | .pwrOkFall => none
  | .vinOutOfRange => none
  | .haltReqAssert => none
  | .haltReqRelease => none
  | .haltStuck => none
  | .haltRearmed => none
  | .blockLockAcquired _ => none
  | .blockLockLost _ => none
  | .frameLockAcquired _ => none
  | .frameLockLost _ => none
  | .windowCheck _ _ => none
  | .watchCheck _ _ _ => none
  | .trimUpdate _ => none
  | .relockEnd => none
  | .stkPgRise _ => none
  | .mpTrained _ _ => none
  | .mpTrainTimeout _ _ => none
  | .stkPgFall _ => none
  | .memPortRetrain _ => none
  | .mpRetrained _ _ => none
  | .mpRetrainTimeout _ => none
  | .linkFlitReplay _ _ => none
  | .hostPortDown _ => none
  | .hostPortUp _ _ => none
  | .domainFault _ => none
  | .boxcarsSpent => none
  | .boxcarsWorn => none
  | .boxcarsHot _ _ => none
  | .hotClear _ => none
  | .thermalRecovered => none
  | .errorEntryHandle => none
  | .recoveryStepTimeout => none
  | .startupPhaseEnd => none
  | .startupTimeout _ => none
  | .badpkt _ _ => none
  | .baditem _ _ => none
  | .startOfFrameFault _ _ _ => none
  | .filteredPulse _ => none

/-- The word is one of the instruction's (R88), in engine `e`. -/
def EngineInstr.fits (c : EngineInstr) (e : Eng) : Prop :=
  engOf (wOpcode c.word / 32) = some e ∧ (if c.every then wOpcode c.word % 32 else wOpcode c.word) = c.op

/-- R76, R78, R89, R102: engine `e` of tile `t` reaches word `w`, fetched into the tile `tl`, and nothing holds its issue back: the tile
runs a kernel, its position obeys the structure rules, a place in flight and the unit are free, and its credit is there, for every engine
that is served before it too. -/
structure Ready (s : State) (t : BitVec 10) (e : Eng) (w : W64) (tl : Tile) : Prop where
  named : tileNamed t.toNat = true
  runs : tileRuns s t.toNat = true
  kernel : (tileOf s t.toNat).kernel = true
  going : (tileOf s t.toNat).stopped = false
  fetched : fetchWord (tileOf s t.toNat) e = some (w, tl)
  reach : reachFault e (eng tl e) w = none
  room : hasRoom e (eng tl e) w = true
  credit : waits w = true → servedFirst tl e (waitCtr w) < (credit tl (waitCtr w)).toNat

/-- R63, R71: a ready instruction whose word was delivered without PZ; and no word that it could read, in scratch or a staging store, has a
correctable error to write back and count. -/
structure Plain (s : State) (t : BitVec 10) (e : Eng) (w : W64) (tl : Tile) : Prop extends Ready s t e w tl where
  clean : (eng tl e).tagged.contains (eng tl e).pos = false
  whole : e ≠ .sq → e ≠ .xf → s.mem.single = []

/-- R94: what the work of a ready instruction answers. -/
def answerOf (s : State) (t : BitVec 10) (e : Eng) (w : W64) (tl : Tile) (b : Body) : IRes :=
  b (envOf s t.toNat (eng tl e)) (iterOf (eng tl e)) w (paid tl w)

/-- The block after the instruction at position `idx` of engine `e` has issued: the tile and the memory its work left, the front end `x`
past the word (or at the target of a taken branch, the words before it read on, R135), and the instruction in flight with what its completion
does and signals. -/
def issued (s : State) (t : BitVec 10) (e : Eng) (w : W64) (idx : Nat) (x : EngState) (tl : Tile) (m : Mem) (p : Pend) (sig : Nat × Nat)
    (j : Option Int) : State :=
  let f : InFlight := { idx := idx, sig := sig.1, n := sig.2, done := false, unit := unitOf e w, since := s.now, pend := p }
  { setTile s t.toNat (readOn (setEng tl e { advance x w j with flight := x.flight ++ [f] }) e) with mem := m }

/-- The block after a ready instruction of engine `e` has issued that left the tile as `tl'` and the memory as `m`, has `p` to do when it
completes, and signals as its SIG field says (R79). -/
def issuedWith (s : State) (t : BitVec 10) (e : Eng) (w : W64) (tl tl' : Tile) (m : Mem) (p : Pend) : State :=
  issued s t e w (eng tl e).pos (eng tl e) tl' m p (wSig w, 1) none

/-- R105: an SQ instruction other than KEND leaves a word of its stream to follow. -/
def staysIn (e : Eng) (w : W64) (x : EngState) (j : Option Int) : Prop :=
  e = .sq → wOpcode w ≠ 0xc3 → (advance x w j).pos < x.length

/-- The answer of a body that met no poison and no full queue, and sends nothing to another block (R63, R69, R125, R407). -/
def Quiet (r : IRes) : Prop :=
  r.overran = [] ∧ r.readBad = [] ∧ r.wroteBad = [] ∧ (∀ p ∈ r.ue, p.2 = 0)
    ∧ match r.pend with
      | .send c _ _ _ _ _ _ => c.isLocal = true
      | _ => True

/-- R90: the operand bits of an instruction's word outside the bits `used` are zero. -/
abbrev operandsOk (w : W64) (used : Nat) : Prop := reservedOk w used = true

/-- R314, R315, R387, R395: host port `p` takes packets at once: trained, its domain powered and clocked, REF running, no relock in progress,
and no earlier packet of the port held back. -/
def portOpen (s : State) (p : Nat) : Bool :=
  (hpOf s p).trained && s.power.on.getLsbD (hpDomain p) && !domainShut s (hpDomain p) && refRuns s && s.clocks.relock.isNone
    && !s.clocks.held.any (fun c => cmdPort c.cmd == some p)

/-- A slot's request has nothing that publication or the mask lane could still do: no terminal record and no run open, no verdict computed
past the published ones, no mask automaton and no mask record owed (R227, R288). -/
def settled (x : Slot) : Bool :=
  x.w.term.isNone && !x.w.runOpen && decide (x.w.computed ≤ x.w.published) && !x.r.masks && x.w.maskPos.isEmpty

/-- R281, R378: the start-of-frame payload `p` on input `i` is a mark the block takes at once: the input in use, locked, outside
CLOCK-HOLD, its timebase unit and the CT clocks running, no mark waiting, and not of a frame that the old input gave (R379). -/
def takesMark (s : State) (i : TbIn) (p : W64) : Bool :=
  sofGood p && sofMark p && (tbOf s i).blockLock && (tbOf s i).frameLock && s.clocks.inUse == i && s.clocks.src != 2
    && s.clocks.catchMarks.isEmpty && ctPhase s.su.phase && !s.errs.block && ctRuns s && tbRuns s i && !frameTaken s p

/-- The block with the start-of-frame payload `p` in its input's history of 64, SKEW measured and FCNT noted (R379, R380). -/
def noted (s : State) (i : TbIn) (p : W64) : State :=
  let hist := (tbOf s i).hist ++ [(s.now, p)]
  let s1 := setTb s i { tbOf s i with hist := hist.drop (hist.length - 64) }
  { s1 with
    power := { s1.power with skew := (skewOf s1).getD s1.power.skew }
    clocks := { s1.clocks with lastFcnt := some (BitVec.ofNat 8 (sofFcnt p)), catching := false } }

/-- Nothing waits for the clocks: no event, mark, access, reply, doorbell, item, bulletin, batch record, request or image to free (R387,
R401, R454). -/
structure NothingWaits (s : State) : Prop where
  evs : s.clocks.evs = []
  marks : s.clocks.catchMarks = []
  held : s.clocks.held = []
  bells : s.pins.bells = []
  replies : s.replies = []
  outs : ∀ h, (half s h).outQueue = []
  bulletins : ∀ h, (half s h).bullWait = []
  images : ∀ p ∈ Machine.images s, p.2.admits = true
  batches : s.bwaits = []
  slots : s.slots = []

/-- The `n` bytes at `a` and the `m` bytes at `b` have none in common. -/
def bytesApart (a n b m : Nat) : Prop := a + n ≤ b ∨ b + m ≤ a

/-- None of the `n` bytes at `a` lies behind a FAILED port (R346). -/
def alive (s : State) (a n : Nat) : Prop := ∀ j, j < n → memDead s.mem (a + j) = false

/-- The window slot at `off` holds the words `ws`, zeros to word 6, and the owner `o` (R322). -/
def SlotHolds (s : State) (off : Nat) (ws : List W64) (o : Nat) : Prop :=
  (∀ j, j < 7 → winWord s (off + 8 * j) = ws.getD j 0) ∧ winWord s (off + 56) = mk64 (put o 62 2)

/-- The window offset of the next entry of a half's event ring (R333). -/
def eventOff (s : State) (h : Half) : Nat := (eventRing s h).1 + 64 * ((half s h).eseq.toNat % (eventRing s h).2)

/-- R333: an event of half `h` sent now is written at once: the window open, no drop to tell of, the next entry the block's. -/
def EventReady (s : State) (h : Half) : Prop :=
  windowOpen s = true ∧ (half s h).evDropped = 0 ∧ eventRoom s h = true ∧ alive s (winAddr s (eventOff s h)) 64

/-- R333, R334: the event with words `w0` to `w3` stands in what was the next entry of the half's ring, which reads HOST. -/
def EventStands (s s' : State) (h : Half) (w0 w1 w2 w3 : W64) : Prop :=
  (half s' h).eseq = (half s h).eseq + 1 ∧ SlotHolds s' (eventOff s h) [w0, w1, w2, w3] 1

/-- R335: image buffer `b` holds part number `part` of the image of slot `n`, its data `d`, the buffer after it `next` and its owner `o`. -/
def BufferHolds (s : State) (n b next part : Nat) (d : List PByte) (o : Nat) : Prop :=
  let r := (slotOf s n).r
  SlotHolds s (imgOffset s b)
      [mk64 (put r.tenant.toNat 48 16 + put n 32 16 + put r.sgen.toNat 24 8), mk64 (put next 32 32 + put part 0 32), mk64 d.length] o
    ∧ ∀ j x, d[j]? = some x → memByte s.mem (winAddr s (imgOffset s b) + 64 + j) = x.1

/-- R335: the image `parts` of slot `n` stands in the buffers `ks` in order, each naming the next, the last none; the first is still the
block's, the others are the host software's. -/
def ImageStands (s : State) (n : Nat) (parts : List (List PByte)) (ks : List Nat) : Prop :=
  ∀ i b d, ks[i]? = some b → parts[i]? = some d → BufferHolds s n b (ks.getD (i + 1) 0xffffffff) i d (if i = 0 then 2 else 1)

/-- R335: the memory outside the image buffers `ks` reads as before. -/
def OnlyBuffers (s s' : State) (ks : List Nat) : Prop :=
  ∀ y, (∀ b ∈ ks, y < winAddr s (imgOffset s b) ∨ winAddr s (imgOffset s b) + imgSize s ≤ y) → memByte s'.mem y = memByte s.mem y

/-- R329, R330: bulletin `q` with the records `recs`, written in turn `t`, stands in the slot at `off`, handed over: POISON where it stands for a
poisoned record, which `pz` names. -/
def BulletinStands (s : State) (off : Nat) (q t : W32) (recs : List (Nat × List PByte)) (pz : Option W64) : Prop :=
  SlotHolds s off [mk64 (put recs.length 32 16), mk64 (put q.toNat 32 32 + put t.toNat 0 32), pz.getD 0] (if pz.isSome then 3 else 1)
    ∧ ∀ j x, (recs.flatMap (·.2))[j]? = some x → memByte s.mem (winAddr s off + 64 + j) = x.1

/-- R353, R354: item `i` stands in the exchange slot at `off`, handed to the receiver: its header and its body. -/
def ItemStands (s : State) (off : Nat) (i : Item) : Prop :=
  SlotHolds s off
      [mk64 (put i.kind 56 8 + put 2 48 8 + put i.dst.toNat 32 16 + put i.src.toNat 16 16 + put i.group.toNat 0 16),
       mk64 (put i.dtile.toNat 54 10 + put i.stile.toNat 44 10 + put i.chan.toNat 40 4 + put (b2n i.scale) 39 1 + put (b2n i.coded) 38 1
         + put i.width 36 2 + put i.words 32 4 + put i.xid 16 16 + put i.replay 12 4),
       mk64 (put i.turn.toNat 32 32 + put i.size 0 32), mk64 (put (b2n i.pz) 8 1 + put i.reason 0 8)] 1
    ∧ ∀ j x, i.body[j]? = some x → memByte s.mem (winAddr s off + 64 + j) = x.1

/-- R448, R449: frame `f` arrives whole on a running M-chain whose block has no frame of its own or to forward waiting. -/
def mcQuiet (s : State) : Bool := mcRuns s && s.su.fwd.isEmpty && s.su.own.isEmpty

/-- A management write to register block `b` at offset `off` is served (R460). -/
def servedAt (s : State) (a : W48) (b : RegBlock) (off : Nat) : Prop := avail s a.toNat = .served ∧ regBlock a.toNat = some (b, off)

/-- R394: a gate command given now runs at once: none waits, no BLOCK stop, the block has power, it is not READY, its clocks run. -/
def gateFree (s : State) : Bool :=
  avail s (mgmtBase + 0x70060) == .served && s.power.gateWait == .idle && !s.errs.block && !s.su.off && s.su.phase != .ready
    && s.clocks.relock.isNone && ctRuns s

end Sys2Proof.Machine
end

