-- ==== Sys2Proof/Certificates/Slice0/Obligations.lean ====
section
/-! DEFINITION. The statements for the provers. -/

open Sys2Proof Sys2Proof.Machine

/-- The command at the front of the queue runs on the state with the queue's rest. -/
def Obligations.StepRunsFront : Prop :=
  ∀ (c : Instr) (cs : List Instr) (s : State), s.pending = c :: cs → step s = exec c { s with pending := cs }

/-- R40: a command of a tile stops where its ID names no tile, and no other command, or state, ever stops. -/
def Obligations.OnlyUnnamedTilesStop : Prop :=
  ∀ (i : Instr) (s : State),
    (∃ t, namedTile i = some t ∧ tileNamed t.toNat = false ∧ exec i s = .fault (.noSuchTile t))
      ∨ ((∀ t, namedTile i = some t → tileNamed t.toNat = true) ∧ ∃ s', exec i s = .next s')

/-- R78, R79, R100: every engine instruction that nothing holds back and whose operands break no rule issues: its work is done, its front
end moves on, and it is in flight; what it read that was correctable is corrected and counted (R63), the bytes it moved to and from the
stacks are counted to its job (R372), and nothing else changes. -/
def Obligations.EngineInstructionsIssue : Prop :=
  ∀ (i : Instr) (c : EngineInstr) (e : Eng) (s : State) (tl : Tile),
    engineInstr i = some c → c.fits e → Ready s c.tile e c.word tl →
    ∀ r : IRes, r = answerOf s c.tile e c.word tl c.body →
      r.fault = none → Quiet r → r.touch.any (portWaits s) = false → badTarget (eng tl e) r.jump = false →
      staysIn e c.word (eng r.tile e) r.jump →
      exec i s = .next
        (addBytes
          ((singlesOf s.mem r.reads).foldl correctUnit
            (issued s c.tile e c.word (eng tl e).pos (eng r.tile e) r.tile r.mem r.pend (r.sigCtr.getD (wSig c.word, 1)) r.jump))
          c.tile.toNat r.touch)

/-- R82, R87, R129: an engine instruction whose operands break a rule stops its tile, and TILE_FAULT names the fault unless it held one. -/
def Obligations.IssueFaultStopsTile : Prop :=
  ∀ (i : Instr) (c : EngineInstr) (e : Eng) (s : State) (tl : Tile) (code q : Nat),
    engineInstr i = some c → c.fits e → Ready s c.tile e c.word tl →
    ∀ r : IRes, r = answerOf s c.tile e c.word tl c.body →
      r.fault = some (code, q) → r.readBad = [] → r.touch.any (portWaits s) = false →
      bit r.tile.fault 63 = false → code < 256 → q < 32 →
      ∃ s', exec i s = .next s' ∧ (tileOf s' c.tile.toNat).stopped = true ∧ bit (tileOf s' c.tile.toNat).fault 63 = true
        ∧ fld (tileOf s' c.tile.toNat).fault 48 8 = code ∧ fld (tileOf s' c.tile.toNat).fault 40 3 = engNum e
        ∧ fld (tileOf s' c.tile.toNat).fault 0 32 = (eng tl e).pos % 2 ^ 32
        ∧ fld (tileOf s' c.tile.toNat).fault 32 5 = (if code = 1 ∨ code = 2 then q else 0)

/-- R102, R104, R105, R107: a word that breaks a structure rule where its engine reaches it, an SQ instruction other than KEND that ends its
stream, and a branch or jump taken to a target outside the stream stop their tile with the rule's fault. That the fault of the stream's end
comes as its last word issues, and has the stream's length for INDEX, is the model's choice (log 104). -/
def Obligations.StructureFaultStopsTile : Prop :=
  ∀ (i : Instr) (c : EngineInstr) (e : Eng) (s : State) (tl : Tile), engineInstr i = some c → c.fits e →
    bit tl.fault 63 = false →
    (∀ code, tileNamed c.tile.toNat = true → tileRuns s c.tile.toNat = true → (tileOf s c.tile.toNat).kernel = true →
      (tileOf s c.tile.toNat).stopped = false → fetchWord (tileOf s c.tile.toNat) e = some (c.word, tl) →
      reachFault e (eng tl e) c.word = some code →
      ∃ s', exec i s = .next s' ∧ (tileOf s' c.tile.toNat).stopped = true ∧ bit (tileOf s' c.tile.toNat).fault 63 = true
        ∧ fld (tileOf s' c.tile.toNat).fault 48 8 = code ∧ (code = 0x14 ∨ code = 0x15)
        ∧ fld (tileOf s' c.tile.toNat).fault 0 32 = (eng tl e).pos % 2 ^ 32)
    ∧ (∀ r : IRes, e = .sq → Ready s c.tile .sq c.word tl → wOpcode c.word ≠ 0xc3 → r = answerOf s c.tile .sq c.word tl c.body →
      r.fault = none → Quiet r → r.touch = [] → badTarget (eng tl .sq) r.jump = false → bit r.tile.fault 63 = false →
      (eng r.tile .sq).length ≤ (advance (eng r.tile .sq) c.word r.jump).pos →
      ∃ s', exec i s = .next s' ∧ (tileOf s' c.tile.toNat).stopped = true ∧ bit (tileOf s' c.tile.toNat).fault 63 = true
        ∧ fld (tileOf s' c.tile.toNat).fault 48 8 = 0x14 ∧ fld (tileOf s' c.tile.toNat).fault 0 32 = (eng r.tile .sq).length % 2 ^ 32)
    ∧ (let w := c.word
      let x := sGet tl (sReg w 40)
      let y := sGet tl (sReg w 35)
      let target : Int := (eng tl .sq).pos + sext (fld w 0 16) 16
      e = .sq → Ready s c.tile .sq w tl →
      ((wOpcode w = 0xc8 ∧ operandsOk w (mask 15 0))
        ∨ (wOpcode w = 0xc7 ∧ operandsOk w (mask 47 35 + mask 15 0) ∧ fld w 45 3 ≤ 5 ∧ brCond (fld w 45 3) x.bits y.bits = true)) →
      (target < 0 ∨ ((eng tl .sq).length : Int) ≤ target) →
      ∃ s', exec i s = .next s' ∧ (tileOf s' c.tile.toNat).stopped = true ∧ bit (tileOf s' c.tile.toNat).fault 63 = true
        ∧ fld (tileOf s' c.tile.toNat).fault 48 8 = 0x14 ∧ fld (tileOf s' c.tile.toNat).fault 40 3 = 6
        ∧ fld (tileOf s' c.tile.toNat).fault 0 32 = (eng tl .sq).pos % 2 ^ 32)

/-- R78: an instruction whose credit is not there, for it and for every engine that is served before it and waits for the same counter, waits:
nothing of the block changes. -/
def Obligations.CreditWaitHoldsIssue : Prop :=
  ∀ (i : Instr) (c : EngineInstr) (e : Eng) (s : State) (tl : Tile),
    engineInstr i = some c → c.fits e → tileNamed c.tile.toNat = true → fetchWord (tileOf s c.tile.toNat) e = some (c.word, tl) →
    reachFault e (eng tl e) c.word = none → waits c.word = true →
    (credit tl (waitCtr c.word)).toNat ≤ servedFirst tl e (waitCtr c.word) → exec i s = .next s

/-- R106: ALU, ALUI and LI leave for their completion the value of the function that FN selects (of two registers, or of a register and the
sign-extended IMM), or IMM; the value is poisoned while SQ is, or by its operands (R71, R111). -/
def Obligations.AluComputes : Prop :=
  ∀ (s : State) (t : BitVec 10) (w : W64) (tl : Tile), Plain s t .sq w tl → staysIn .sq w (eng tl .sq) none →
    let out (p : List (BitVec 5 × Machine.Lane)) (a : List (BitVec 4 × ALane)) :=
      Host.Outcome.next (φ := Fault) (ρ := Refusal) (issuedWith s t .sq w tl (paid tl w) s.mem (.regs p a false))
    let sv (v : W32) (pz : Bool) : Machine.Lane := { bits := v, pz := tl.tainted || pz }
    let f (fn : Nat) (x y : W32) : W32 :=
      let n := y.toNat % 32
      if fn = 0 then x + y
      else if fn = 1 then x - y
      else if fn = 2 then x &&& y
      else if fn = 3 then x ||| y
      else if fn = 4 then x ^^^ y
      else if fn = 5 then BitVec.ofNat 32 (x.toNat * 2 ^ n)
      else if fn = 6 then BitVec.ofNat 32 (x.toNat / 2 ^ n)
      else if fn = 7 then BitVec.ofInt 32 (x.toInt / (2 ^ n : Nat))
      else if fn = 8 then if x.toInt ≤ y.toInt then x else y
      else if fn = 9 then if y.toInt ≤ x.toInt then x else y
      else if fn = 10 then if x.toNat ≤ y.toNat then x else y
      else if fn = 11 then if y.toNat ≤ x.toNat then x else y
      else if fn = 12 then x * y
      else if fn = 13 then if x.toInt < y.toInt then 1 else 0
      else if fn = 14 then if x.toNat < y.toNat then 1 else 0
      else if x = y then 1 else 0
    let x := sGet tl (sReg w 38)
    let y := sGet tl (sReg w 33)
    (wOpcode w = 0xc4 → operandsOk w (mask 47 43 + mask 31 0) →
      exec (.li t w) s = out [(sReg w 43, sv (BitVec.ofNat 32 (fld w 0 32)) false)] [])
    ∧ (wOpcode w = 0xc5 → operandsOk w (mask 47 29) →
      exec (.alu t w) s = out [(sReg w 43, sv (f (fld w 29 4) x.bits y.bits) (x.pz || y.pz))] [])
    ∧ (wOpcode w = 0xc6 → operandsOk w (mask 47 34 + mask 15 0) →
      exec (.alui t w) s = out [(sReg w 43, sv (f (fld w 34 4) x.bits (BitVec.ofInt 32 (sext (fld w 0 16) 16))) x.pz)] [])

/-- R108: the a-register instructions. SETA, ADDA and ADDAS leave an a-register's value and AREAD an s-register's for their completion; the
value is poisoned while SQ is, or by its operands (R71, R111). SETA with PART 2 or 3, or with PART 1 and a non-zero IMM[31:16], is an
illegal operand. -/
def Obligations.ARegistersCompute : Prop :=
  ∀ (s : State) (t : BitVec 10) (w : W64) (tl : Tile), Plain s t .sq w tl →
    let out (p : List (BitVec 5 × Machine.Lane)) (a : List (BitVec 4 × ALane)) :=
      Host.Outcome.next (φ := Fault) (ρ := Refusal) (issuedWith s t .sq w tl (paid tl w) s.mem (.regs p a false))
    let sv (v : W32) (pz : Bool) : Machine.Lane := { bits := v, pz := tl.tainted || pz }
    let av (v : W48) (pz : Bool) : ALane := { bits := v, pz := tl.tainted || pz }
    let b := aGet tl (aReg w 40)
    let d := aGet tl (aReg w 44)
    let c := aGet tl (aReg w 39)
    (staysIn .sq w (eng tl .sq) none →
      (wOpcode w = 0xc9 → operandsOk w (mask 47 42 + mask 31 0) → fld w 42 2 = 0 →
        exec (.seta t w) s = out [] [(aReg w 44, av (BitVec.ofNat 48 (fld w 0 32)) false)])
      ∧ (wOpcode w = 0xc9 → operandsOk w (mask 47 42 + mask 31 0) → fld w 42 2 = 1 → fld w 16 16 = 0 →
        exec (.seta t w) s = out [] [(aReg w 44, av (BitVec.ofNat 48 (d.bits.toNat % 2 ^ 32 + 2 ^ 32 * fld w 0 16)) d.pz)])
      ∧ (wOpcode w = 0xca → operandsOk w (mask 47 40 + mask 31 0) →
        exec (.adda t w) s = out [] [(aReg w 44, av (BitVec.ofInt 48 (b.bits.toNat + sext (fld w 0 32) 32)) b.pz)])
      ∧ (wOpcode w = 0xcb → operandsOk w (mask 47 31) →
        let y := sGet tl (sReg w 35)
        exec (.addas t w) s = out []
          [(aReg w 44, av (BitVec.ofInt 48 (b.bits.toNat + y.bits.toInt * (2 ^ fld w 31 4 : Nat))) (b.pz || y.pz))])
      ∧ (wOpcode w = 0xcc → operandsOk w (mask 47 38) →
        exec (.aread t w) s = out
          [(sReg w 43, sv (BitVec.ofNat 32 (if fld w 38 1 = 0 then c.bits.toNat % 2 ^ 32 else c.bits.toNat / 2 ^ 32)) c.pz)] []))
    ∧ (wOpcode w = 0xc9 → bit tl.fault 63 = false → (2 ≤ fld w 42 2 ∨ (fld w 42 2 = 1 ∧ fld w 16 16 ≠ 0)) →
      ∃ s', exec (.seta t w) s = .next s' ∧ (tileOf s' t.toNat).stopped = true ∧ bit (tileOf s' t.toNat).fault 63 = true
        ∧ fld (tileOf s' t.toNat).fault 48 8 = 0x11 ∧ fld (tileOf s' t.toNat).fault 40 3 = 6)

/-- R91, R100, R104, R105, R107, R110: NOP, REPEAT, KENTER, KEND, BR, JMP and CREDIT. A taken branch continues at its target, OFF words from
itself; REPEAT opens its body of BODY + 1 words at the next word, COUNT executions of it to follow the first, and the last word of a body goes
back to its first until none is left, and then on past it; KEND waits for the kernel's end; CREDIT's addition is the signal of its completion. -/
def Obligations.SqControlIssues : Prop :=
  ∀ (s : State) (t : BitVec 10) (w : W64) (tl : Tile) (e : Eng), Plain s t e w tl →
    let at_ (p : Pend) (sig : Nat × Nat) (j : Option Int) :=
      Host.Outcome.next (φ := Fault) (ρ := Refusal) (issued s t e w (eng tl e).pos (eng tl e) (paid tl w) s.mem p sig j)
    let x := sGet tl (sReg w 40)
    let y := sGet tl (sReg w 35)
    let target : Int := (eng tl e).pos + sext (fld w 0 16) 16
    (wOpcode w = 32 * engNum e → operandsOk w 0 → staysIn e w (eng tl e) none → exec (.nop t w) s = at_ .none (wSig w, 1) none)
    ∧ (wOpcode w = 32 * engNum e + 1 → operandsOk w (mask 47 40 + mask 15 0) → staysIn e w (eng tl e) none →
      exec (.repeat_ t w) s = at_ .none (wSig w, 1) none)
    ∧ (e = .sq → wOpcode w = 0xc2 → operandsOk w (mask 15 0) → wWait w = 0 → fld w 0 16 = tl.kernelId.toNat →
        staysIn e w (eng tl e) none → exec (.kenter t w) s = at_ .none (wSig w, 1) none)
    ∧ (e = .sq → wOpcode w = 0xc3 → operandsOk w 0 → wSig w = 0 → exec (.kend t w) s = at_ .kend (0, 1) none)
    ∧ (e = .sq → wOpcode w = 0xc7 → operandsOk w (mask 47 35 + mask 15 0) → fld w 45 3 ≤ 5 → brCond (fld w 45 3) x.bits y.bits = true →
        0 ≤ target → target < (eng tl e).length → exec (.br t w) s = at_ .none (wSig w, 1) (some (sext (fld w 0 16) 16)))
    ∧ (let goes (i : Instr) (pos : Nat) (ls : List Loop) : Prop :=
        ∃ s', exec i s = .next s' ∧ (eng (tileOf s' t.toNat) e).pos = pos ∧ (eng (tileOf s' t.toNat) e).loops = ls
      let p := (eng tl e).pos
      let ls := (eng tl e).loops
      (e = .sq → wOpcode w = 0xc7 → operandsOk w (mask 47 35 + mask 15 0) → fld w 45 3 ≤ 5 → 0 ≤ target → target < (eng tl e).length →
          p + 1 < (eng tl e).length → goes (.br t w) (if brCond (fld w 45 3) x.bits y.bits then target.toNat else p + 1) [])
      ∧ (e = .sq → wOpcode w = 0xc8 → operandsOk w (mask 15 0) → 0 ≤ target → target < (eng tl e).length → goes (.jmp t w) target.toNat [])
      ∧ (wOpcode w = 32 * engNum e + 1 → operandsOk w (mask 47 40 + mask 15 0) → staysIn e w (eng tl e) none →
          goes (.repeat_ t w) (p + 1)
            ({ first := p + 1, past := p + 2 + fld w 40 8, left := fld w 0 16, done := 0, inner := none }
              :: ls.map fun l => { l with inner := some p }))
      ∧ (wOpcode w = 32 * engNum e → operandsOk w 0 → staysIn e w (eng tl e) none →
        (ls = [] → goes (.nop t w) (p + 1) [])
        ∧ (∀ l ls', ls = l :: ls' → l.past ≠ p + 1 → goes (.nop t w) (p + 1) ls)
        ∧ (∀ l ls', ls = l :: ls' → l.past = p + 1 → l.left ≠ 0 →
          goes (.nop t w) l.first ({ l with left := l.left - 1, done := l.done + 1 } :: ls'))
        ∧ (∀ l, ls = [l] → l.past = p + 1 → l.left = 0 → goes (.nop t w) (p + 1) [])
        ∧ (∀ l o, ls = [l, o] → l.past = p + 1 → l.left = 0 → o.past ≠ p + 1 → goes (.nop t w) (p + 1) [o])
        ∧ (∀ l o, ls = [l, o] → l.past = p + 1 → l.left = 0 → o.past = p + 1 → o.left ≠ 0 →
          goes (.nop t w) o.first [{ o with left := o.left - 1, done := o.done + 1 }])))
    ∧ (e = .sq → wOpcode w = 0xc7 → operandsOk w (mask 47 35 + mask 15 0) → fld w 45 3 ≤ 5 → brCond (fld w 45 3) x.bits y.bits = false →
        staysIn e w (eng tl e) none → exec (.br t w) s = at_ .none (wSig w, 1) none)
    ∧ (e = .sq → wOpcode w = 0xc8 → operandsOk w (mask 15 0) → 0 ≤ target → target < (eng tl e).length →
        exec (.jmp t w) s = at_ .none (wSig w, 1) (some (sext (fld w 0 16) 16)))
    ∧ (e = .sq → wOpcode w = 0xce → operandsOk w (mask 47 44 + mask 7 0) → fld w 44 4 ≠ 0 → fld w 0 8 ≠ 0 → wSig w = 0 →
        staysIn e w (eng tl e) none → exec (.credit t w) s = at_ .none (fld w 44 4, fld w 0 8) none)

/-- R109, R111, R112: KARG leaves its argument, QSTAT the two halves of a queue's status word, for their completion. QRD takes the oldest word
of AU_SQ for its two s-registers, QWR leaves the word of its two s-registers for SQ_VX. -/
def Obligations.SqReadsAndQueueWords : Prop :=
  ∀ (s : State) (t : BitVec 10) (w : W64) (tl : Tile), Plain s t .sq w tl → staysIn .sq w (eng tl .sq) none →
    let out (p : List (BitVec 5 × Machine.Lane)) (a : List (BitVec 4 × ALane)) :=
      Host.Outcome.next (φ := Fault) (ρ := Refusal) (issuedWith s t .sq w tl (paid tl w) s.mem (.regs p a false))
    let sv (v : W32) (pz : Bool) : Machine.Lane := { bits := v, pz := tl.tainted || pz }
    (wOpcode w = 0xcd → operandsOk w (mask 47 43 + mask 37 34) →
      exec (.karg t w) s = out [(sReg w 43, sv (tl.args.getD (fld w 34 4) 0) false)] [])
    ∧ (wOpcode w = 0xd1 → operandsOk w (mask 47 33) → fld w 33 5 ≤ 17 →
      let v := (qStatus (fld w 33 5) (tileQ tl (fld w 33 5))).toNat
      exec (.qstat t w) s = out
        [(sReg w 43, sv (BitVec.ofNat 32 (v / 2 ^ 32)) false), (sReg w 38, sv (BitVec.ofNat 32 v) false)] [])
    ∧ (∀ (i : QItem) (q : Queue), wOpcode w = 0xcf → operandsOk w (mask 47 38) → qTake (tileQ tl qAuSq) = some (i, q) →
      let x := i.words.headD { lanes := [], pz := false }
      let v := (x.lanes.headD 0).toNat
      exec (.qrd t w) s = .next
        (issuedWith s t .sq w tl (setQ (paid tl w) qAuSq q) s.mem
          (.regs [(sReg w 43, ⟨BitVec.ofNat 32 (v / 2 ^ 32), tl.tainted || x.pz⟩), (sReg w 38, ⟨BitVec.ofNat 32 v, tl.tainted || x.pz⟩)] [] x.pz)))
    ∧ (wOpcode w = 0xd0 → operandsOk w (mask 47 38) →
      let hi := sGet tl (sReg w 43)
      let lo := sGet tl (sReg w 38)
      exec (.qwr t w) s = .next
        (issuedWith s t .sq w tl (paid tl w) s.mem
          (.push { lanes := [BitVec.ofNat 64 (lo.bits.toNat + 2 ^ 32 * hi.bits.toNat)], pz := hi.pz || lo.pz })))

/-- R96, R98, R115: LOAD and STORE copy their bytes between global memory and the tile's scratch; every other byte of memory reads as before
(a store to a failed port is discarded, R346). The addresses are a-register plus iteration index times step. -/
def Obligations.LdCopiesBytes : Prop :=
  ∀ (s : State) (t : BitVec 10) (w : W64) (tl : Tile), Plain s t .ld w tl →
    let i := iterOf (eng tl .ld)
    let ga := aGet tl (aReg w 44)
    let sa := aGet tl (aReg w 40)
    let g := gAddr ga.bits.toNat i (sext (fld w 16 14) 14) 64
    let off := (sAddr sa.bits.toNat i (sext (fld w 2 14) 14)).toNat
    let own := scratchBase t.toNat + off
    let n := (fld w 30 10 + 1) * 64
    operandsOk w (mask 47 2) → g % 64 = 0 → off % 64 = 0 → 0 ≤ sAddr sa.bits.toNat i (sext (fld w 2 14) 14) → off + n ≤ scratchSize →
        ldReach (envOf s t.toNat (eng tl .ld)) g n = true → ga.pz = false → sa.pz = false →
        (wOpcode w = 0x02 → memAnyPz s.mem g n = false → portWaits s (g, n) = false →
          ∃ m, exec (.load t w) s = .next (addBytes (issuedWith s t .ld w tl (paid tl w) m .none) t.toNat [(g, n)])
            ∧ (∀ j, j < n → memByte m (own + j) = memByte s.mem (g + j))
            ∧ (∀ a, a < own ∨ own + n ≤ a → memByte m a = memByte s.mem a ∧ memPz m a = memPz s.mem a))
        ∧ (wOpcode w = 0x03 → memAnyPz s.mem own n = false → portWaits s (g, n) = false →
          ldWritable (envOf s t.toNat (eng tl .ld)) g n = true →
          ∃ m, exec (.store t w) s = .next (addBytes (issuedWith s t .ld w tl (paid tl w) m .none) t.toNat [(g, n)])
            ∧ (∀ j, j < n → memDead s.mem (g + j) = false → memByte m (g + j) = memByte s.mem (own + j))
            ∧ (∀ a, a < g ∨ g + n ≤ a → memByte m a = memByte s.mem a))

/-- R121: ZERO writes (LEN + 1) × 64 bytes of zeros at its scratch offset and clears their poison; every other byte of memory keeps its data
and poison. An offset that is not 64-byte aligned is an alignment fault. -/
def Obligations.ZeroClearsScratch : Prop :=
  ∀ (s : State) (t : BitVec 10) (w : W64) (tl : Tile), Plain s t .ld w tl → wOpcode w = 0x08 → operandsOk w (mask 47 34) →
    let rs := aGet tl (aReg w 44)
    let n := (fld w 34 10 + 1) * 64
    let own := scratchBase t.toNat + rs.bits.toNat
    (rs.bits.toNat % 64 = 0 → rs.bits.toNat + n ≤ scratchSize → rs.pz = false →
      ∃ m, exec (.zero t w) s = .next (issuedWith s t .ld w tl (paid tl w) m .none)
        ∧ (∀ j, j < n → memByte m (own + j) = 0 ∧ memPz m (own + j) = false)
        ∧ (∀ a, a < own ∨ own + n ≤ a → memByte m a = memByte s.mem a ∧ memPz m a = memPz s.mem a))
    ∧ (rs.bits.toNat % 64 ≠ 0 → bit tl.fault 63 = false →
      ∃ s', exec (.zero t w) s = .next s' ∧ (tileOf s' t.toNat).stopped = true
        ∧ bit (tileOf s' t.toNat).fault 63 = true ∧ fld (tileOf s' t.toNat).fault 48 8 = 0x12)

/-- R116, R117: QST stores the oldest packet of its queue, whose words are 256 bytes each, and every other byte of memory reads as before.
LDQ begins its packet in the queue that Q selects when it issues, and leaves the words it read for its completion. -/
def Obligations.LdMovesPackets : Prop :=
  (∀ (s : State) (t : BitVec 10) (w : W64) (tl : Tile) (p : QItem) (q' : Queue), Plain s t .ld w tl →
    let ga := aGet tl (aReg w 44)
    let g := gAddr ga.bits.toNat (iterOf (eng tl .ld)) (sext (fld w 25 14) 14) 256
    let q := if fld w 43 1 = 0 then qVxLd else qXfLd
    let l := p.words.flatMap wordBytes
    wOpcode w = 0x05 → operandsOk w (mask 47 25) → g % 64 = 0 → qTake (tileQ tl q) = some (p, q') →
      (fld w 39 4 = 0 ∨ fld w 39 4 = p.words.length) → l.length = 256 * p.words.length → p.words.any (·.pz) = false → ga.pz = false →
      ldReach (envOf s t.toNat (eng tl .ld)) g 1 = true → ldReach (envOf s t.toNat (eng tl .ld)) g l.length = true →
      ldWritable (envOf s t.toNat (eng tl .ld)) g l.length = true → portWaits s (g, l.length) = false →
      ∃ m, exec (.qst t w) s = .next (addBytes (issuedWith s t .ld w tl (setQ (paid tl w) q q') m .none) t.toNat [(g, l.length)])
        ∧ (∀ j b, l[j]? = some (b, false) → memDead s.mem (g + j) = false → memByte m (g + j) = b)
        ∧ (∀ a, a < g ∨ g + l.length ≤ a → memByte m a = memByte s.mem a))
  ∧ (∀ (s : State) (t : BitVec 10) (w : W64) (tl : Tile), Plain s t .ld w tl →
    let ga := aGet tl (aReg w 44)
    let q := (ldqQueue (fld w 42 2)).1
    let wb := (ldqQueue (fld w 42 2)).2.1
    let n := fld w 35 7
    let g := gAddr ga.bits.toNat (iterOf (eng tl .ld)) (sext (fld w 13 14) 14) wb
    wOpcode w = 0x04 → operandsOk w (mask 47 13) → n ≠ 0 → n ≤ (ldqQueue (fld w 42 2)).2.2.2 → g % (ldqQueue (fld w 42 2)).2.2.1 = 0 →
      ldReach (envOf s t.toNat (eng tl .ld)) g (n * wb) = true → memAnyPz s.mem g (n * wb) = false → ga.pz = false →
      portWaits s (g, n * wb) = false → qFull q (tileQ tl q) = false →
      exec (.ldq t w) s = .next
        (addBytes
          (issuedWith s t .ld w tl
            (setQ (paid tl w) q { tileQ tl q with pkt := some { words := [], ovr := false, flips := [] }, dropping := false, flushed := false }) s.mem
            (.ldq q (BitVec.ofNat 8 (fld w 27 8)) ((chunks wb (memRead s.mem g (n * wb))).map bytesWord)))
          t.toNat [(g, n * wb)]))

/-- R118 to R120: GATHER copies the rows that its indexes select, EBAG the sums of the rows that the keys of each bag select, to the tile's scratch;
every other byte of memory reads as before. All of it without poison, in range, behind ports that do not retrain. -/
def Obligations.LdGathersAndBags : Prop :=
  ∀ (s : State) (t : BitVec 10) (w : W64) (tl : Tile), Plain s t .ld w tl →
    let base := scratchBase t.toNat
    let env := envOf s t.toNat (eng tl .ld)
    let ra := aGet tl (aReg w 44)
    let rc := aGet tl (aReg w 44 + 1)
    let ri := aGet tl (aReg w 40)
    let rows := rc.bits.toNat % 2 ^ 32
    let fits (off n : Nat) : Prop := off + n ≤ scratchSize
    let good (a n : Nat) : Prop := ldReach env a n = true ∧ memAnyPz s.mem a n = false ∧ portWaits s (a, n) = false
    (let rs := aGet tl (aReg w 36)
     let n := fld w 26 10 + 1
     let rb := (fld w 20 6 + 1) * 64
     let es := if fld w 19 1 = 0 then 4 else 8
     let ix (k : Nat) : Nat := memNum s.mem (base + ri.bits.toNat + k * es) es
     let adr (k : Nat) : Nat := (ra.bits.toNat + ix k * rb) % 2 ^ 48
     wOpcode w = 0x06 → operandsOk w (mask 47 19) → ri.bits.toNat % es = 0 → ra.bits.toNat % 64 = 0 → fits ri.bits.toNat (n * es) →
     fits rs.bits.toNat (n * rb) → memAnyPz s.mem (base + ri.bits.toNat) (n * es) = false → (∀ k, k < n → ix k < rows ∧ good (adr k) rb) →
     ra.pz = false → rc.pz = false → ri.pz = false → rs.pz = false →
     ∃ m, exec (.gather t w) s = .next (addBytes (issuedWith s t .ld w tl (paid tl w) m .none) t.toNat (tab n fun k => (adr k, rb)))
       ∧ (∀ k j, k < n → j < rb → memByte m (base + rs.bits.toNat + k * rb + j) = memByte s.mem (adr k + j))
       ∧ (∀ a, a < base + rs.bits.toNat ∨ base + rs.bits.toNat + n * rb ≤ a → memByte m a = memByte s.mem a ∧ memPz m a = memPz s.mem a))
    ∧ (let ro := (aGet tl (aReg w 36)).bits.toNat
      let rs := (aGet tl (aReg w 32)).bits.toNat
      let bags := fld w 24 8 + 1
      let dim := (fld w 18 6 + 1) * 16
      let hash := fld w 16 1
      let rb := if fld w 17 1 = 0 then dim * 4 else dim
      let es := if hash = 0 then 4 else 8
      let x := sext (rc.bits.toNat / 2 ^ 40) 8
      let off (b : Nat) : Nat := memNum s.mem (base + ro + 4 * b) 4
      let at_ := ri.bits.toNat + es * off 0
      let n := off bags - off 0
      let keys := chunks es (memRead s.mem (base + at_) (es * n))
      let sel := (tab bags fun b => (keys.drop (off b - off 0)).take (off (b + 1) - off b)).map (bagRows env ra.bits.toNat rows rb hash)
      let out := sel.flatMap (bagSum env (fld w 17 1) (rc.bits.toNat / 2 ^ 32 % 2 ^ 8) x dim rb false)
      wOpcode w = 0x07 → operandsOk w (mask 47 16) → (fld w 17 1 = 1 → Machine.expoOk x = true) → ra.bits.toNat % 64 = 0 → ro % 4 = 0 →
      ri.bits.toNat % es = 0 → rs % 64 = 0 → fits ro (4 * (bags + 1)) → fits rs (bags * dim * 4) → (∀ b, b < bags → off b ≤ off (b + 1)) →
      n ≤ 65536 → (hash = 1 → rows ≠ 0) → fits at_ (es * n) → memAnyPz s.mem (base + ro) (4 * (bags + 1)) = false →
      memAnyPz s.mem (base + at_) (es * n) = false → (∀ b ∈ sel, b.bad = false ∧ ∀ a ∈ b.addrs, good a rb) →
      ra.pz = false → rc.pz = false → ri.pz = false → (aGet tl (aReg w 36)).pz = false → (aGet tl (aReg w 32)).pz = false →
      ∃ m, exec (.ebag t w) s = .next
          (addBytes (issuedWith s t .ld w tl (paid tl w) m .none) t.toNat ((sel.flatMap (·.addrs)).map fun a => (a, rb)))
        ∧ (∀ j b z, out[j]? = some (b, z) → memByte m (base + rs + j) = b)
        ∧ (∀ a, a < base + rs ∨ base + rs + out.length ≤ a → memByte m a = memByte s.mem a ∧ memPz m a = memPz s.mem a))

/-- R173, R174, R176: the VX instructions between registers, queues and scratch: VLD, VST, VPOP, VPUSH, VSCL, and the lane by lane VOP and
VOPI and the reductions VRED. Each changes what it names and nothing else; VST stores its rows to scratch. -/
def Obligations.VxMovesAndComputes : Prop :=
  ∀ (s : State) (t : BitVec 10) (w : W64) (tl : Tile), Plain s t .vx w tl →
    let goesTo (tl' : Tile) := Host.Outcome.next (φ := Fault) (ρ := Refusal) (issuedWith s t .vx w tl tl' s.mem .none)
    let me := paid tl w
    let vd := fld w 43 5
    let a := vGet tl (fld w 38 5)
    let b := vGet tl (fld w 33 5)
    let c := vGet tl (fld w 28 5)
    let n := fld w 40 3 + 1
    let off := (vAddr w (iterOf (eng tl .vx))).toNat
    let rows := (tab n fun k => rowBytes (vGet tl (vd + k))).flatten
    (wOpcode w = 0x42 → operandsOk w (mask 47 10) → vd + n ≤ 32 → 0 ≤ vAddr w (iterOf (eng tl .vx)) → off + 256 * n ≤ scratchSize →
        memAnyPz s.mem (scratchBase t.toNat + off) (256 * n) = false →
        exec (.vld t w) s = goesTo (vSets me vd (chunks 64 (bytesRow (memRead s.mem (scratchBase t.toNat + off) (256 * n))))))
    ∧ (wOpcode w = 0x43 → operandsOk w (mask 47 10) → vd + n ≤ 32 → 0 ≤ vAddr w (iterOf (eng tl .vx)) → off + 256 * n ≤ scratchSize →
        ∃ m, exec (.vst t w) s = .next (issuedWith s t .vx w tl me m .none)
          ∧ (∀ j b z, rows[j]? = some (b, z) → memByte m (scratchBase t.toNat + off + j) = b)
          ∧ (∀ x, x < scratchBase t.toNat + off ∨ scratchBase t.toNat + off + rows.length ≤ x → memByte m x = memByte s.mem x))
    ∧ (∀ (q : Nat) (p : QItem) (q' : Queue), wOpcode w = 0x44 → operandsOk w (mask 47 37) →
        [qLdVx, qMxVx, qTrVx][fld w 41 2]? = some q → qTake (tileQ tl q) = some (p, q') →
        (fld w 37 4 = 0 ∨ p.words.length = fld w 37 4) → vd + p.words.length ≤ 32 →
        exec (.vpop t w) s = goesTo (vSets (setQ me q q') vd (p.words.map wordRow)))
    ∧ (wOpcode w = 0x45 → operandsOk w (mask 47 30) → fld w 39 4 ≠ 0 → vd + fld w 39 4 ≤ 32 →
        let q := if fld w 38 1 = 0 then qVxLd else qVxXf
        let put := qPutPacket q (tileQ tl q) (BitVec.ofNat 8 (fld w 30 8)) (tab (fld w 39 4) fun k => rowWord (vGet tl (vd + k)))
        put.2 = 0 → exec (.vpush t w) s = goesTo (setQ me q put.1))
    ∧ (∀ (p : QItem) (q' : Queue) (x : W64) (z : Bool), wOpcode w = 0x46 → operandsOk w (mask 47 35) → qTake (tileQ tl qSqVx) = some (p, q') →
        p.words.head? = some { lanes := [x], pz := z } →
        let l : Machine.Lane := ⟨BitVec.ofNat 32 (if fld w 35 1 = 0 then x.toNat else x.toNat / 2 ^ 32), z⟩
        exec (.vscl t w) s =
          goesTo (vSet (setQ me qSqVx q') vd (if fld w 42 1 = 0 then List.replicate 64 l else (vGet tl vd).set (fld w 36 6) l)))
    ∧ (wOpcode w = 0x47 → operandsOk w (mask 47 23) → fld w 23 5 ≠ 31 → exec (.vop t w) s = goesTo (vSet me vd (vopLanes (fld w 23 5) a b c)))
    ∧ (wOpcode w = 0x48 → operandsOk w (mask 47 33 + mask 31 0) → fld w 33 5 ≠ 3 → fld w 33 5 ≠ 30 → fld w 33 5 ≠ 31 →
        exec (.vopi t w) s = goesTo (vSet me vd (vopLanes (fld w 33 5) a (List.replicate 64 ⟨BitVec.ofNat 32 (fld w 0 32), false⟩) zeroRow)))
    ∧ (wOpcode w = 0x49 → operandsOk w (mask 47 35) → fld w 35 3 ≤ 5 →
        exec (.vred t w) s = goesTo (vSet me vd (List.replicate 64 ⟨vredFn (fld w 35 3) (a.map (·.bits)), a.any (·.pz)⟩)))

/-- R151, R177, R178, R182: VROT rotates a group of four registers, VPICK gathers the channels of a side list, VSIDE adds the side terms, VPACK
packs a group of codes and VUNPK expands them: each from scratch without poison, into its destination registers and nothing else. -/
def Obligations.VxRearranges : Prop :=
  ∀ (s : State) (t : BitVec 10) (w : W64) (tl : Tile), Plain s t .vx w tl →
    let goesTo (tl' : Tile) := Host.Outcome.next (φ := Fault) (ρ := Refusal) (issuedWith s t .vx w tl tl' s.mem .none)
    let me := paid tl w
    let vd := fld w 43 5
    let va := fld w 38 5
    let a := vGet tl va
    let g := groupGet tl va
    let base := scratchBase t.toNat
    let bytes (off n : Nat) : List Byte := (memRead s.mem (base + off) n).map (·.1)
    (let off := fld w 21 16 * 32
     wOpcode w = 0x4a → operandsOk w (mask 47 21) → vd % 4 = 0 → va % 4 = 0 → off + 32 ≤ scratchSize → memAnyPz s.mem (base + off) 32 = false →
     exec (.vrot t w) s =
       goesTo (groupSet me vd ((rotate (bit w 37) (bytes off 32) (g.map (·.bits))).map fun x => ⟨x, g.any (·.pz)⟩)))
    ∧ (∀ ch, let off := fld w 21 17 * 16
      wOpcode w = 0x4b → operandsOk w (mask 47 21) → va % 4 = 0 → off + 16 ≤ scratchSize → memAnyPz s.mem (base + off) 16 = false →
      sideList (bytes off 16) = some ch →
      exec (.vpick t w) s = goesTo (vSet me vd ((ch.map fun c => laneAt g c) ++ List.replicate (64 - ch.length) Machine.Lane.zero)))
    ∧ (∀ ch, let off := fld w 23 15 * 64
      wOpcode w = 0x4c → operandsOk w (mask 47 23) → off + 64 + 256 * ch.length ≤ scratchSize → memAnyPz s.mem (base + off) 16 = false →
      memAnyPz s.mem (base + off + 64) (256 * ch.length) = false → sideList (bytes off 16) = some ch →
      exec (.vside t w) s =
        goesTo (vSet me vd (sideSum a (vGet tl vd) (tab ch.length fun j => bytesRow (memRead s.mem (base + off + 64 + 256 * j) 256)) 0)))
    ∧ (let k := fld w 36 2
      let bs := packCodes k (g.map fun l => (satCode (widthBits k) l.bits, l.pz))
      wOpcode w = 0x50 → operandsOk w (mask 47 36) → va % 4 = 0 → k ≠ 3 →
      exec (.vpack t w) s = goesTo (vSet me vd (bytesRow (bs ++ List.replicate (256 - bs.length) (0, false)))))
    ∧ (let k := fld w 15 2
      let x := trkExpo tl (bit w 14) (fld w 25 8) (fld w 33 5)
      wOpcode w = 0x51 → operandsOk w (mask 47 14) → vd % 4 = 0 → k ≠ 3 → fld w 17 8 < 2 ^ widthBits k → (bit w 14 = true → fld w 25 8 = 0) →
      x.2 = false → Machine.expoOk x.1 = true →
      exec (.vunpk t w) s =
        goesTo (groupSet me vd ((unpackCodes k ((rowBytes a).take (blockBytes k))).map fun c => ⟨dequant c.1 (fld w 17 8) x.1, c.2⟩)))

/-- R153, R179 to R181: VQZ quantises a row with the exponent of its word or of the tracked lane, VQNT with the record in scratch, each with its
clipped and halved codes counted where CNT asks; VQS packs a whole packet of requantised codes. The records lie in scratch without poison. -/
def Obligations.VxQuantises : Prop :=
  ∀ (s : State) (t : BitVec 10) (w : W64) (tl : Tile), Plain s t .vx w tl →
    let goesTo (tl' : Tile) := Host.Outcome.next (φ := Fault) (ρ := Refusal) (issuedWith s t .vx w tl tl' s.mem .none)
    let me := paid tl w
    let vd := fld w 43 5
    let vc := fld w 33 5
    let a := vGet tl (fld w 38 5)
    let rec_ (off : Nat) : QRec := qRecOf ((memRead s.mem (scratchBase t.toNat + off) 16).map (·.1))
    let clean (off : Nat) : Prop := off + 16 ≤ scratchSize ∧ memAnyPz s.mem (scratchBase t.toNat + off) 16 = false
    (let k := fld w 15 2
     let x := trkExpo tl (bit w 13) (fld w 25 8) vc
     wOpcode w = 0x4d → operandsOk w (mask 47 13) → k ≠ 3 → fld w 17 8 < 2 ^ widthBits k → (bit w 13 = true → fld w 25 8 = 0) → x.2 = false →
     Machine.expoOk x.1 = true →
     exec (.vqz t w) s = goesTo (putCodes false me vd vc (bit w 14) a (quantise (widthBits k) (fld w 17 8) x.1)))
    ∧ (let r := rec_ (fld w 16 17 * 16)
      let x := trkExpo tl true 0 vc
      let sh : Int := if r.trk then r.s + (x.1 - r.eInit) else r.s
      wOpcode w = 0x4e → operandsOk w (mask 47 15) → clean (fld w 16 17 * 16) → r.ok = true →
      (r.trk = true → x.2 = false ∧ Machine.expoOk x.1 = true) → 0 ≤ sh → sh ≤ 47 →
      exec (.vqnt t w) s = goesTo (putCodes false me vd vc (bit w 15) a (requantise (widthBits r.width) r.f r.m sh.toNat r.z)))
    ∧ (∀ (p : QItem) (q' : Queue),
      let r := rec_ (fld w 29 17 * 16)
      let qi := if fld w 47 1 = 0 then qMxVx else qLdVx
      let qo := if fld w 46 1 = 0 then qVxLd else qVxXf
      let put := qPutPacket qo (tileQ tl qo) (BitVec.ofNat 8 (fld w 21 8)) (wordsOf256 (packCodes r.width (vqsBlocks r false p.words)))
      wOpcode w = 0x4f → operandsOk w (mask 47 21) → clean (fld w 29 17 * 16) → r.ok = true → r.trk = false →
      qTake (tileQ tl qi) = some (p, q') → p.words ≠ [] → put.2 = 0 →
      exec (.vqs t w) s = goesTo (setQ (setQ me qi q') qo put.1))

/-- R164 to R168: MMW adds its batch of rows to its accumulators, with the packet of weights from LD_MX and scales without poison, and sends the
rows on where EMIT asks in the last execution of its body; MXOUT drains rows of an accumulator as a packet into MX_VX, and MZERO clears the
accumulators of its mask. -/
def Obligations.MxAccumulates : Prop :=
  ∀ (s : State) (t : BitVec 10) (w : W64) (tl : Tile), Plain s t .mx w tl →
    let i := iterOf (eng tl .mx)
    let env := envOf s t.toNat (eng tl .mx)
    let base := scratchBase t.toNat
    let acc := fld w 45 3
    (∀ (p : QItem) (q : Queue),
      let kp := fld w 39 3
      let k := fld w 37 2
      let sg := fld w 35 2
      let n := fld w 27 8 + 1
      let nacc := ceilDiv n 32
      let emit := bit w 42 && env.last
      let xoff := fld w 17 10 + (if bit w 43 then i * kp * nacc else 0)
      let soff := fld w 1 16 * 32 + (if bit w 43 && decide (2 ≤ sg) then i * kp * 32 else 0)
      let scale := memRead s.mem (base + soff) (scaleBytes sg kp)
      let tl2 := mmwRows env (bit w 44 && (i == 0)) acc xoff nacc kp (weightRows k sg kp scale p.words) (setQ (paid tl w) qLdMx q) (batchRows n)
      let put := qPutPacket qMxVx (tileQ tl qMxVx) 0 (tab n fun r => rowWord (accGet tl2 acc r))
      wOpcode w = 0x22 → operandsOk w (mask 47 1) → k ≠ 3 → kp ≠ 0 → kp ≤ kpMax k → acc + nacc ≤ 8 → (bit w 42 = true → n ≤ 15) →
      xoff + kp * nacc ≤ 768 → soff + scaleBytes sg kp ≤ scratchSize → memAnyPz s.mem (base + soff) (scaleBytes sg kp) = false →
      (∀ o ∈ pairOffs sg kp, pairOk k (numOf (((scale.drop o).take 2).map (·.1))) = true) → qTake (tileQ tl qLdMx) = some (p, q) →
      p.words.length = kp * panelWords k →
      (∀ r c, r < n → c < kp → memAnyPz s.mem (base + ((xoff + c * nacc + r / 32) * 2048 + r % 32 * 64)) 64 = false) →
      (emit = true → put.2 = 0) →
      exec (.mmw t w) s = .next (issuedWith s t .mx w tl (if emit then setQ tl2 qMxVx put.1 else tl2) s.mem .none))
    ∧ (let first := fld w 40 5 + (if bit w 34 then i * fld w 36 4 else 0)
      let rows := tab (fld w 36 4) fun n => first + n
      let put := qPutPacket qMxVx (tileQ tl qMxVx) (BitVec.ofNat 8 (fld w 26 8)) (rows.map fun r => rowWord (accGet tl acc r))
      wOpcode w = 0x23 → operandsOk w (mask 47 26) → fld w 36 4 ≠ 0 → first + fld w 36 4 ≤ 32 → put.2 = 0 →
      exec (.mxout t w) s = .next
        (issuedWith s t .mx w tl (setQ (if bit w 35 then clearRows false (paid tl w) acc rows else paid tl w) qMxVx put.1) s.mem .none))
    ∧ (wOpcode w = 0x24 → operandsOk w (mask 47 40) →
      ∃ tl', exec (.mzero t w) s = .next (issuedWith s t .mx w tl tl' s.mem .none) ∧ { tl' with acc := tl.acc } = paid tl w
        ∧ (∀ a r, a < 8 → r < 32 → (fld w 40 8).testBit a = true → accGet tl' a r = zeroRow)
        ∧ (∀ a r, a < 8 → r < 32 → (fld w 40 8).testBit a = false → accGet tl' a r = accGet tl a r))

/-- R196, R199, R205 to R207, R232, R233: TFE writes the codes of its rows and nothing else of memory, TWALK adds the leaves of its trees to its bank,
TOUT drains banks as a packet into TR_VX, and ASTEP runs its rows and ends with the terminal word in AU_SQ: each where its data raises no fault
and is without poison. -/
def Obligations.TreesAndAutomataRun : Prop :=
  (∀ (s : State) (t : BitVec 10) (w : W64) (tl : Tile), Plain s t .tr w tl →
    let base := scratchBase t.toNat
    let me := paid tl w
    let a (lo : Nat) : Nat := (aGet tl (aReg w lo)).bits.toNat
    let sound (lo : Nat) : Prop := (aGet tl (aReg w lo)).pz = false
    (let src := bit w 35
     let rows := fld w 29 6 + 1
     let nf := fld w 17 12 + 1
     let rstr := fld w 8 9
     let cstr := fld w 0 8
     let p := tfeRows false base (a 44) (if src then 0 else a 40) (a 36) rstr cstr nf src rows 0 me { mem := s.mem, ue := 0, reads := [], fault := none }
     wOpcode w = 0x63 → 2 * nf ≤ cstr * 64 → (src = true → fld w 40 4 = 0 ∧ rstr = 0) →
     (src = false → rstr ≠ 0 ∧ a 40 % 4 = 0 ∧ a 40 + (rows - 1) * rstr * 64 + 4 ≤ scratchSize) →
     a 44 % 16 = 0 → a 36 % 64 = 0 → a 44 + 16 * nf ≤ scratchSize → a 36 + (rows - 1) * cstr * 64 + 2 * nf ≤ scratchSize →
     p.2.fault = none → p.2.ue = 0 → sound 44 → sound 36 → (src = false → sound 40) →
     exec (.tfe t w) s = .next (issuedWith s t .tr w tl p.1 p.2.mem .none)
       ∧ ∀ x, (∀ r, r < rows → x < base + (a 36 + r * cstr * 64) ∨ base + (a 36 + r * cstr * 64) + 2 * nf ≤ x) →
         memByte p.2.mem x = memByte s.mem x)
    ∧ (∀ ts, let rows := fld w 27 6 + 1
      let nt := fld w 15 12 + 1
      let cstr := fld w 7 8
      let leaf (r : Nat) (y : TreeSpan) : Leaf := walkTree s.mem base (a 44) (a 36 + r * cstr * 64) (cstr * 64) y
      let old := bankGet tl (fld w 34 2)
      let new := tab rows fun r => sumLeaves (if bit w 33 then Machine.Lane.zero else laneAt old r) (ts.map (leaf r))
      wOpcode w = 0x62 → operandsOk w (mask 47 7) → a 44 % 8 = 0 → a 40 % 4 = 0 → a 36 % 64 = 0 → a 40 + 4 * (nt + 1) ≤ scratchSize →
      a 36 + rows * cstr * 64 ≤ scratchSize → memAnyPz s.mem (base + a 40) (4 * (nt + 1)) = false → treeSpans s.mem (base + a 40) nt = some ts →
      sound 44 → sound 40 → sound 36 →
      (∀ r y, r < rows → y ∈ ts → (leaf r y).fault = none ∧ ∀ z ∈ (leaf r y).rd, memAnyPz s.mem (base + z.1) z.2 = false) →
      exec (.twalk t w) s = .next (issuedWith s t .tr w tl (bankSet me (fld w 34 2) (new ++ old.drop rows)) s.mem .none))
    ∧ (let bs := tab (fld w 44 2 + 1) fun k => fld w 46 2 + k
      let put := qPutPacket qTrVx (tileQ tl qTrVx) (BitVec.ofNat 8 (fld w 35 8)) (bs.map fun b => rowWord (bankGet tl b))
      wOpcode w = 0x64 → operandsOk w (mask 47 35) → fld w 46 2 + fld w 44 2 ≤ 3 → put.2 = 0 →
      exec (.tout t w) s = .next
        (issuedWith s t .tr w tl (setQ (if bit w 43 then bs.foldl (fun x b => bankSet x b zeroRow) me else me) qTrVx put.1) s.mem .none)))
  ∧ (∀ (s : State) (t : BitVec 10) (w : W64) (tl : Tile), Plain s t .au w tl →
    let base := scratchBase t.toNat
    let ha := (aGet tl (aReg w 44)).bits.toNat
    let ra := (aGet tl (aReg w 40)).bits.toNat
    let rows := fld w 31 6 + 1
    let h := hdrOf (memWords s.mem (base + ha) 8) false
    let es := tab rows fun r => rowOf h (bit w 23) (memWords s.mem (base + ra + 32 * r) 4) false
    let st := astepRows
      { base := base, hdr := h, row := es.headD (rowOf h (bit w 23) [] false), r := 0, aut := fld w 37 3, elim := fld w 24 6, msk := bit w 30
        mset := tl.mset.toNat, pkt := none, lastEnd := 0, badState := false } (bit w 23) es 0
      { mem := s.mem, tile := paid tl w, ue := 0, reads := [], fault := none, emitted := 0, dropped := 0, overran := 0, pz := false }
    let put := qPutWord qAuSq (tileQ st.tile qAuSq) { lanes := [terminalWord (fld w 37 3) st.emitted st.dropped], pz := false }
    wOpcode w = 0x82 → operandsOk w (mask 47 23) → ha % 64 = 0 → ra % 32 = 0 → ha + 64 ≤ scratchSize → ra + 32 * rows ≤ scratchSize →
    memAnyPz s.mem (base + ha) 64 = false → memAnyPz s.mem (base + ra) (32 * rows) = false → h.ok = true → (bit w 30 = true → h.mrole = true) →
    (∀ x ∈ es, x.symOff % 4 = 0 ∧ x.apbOff % 64 = 0 ∧ x.clsOff % 64 = 0) → st.fault = none → st.ue = 0 → st.overran = 0 → st.pz = false → put.2 = false →
    (aGet tl (aReg w 44)).pz = false → (aGet tl (aReg w 40)).pz = false →
    exec (.astep t w) s = .next (issuedWith s t .au w tl (setQ st.tile qAuSq put.1) st.mem .none))

/-- R124 to R126, R354, R355: SEND and RECV take the next item number of their stream; SEND takes the oldest packet of VX_XF, and waits with it
for the receiving end of a tile of the block, or keeps it for another member's; RECV waits for its item. -/
def Obligations.XfItemsPend : Prop :=
  ∀ (s : State) (t : BitVec 10) (w : W64) (tl : Tile), Plain s t .xf w tl →
    (∀ (p : QItem) (q : Queue), wOpcode w = 0xa2 → operandsOk w (mask 47 1) → fld w 14 2 ≠ 3 → bit w 16 = false → bit w 17 = true →
      fld w 32 16 = 0 → fld w 2 12 = 0 → tileNamed (fld w 22 10) = true → tileEnabled s (fld w 22 10) = true →
      qTake (tileQ tl qVxXf) = some (p, q) →
      let c := chanOf w 1
      let k := smGet 0 tl.xids (chanKey c true)
      exec (.send t w) s = .next
        (issuedWith s t .xf w tl { setQ (paid tl w) qVxXf q with xids := smSet 0 tl.xids (chanKey c true) (k + 1) } s.mem
          (.send c false (fld w 14 2) 0 p.words k 0)))
    ∧ (∀ (p : QItem) (q : Queue), wOpcode w = 0xa2 → operandsOk w (mask 47 1) → fld w 14 2 ≠ 3 → bit w 16 = false → bit w 17 = false →
      fld w 2 12 = 0 → fld w 32 16 ≠ s.su.addr.toNat → (memberOf s (BitVec.ofNat 16 (fld w 32 16))).isSome = true →
      isAbsent s (BitVec.ofNat 16 (fld w 32 16)) = false → qTake (tileQ tl qVxXf) = some (p, q) →
      ∃ s', exec (.send t w) s = .next s' ∧ s'.slots = s.slots
        ∧ (∃ k ∈ (half s' (tileHalf t.toNat)).kept, k.tile = t ∧ k.chan = chanOf w 1 ∧ k.xid = smGet 0 tl.xids (chanKey (chanOf w 1) true)
          ∧ k.words = p.words ∧ k.coded = false ∧ k.replay = 0)
        ∧ tileOf s' t.toNat =
          tileOf (issuedWith s t .xf w tl
            { setQ (paid tl w) qVxXf q with
              xids := smSet 0 tl.xids (chanKey (chanOf w 1) true) (smGet 0 tl.xids (chanKey (chanOf w 1) true) + 1) } s.mem
            (.send (chanOf w 1) false (fld w 14 2) 0 p.words (smGet 0 tl.xids (chanKey (chanOf w 1) true)) 0)) t.toNat)
    ∧ (wOpcode w = 0xa3 → operandsOk w (mask 47 9) → fld w 14 2 ≠ 3 → fld w 10 4 ≠ 0 → (bit w 17 = true → fld w 32 16 = 0) →
      let c := chanOf w 9
      let k := smGet 0 tl.xids (chanKey c false)
      exec (.recv t w) s = .next
        (issuedWith s t .xf w tl { paid tl w with xids := smSet 0 tl.xids (chanKey c false) (k + 1) } s.mem
          (.recv c (bit w 16) (fld w 14 2) (fld w 10 4) k tl.turn)))

/-- R79, R92, R94, R134, R135. Completions: an instruction that writes registers leaves in each register it names its value, poison marked
(a write of s0 is discarded), the other registers stand; one alone in flight in its engine with nothing else to do adds its signal to its
credit counter, counter 0 standing for no signal, and the flight is empty. The stream loader brings the next word of an engine's stream into
its instruction queue, and counts it; SQ reads on towards a branch target that has not arrived (R135). -/
def Obligations.FetchAndCompletion : Prop :=
  (∀ (s : State) (t : BitVec 10) (k : Nat) (f : InFlight) (rs : List (BitVec 5 × Machine.Lane)) (ra : List (BitVec 4 × ALane)) (z : Bool),
    tileNamed t.toNat = true → domainRuns s (tileDomain t.toNat) = true → (eng (tileOf s t.toNat) .sq).flight[k]? = some f →
    f.done = false → f.pend = .regs rs ra z → (rs.map (·.1)).Nodup → (ra.map (·.1)).Nodup →
    ∃ s', exec (.instructionComplete t .sq k) s = .next s'
      ∧ (∀ p ∈ rs, sGet (tileOf s' t.toNat) p.1 = if p.1 = 0 then Machine.Lane.zero else p.2)
      ∧ (∀ r, r ∉ rs.map (·.1) → sGet (tileOf s' t.toNat) r = sGet (tileOf s t.toNat) r)
      ∧ (∀ p ∈ ra, aGet (tileOf s' t.toNat) p.1 = p.2)
      ∧ (∀ r, r ∉ ra.map (·.1) → aGet (tileOf s' t.toNat) r = aGet (tileOf s t.toNat) r)
      ∧ ((tileOf s' t.toNat).tainted = ((tileOf s t.toNat).tainted || z)))
  ∧ (∀ (s : State) (t : BitVec 10) (e : Eng) (f : InFlight), tileNamed t.toNat = true → domainRuns s (tileDomain t.toNat) = true →
    (eng (tileOf s t.toNat) e).flight = [f] → f.done = false → f.pend = .none →
    (f.sig ≠ 0 → (credit (tileOf s t.toNat) f.sig).toNat + f.n ≤ 255) →
    let tl := tileOf s t.toNat
    exec (.instructionComplete t e 0) s = .next
      (setTile s t.toNat
        (setEng (if f.sig = 0 then tl else setCredit tl f.sig (BitVec.ofNat 8 ((credit tl f.sig).toNat + f.n))) e
          { eng tl e with flight := [] })))
  ∧ (∀ (s : State) (t : BitVec 10) (e : Eng), tileNamed t.toNat = true → tileRuns s t.toNat = true → (tileOf s t.toNat).kernel = true →
    let tl := readOn (tileOf s t.toNat) e
    let x := eng tl e
    x.sent < x.length → qLevel (engNum e) (tileQ tl (engNum e)) < 256 → memAnyPz s.mem (x.start + 8 * x.sent) 8 = false →
    singleUnits s.mem (x.start + 8 * x.sent) 8 = [] →
    exec (.streamLoaderFill t e) s = .next
      (setTile s t.toNat
        (readOn
          (setEng
            (setQ tl (engNum e)
              (qPutWord (engNum e) (tileQ tl (engNum e)) { lanes := [memWord s.mem (x.start + 8 * x.sent)], pz := false }).1)
            e { x with sent := x.sent + 1 })
          e)))

/-- R82, R83, R89, R113: a word the engine does not execute, a credit stall and TRAP stop their tile: TILE_FAULT names code 0x10 with the
engine and position, code 0x04 with no engine, and code 0x18 of SQ. -/
def Obligations.TileEventsFault : Prop :=
  ∀ (s : State) (t : BitVec 10), tileNamed t.toNat = true → tileRuns s t.toNat = true → (tileOf s t.toNat).kernel = true →
    (tileOf s t.toNat).stopped = false → bit (tileOf s t.toNat).fault 63 = false →
    (∀ (e : Eng) (w : W64) (tl : Tile), wordLegal e w = false → fetchWord (tileOf s t.toNat) e = some (w, tl) →
      ∃ s', exec (.illegalOpcode t e w) s = .next s' ∧ (tileOf s' t.toNat).stopped = true ∧ bit (tileOf s' t.toNat).fault 63 = true
        ∧ fld (tileOf s' t.toNat).fault 48 8 = 0x10 ∧ fld (tileOf s' t.toNat).fault 40 3 = engNum e
        ∧ fld (tileOf s' t.toNat).fault 0 32 = (eng tl e).pos % 2 ^ 32)
    ∧ (creditStalled (tileOf s t.toNat) = true →
      ∃ s', exec (.creditStall t) s = .next s' ∧ (tileOf s' t.toNat).stopped = true ∧ bit (tileOf s' t.toNat).fault 63 = true
        ∧ fld (tileOf s' t.toNat).fault 48 8 = 0x04 ∧ fld (tileOf s' t.toNat).fault 40 3 = 7)
    ∧ (∀ (w : W64) (tl : Tile), Ready s t .sq w tl → wOpcode w = 0xd2 → operandsOk w 0 → bit tl.fault 63 = false →
      ∃ s', exec (.trap t w) s = .next s' ∧ (tileOf s' t.toNat).stopped = true ∧ bit (tileOf s' t.toNat).fault 63 = true
        ∧ fld (tileOf s' t.toNat).fault 48 8 = 0x18 ∧ fld (tileOf s' t.toNat).fault 40 3 = 6)

/-- R81, R105: a kernel whose engines are through and whose KEND waits ends, in every lane: with a credit counter that is not zero the tile stops
with fault 0x05 and its counters cleared; with all of them zero its front ends are cleared and its job ends, after which, where a plan kernel
without verdicts ends, the tile is free and memory stands. A tile that a fault has stopped is flushed once it is quiet, where its job is
abandoned or a replay (R74). -/
def Obligations.KernelEnds : Prop :=
  ∀ (s : State) (t : BitVec 10) (j : Job), tileNamed t.toNat = true → jobOf s t.toNat = some j → (tileOf s t.toNat).kernel = true →
    j.half = tileHalf t.toNat → domainRuns s (tileDomain t.toNat) = true → s.errs.block = false →
    ((tileOf s t.toNat).stopped = true → tileQuiet (tileOf s t.toNat) = true → (j.dead = true ∨ j.entry.isSome = true) →
      exec (.kernelEnd t) s = .next (jobEnded s { j with dead := true }))
    ∧ ((tileOf s t.toNat).stopped = false → kernelOver (tileOf s t.toNat) = true →
    ((∃ k, 1 ≤ k ∧ k ≤ 15 ∧ credit (tileOf s t.toNat) k ≠ 0) → bit (tileOf s t.toNat).fault 63 = false →
      ∃ s', exec (.kernelEnd t) s = .next s' ∧ (tileOf s' t.toNat).stopped = true ∧ (tileOf s' t.toNat).kernel = false
        ∧ fld (tileOf s' t.toNat).fault 48 8 = 0x05 ∧ ∀ k, 1 ≤ k → k ≤ 15 → credit (tileOf s' t.toNat) k = 0)
    ∧ ((∀ k, 1 ≤ k → k ≤ 15 → credit (tileOf s t.toNat) k = 0) →
      exec (.kernelEnd t) s = .next (jobEnded (setTile s t.toNat { tileOf s t.toNat with kernel := false, engs := [] }) j))
    ∧ ((∀ k, 1 ≤ k → k ≤ 15 → credit (tileOf s t.toNat) k = 0) → j.dead = false → j.lane = Sys2Proof.Lane.plan → j.verdict = false →
      (half s j.half).run = none → images s = [] →
      ∃ s', exec (.kernelEnd t) s = .next s' ∧ (tileOf s' t.toNat).kernel = false ∧ (tileOf s' t.toNat).stopped = false
        ∧ jobOf s' t.toNat = none ∧ s'.mem = s.mem))

/-- R93, R132, R109, R159, R286, R287, R412: the dispatch of the next kernel of a lane, its image holding a clean descriptor with an SQ stream, the
pages of its rows its requests' own (R248), the counts of a replay's positions begun anew before (R158), no plan-less turn left to close: the
tile gets the descriptor, the arguments (the turn and the tokens of the job first), a credit in counter 0 and registers of zero; memory and
the other tiles stand. -/
def Obligations.KernelsDispatched : Prop :=
  ∀ (s : State) (h : Half) (j : Job) (t d : Nat) (i : Image), mayDispatch s h = true → imageOf s j.image = some i →
    descOf s i j.kernel (jobClass i j) = some d → j.half = h → memAnyPz s.mem d 64 = false → fld (memWord s.mem (d + 56)) 0 16 ≠ 0 →
    singleUnits s.mem d 64 = [] → (∀ r ∈ j.rows, pagesNeeded s r.slot r.first r.past = 0) → (half s h).planLess = [] →
    (j.lane = Sys2Proof.Lane.replay → ∀ r ∈ j.rows, rowLive s r = false ∨ jobBegun s r.slot j.num = true
      ∨ (r.past ≤ (slotOf s r.slot).w.entered ∧ i.tqds = [])) →
    let gets (s' : State) : Prop :=
      s'.mem = s.mem ∧ (tileOf s' t).kernel = true
        ∧ (tileOf s' t).desc = BitVec.ofNat 48 d ∧ (tileOf s' t).kernelId = BitVec.ofNat 16 (fld (memWord s.mem d) 48 16)
        ∧ (tileOf s' t).args = (j.turn :: BitVec.ofNat 32 (rowTokens j.rows) :: j.args).take 16
        ∧ credit (tileOf s' t) 0 = credit (tileOf s t) 0 + 1 ∧ (∀ r, sGet (tileOf s' t) r = Machine.Lane.zero)
        ∧ (∀ r, aGet (tileOf s' t) r = ALane.zero) ∧ (∀ r, vGet (tileOf s' t) r = zeroRow)
        ∧ (∀ u, u ≠ t → tileOf s' u = tileOf s u)
    (nextMask s h = some j → (planMaskTiles s (halfPlan s h) h).find? (tileFree1 s) = some t → ∃ s', exec (.kernelDispatch h .mask) s = .next s' ∧ gets s')
    ∧ (∀ rest, (half s h).replayJobs = j :: rest → j.lane ≠ Sys2Proof.Lane.mask → (half s h).run.isSome = true → j.tile = t → tileFree1 s t = true →
      ∃ s', exec (.kernelDispatch h .replay) s = .next s' ∧ gets s')
    ∧ (∀ p k n rest b, (half s h).replayJobs = [] → (half s h).run = some p → skipEmpty p.batches p.left = (k, some n) :: rest →
      p.batches.find? (fun b => b.image == n && b.tenant == k.tenant) = some b → k.tile.toNat = t → tileFree1 s t = true →
      j = { num := b.num, half := h, tile := t, tenant := k.tenant, image := n, lane := Sys2Proof.Lane.plan, rows := b.rows
            kernel := k.kernel, fixed := k.fixed, args := k.args, verdict := k.verdict, turn := p.turn, since := 0, dead := false
            entry := none, bytes := 0, excess := false, snap := [], held := [] } →
      ∃ s', exec (.kernelDispatch h .plan) s = .next s' ∧ gets s')

/-- R281 to R283, R312: a mark is classified against the last one: a number not later is counted in BAD_MARK and opens no turn, one within 2 ms
merges, its turns plan-less, and a further one opens its turn, whose plan waits in a half while the half's plan runs (R301); where it skips turns
they become plan-less, SKIPPED counts it, and MARK_SKIPPED names the first of them (R311, R333). With no mark for 4 s a stall begins, counted: the
current turn stays, and what runs or waits in the halves stays. -/
def Obligations.MarksAndStalls : Prop :=
  (∀ (s : State) (i : TbIn) (p : W64), takesMark s i p = true →
    let t := sofTurn p
    let b := noted s i p
    (s.turns.seen = true → later t s.turns.last = false →
      exec (.turnMark i p) s = .next { b with turns := { s.turns with badMark := inc16 s.turns.badMark } })
    ∧ (s.turns.seen = true → later t s.turns.last = true → s.now < s.turns.lastTime + 2000 →
      ∃ s', exec (.turnMark i p) s = .next s' ∧ s'.turns = { s.turns with cur := t, merged := inc16 s.turns.merged, missSent := [] } ∧ s'.mem = s.mem
        ∧ s'.slots = s.slots ∧ s'.tiles = s.tiles ∧ ∀ h, (half s' h).run = (half s h).run ∧ (half s' h).waiting = (half s h).waiting)
    ∧ ((s.turns.seen = true → t = s.turns.last + 1 ∧ later t s.turns.last = true ∧ s.turns.lastTime + 2000 ≤ s.now) →
      s.turns.stalled = false → (∀ n, (slotOf s n).r.st ≠ .paused) → s.halfA.handles = [] → s.halfB.handles = [] →
      s.halfA.run.isSome = true → s.halfB.run.isSome = true → halfRuns s .A = true → halfRuns s .B = true →
      ∃ s', exec (.turnMark i p) s = .next s' ∧ s'.turns.cur = t ∧ s'.turns.last = t ∧ s'.turns.seen = true ∧ s'.turns.lastTime = s.now
        ∧ s'.mem = s.mem ∧ s'.slots = s.slots ∧ s'.tiles = s.tiles
        ∧ ∀ h, (half s' h).run = (half s h).run ∧ (half s' h).waiting = (half s h).waiting ++ [(t, s.now)])
    ∧ (let c := s.turns.last
      s.turns.seen = true → later t c = true → t ≠ c + 1 → s.turns.lastTime + 2000 ≤ s.now →
      s.turns.stalled = false → (∀ n, (slotOf s n).r.st ≠ .paused) → s.halfA.handles = [] → s.halfB.handles = [] →
      s.halfA.run.isSome = true → s.halfB.run.isSome = true → halfRuns s .A = true → halfRuns s .B = true → EventReady s .A →
      ∃ s', exec (.turnMark i p) s = .next s' ∧ s'.turns.cur = t ∧ s'.turns.last = t ∧ s'.turns.lastTime = s.now
        ∧ s'.turns.skipped = inc16 s.turns.skipped ∧ s'.slots = s.slots ∧ s'.tiles = s.tiles
        ∧ (∀ h, (half s' h).run = (half s h).run ∧ (half s' h).waiting = (half s h).waiting ++ [(t, s.now)]
          ∧ ∀ u, u ∈ (half s' h).planLess ↔
            (u ∈ (half s h).planLess ∧ u ≠ t) ∨ (0 < (u - c).toNat ∧ (u - c).toNat < (t - c).toNat))
        ∧ EventStands s s' .A (mk64 (put 0x0203 48 16)) (mk64 (put t.toNat 32 32 + put s.halfA.eseq.toNat 0 32)) 0 (mk64 (c + 1).toNat)
        ∧ ∀ y, bytesApart y 1 (winAddr s (eventOff s .A)) 64 → memByte s'.mem y = memByte s.mem y))
  ∧ (∀ (s : State), mayStall s = true →
    ∃ s', exec .turnStall s = .next s' ∧ s'.turns = { s.turns with stalled := true, stalls := inc16 s.turns.stalls }
      ∧ s'.slots = s.slots ∧ s'.tiles = s.tiles ∧ ∀ h, (half s' h).run = (half s h).run ∧ (half s' h).waiting = (half s h).waiting)

/-- R264, R266, R284: a paused slot whose EXPIRY has come enters LOST with the commit of its pause, or DONE where RETAIN was set; a handle whose
expiry has come leaves its table; before that neither changes anything. That the handle's page references (R248) drop at the next close is the
model's reading (log 41). -/
def Obligations.ExpiriesAct : Prop :=
  ∀ (s : State), windowOpen s = true →
    (∀ n : BitVec 16, (slotOf s n.toNat).r.st = .paused → (slotOf s n.toNat).r.sub = 2 →
      (notEarlier s.turns.cur (slotOf s n.toNat).r.expiry = false → exec (.pauseExpiry n) s = .next s)
      ∧ (notEarlier s.turns.cur (slotOf s n.toNat).r.expiry = true → (slotOf s n.toNat).w.pause.retain = false →
        (slotOf s n.toNat).w.pause.fetch = false →
        ∃ s', exec (.pauseExpiry n) s = .next s' ∧ (slotOf s' n.toNat).r.st = .lost ∧ (slotOf s' n.toNat).r.sub = 0
          ∧ (slotOf s' n.toNat).r.commit = (slotOf s n.toNat).w.pause.commit ∧ (slotOf s' n.toNat).r.head = (slotOf s n.toNat).w.pause.commit
          ∧ (slotOf s' n.toNat).r.dlv = false ∧ ∀ k, k ≠ n.toNat → slotOf s' k = slotOf s k)
      ∧ (notEarlier s.turns.cur (slotOf s n.toNat).r.expiry = true → (slotOf s n.toNat).w.pause.retain = true →
        (slotOf s n.toNat).w.held = [] → (slotOf s n.toNat).w.pause.fetch = false →
        ∃ s', exec (.pauseExpiry n) s = .next s' ∧ (slotOf s' n.toNat).r.st = .done ∧ (slotOf s' n.toNat).r.sub = 0
          ∧ ∀ k, k ≠ n.toNat → slotOf s' k = slotOf s k))
    ∧ (∀ (h : Half) (i : BitVec 14) (x : Handle), smGet none (half s h).handles i.toNat = some x →
      (notEarlier s.turns.cur x.expiry = false → exec (.handleExpiry h i) s = .next s)
      ∧ (notEarlier s.turns.cur x.expiry = true →
        ∃ s', exec (.handleExpiry h i) s = .next s' ∧ smGet none (half s' h).handles i.toNat = none
          ∧ (∀ k, k ≠ i.toNat → smGet none (half s' h).handles k = smGet none (half s h).handles k)
          ∧ (half s' h).unused = (half s h).unused ++ x.pages ++ (if x.ext = 0 then [] else [x.ext])
          ∧ (half s' h).refs = (half s h).refs ∧ s'.slots = s.slots))

/-- R316, R317: packets on an open host port, to memory behind ports that hold nothing (R346). An MWR to the window stores its words there and
nowhere else; one outside it is counted in BADWR. An MRD is answered with a CPL that carries the window's words, or STATUS 0x01; a bad header, and
a TYPE no host sends, are counted. One word of the management space is written and read as its register (R457, R460): a write to no register is
counted in BADWR, one that is not served changes nothing, a read of neither is answered STATUS 0x01, and either waits where the register's domain
is shut (R395), with the turn in which it came. That a TYPE only a block sends counts as BADPKT is the model's reading (log 61). -/
def Obligations.HostPacketsServed : Prop :=
  ∀ (s : State) (p : BitVec 2) (w0 w1 : W64), portOpen s p.toNat = true →
    let a := fld w1 0 48
    let n := pktLen w0
    let x := hpOf s p.toNat
    let bad := Host.Outcome.next (φ := Fault) (ρ := Refusal) (setHp s p.toNat { x with badpkt := inc16 x.badpkt })
    (∀ data, headOk w0 0x10 = true → fld w1 48 15 = 0 → data.length = n → bit w1 63 = false → s.errs.block = false →
      (windowAccess s a n = true → rangeShut s (winAddr s a) (8 * n) = false →
        ∃ s', exec (.mwr p w0 w1 data) s = .next s' ∧ s' = { s with mem := s'.mem } ∧ s'.mem = memPutWords s.mem (winAddr s a) data
          ∧ ∀ y, y < winAddr s a ∨ winAddr s a + 8 * n ≤ y → memByte s'.mem y = memByte s.mem y)
      ∧ (windowAccess s a n = false → exec (.mwr p w0 w1 data) s = .next (setHp s p.toNat { x with badwr := inc16 x.badwr })))
    ∧ (headOk w0 0x11 = true → fld w1 48 15 = 0 → bit w1 63 = false →
      (windowAccess s a n = true → rangeShut s (winAddr s a) (8 * n) = false → memAnyPz s.mem (winAddr s a) (8 * n) = false →
        exec (.mrd p w0 w1) s = .next
          { s with sent := s.sent ++ [{ port := p.toNat, w0 := packetHdr 0x12 (fld w0 32 16) n 0, w1 := 0, data := memWords s.mem (winAddr s a) n }] })
      ∧ (windowAccess s a n = false →
        exec (.mrd p w0 w1) s = .next
          { s with sent := s.sent ++ [{ port := p.toNat, w0 := packetHdr 0x12 (fld w0 32 16) 0 1, w1 := 0, data := [] }] }))
    ∧ (∀ data, fld w0 56 8 = 0x10 → headOk w0 0x10 = false → accessShut s w0 w1 = false → exec (.mwr p w0 w1 data) s = bad)
    ∧ (fld w0 56 8 = 0x11 → headOk w0 0x11 = false → accessShut s w0 w1 = false → exec (.mrd p w0 w1) s = bad)
    ∧ (fld w0 56 8 = 0x20 → headOk w0 0x20 = false → exec (.doorbell p w0 w1) s = bad)
    ∧ (let one : Prop := n = 1 ∧ a % 8 = 0 ∧ mgmtBase ≤ a
      let waits (c : Instr) : State :=
        { s with clocks := { s.clocks with held := s.clocks.held ++ [{ cmd := c, turn := some s.turns.cur }] } }
      let cpl (ws : List W64) (st : Nat) : State :=
        { s with sent := s.sent ++ [{ port := p.toNat, w0 := packetHdr 0x12 (fld w0 32 16) ws.length st, w1 := 0, data := ws }] }
      bit w1 63 = true → fld w1 48 15 = 0 →
      (∀ data d, headOk w0 0x10 = true → data.length = n → data.head? = some d →
        (∀ b off, one → avail s a = .served → regBlock a = some (b, off) → exec (.mwr p w0 w1 data) s = .next (regWrite s b off d))
        ∧ (one → (regBlock a).isSome = true → (avail s a = .access ∨ avail s a = .notReady) → exec (.mwr p w0 w1 data) s = .next s)
        ∧ ((¬ one ∨ regBlock a = none) → exec (.mwr p w0 w1 data) s = .next (setHp s p.toNat { x with badwr := inc16 x.badwr }))
        ∧ (one → avail s a = .held → exec (.mwr p w0 w1 data) s = .next (waits (.mwr p w0 w1 data))))
      ∧ (headOk w0 0x11 = true →
        (∀ b off, one → avail s a = .served → regBlock a = some (b, off) → exec (.mrd p w0 w1) s = .next (cpl [regWord s b off] 0))
        ∧ ((¬ one ∨ avail s a = .access ∨ avail s a = .notReady) → exec (.mrd p w0 w1) s = .next (cpl [] 1))
        ∧ (one → avail s a = .held → exec (.mrd p w0 w1) s = .next (waits (.mrd p w0 w1)))))
    ∧ (fld w0 56 8 ≠ 0x10 → fld w0 56 8 ≠ 0x11 → fld w0 56 8 ≠ 0x20 → exec (.badpkt p w0) s = bad)

/-- R324, R325, R401: a doorbell that names more entries than the ring has, or a ring that is absent, is counted in BADDB; one during a halt is
kept with its turn (R30); one for a single entry that reads BLOCK, whose message has a known TYPE, takes it: CI moves on and the message waits to
be decided. -/
def Obligations.DoorbellsTakeEntries : Prop :=
  ∀ (s : State) (p : BitVec 2) (w0 w1 : W64), portOpen s p.toNat = true → headOk w0 0x20 = true → fld w1 36 28 = 0 → s.errs.block = false →
    let r := fld w1 32 4
    let pi : W32 := BitVec.ofNat 32 (fld w1 0 32)
    let k := ciOf s r
    let off := subEntry s r k
    let m : Msg :=
      { ring := BitVec.ofNat 4 r, idx := k, w0 := winWord s off, w1 := winWord s (off + 8), w2 := winWord s (off + 16)
        w3 := winWord s (off + 24), w4 := winWord s (off + 32) }
    (halted s = true → exec (.doorbell p w0 w1) s = .next { s with pins := { s.pins with bells := s.pins.bells ++ [(r, pi, s.turns.cur)] } })
    ∧ (halted s = false → ringEntries s r < (pi - k).toNat →
      exec (.doorbell p w0 w1) s = .next { s with win := { s.win with baddb := inc16 s.win.baddb } })
    ∧ (halted s = false → pi = k + 1 → 1 ≤ ringEntries s r → serving s = true → memAnyPz s.mem (winAddr s off) 64 = false →
      ownedByBlock s off = true → 1 ≤ msgType m → msgType m ≤ 7 →
      exec (.doorbell p w0 w1) s = .next
        { s with
          taken := s.taken ++ [m], replies := s.replies ++ [{ ring := r, idx := k, turn := s.turns.cur, words := none }]
          win := { s.win with ci := smSet 0 s.win.ci r (k + 1) } })
    ∧ (halted s = false → pi = k + 1 → 1 ≤ ringEntries s r → serving s = true → memAnyPz s.mem (winAddr s off) 64 = false →
      ownedByBlock s off = false → exec (.doorbell p w0 w1) s = .next { s with win := { s.win with early := inc16 s.win.early } })

/-- R314, R333, R337: a trained host port that loses training is counted in DOWNS, and one that trains keeps its repaired lanes; the other
ports stand. A replayed flit is counted at its port (R346). -/
def Obligations.HostPortsTrain : Prop :=
  ∀ (s : State) (p : BitVec 2) (r : BitVec 7),
    ((hpOf s p.toNat).trained = true →
      ∃ s', exec (.hostPortDown p) s = .next s'
        ∧ hpOf s' p.toNat = { hpOf s p.toNat with trained := false, downs := inc8 (hpOf s p.toNat).downs }
        ∧ ∀ q, q ≠ p.toNat → hpOf s' q = hpOf s q)
    ∧ ((hpOf s p.toNat).trained = false → exec (.hostPortDown p) s = .next s)
    ∧ ((hpOf s p.toNat).trained = false → refRuns s = true → s.power.on.getLsbD (hpDomain p.toNat) = true →
      s.power.clk.getLsbD (hpDomain p.toNat) = true →
      ∃ s', exec (.hostPortUp p r) s = .next s' ∧ hpOf s' p.toNat = { hpOf s p.toNat with trained := true, repaired := r }
        ∧ ∀ q, q ≠ p.toNat → hpOf s' q = hpOf s q)
    ∧ (∀ q : BitVec 5, (mpOf s q.toNat).st = .up →
      exec (.linkFlitReplay true q) s = .next
        { s with ports := smSet MemPort.off s.ports q.toNat { mpOf s q.toNat with retries := inc16 (mpOf s q.toNat).retries } })
    ∧ (∀ q : BitVec 5, q.toNat < 4 → (hpOf s q.toNat).trained = true →
      exec (.linkFlitReplay false q) s = .next (setHp s q.toNat { hpOf s q.toNat with retries := inc16 (hpOf s q.toNat).retries }))

/-- R250, R324: messages are decided in submission order: a message that is not the next one taken changes nothing. -/
def Obligations.MessagesInOrder : Prop :=
  ∀ (s : State) (m : Msg), isNext s m = false →
    exec (.admitReq m) s = .next s ∧ exec (.tokens m) s = .next s ∧ exec (.takeback m) s = .next s ∧ exec (.resign m) s = .next s
      ∧ exec (.pause m) s = .next s ∧ exec (.resume m) s = .next s ∧ exec (.resumeLoss m) s = .next s ∧ exec (.resumeRebuild m) s = .next s
      ∧ exec (.prefixRefMark m) s = .next s ∧ exec (.prefixRefDrop m) s = .next s

/-- R255, R256, R258: an accepted TOKENS moves HEAD by N and COMMIT to its field, and makes a READY slot GENERATING; an accepted TAKEBACK moves
HEAD back to TO. Both for a settled slot, whose other fields named here stand; the message is no longer waiting. -/
def Obligations.TokensAndTakebackMoveHead : Prop :=
  ∀ (s : State) (m : Msg), isNext s m = true → slotGate s m true false = none → settled (slotOf s (msgSlot m)) = true →
    let old := (slotOf s (msgSlot m)).r
    (old.st = .ready ∨ old.st = .generating) →
    (hdrOk m 2 = true → fld m.w2 0 31 = 0 → fld m.w2 32 8 ≤ 64 → fld m.w3 36 28 = 0 → m.w4 = 0 →
      (fld m.w2 32 8 = 0 ∨ toksOk s (fld m.w3 0 36) (fld m.w2 32 8) = true) → tokensFail s m = none →
      ∃ s', exec (.tokens m) s = .next s' ∧ s'.taken = s.taken.tail ∧ (slotOf s' (msgSlot m)).r.st = .generating
        ∧ (slotOf s' (msgSlot m)).r.head = old.head + fld m.w2 32 8 ∧ (slotOf s' (msgSlot m)).r.commit = fld m.w1 0 24
        ∧ (slotOf s' (msgSlot m)).r.oseq = old.oseq ∧ (slotOf s' (msgSlot m)).r.tenant = old.tenant
        ∧ ∀ k, k ≠ msgSlot m → slotOf s' k = slotOf s k)
    ∧ (hdrOk m 3 = true → m.w2 = 0 → m.w3 = 0 → m.w4 = 0 → takebackFail s m = none →
      ∃ s', exec (.takeback m) s = .next s' ∧ s'.taken = s.taken.tail ∧ (slotOf s' (msgSlot m)).r.st = old.st
        ∧ (slotOf s' (msgSlot m)).r.head = fld m.w1 0 24 ∧ (slotOf s' (msgSlot m)).r.commit = old.commit
        ∧ ∀ k, k ≠ msgSlot m → slotOf s' k = slotOf s k)

/-- R255, R259, R265, R266: an accepted RESIGN ends its slot as RESIGNED; an accepted PAUSE takes back what is speculative and pauses the slot
with its TTL and RETAIN; a RESUME with LOSS of a slot whose image is away makes it LOST with the commit of the pause. -/
def Obligations.ResignPauseLoss : Prop :=
  ∀ (s : State) (m : Msg), isNext s m = true →
    let k := msgSlot m
    let old := slotOf s k
    (hdrOk m 4 = true → fld m.w1 0 24 = 0 → m.w2 = 0 → m.w3 = 0 → m.w4 = 0 → slotGate s m false true = none → old.w.held = [] →
      ∃ s', exec (.resign m) s = .next s' ∧ s'.taken = s.taken.tail ∧ (slotOf s' k).r.st = .resigned ∧ (slotOf s' k).r.sub = 0
        ∧ (old.w.pause.fetch = false → ∀ j, j ≠ k → slotOf s' j = slotOf s j))
    ∧ (hdrOk m 5 = true → fld m.w1 0 23 = 0 → fld m.w2 40 24 ≠ 0 → fld m.w2 0 40 = 0 → m.w3 = 0 → m.w4 = 0 → slotGate s m true false = none →
      settled old = true → (old.r.st = .ready ∨ old.r.st = .generating) →
      ∃ s', exec (.pause m) s = .next s' ∧ s'.taken = s.taken.tail ∧ (slotOf s' k).r.st = .paused ∧ (slotOf s' k).r.sub = 0
        ∧ (slotOf s' k).r.head = old.r.commit ∧ (slotOf s' k).r.commit = old.r.commit ∧ (slotOf s' k).w.pause.ttl = fld m.w2 40 24
        ∧ (slotOf s' k).w.pause.retain = bit m.w1 23)
    ∧ (msgType m = 6 → bit m.w1 22 = true → bit m.w1 23 = false → resumeBad s m = false → slotGate s m false false = none →
      ((old.r.st = .paused ∧ old.r.sub = 2) ∨ ((old.r.st = .prompt ∨ old.r.st = .ready ∨ old.r.st = .generating) ∧ old.r.sub = 1)) →
      old.w.fillFrom ≠ some (k, old.r.sgen) →
      ∃ s', exec (.resumeLoss m) s = .next s' ∧ s'.taken = s.taken.tail ∧ (slotOf s' k).r.st = .lost ∧ (slotOf s' k).r.sub = 0
        ∧ (slotOf s' k).r.commit = old.w.pause.commit ∧ (slotOf s' k).r.head = old.w.pause.commit)

/-- R255, R265, R268, R299: an accepted RESUME opens a prompt run of its new tokens, or makes the slot READY where there is none; the rebuild
form screens NOLD and the new tokens from an empty state. What the promise P reserves is that of its price. -/
def Obligations.ResumesReopen : Prop :=
  ∀ (s : State) (m : Msg) (p : Nat) (pl : List (W32 × Nat)), isNext s m = true → msgType m = 6 → resumeBad s m = false →
    slotGate s m false false = none →
    let k := msgSlot m
    let old := slotOf s k
    let n := fld m.w2 40 24
    let nold := fld m.w3 40 24
    let off := fld m.w2 0 36
    (bit m.w1 23 = bit m.w1 22 → old.r.st = .paused → old.r.masks = false → old.r.commit + n ≤ maxPos → toksPz s off n = false →
      pagesNeeded s k (if old.r.sub = 2 then 0 else old.r.commit) (old.r.commit + n) ≤ freePages s (slotHalf k) →
      price s (slotHalf k) old.w.image (old.r.sub == 2) n = some (p, pl) →
      ∃ s', exec (.resume m) s = .next s' ∧ s'.taken = s.taken.tail ∧ (slotOf s' k).r.st = (if n = 0 then .ready else .prompt)
        ∧ (slotOf s' k).w.runFrom = old.r.commit ∧ (slotOf s' k).w.runTo = old.r.commit + n ∧ (slotOf s' k).w.runP = p
        ∧ (slotOf s' k).w.plans = pl ∧ (slotOf s' k).w.runTurn = s.turns.cur ∧ (slotOf s' k).r.commit = old.r.commit)
    ∧ (∀ i : Image, bit m.w1 23 = true → bit m.w1 22 = false → old.r.st = .lost → old.r.sub = 0 → old.r.masks = false → nold = old.r.commit →
      nold + n ≤ maxPos → toksPz s off (nold + n) = false → pagesNeeded s k 0 (nold + n) ≤ freePages s (slotHalf k) →
      price s (slotHalf k) old.w.image true (nold + n) = some (p, pl) → imageOf s old.w.image = some i →
      ∃ s', exec (.resumeRebuild m) s = .next s' ∧ s'.taken = s.taken.tail ∧ (slotOf s' k).r.st = .lost ∧ (slotOf s' k).r.sub = 1
        ∧ (slotOf s' k).w.rebuild = some nold ∧ (slotOf s' k).w.runFrom = 0 ∧ (slotOf s' k).w.runTo = nold + n
        ∧ (slotOf s' k).w.screened = 0 ∧ (slotOf s' k).w.runP = p)

/-- R248, R262 to R264: PREFIX_REF MARK makes a handle of the slot's first LEN positions in the lowest free place of its half's table, with its
expiry, where the free list has the pages it takes; with fewer it makes none. DROP removes the handle. The model's readings: the references of a
dropped handle leave at the next close (log 41), and the pages MARK takes are an extension page and, at once, the copy of the last page where
the request goes on in it (log 112). -/
def Obligations.PrefixHandles : Prop :=
  ∀ (s : State) (m : Msg), isNext s m = true → prefixBad m = false →
    let v : W32 := BitVec.ofNat 32 (fld m.w2 32 32)
    (∀ i : Nat, fld m.w1 22 2 = 0 → slotGate s m false false = none →
      let x := slotOf s (msgSlot m)
      let h := slotHalf (msgSlot m)
      let len := fld m.w2 8 24
      (x.r.st = .ready ∨ x.r.st = .generating) → len ≠ 0 → len ≤ x.r.commit → len ≤ x.w.published →
      findHandle s x.r.tenant.toNat v = none → freeHandle s h = some i →
      (markPages x len ≤ freePages s h →
        ∃ s' e, exec (.prefixRefMark m) s = .next s' ∧ s'.taken = s.taken.tail ∧ smGet none (half s' h).handles i = some e
          ∧ e.tenant = x.r.tenant ∧ e.value = v ∧ e.len = len ∧ e.expiry = s.turns.cur + BitVec.ofNat 32 (fld m.w3 40 24)
          ∧ e.pages = slotPages s (msgSlot m) (entriesFor len)
          ∧ (∀ k, k ≠ i → smGet none (half s' h).handles k = smGet none (half s h).handles k)
          ∧ (∀ j, j ≠ msgSlot m → slotOf s' j = slotOf s j) ∧ (markCopies x len = false → s'.slots = s.slots))
      ∧ (freePages s h < markPages x len →
        ∃ s', exec (.prefixRefMark m) s = .next s' ∧ s'.taken = s.taken.tail ∧ (half s' h).handles = (half s h).handles
          ∧ s'.slots = s.slots))
    ∧ (∀ (h : Half) (i : Nat) (x : Handle), fld m.w1 22 2 = 1 → msgSlot m = 0 → msgSgen m = 0 → findHandle s (msgTenant m) v = some (h, i, x) →
      ∃ s', exec (.prefixRefDrop m) s = .next s' ∧ s'.taken = s.taken.tail ∧ smGet none (half s' h).handles i = none
        ∧ (∀ k, k ≠ i → smGet none (half s' h).handles k = smGet none (half s h).handles k)
        ∧ (half s' h).unused = (half s h).unused ++ x.pages ++ (if x.ext = 0 then [] else [x.ext]) ∧ s'.slots = s.slots)

/-- R242, R244, R253, R255, R299: an accepted ADMIT without a handle takes the lowest FREE slot of its half: PROMPT, SGEN one higher, its
tenant, epoch, tag and priority those of the message, and its prompt to screen with the promise that its price gives. HEAD and COMMIT are 0
until the prompt's verdict is published: the model's reading (log 22). -/
def Obligations.AdmitFillsSlot : Prop :=
  ∀ (s : State) (m : Msg) (map : RouteMap) (img n p : Nat) (i : Image) (pl : List (W32 × Nat)), isNext s m = true → admitBad s m = false →
    msgType m = 1 → mapOf s (fld m.w0 32 16) = some map → homedHere s map (msgTenant m) = true → s.turns.seen = true →
    nomOk s.turns = true → admitImage s (msgTenant m) = some (img, i) → fld m.w3 32 32 = 0 →
    (if i.omode then fld m.w3 16 16 = 0 ∧ (poolOf s (msgTenant m)).2.1 ≠ 0
      else ringBad s (fld m.w3 16 16) = false ∧ ringPz s (fld m.w3 16 16) = false) →
    toksPz s (fld m.w2 0 36) (fld m.w2 40 24) = false → freeSlot s (placeHalf s) = some n → i.masks = false →
    pagesNeeded (admitSlot (dropTaken s) m n img i none 0 []) n 0 (fld m.w2 40 24) + 1
      ≤ freePages (admitSlot (dropTaken s) m n img i none 0 []) (placeHalf s) →
    price (dropTaken s) (placeHalf s) img true (fld m.w2 40 24) = some (p, pl) →
    ∃ s', exec (.admitReq m) s = .next s' ∧ s'.taken = s.taken.tail ∧ (slotOf s' n).r.st = .prompt
      ∧ (slotOf s' n).r.sgen = (slotOf s n).r.sgen + 1 ∧ (slotOf s' n).r.tenant = i.tenant
      ∧ (slotOf s' n).r.epoch = BitVec.ofNat 16 (fld m.w0 32 16) ∧ (slotOf s' n).r.ctag = m.w4
      ∧ (slotOf s' n).r.prio = BitVec.ofNat 3 (fld m.w1 45 3) ∧ (slotOf s' n).r.commit = 0 ∧ (slotOf s' n).r.head = 0
      ∧ (slotOf s' n).w.runFrom = 0 ∧ (slotOf s' n).w.runTo = fld m.w2 40 24 ∧ (slotOf s' n).w.runP = p ∧ (slotOf s' n).w.steady = true
      ∧ (slotOf s' n).r.oseq = 0 ∧ ∀ k, k ≠ n → slotOf s' k = slotOf s k

/-- R31, R265, R335, R336, R367: the pause image. A drained slot goes to SUB 1, and where buffers suffice its image (R367) is written into them,
chained, all but the first handed over, and no other byte; so it is when buffers return. Its transfer's end hands the first buffer over, and
the slot goes to SUB 2 with its EXPIRY. A fetched image that fails its checks makes the slot LOST; one that passes returns it, with the scale
record of the image and its positions in the slot's pages. The model's readings: EXPIRY and SUB of the record in the image (log 108), and what a
fetch's end checks and leaves (log 79). -/
def Obligations.PauseImages : Prop :=
  ∀ (s : State) (n : BitVec 16), windowOpen s = true →
    let k := n.toNat
    let x := slotOf s k
    let h := slotHalf k
    let c := x.w.pause.commit
    let m := entriesFor (max x.r.head x.w.runTo)
    let written (s1 s' : State) : Prop :=
      let parts := chunks (max 1 (imgSize s1 - 64)) (pauseImage s1 k)
      let ks := (imgFree s1).take parts.length
      64 < imgSize s1 → parts.length ≤ (imgFree s1).length → (∀ b ∈ ks, alive s1 (winAddr s1 (imgOffset s1 b)) (imgSize s1)) →
        (slotOf s' k).w.pause.chain = ks ∧ ImageStands s' k parts ks ∧ OnlyBuffers s1 s' ks
    (pauseDrained s k = true →
      ∃ s', exec (.pauseDrained n) s = .next s' ∧ (slotOf s' k).r.st = .paused ∧ (slotOf s' k).r.sub = 1
        ∧ (slotOf s' k).r.commit = x.r.commit ∧ (∀ j, j ≠ k → slotOf s' j = slotOf s j)
        ∧ written (modSlot s k fun y =>
            { y with r := { y.r with sub := 1 }, w := { y.w with pause := { y.w.pause with ioWait := false, chain := [] } } }) s')
    ∧ (x.r.st = .paused → x.r.sub = 1 → x.w.pause.chain = [] → x.w.pause.ioWait = true →
      ∃ s', exec (.imageBufferReturned n) s = .next s' ∧ (slotOf s' k).r = x.r ∧ (∀ j, j ≠ k → slotOf s' j = slotOf s j) ∧ written s s')
    ∧ (∀ b bs, x.w.pause.chain = b :: bs → x.r.st = .paused → x.r.sub = 1 →
      ∃ s', exec (.pauseTransferDone n) s = .next s' ∧ (slotOf s' k).r.st = .paused ∧ (slotOf s' k).r.sub = 2
        ∧ (slotOf s' k).r.expiry = s.turns.cur + BitVec.ofNat 32 x.w.pause.ttl ∧ (slotOf s' k).w.steady = false
        ∧ (slotOf s' k).w.pause.commit = x.r.commit ∧ (slotOf s' k).w.pause.oseq = x.r.oseq
        ∧ (let own := winAddr s (imgOffset s b) + 56
          alive s own 8 → (half s h).evDropped = 0 → bytesApart own 8 (winAddr s (eventOff s h)) 64 →
          (m ≤ 8 ∨ x.r.ext = 0 ∨ bytesApart own 8 (pageAddr s h x.r.ext) (4 * m)) → owner s' (imgOffset s b) = 1))
    ∧ (x.w.pause.fetch = true → slotLive x.r.st = true → fetchImage s k = none → x.w.fillFrom ≠ some (k, x.r.sgen) →
      ∃ s', exec (.imageFetchDone n) s = .next s' ∧ (slotOf s' k).r.st = .lost ∧ (slotOf s' k).r.commit = c)
    ∧ (∀ raw, x.w.pause.fetch = true → slotLive x.r.st = true → fetchImage s k = some raw → x.w.maskPos = [] →
      ∃ s', exec (.imageFetchDone n) s = .next s' ∧ (slotOf s' k).r.st = x.r.st ∧ (slotOf s' k).r.sub = 0
        ∧ (slotOf s' k).w.pause.fetch = false ∧ (slotOf s' k).r.commit = x.r.commit
        ∧ (slotOf s' k).r.scale = (bytesWords (raw.take 144)).drop 10
        ∧ (fillTargets s k = [(slotPages s k (entriesFor c), c)] → (slotPages s k (entriesFor c)).Nodup → 0 ∉ slotPages s k (entriesFor c) →
          (half s h).evDropped = 0 → ∀ p j, p < c → j < 1024 → memDead s.mem (posAddr s k p + j) = false →
          bytesApart (posAddr s k p + j) 1 (winAddr s (eventOff s h)) 64 →
          memByte s'.mem (posAddr s k p + j) = raw.getD (raw.length - 1024 * c + 1024 * p + j) 0))

/-- R254, R257, R259, R271, R273 to R276, R288: when the ring entry of a slot with one committed verdict to publish has returned to BLOCK, the verdict is
published: OSEQ and the next position move on, and its record stands in the entry, which reads HOST. So is the terminal record that an ended slot
holds; for a BATCH tenant whose one waiting turn holds such a record, in the tenant's next buffer. Which turn's record the late buffer carries, its
TURN the turn it waited from, its PART going on from that turn's last and LASTP set, is the model's choice (logs 23 and 116). A tenant's
buffers return with no turn of its own to hand over, or any entry while the window is shut: nothing changes but, in the first case, what may
follow from records published in a batch. -/
def Obligations.VerdictPublished : Prop :=
  (∀ (s : State) (k : ReturnKey), windowOpen s = false → exec (.verdictEntryReturned k) s = .next s)
  ∧ (∀ (s : State), windowOpen s = true →
    (∀ n, exec (.verdictEntryReturned (.slot n)) s = .next (publish s n.toNat))
    ∧ ∀ t, exec (.verdictEntryReturned (.tenant t)) s = .next (afterBatches (drainTenant s t)))
  ∧ (∀ (s : State) (t : BitVec 16), windowOpen s = true → (∀ w ∈ s.bwaits, w.tenant ≠ t) →
    exec (.verdictEntryReturned (.tenant t)) s = .next (afterBatches s))
  ∧ (∀ (s : State) (t : BitVec 16) (w : BatchWait) (l : BatchLim) (v : VRec),
    let x := slotOf s l.slot
    let q := bseqOf s t.toNat
    let off := bufferOff s t.toNat q
    let pool := fld (dirWord s 2) 0 36 + 16 * t.toNat
    windowOpen s = true → s.bwaits = [w] → w.tenant = t → w.ready = true → w.lims = [l] → l.term = true → x.r.sgen = l.sgen →
    x.r.tenant = t → slotEnded x.r.st = true → x.w.term = some v → v.kind = 2 → bufferRoom s t.toNat = true →
    (∀ j, j < 128 → memDead s.mem (winAddr s off + j) = false) → (pool + 16 ≤ off ∨ off + 128 ≤ pool) →
    ∃ u, exec (.verdictEntryReturned (.tenant t)) s = .next (afterBatches u) ∧ u.bwaits = [] ∧ (slotOf u l.slot).w.term = none
      ∧ (slotOf u l.slot).r.oseq = x.r.oseq + 1 ∧ bseqOf u t.toNat = (q + 1) % 2 ^ 32 ∧ owner u off = 1
      ∧ winWord u off = mk64 (put t.toNat 48 16 + put w.part 32 16 + put 1 31 1 + put 1 0 16)
      ∧ winWord u (off + 8) = mk64 (put w.turn.toNat 32 32 + put q 0 32)
      ∧ ∀ j y, (recordWords s l.slot v ++ [0])[j]? = some y → winWord u (off + 64 + 8 * j) = y)
  ∧ (∀ (s : State) (n : BitVec 16) (v : VRec), let x := slotOf s n.toNat
    let off := ringEntry s n.toNat
    windowOpen s = true → x.r.omode = false → slotEnded x.r.st = true → x.w.term = some v → v.kind = 2 → x.w.maskPos = [] →
    ownedByBlock s off = true → (∀ j, j < 64 → memDead s.mem (winAddr s off + j) = false) →
    ∃ s', exec (.verdictEntryReturned (.slot n)) s = .next s' ∧ (slotOf s' n.toNat).r.oseq = x.r.oseq + 1
      ∧ (slotOf s' n.toNat).w.term = none ∧ (slotOf s' n.toNat).r.st = x.r.st ∧ owner s' off = 1
      ∧ (∀ j w, (recordWords s n.toNat v)[j]? = some w → winWord s' (off + 8 * j) = w) ∧ ∀ j, j ≠ n.toNat → slotOf s' j = slotOf s j)
  ∧ ∀ (s : State) (n : BitVec 16) (v : VRec) (c : Cell),
    let k := n.toNat
    let x := slotOf s k
    let q := x.w.published
    let off := ringEntry s k
    windowOpen s = true → x.r.omode = false → x.r.st = .generating → x.w.term = none → x.w.runOpen = false → x.r.masks = false →
    x.w.maskPos = [] → x.w.computed ≤ q + 1 → nextRecord s k = some (v, some (q, c)) → c.pz = false → spanOk x.w false q c = true →
    v.term = false → duePast s v.due = false → ownedByBlock s off = true →
    (∀ j, j < 64 → memDead s.mem (winAddr s off + j) = false) →
    (winAddr s off + 64 ≤ cellAddr s k q ∨ cellAddr s k q + 64 ≤ winAddr s off) →
    ∃ s', exec (.verdictEntryReturned (.slot n)) s = .next s' ∧ (slotOf s' k).r.oseq = x.r.oseq + 1 ∧ (slotOf s' k).w.published = q + 1
      ∧ (slotOf s' k).r.st = .generating ∧ owner s' off = 1 ∧ (∀ j w, (recordWords s k v)[j]? = some w → winWord s' (off + 8 * j) = w)
      ∧ ∀ j, j ≠ k → slotOf s' j = slotOf s j

/-- R329 to R333: what is handed to the host software when its slots return or its time comes. An open bulletin closes and takes the
next sequence number: it is written whole into its slot, or waits while the host software owns that; a waiting bulletin whose slot has returned
is written; EVENTS_LOST is written with the number of events dropped; a mask set that waits for its table entry is retired with its image, the
entry's words zero. Where nothing waits, or what returned is not owned, nothing changes. -/
def Obligations.WindowReturnsAct : Prop :=
  ∀ (s : State), windowOpen s = true →
    (∀ h, (half s h).bullOpen ≠ [] →
      let recs := (half s h).bullOpen
      let q := (half s h).bullSeq
      let off := bullOff s h q
      ∃ s', exec (.bulletinTimeout h) s = .next s' ∧ (half s' h).bullOpen = [] ∧ (half s' h).bullSeq = q + 1
        ∧ ((half s h).bullWait = [] → s.modes.boxing = false →
          (ownedByBlock s off = true → alive s (winAddr s off) (64 + (recs.flatMap (·.2)).length) →
            (half s' h).bullWait = [] ∧ BulletinStands s' off q s.turns.cur recs none
              ∧ ∀ y, bytesApart y 1 (winAddr s off) (64 + (recs.flatMap (·.2)).length) → memByte s'.mem y = memByte s.mem y)
          ∧ (ownedByBlock s off = false → (half s' h).bullWait = [{ seq := q, recs := recs, poison := none }])))
    ∧ (∀ h, (half s h).bullOpen = [] → exec (.bulletinTimeout h) s = .next s)
    ∧ (∀ h b bs, (half s h).bullWait = b :: bs →
      let off := bullOff s h b.seq
      (ownedByBlock s off = true →
        ∃ s' k, exec (.bulletinSlotReturned h) s = .next s' ∧ (half s' h).bullWait = bs.drop k ∧ s'.slots = s.slots ∧ s'.tiles = s.tiles
          ∧ (bs = [] → alive s (winAddr s off) (64 + (b.recs.flatMap (·.2)).length) →
            BulletinStands s' off b.seq s.turns.cur b.recs b.poison
              ∧ ∀ y, bytesApart y 1 (winAddr s off) (64 + (b.recs.flatMap (·.2)).length) → memByte s'.mem y = memByte s.mem y))
      ∧ (ownedByBlock s off = false → exec (.bulletinSlotReturned h) s = .next s))
    ∧ (∀ h, (half s h).evDropped ≠ 0 → eventRoom s h = true →
      let at_ := winAddr s (eventOff s h)
      ∃ s', exec (.eventEntryReturned h) s = .next s' ∧ (half s' h).evDropped = 0 ∧ (half s' h).eseq = (half s h).eseq + 1
        ∧ s'.slots = s.slots ∧ s'.tiles = s.tiles
        ∧ (alive s at_ 64 →
          EventStands s s' h (mk64 (put 0x0301 48 16)) (mk64 (put s.turns.cur.toNat 32 32 + put (half s h).eseq.toNat 0 32)) 0
            (mk64 (half s h).evDropped))
        ∧ ∀ y, bytesApart y 1 at_ 64 → memByte s'.mem y = memByte s.mem y)
    ∧ (∀ h, ((half s h).evDropped = 0 ∨ eventRoom s h = false) → exec (.eventEntryReturned h) s = .next s)
    ∧ (∀ (e : BitVec 16), (ownedByBlock s (msetEntry s e.toNat) = false ∨ (images s).find? (fun q => q.2.retiring && q.2.msEntry == e.toNat) = none) →
      exec (.masksetEntryReturned e) s = .next s)
    ∧ (∀ (e : BitVec 16) (p : Nat × Image), ownedByBlock s (msetEntry s e.toNat) = true →
      (images s).find? (fun q => q.2.retiring && q.2.msEntry == e.toNat) = some p →
      let off := msetEntry s e.toNat
      ∃ s', exec (.masksetEntryReturned e) s = .next s' ∧ imageOf s' p.1 = none ∧ (∀ j, j ≠ p.1 → imageOf s' j = imageOf s j)
        ∧ (alive s (winAddr s off) 64 → s.halfA.evDropped = 0 → bytesApart (winAddr s off) 64 (winAddr s (eventOff s .A)) 64 →
          owner s' off = 2 ∧ ∀ j, j < 7 → winWord s' (off + 8 * j) = 0))

/-- R319: an interval of notices that ends sends its pending notice through the notice port and starts another; with none pending it is over.
With no trained port the notice is lost. -/
def Obligations.NoticeIntervals : Prop :=
  ∀ (s : State) (k : NoticeKey), windowOpen s = true →
    (s.win.notices.find? (fun x => x.key == k) = none → exec (.noticeInterval k) s = .next s)
    ∧ ∀ n, s.win.notices.find? (fun x => x.key == k) = some n →
      let again := { s.win with notices := s.win.notices.map fun x => if x.key = k then { x with pending := false } else x }
      (n.pending = false →
        exec (.noticeInterval k) s = .next { s with win := { s.win with notices := s.win.notices.filter fun x => x.key != k } })
      ∧ (∀ p, n.pending = true → noticePort s = some p →
        exec (.noticeInterval k) s = .next { s with win := again, sent := s.sent ++ [noticePacket p n] })
      ∧ (n.pending = true → noticePort s = none → exec (.noticeInterval k) s = .next { s with win := again })

/-- R448 to R450: frames on the M-chain. A SEAT with N below 256 seats an unsealed block at G times 256 plus N and goes on with N one higher, one with N
at 256 or more, or for a sealed block, is refused; an RD and a WR addressed to the block are answered with an RSP, or wait for the clocks, and a WR that
repeats the last one is not applied again; any other frame goes on as it came; a frame whose CRC fails is counted. That an RSP has ARG 0,
carries the register read back after a WR, and 0 with a failed status is the model's choice (log 53). -/
def Obligations.ChainFrames : Prop :=
  ∀ (s : State) (f : Frame), mcQuiet s = true →
    let rsp (st : Nat) (d : W64) : Frame := sealFrame
      { type := 4, flags := BitVec.ofNat 8 (put st 4 4 + put 1 1 1), dst := 0, src := s.su.addr, tag := f.tag, arg := 0, data := d, crc := 0 }
    (crcOk f = true → f.type = 1 → fld f.arg 0 9 < 256 → s.su.sealed = false →
      exec (.mcSeat f) s = .next
        { s with su := { s.su with
            addr := BitVec.ofNat 16 (fld f.arg 16 8 * 256 + fld f.arg 0 9), seated := true, fwd := [sealFrame { f with arg := f.arg + 1 }] } })
    ∧ (crcOk f = true → f.type = 1 → 256 ≤ fld f.arg 0 9 →
      exec (.mcSeat f) s = .next
        { s with su := { s.su with refused := inc16 s.su.refused, fwd := [sealFrame { f with flags := f.flags ||| 1 }] } })
    ∧ (crcOk f = true → f.type = 1 → fld f.arg 0 9 < 256 → s.su.sealed = true →
      exec (.mcSeat f) s = .next
        { s with su := { s.su with
            refused := inc16 s.su.refused, fwd := [sealFrame { f with arg := f.arg + 1, flags := f.flags ||| 1 }] } })
    ∧ (∀ b off, crcOk f = true → f.type = 2 → isMine s f = true → mcAvail s (mcAddr f) = .served → regBlock (mcAddr f) = some (b, off) →
      exec (.mcRd f) s = .next { s with su := { s.su with own := [rsp 0 (regWord s b off)] } })
    ∧ (crcOk f = true → f.type = 2 → isMine s f = true → mcAvail s (mcAddr f) = .notReady →
      exec (.mcRd f) s = .next { s with su := { s.su with own := [rsp 2 0] } })
    ∧ (crcOk f = true → f.type = 2 → isMine s f = true → mcAvail s (mcAddr f) = .access →
      exec (.mcRd f) s = .next { s with su := { s.su with own := [rsp 1 0] } })
    ∧ (crcOk f = true → f.type = 2 → isMine s f = true → mcAvail s (mcAddr f) = .held →
      exec (.mcRd f) s = .next { s with clocks := { s.clocks with held := s.clocks.held ++ [{ cmd := .mcRd f, turn := none }] } })
    ∧ (crcOk f = true → f.type = 3 → isMine s f = true →
      (mcAvail s (mcAddr f) = .notReady → exec (.mcWr f) s = .next { s with su := { s.su with own := [rsp 2 0] } })
      ∧ (mcAvail s (mcAddr f) = .access → exec (.mcWr f) s = .next { s with su := { s.su with own := [rsp 1 0] } })
      ∧ (mcAvail s (mcAddr f) = .held →
        exec (.mcWr f) s = .next { s with clocks := { s.clocks with held := s.clocks.held ++ [{ cmd := .mcWr f, turn := none }] } })
      ∧ (∀ b off, mcAvail s (mcAddr f) = .served → regBlock (mcAddr f) = some (b, off) →
        let key := (f.tag, mk64 (mcAddr f), f.data)
        let s1 := regWrite { s with su := { s.su with lastWr := some key } } b off f.data
        (s.su.lastWr = some key → exec (.mcWr f) s = .next { s with su := { s.su with own := [rsp 0 (regWord s b off)] } })
        ∧ (s.su.lastWr ≠ some key → exec (.mcWr f) s = .next (respond s1 f 0 (regWord s1 b off)))))
    ∧ (∀ off, crcOk f = true → f.type = 3 → isMine s f = true → mcAvail s (mcAddr f) = .served → regBlock (mcAddr f) = some (.turns, off) →
      off = 0x08 → s.su.lastWr ≠ some (f.tag, mk64 (mcAddr f), f.data) →
      exec (.mcWr f) s = .next
        { s with
          turns := { s.turns with nom := BitVec.ofNat 32 f.data.toNat }
          su := { s.su with
            lastWr := some (f.tag, mk64 (mcAddr f), f.data)
            own := [rsp 0 (regWord { s with turns := { s.turns with nom := BitVec.ofNat 32 f.data.toNat } } .turns 0x08)] } })
    ∧ (crcOk f = true → consumed s f = false → exec (.mcForward f) s = .next { s with su := { s.su with fwd := [f] } })
    ∧ (crcOk f = false → exec (.mcForward f) s = .next { s with su := { s.su with badcrc := inc16 s.su.badcrc } })

/-- R17, R18, R20, R87, R240, R279, R312, R337, R348, R375, R405, R434, R456, R460: management writes. A write to an address that is not served
changes nothing, one during a relock waits; a served write sets the fields of its register that software may write, as far as their values are
legal and the seal allows it, and changes nothing else: stated field by field for the registers that only hold values. -/
def Obligations.RegisterWrites : Prop :=
  ∀ (s : State) (a : W48) (d : W64),
    let go := exec (.registerWrite a d) s
    ((avail s a.toNat = .access ∨ avail s a.toNat = .notReady) → go = .next s)
    ∧ (avail s a.toNat = .held →
      go = .next { s with clocks := { s.clocks with held := s.clocks.held ++ [{ cmd := .registerWrite a d, turn := none }] } })
    ∧ (∀ b off, servedAt s a b off → go = .next (regWrite s b off d))
    ∧ (∀ off, servedAt s a .ident off → go = .next s)
    ∧ (∀ h, servedAt s a (.req h) 0x000 →
      go = .next (if s.su.sealed then s else modHalf s h fun x => { x with pageBase := BitVec.ofNat 32 (fld d 0 32) }))
    ∧ (∀ h, servedAt s a (.req h) 0x008 →
      go = .next (if s.su.sealed then s else modHalf s h fun x => { x with pageCount := BitVec.ofNat 24 (fld d 0 24) }))
    ∧ (servedAt s a .turns 0x08 → go = .next { s with turns := { s.turns with nom := BitVec.ofNat 32 (fld d 0 32) } })
    ∧ (servedAt s a .turns 0x18 →
      go = .next (if 8 ≤ fld d 0 8 ∧ fld d 0 8 ≤ 128 then { s with turns := { s.turns with margin := BitVec.ofNat 8 (fld d 0 8) } } else s))
    ∧ (servedAt s a .turns 0x20 → go = .next { s with turns := { s.turns with
        merged := BitVec.ofNat 16 (fld d 48 16), skipped := BitVec.ofNat 16 (fld d 32 16), stalls := BitVec.ofNat 16 (fld d 16 16)
        badMark := BitVec.ofNat 16 (fld d 0 16) } })
    ∧ (servedAt s a .turns 0x28 → go = .next { s with turns := { s.turns with
        missed := BitVec.ofNat 32 (fld d 32 32), latePlans := BitVec.ofNat 16 (fld d 16 16), excess := BitVec.ofNat 16 (fld d 0 16) } })
    ∧ (servedAt s a .turns 0x30 → go = .next { s with turns := { s.turns with
        excused := BitVec.ofNat 32 (fld d 32 32), lateTokens := BitVec.ofNat 32 (fld d 0 32) } })
    ∧ (servedAt s a .turns 0x50 →
      go = .next (if s.su.sealed then s else { s with modes := { s.modes with wearBase := BitVec.ofNat 32 (fld d 0 32) } }))
    ∧ (servedAt s a .turns 0x38 → fld d 2 2 ≠ 3 → fld d 0 2 < 2 →
      go = .next { s with modes := { s.modes with
        atTurn := BitVec.ofNat 32 (fld d 32 32), box := BitVec.ofNat 2 (fld d 2 2), base := BitVec.ofNat 2 (fld d 0 2) } })
    ∧ (servedAt s a .turns 0x38 → (fld d 2 2 = 3 ∨ 2 ≤ fld d 0 2) → go = .next s)
    ∧ (servedAt s a .window 0x00 → go = .next (if s.su.sealed then s else { s with win := { s.win with base := BitVec.ofNat 25 (fld d 0 25) } }))
    ∧ (servedAt s a .window 0x08 → go = .next (if s.su.sealed then s else { s with win := { s.win with size := BitVec.ofNat 21 (fld d 0 21) } }))
    ∧ (servedAt s a .window 0x10 → go = .next (if s.su.sealed then s else { s with win := { s.win with dir := BitVec.ofNat 36 (fld d 0 36) } }))
    ∧ (servedAt s a .window 0x18 →
      go = .next { s with win := { s.win with noticeUs := BitVec.ofNat 4 (fld d 4 4), nport := BitVec.ofNat 2 (fld d 0 2) } })
    ∧ (servedAt s a .window 0x20 → go = .next
        (if s.su.sealed ∨ 4 < fld d 0 3 ∨ 4 < fld d 4 3 ∨ 4 < fld d 8 3 then s
         else { s with win := { s.win with
          hclkS := BitVec.ofNat 3 (fld d 0 3), hclkE := BitVec.ofNat 3 (fld d 4 3), hclkB := BitVec.ofNat 3 (fld d 8 3) } }))
    ∧ (servedAt s a .window 0x28 → go = .next { s with win := { s.win with
        early := BitVec.ofNat 16 (fld d 48 16), poisoned := BitVec.ofNat 16 (fld d 32 16), lost := BitVec.ofNat 16 (fld d 16 16)
        baddb := BitVec.ofNat 16 (fld d 0 16) } })
    ∧ (∀ p, p < 4 → servedAt s a .window (0x100 + 8 * p) → go = .next
        (setHp s p { hpOf s p with
          downs := BitVec.ofNat 8 (fld d 48 8), badpkt := BitVec.ofNat 16 (fld d 32 16), badwr := BitVec.ofNat 16 (fld d 16 16)
          retries := BitVec.ofNat 16 (fld d 0 16) }))
    ∧ (∀ p, p < 32 → servedAt s a .ports (0x100 + 8 * p) → go = .next
        { s with ports := smSet MemPort.off s.ports p { mpOf s p with
          retrains := BitVec.ofNat 8 (fld d 40 8), poisonRd := BitVec.ofNat 16 (fld d 16 16), retries := BitVec.ofNat 16 (fld d 0 16) } })
    ∧ (servedAt s a .group 0x010 → go = .next (if fld d 0 8 = 0 then s else { s with group := { s.group with timeout := BitVec.ofNat 8 (fld d 0 8) } }))
    ∧ (∀ w, w < 8 → servedAt s a .group (0x040 + 8 * w) →
      ∃ m : BitVec 512, go = .next { s with group := { s.group with absent := m } }
        ∧ ∀ b, b < 512 → m.getLsbD b = (s.group.absent.getLsbD b && !(b / 64 == w && d.getLsbD (b % 64))))
    ∧ (servedAt s a .group 0x080 → go = .next
        (if s.su.sealed then s
         else { s with group := { s.group with areaLog2 := BitVec.ofNat 4 (fld d 32 4), areaBase := BitVec.ofNat 20 (fld d 0 20) } }))
    ∧ (servedAt s a .group 0x088 → go = .next
        (if s.su.sealed then s
         else { s with group := { s.group with logSize := BitVec.ofNat 16 (fld d 32 16), logBase := BitVec.ofNat 14 (fld d 0 14) } }))
    ∧ (servedAt s a .group 0x090 → go = .next { s with group := { s.group with
        replays := BitVec.ofNat 16 (fld d 48 16), poisoned := BitVec.ofNat 16 (fld d 32 16), timeouts := BitVec.ofNat 16 (fld d 16 16)
        stale := BitVec.ofNat 16 (fld d 0 16) } })
    ∧ (servedAt s a .group 0x098 → go = .next { s with group := { s.group with
        baditem := BitVec.ofNat 16 (fld d 48 16), dup := BitVec.ofNat 16 (fld d 32 16) } })
    ∧ (servedAt s a .group 0x108 → go = .next { s with group := { s.group with mismatch := BitVec.ofNat 16 (fld d 0 16) } })
    ∧ (servedAt s a .clocks 0x00 → go = .next { s with clocks := { s.clocks with
        fallbacks := BitVec.ofNat 16 (fld d 32 16), holds := BitVec.ofNat 16 (fld d 16 16), relocks := BitVec.ofNat 16 (fld d 0 16) } })
    ∧ (servedAt s a .clocks 0x18 → go = .next { s with clocks := { s.clocks with revert := bit d 1, pref := bit d 0 } })
    ∧ (servedAt s a .clocks 0x20 →
      go = .next { s with tb0 := { s.tb0 with badsof := BitVec.ofNat 16 (fld d 16 16), losses := BitVec.ofNat 16 (fld d 0 16) } })
    ∧ (servedAt s a .clocks 0x28 →
      go = .next { s with tb1 := { s.tb1 with badsof := BitVec.ofNat 16 (fld d 16 16), losses := BitVec.ofNat 16 (fld d 0 16) } })
    ∧ (servedAt s a .clocks 0x30 → go = .next { s with pins := { s.pins with
        glitchRst := BitVec.ofNat 16 (fld d 32 16), glitchPwr := BitVec.ofNat 16 (fld d 16 16), glitchHalt := BitVec.ofNat 16 (fld d 0 16) } })
    ∧ (servedAt s a .clocks 0x40 → go = .next { s with power := { s.power with peak := BitVec.ofNat 16 (fld d 0 16) } })
    ∧ (servedAt s a .clocks 0x58 →
      go = .next { s with power := { s.power with fault := s.power.fault &&& ~~~(BitVec.ofNat 36 (fld d 0 36)) } })
    ∧ (servedAt s a .clocks 0x108 →
      go = .next (if s.su.sealed then s else { s with cal := { s.cal with osc := BitVec.ofNat 16 (fld d 16 16) } }))
    ∧ (servedAt s a .errs 0x00 → go = .next { s with errs := { s.errs with
        request := BitVec.ofNat 16 (fld d 48 16), failed := BitVec.ofNat 16 (fld d 32 16), tenant := BitVec.ofNat 8 (fld d 24 8)
        corrected := BitVec.ofNat 16 (fld d 0 16) } })
    ∧ (servedAt s a .errs 0x10 → go = .next { s with errs := { s.errs with
        ceStage := BitVec.ofNat 32 (fld d 32 32), ceCtrl := BitVec.ofNat 32 (fld d 0 32) } })
    ∧ (servedAt s a .errs 0x18 → go = .next { s with errs := { s.errs with overwritten := BitVec.ofNat 16 (fld d 16 16) } })
    ∧ (servedAt s a .startup 0x18 → go = .next { s with su := { s.su with fwTries := BitVec.ofNat 16 (fld d 0 16) } })
    ∧ (servedAt s a .startup 0x28 → go = .next { s with su := { s.su with
        badcrc := BitVec.ofNat 16 (fld d 48 16), dropped := BitVec.ofNat 16 (fld d 32 16), refused := BitVec.ofNat 16 (fld d 16 16)
        nmiSent := BitVec.ofNat 16 (fld d 0 16) } })
    ∧ (servedAt s a .startup 0x40 →
      go = .next { s with su := { s.su with stwLen := BitVec.ofNat 24 (fld d 40 24), stwOff := BitVec.ofNat 36 (fld d 0 36) } })
    ∧ (∀ t, servedAt s a (.tile t) 0x020 →
      go = .next (setTile s t { tileOf s t with
        fault := if bit d 63 then
            mk64 ((tileOf s t).fault.toNat - put (fld (tileOf s t).fault 63 1) 63 1 - put (fld (tileOf s t).fault 44 4) 44 4)
          else (tileOf s t).fault }))
    ∧ (∀ t, servedAt s a (.tile t) 0x030 →
      go = .next (setTile s t { tileOf s t with ue := BitVec.ofNat 16 (fld d 48 16), ce := BitVec.ofNat 32 (fld d 0 32) }))
    ∧ (∀ t, servedAt s a (.tile t) 0x080 →
      go = .next (setTile s t { tileOf s t with
        auSymbols := BitVec.ofNat 32 (fld d 32 32), auDropped := BitVec.ofNat 16 (fld d 16 16), auEditOvf := BitVec.ofNat 16 (fld d 0 16) }))
    ∧ (servedAt s a .errs 0x08 → go = .next { s with errs := { s.errs with nmi := s.errs.nmi &&& ~~~(BitVec.ofNat 4 (fld d 0 4)) } })
    ∧ (∀ t, servedAt s a (.tile t) 0x018 →
      go = .next (setTile s t { tileOf s t with ovf := (tileOf s t).ovf &&& ~~~(BitVec.ofNat 16 (fld d 0 16)) }))

/-- R279, R373, R375, R434, R462: the select registers. REQ_SLOT_SEL copies the record of a slot of its half, ERR_LOG_SEL a log entry or zeros,
METER_SEL the meters of a composition; CODE_SEL the state of a table (R375). That METER_DATA3 is the turn of the last close is the model's
reading (log 73). -/
def Obligations.SelectsCopy : Prop :=
  ∀ (s : State) (d : W64),
    (∀ h, avail s (mgmtBase + 0x20018 + 4096 * halfNum h) = .served → slotHalf (fld d 0 16) = h →
      exec (.reqSlotSel h d) s = .next
        (modHalf s h fun x => { x with selSlot := BitVec.ofNat 16 (fld d 0 16), selData := recWords (slotOf s (fld d 0 16)).r }))
    ∧ (∀ h, slotHalf (fld d 0 16) ≠ h → avail s (mgmtBase + 0x20018 + 4096 * halfNum h) = .served → exec (.reqSlotSel h d) s = .next s)
    ∧ (avail s (mgmtBase + 0x80020) = .served →
      exec (.errLogSel d) s = .next
        { s with errs := { s.errs with
            sel := BitVec.ofNat 32 (fld d 0 32)
            data := match s.errs.log.find? (fun e => e.lseq = BitVec.ofNat 32 (fld d 0 32)) with
              | none => List.replicate 8 0
              | some e => entryData e } })
    ∧ (avail s (mgmtBase + 0x60200) = .served →
      exec (.meterSel d) s = .next
        { s with group := { s.group with
            meterSel := BitVec.ofNat 12 (fld d 0 12)
            meterData :=
              [mk64 (meterOf s (fld d 0 12) 0), mk64 (meterOf s (fld d 0 12) 1), mk64 (meterOf s (fld d 0 12) 2),
               mk64 (put s.group.lastClose.toNat 32 32)] } })
    ∧ (avail s (mgmtBase + 0x60198) = .served →
      exec (.codeSel d) s = .next { s with group := { s.group with codeSel := BitVec.ofNat 12 (fld d 0 12), codeData := codeWords s (fld d 0 12) } })

/-- R72, R74, R87: TILE_FLUSH empties the queues its word names, which then read FLUSHED, and leaves every other queue and the rest of the tile. -/
def Obligations.TileFlushEmpties : Prop :=
  ∀ (s : State) (t : BitVec 10) (d : W64), avail s (mgmtBase + 0x100000000 + 4096 * t.toNat + 0x028) = .served → s.errs.block = false →
    ∃ tl, exec (.tileFlush t d) s = .next (setTile s t.toNat tl) ∧ { tl with queues := (tileOf s t.toNat).queues } = tileOf s t.toNat
      ∧ ∀ q, tileQ tl q = if q < 18 ∧ (fld d 0 18).testBit q = true then qFlush (tileQ (tileOf s t.toNat) q) else tileQ (tileOf s t.toNat) q

/-- R362, R366, R369, R375: loads of route maps and code tables. A load of a route map starts with RESULT PENDING; a good image becomes NEW, the map
that was NEW becoming OLD; one that comes while OLD is held is BUSY, a bad one, one whose epoch is not the next, or one of a version that the
block does not accept (R7), BAD. A good code table makes its EMPTY generation LOADED, and
CODE_ACT of a LOADED generation at a later turn schedules its activation; the fixed table 0xfff, and a generation in another state, are
refused in CODE_STAT. The model's readings: which version a map is of (log 126), how its image is checked (log 71), and that CODE_ACT answers BAD
for a generation that is not LOADED, or a turn that is not later (log 72). -/
def Obligations.MapsAndTablesLoad : Prop :=
  ∀ (s : State) (d : W64), s.errs.block = false →
    (avail s (mgmtBase + 0x60100) = .served → s.group.routeLoad = none →
      exec (.routeLoad d) s = .next
        { s with group := { s.group with routeLoad := some (BitVec.ofNat 16 (fld d 48 16), BitVec.ofNat 36 (fld d 0 36)), routeResult := 3 } })
    ∧ (avail s (mgmtBase + 0x60100) = .served → s.group.routeLoad.isSome = true → exec (.routeLoad d) s = .next s)
    ∧ (s.group.routeLoad = none → exec .routeLoadComplete s = .next s)
    ∧ (∀ e off, s.group.routeLoad = some (e, off) → ctRuns s = true →
      (s.group.oldMap.isSome = true →
        exec .routeLoadComplete s = .next { s with group := { s.group with routeLoad := none, routeResult := 1 } })
      ∧ (s.group.oldMap = none → routeImage s e.toNat off.toNat = none →
        exec .routeLoadComplete s = .next { countRoute s off.toNat with group := { s.group with routeLoad := none, routeResult := 2 } })
      ∧ (∀ m, s.group.oldMap = none → routeImage s e.toNat off.toNat = some m → (∀ n, s.group.newMap = some n → e = n.epoch + 1) →
        let ok := routeVersionOk s off.toNat
        ∃ s', exec .routeLoadComplete s = .next s' ∧ s'.slots = s.slots ∧ s'.tiles = s.tiles
          ∧ s'.group = { s.group with
            routeLoad := none, routeResult := if ok then 0 else 2, newMap := if ok then some m else s.group.newMap
            oldMap := if ok then s.group.newMap else s.group.oldMap })
      ∧ (∀ m n, s.group.oldMap = none → routeImage s e.toNat off.toNat = some m → s.group.newMap = some n → e ≠ n.epoch + 1 →
        exec .routeLoadComplete s = .next { s with group := { s.group with routeLoad := none, routeResult := 2 } }))
    ∧ (let t := fld d 52 12
      let g := fld d 50 2
      let w := fld d 48 2
      let c := smGet CodeTable.empty s.group.codes t
      let lens := tableLens (memBytes s.mem (winAddr s (fld d 0 36)) 128)
      avail s (mgmtBase + 0x60180) = .served → t ≠ 0xfff → (c.gens[g]?).map (·.st) = some 0 → w ≠ 3 →
      (c.gens.zipIdx.any (fun x => x.2 != g && x.1.st != 0) = true → w = c.width) → fld d 0 36 + 128 ≤ winBytes s →
      memAnyPz s.mem (winAddr s (fld d 0 36)) 128 = false → tableOk lens (widthBits w) = true →
      ∃ s', exec (.codeLoad d) s = .next s' ∧ s'.mem = s.mem ∧ fld s'.group.codeStat 46 2 = 0
        ∧ smGet CodeTable.empty s'.group.codes t = { c with width := w, gens := c.gens.set g { st := 1, turn := 0, lens := lens } }
        ∧ ∀ k, k ≠ t → smGet CodeTable.empty s'.group.codes k = smGet CodeTable.empty s.group.codes k)
    ∧ (avail s (mgmtBase + 0x60180) = .served →
      (fld d 52 12 = 0xfff → exec (.codeLoad d) s = .next (codeResult s d 0 2))
      ∧ (fld d 52 12 ≠ 0xfff → ((smGet CodeTable.empty s.group.codes (fld d 52 12)).gens[fld d 50 2]?).map (·.st) ≠ some 0 →
        exec (.codeLoad d) s = .next (codeResult s d 0 1)))
    ∧ (avail s (mgmtBase + 0x60188) = .served →
      (fld d 52 12 = 0xfff ∨ ((smGet CodeTable.empty s.group.codes (fld d 52 12)).gens[fld d 50 2]?).map (·.st) ≠ some 1
        ∨ later (BitVec.ofNat 32 (fld d 0 32)) s.turns.cur = false) →
      exec (.codeAct d) s = .next (codeResult s d 1 2))
    ∧ (let t := fld d 52 12
      let g := fld d 50 2
      avail s (mgmtBase + 0x60188) = .served → t ≠ 0xfff → ((smGet CodeTable.empty s.group.codes t).gens[g]?).map (·.st) = some 1 →
      later (BitVec.ofNat 32 (fld d 0 32)) s.turns.cur = true →
      ∃ s', exec (.codeAct d) s = .next s' ∧ s'.mem = s.mem ∧ (t, g, BitVec.ofNat 32 (fld d 0 32)) ∈ s'.group.acts
        ∧ s'.group.codes = s.group.codes ∧ fld s'.group.codeStat 46 2 = 0)

/-- R394 to R396: gate commands. OPEN_CLOCK opens the clock of a powered domain at once; CLOSE_CLOCK and POWER_OFF of a running domain and POWER_ON
of one that is off wait for the handshake or the rail, RESULT PENDING; all are REFUSED in READY. The handshake's end closes the clock, notes its
cycles and, for a POWER_OFF, takes the power; cycle 4,096 and a rail that does not come end in TIMEOUT, the clock as it was; a good rail powers the
domain on, its clock closed. That a command whose domain is already so answers OK at once is the model's reading (log 74). -/
def Obligations.GateCommands : Prop :=
  (∀ (s : State) (d : BitVec 6), d.toNat < 36 →
    let cmd (op : Nat) (res : BitVec 2) (w : GateWait) : Power :=
      { s.power with gateDomain := d, gateOp := BitVec.ofNat 2 op, gateResult := res, gateWait := w }
    let on := s.power.on.getLsbD d.toNat
    let clk := s.power.clk.getLsbD d.toNat
    (gateFree s = true →
      (on = true → clk = true → exec (.closeClock d) s = .next { s with power := cmd 0 3 (.close false) })
      ∧ exec (.openClock d) s =
        .next { s with power := { cmd 1 0 .idle with clk := if on then s.power.clk ||| domBit d.toNat else s.power.clk } }
      ∧ (on = true → clk = true → exec (.powerOff d) s = .next { s with power := cmd 2 3 (.close true) })
      ∧ (on = false → exec (.powerOn d) s = .next { s with power := cmd 3 3 .rail })
      ∧ (on = true → exec (.powerOn d) s = .next { s with power := cmd 3 0 .idle })
      ∧ ((on = false ∨ clk = false) →
        exec (.closeClock d) s = .next { s with power := { cmd 0 0 .idle with clk := s.power.clk &&& ~~~(domBit d.toNat) } }
        ∧ ∃ s', exec (.powerOff d) s = .next s' ∧ s'.power.on = s.power.on &&& ~~~(domBit d.toNat)
          ∧ s'.power.clk = s.power.clk &&& ~~~(domBit d.toNat) ∧ s'.power.gateResult = 0 ∧ s'.power.gateWait = .idle))
    ∧ (s.su.phase = .ready → avail s (mgmtBase + 0x70060) = .served → s.errs.block = false → s.su.off = false → s.power.gateWait = .idle →
      exec (.closeClock d) s = .next { s with power := cmd 0 2 .idle } ∧ exec (.openClock d) s = .next { s with power := cmd 1 2 .idle }
        ∧ exec (.powerOff d) s = .next { s with power := cmd 2 2 .idle } ∧ exec (.powerOn d) s = .next { s with power := cmd 3 2 .idle }))
  ∧ (∀ (s : State) (c : BitVec 13),
    let d := s.power.gateDomain.toNat
    (s.power.gateWait = .close false → domainRuns s d = true → c.toNat ≤ 4096 →
      exec (.gateHandshakeDone c) s = .next
        { s with power := { s.power with gateCycles := c, clk := s.power.clk &&& ~~~(domBit d), gateResult := 0, gateWait := .idle } })
    ∧ (s.power.gateWait = .close true → domainRuns s d = true → c.toNat ≤ 4096 →
      ∃ s', exec (.gateHandshakeDone c) s = .next s' ∧ s'.power.gateCycles = c ∧ s'.power.on = s.power.on &&& ~~~(domBit d)
        ∧ s'.power.clk = s.power.clk &&& ~~~(domBit d) ∧ s'.power.gateResult = 0 ∧ s'.power.gateWait = .idle)
    ∧ (∀ b, s.power.gateWait = .close b → domainRuns s d = true →
      exec .gateTimeout s = .next { s with power := { s.power with gateCycles := 4096, gateResult := 1, gateWait := .idle } })
    ∧ (s.power.gateWait = .rail → ctRuns s = true →
      exec .railTimeout s = .next { s with power := { s.power with gateResult := 1, gateWait := .idle } }
      ∧ ∃ s', exec .railGood s = .next s'
        ∧ s'.power = { s.power with on := s.power.on ||| domBit d, clk := s.power.clk &&& ~~~(domBit d), gateResult := 0, gateWait := .idle }
          ∧ s'.tiles = s.tiles ∧ s'.mem = s.mem))

/-- R441 to R443, R446: firmware, seal and shutdown. In FW_WAIT a FW_LOAD copies the image and starts its checks, which end in SEAL_WAIT with the
firmware running, or back in FW_WAIT with the check that failed; in SEAL_WAIT a seal that passes its checks makes the block READY, and one
that does not keeps its CODE; in READY a shutdown begins, and ends in SHUT once no kernel runs. -/
def Obligations.FirmwareSealShutdown : Prop :=
  ∀ (s : State),
    (∀ d, s.su.phase = .fwWait → avail s (mgmtBase + 0x90010) = .served →
      exec (.fwLoad d) s = .next { countPoison s (winAddr s (fld d 0 36)) (64 * fld d 40 24) with su := { s.su with
        phase := .fwAuth, fwResult := 3, fwLen := BitVec.ofNat 24 (fld d 40 24), stewMem := mappedRead s (winAddr s (fld d 0 36)) (64 * fld d 40 24) } })
    ∧ (s.su.phase = .fwAuth → ctRuns s = true → fwCheck s = 0 →
      ∃ v, exec .fwAuthComplete s = .next { s with su := { s.su with phase := .sealWait, fwResult := 0, fwCause := 0, running := true, fwVer := v } })
    ∧ (s.su.phase = .fwAuth → ctRuns s = true → fwCheck s ≠ 0 →
      exec .fwAuthComplete s = .next { s with su := { s.su with
        phase := .fwWait, fwResult := 1, fwCause := BitVec.ofNat 3 (fwCheck s), fwTries := inc16 s.su.fwTries } })
    ∧ (s.su.phase = .sealWait → avail s (mgmtBase + 0x90008) = .served →
      (∀ c, sealFail s = some c → exec .seal s = .next { countDir s with su := { s.su with code := BitVec.ofNat 8 c } })
      ∧ (sealFail s = none →
        ∃ s', exec .seal s = .next s' ∧ s'.su.phase = .ready ∧ s'.su.sealed = true ∧ s'.su.counting = false
          ∧ s'.win = { s.win with copy := readDir s } ∧ s'.mem = s.mem))
    ∧ (s.su.phase = .ready → avail s (mgmtBase + 0x90008) = .served → s.errs.block = false →
      exec .shutdown s = .next { s with su := { s.su with
        closing := true, quiet := s.su.quiet || (s.halfA.jobs.isEmpty && s.halfB.jobs.isEmpty) } })
    ∧ (s.su.phase = .ready → s.su.closing = true → ctRuns s = true → s.halfA.jobs = [] → s.halfB.jobs = [] →
      ∃ s', exec .shutdownComplete s = .next s' ∧ s'.su.phase = .shut ∧ s'.mem = s.mem
        ∧ s'.power = { s.power with clk := s'.power.clk } ∧ ∀ d, d < 36 →
          s'.power.clk.getLsbD d = (s.power.clk.getLsbD d && !decide (12 ≤ d % 18 ∧ d % 18 < 16)))

/-- R350, R351, R451, R453 to R455: steward commands. A LOAD_PROGRAM whose image lies outside the window is BAD; an UNLOAD_PROGRAM is PENDING, and
no ADMIT reaches the tenant's images from then on; an accepted plan waits for its START; a decided command's end gives its RESULT and
DETAIL, and an image whose load ended OK then takes ADMITs. The model's choices: where in the staging store an image goes (log 11), its number (log
54), and that an accepted plan replaces one that waits (log 57). -/
def Obligations.StewardCommands : Prop :=
  ∀ (s : State), windowOpen s = true →
    (∀ t m, s.su.stw = .load 1 t → stwInWindow s = false →
      exec (.loadProgram t m) s = .next { s with su := { s.su with stw := .result 3 0 none } })
    ∧ (∀ (t : BitVec 16) (m : ImageMap) (a : Nat), s.su.stw = .load 1 t → stwInWindow s = true →
      ((imagesOf s t).filter fun p => !p.2.retiring).length < 2 → poisonedAt (stwImage s) = none →
      imageFail s (stwImage s) t.toNat s.su.stwLen.toNat m = none → stagePlace s (stwImage s).len = some a → icount (stwImage s) 1 = 0 →
      ∃ s' i, exec (.loadProgram t m) s = .next s' ∧ imageOf s' (nextImage s) = some i ∧ i.tenant = t ∧ i.base = a ∧ i.admits = false
        ∧ i.serves = false ∧ s'.su.stw = .result 0 0 (some (nextImage s)) ∧ ∀ k, k ≠ nextImage s → imageOf s' k = imageOf s k)
    ∧ (∀ t, s.su.stw = .idle → avail s (mgmtBase + 0x90048) = .served →
      ∃ s', exec (.unloadProgram t) s = .next s' ∧ s'.su.stwResult = 1 ∧ s'.su.stwOp = 2 ∧ s'.su.stwTenant = t ∧ s'.su.stw ≠ .idle
        ∧ ∀ k i, imageOf s' k = some i → i.tenant = t → i.admits = false)
    ∧ (∀ p t, s.su.stw = .load 3 t →
      (∀ r, planFail s p = some r → exec (.loadPlan p) s = .next { s with su := { s.su with stw := .result r 0 none } })
      ∧ (planFail s p = none →
        exec (.loadPlan p) s = .next { s with group := { s.group with next := some p }, su := { s.su with stw := .result 0 0 none } }))
    ∧ (∀ r d, s.su.stw = .result r d none →
      exec .stewardCommandDone s = .next { s with su := { s.su with stwResult := BitVec.ofNat 4 r, stwDetail := d, stw := .idle } })
    ∧ (∀ r d n i, s.su.stw = .result r d (some n) → imageOf s n = some i →
      exec .stewardCommandDone s = .next
        (setImage { s with su := { s.su with stwResult := BitVec.ofNat 4 r, stwDetail := d, stw := .idle } } n (some { i with admits := true })))

/-- R353 to R358, R365: exchange items that arrive in an IN slot. A good DATA item without a code and a good SCALE item whose pair needs no wait are
logged once; an ACK drops the packet that its SEND's
half kept for it; a NAK sends it again with REPLAY one higher; what is no good item is counted. A coded DATA item whose blocks
pass waits for its SCALE item, one with a bad block is NAKed. OUT
slots that return take what waits: its header and its body stand in the slot, handed over, and so does the item that a NAK sends again. A remote
RECV that has waited TIMEOUT, the first of its engine, commits a packet of its length that reads as zero with poison, and the member it waited for
is absent (R126, R358). -/
def Obligations.ExchangeItemsHandled : Prop :=
  (∀ (s : State) (h : Half) (k : BitVec 14),
    let off := xchSlot s (inRing h) k.toNat
    let i := readItem s off
    let from_ := tileHalf i.stile.toNat
    let entry (sc : Bool) (ws : List QWord) : LogItem :=
      { src := i.src, stile := i.stile, dtile := i.dtile, chan := i.chan, scale := sc, turn := i.turn, xid := i.xid, pz := false, words := ws, ce := 0 }
    windowOpen s = true → k.toNat < 2 ^ s.group.areaLog2.toNat → ownedByBlock s off = true →
    let s1 := setOwner (countPoison s (winAddr s off) (64 + i.body.length)) off 1
    let placed (s2 s' : State) (k : Nat) (x : Item) : Prop :=
      let o := xchSlot s (outRing h) k
      alive s (winAddr s o) (64 + x.body.length) →
        ItemStands s' o x ∧ ∀ y, bytesApart y 1 (winAddr s o) (64 + x.body.length) → memByte s'.mem y = memByte s2.mem y
    (itemOk s off = true →
      (i.kind = 1 → exec (.xchDataItem h k) s = .next (takeData s1 h i)) ∧ (i.kind = 2 → exec (.xchScaleItem h k) s = .next (takeScale s1 h i))
      ∧ (i.kind = 3 → exec (.xchAckItem h k) s = .next (takeAck s1 h i)) ∧ (i.kind = 4 → exec (.xchNakItem h k) s = .next (takeNak s1 h i)))
    ∧ (itemOk s off = true → turnStale s h i.turn = false → isAbsent s i.src = false → i.kind = 1 → i.coded = true → i.scale = false →
      logged s h i false = false →
      ((dataBlocks s i).2.1 = none → pairOf s h i = none → logged s h i true = false →
        exec (.xchDataItem h k) s = .next
          (modHalf s1 h fun x => { x with
            pairs := x.pairs ++ [{ item := i, words := (dataBlocks s i).2.2, seqs := (dataBlocks s i).1.map (·.seq) }] }))
      ∧ (∀ r, (dataBlocks s i).2.1 = some r → nakCount s h i < 2 →
        ∃ s', exec (.xchDataItem h k) s = .next s' ∧ (half s' h).log = (half s h).log ∧ nakCount s' h i = nakCount s h i + 1
          ∧ s'.slots = s.slots ∧ s'.tiles = s.tiles))
    ∧ (itemOk s off = true → turnStale s h i.turn = false → isAbsent s i.src = false → i.body.length = i.size → i.size = 256 * i.words →
      (i.kind = 1 → i.coded = false → logged s h i false = false → (half s h).pairs = [] →
        ∃ s', exec (.xchDataItem h k) s = .next s' ∧ (half s' h).log = (half s h).log ++ [entry i.scale (bytesPacket i.words i.body)]
          ∧ s'.slots = s.slots ∧ s'.tiles = s.tiles)
      ∧ (i.kind = 2 → logged s h i true = false → logged s h i false = true →
        ∃ s', exec (.xchScaleItem h k) s = .next s' ∧ (half s' h).log = (half s h).log ++ [entry i.scale (bytesPacket i.words i.body)]
          ∧ s'.slots = s.slots ∧ s'.tiles = s.tiles))
    ∧ (itemOk s off = true → i.kind = 3 → isAbsent s i.src = false → (half s from_).kept.filter (fun d => !keptFor d i) = [] →
      (∃ d ∈ (half s from_).kept, keptFor d i = true) →
      ∃ s', exec (.xchAckItem h k) s = .next s' ∧ (half s' from_).kept = [] ∧ s'.slots = s.slots)
    ∧ (∀ d, itemOk s off = true → i.kind = 4 → isAbsent s i.src = false → (half s from_).kept = [d] → keptFor d i = true →
      ∃ s' d', exec (.xchNakItem h k) s = .next s' ∧ (half s' from_).kept = [d'] ∧ d'.replay = d.replay + 1 ∧ d'.words = d.words ∧ d'.xid = d.xid
        ∧ s'.group.replays = inc16 s.group.replays ∧ s'.slots = s.slots ∧ s'.tiles = s.tiles
        ∧ ∀ o, from_ = h → (half s h).outQueue = [] → freeOut s1 h = some o →
          placed s1 s' o (keptItem s { d with replay := d.replay + 1, ce := 0 }).1)
    ∧ (itemOk s off = false →
      ∃ s', exec (.baditem h k) s = .next s' ∧ s'.group = { s.group with baditem := inc16 s.group.baditem } ∧ s'.slots = s.slots
        ∧ s'.tiles = s.tiles)
    ∧ ((half s h).outQueue = [] → exec (.outSlotReturned h) s = .next s)
    ∧ (∀ x xs o, (half s h).outQueue = x :: xs → freeOut s h = some o →
      ∃ s' n, exec (.outSlotReturned h) s = .next s' ∧ (half s' h).outQueue = xs.drop n ∧ s'.slots = s.slots ∧ s'.tiles = s.tiles)
    ∧ (∀ x o, (half s h).outQueue = [x] → freeOut s h = some o →
      ∃ s', exec (.outSlotReturned h) s = .next s' ∧ (half s' h).outQueue = [] ∧ (half s' h).outWait = false
        ∧ (half s' h).outNext = (o + 1) % 2 ^ s.group.areaLog2.toNat ∧ s'.slots = s.slots ∧ s'.tiles = s.tiles ∧ placed s s' o x))
  ∧ (∀ (s : State) (t : BitVec 10) (k : Nat) (f : InFlight) (c : Chan) (coded : Bool) (width n xid m : Nat) (turn : W32), tileNamed t.toNat = true →
    tileRuns s t.toNat = true → (eng (tileOf s t.toNat) .xf).flight[k]? = some f → recvFirst (eng (tileOf s t.toNat) .xf) k = true →
    f.done = false → f.sig = 0 →
    f.pend = .recv c coded width n xid turn → c.isLocal = false → recvPacket s t.toNat c n xid turn = none → memberOf s c.block = some m →
    m < 512 → (qPutPacket qXfLd (tileQ (tileOf s t.toNat) qXfLd) 0 (poisonPacket n)).2 = 0 →
    ∃ s', exec (.exchangeTimeout t k) s = .next s' ∧ s'.group.absent.getLsbD m = true ∧ s'.group.timeouts = inc16 s.group.timeouts
      ∧ tileQ (tileOf s' t.toNat) qXfLd = (qPutPacket qXfLd (tileQ (tileOf s t.toNat) qXfLd) 0 (poisonPacket n)).1
      ∧ ((eng (tileOf s t.toNat) .xf).flight = [f] → (eng (tileOf s' t.toNat) .xf).flight = []))

/-- R4, R390, R435, R445, R447: a fall of RESET_N outside POWER brings the block to RESET with its contents lost and the stacks kept; a rise goes on to
FUSE, whose load begins; a fall of PWR_OK, and an input voltage out of range, stop the block; a rise of PWR_OK begins POWER. The model's readings:
what a reset clears and keeps (log 82), zeros outside the stacks (log 1), and PWR_OK not good after an input voltage out of range (log 83). -/
def Obligations.ResetAndPowerPins : Prop :=
  ∀ (s : State),
    let lost (s' : State) : Prop :=
      s'.tiles = [] ∧ s'.slots = [] ∧ s'.images = [] ∧ s'.turns = State.reset.turns ∧ s'.group = State.reset.group ∧ s'.errs = State.reset.errs
        ∧ s'.win = State.reset.win ∧ s'.halfA = State.reset.halfA ∧ s'.halfB = State.reset.halfB ∧ s'.su.sealed = false
        ∧ (∀ a, a < stackEnd → memDead s.mem a = false → memByte s'.mem a = memByte s.mem a) ∧ (∀ a, stackEnd ≤ a → memByte s'.mem a = 0)
    (s.su.off = false → s.pins.resetN = true → s.su.phase ≠ .power →
      ∃ s', exec .resetNFall s = .next s' ∧ lost s' ∧ s'.su.phase = .reset ∧ s'.pins.resetN = false)
    ∧ (s.su.off = false → s.su.phase = .reset →
      exec .resetNRise s = .next
        { s with pins := { s.pins with resetN := true }, su := { s.su with phase := .fuse }, fuse := { s.fuse with valid := false } })
    ∧ ((s.su.off = true ∨ s.su.phase ≠ .reset) → exec .resetNRise s = .next { s with pins := { s.pins with resetN := true } })
    ∧ ((s.su.off = true ∨ s.su.phase = .power) → exec .resetNFall s = .next { s with pins := { s.pins with resetN := false } })
    ∧ (s.pins.pwrOk = true → ∃ s', exec .pwrOkFall s = .next s' ∧ lost s' ∧ s'.su.off = true ∧ s'.pins.pwrOk = false ∧ s'.power.on = 0)
    ∧ (s.su.off = false → ∃ s', exec .vinOutOfRange s = .next s' ∧ lost s' ∧ s'.su.off = true ∧ s'.pins.pwrOk = false ∧ s'.power.on = 0)
    ∧ (s.pins.pwrOk = false →
      ∃ s', exec .pwrOkRise s = .next s' ∧ lost s' ∧ s'.su.phase = .power ∧ s'.su.off = false ∧ s'.pins.pwrOk = true ∧ s'.su.since = s.now)

/-- R400 to R402: the halt request and the input filters. HALT_REQ holds dispatch from its assertion to its release, or until it is stuck,
when the doorbells kept are handled; a stuck
input re-arms once it is released; a rejected pulse is counted at its pin. -/
def Obligations.HaltAndFilters : Prop :=
  ∀ (s : State), woscRuns s = true →
    exec .haltReqAssert s = .next { s with pins := { s.pins with haltReq := true } }
    ∧ (s.pins.haltReq = true → s.pins.bells = [] →
      exec .haltReqRelease s = .next { s with pins := { s.pins with haltReq := false } }
      ∧ (s.pins.stuck = false →
        ∃ s', exec .haltStuck s = .next s' ∧ s'.pins = { s.pins with stuck := true } ∧ halted s' = false ∧ s'.slots = s.slots ∧ s'.tiles = s.tiles))
    ∧ (s.pins.haltReq = true → ctRuns s = true →
      exec .haltReqRelease s = .next (ringBells { s with pins := { s.pins with haltReq := false } })
      ∧ (s.pins.stuck = false →
        exec .haltStuck s = .next (ringBells (sendBlockEvent { s with pins := { s.pins with stuck := true } } 0x0607 0))))
    ∧ (s.pins.haltReq = false → s.pins.stuck = true →
      ∃ s', exec .haltRearmed s = .next s' ∧ s'.pins = { s.pins with stuck := false } ∧ s'.slots = s.slots ∧ s'.tiles = s.tiles)
    ∧ exec (.filteredPulse .resetN) s = .next { s with pins := { s.pins with glitchRst := inc16 s.pins.glitchRst } }
    ∧ exec (.filteredPulse .pwrOk) s = .next { s with pins := { s.pins with glitchPwr := inc16 s.pins.glitchPwr } }
    ∧ exec (.filteredPulse .haltReq) s = .next { s with pins := { s.pins with glitchHalt := inc16 s.pins.glitchHalt } }

/-- R435 to R440: the start-up sequencer. POWER ends with the CT rails good, CLOCK with an RCLK eligible, DOMAINS with every domain on and
clocked and its memory ports in training. FUSE ends with the fuses loaded, LINKS with port 0 and every memory port trained, SELFTEST with the
request table and the images empty; a phase that fails its time stops with its CODE, and FW_AUTH goes back to FW_WAIT. The clocks that CLOCK starts
lock within 40 us (R387). That the time of FW_AUTH counts in TRIES and leaves CAUSE is the model's reading (log 69). -/
def Obligations.StartupPhases : Prop :=
  ∀ (s : State), s.su.off = false →
    (s.su.phase = .power →
      exec .startupPhaseEnd s = .next
        (if s.pins.resetN then
          { s with power := { s.power with on := ctBits }, su := { s.su with phase := .fuse }, fuse := { s.fuse with valid := false } }
         else { s with power := { s.power with on := ctBits }, su := { s.su with phase := .reset } }))
    ∧ (s.su.phase = .reset → s.pins.resetN = true →
      exec .startupPhaseEnd s = .next { s with su := { s.su with phase := .fuse }, fuse := { s.fuse with valid := false } })
    ∧ (s.su.phase = .clock → anyRclk s = true →
      ∃ s', exec .startupPhaseEnd s = .next s' ∧ s'.su.phase = .domains ∧ s'.clocks.src = 0 ∧ s'.power.clk = ctBits ∧ s'.power.on = s.power.on
        ∧ s'.clocks.relock = some (s.now + 40) ∧ s'.clocks.relockAll = true)
    ∧ (s.su.phase = .domains → ctRuns s = true →
      ∃ s', exec .startupPhaseEnd s = .next s' ∧ s'.su.phase = .links ∧ s'.power.on = 0xfffffffff ∧ s'.power.clk = 0xfffffffff
        ∧ ∀ p, p < 32 → (mpOf s p).st = .off → (mpOf s p).pg = true → (mpOf s' p).st = .training)
    ∧ (s.su.phase = .fuse → fuseOk s.fuse = true →
      exec .startupPhaseEnd s = .next { s with su := { s.su with phase := .clock }, fuse := { s.fuse with valid := true } })
    ∧ (s.su.phase = .links → (hpOf s 0).trained = true → (∀ p, p < 32 → (mpOf s p).st = .up) →
      exec .startupPhaseEnd s = .next { s with su := { s.su with phase := .selftest } })
    ∧ (s.su.phase = .selftest →
      ∃ s', exec .startupPhaseEnd s = .next s' ∧ s'.su.phase = .fwWait ∧ s'.slots = [] ∧ s'.images = [] ∧ s'.tiles = [] ∧ s'.fuse = s.fuse
        ∧ ∀ a, a < stackEnd → memByte s'.mem a = memByte s.mem a)
    ∧ (∀ (p : Phase) (c : BitVec 8), s.su.phase = p →
      ((p = .power ∧ c = 1) ∨ (p = .fuse ∧ c = 2) ∨ (p = .domains ∧ c = 3) ∨ (p = .links ∧ c = 4 ∧ (hpOf s 0).trained = false)
        ∨ (p = .links ∧ c = 5 ∧ ∃ m, m < 32 ∧ (mpOf s m).st = .failed) ∨ (p = .links ∧ c = 6 ∧ ∃ m, m < 32 ∧ (mpOf s m).st = .off)
        ∨ (p = .selftest ∧ c = 7)) →
      ∃ s', exec (.startupTimeout c) s = .next s' ∧ s'.su.phase = .stopped ∧ s'.su.code = c ∧ s'.su.counting = false ∧ s'.mem = s.mem
        ∧ s'.tiles = s.tiles)
    ∧ (∀ c, s.su.phase = .fwAuth →
      exec (.startupTimeout c) s = .next { s with su := { s.su with phase := .fwWait, fwResult := 1, fwTries := inc16 s.su.fwTries } })

/-- R378, R379, R383 to R386: the locks of a timebase input. Acquiring the block lock changes nothing else; an input that loses a lock is neither
valid nor eligible, GOODWIN 0, its losses counted where it was valid, and an input not in use takes nothing else with it while its block runs
on the other one; the loss of the input in use brings a relock to the other one, else to LOSC with NMI cause 0, else CLOCK-HOLD with NMI
cause 1; a start-of-frame fault is counted. -/
def Obligations.TimebaseLocks : Prop :=
  ∀ (s : State) (i : TbIn), monitorRuns s = true →
    let x := tbOf s i
    let cold (x : Tb) (l : Bool) : Tb :=
      { x with blockLock := l, frameLock := false, goodwin := 0, elig := false, losses := if tbValid x then inc16 x.losses else x.losses }
    (tbRuns s i = true → exec (.blockLockAcquired i) s = .next (setTb s i { x with blockLock := true }))
    ∧ (s.clocks.src = 0 → s.clocks.inUse ≠ i → (tbOf s s.clocks.inUse).elig = true →
      (x.blockLock = true → exec (.blockLockLost i) s = .next (setTb s i (cold x false)))
      ∧ (x.frameLock = true → exec (.frameLockLost i) s = .next (setTb s i (cold x x.blockLock)))
      ∧ (tbRuns s i = true → x.blockLock = true → s.clocks.loscWatch = true → x.goodwin ≠ 16 →
        exec (.frameLockAcquired i) s = .next (setTb s i { x with frameLock := true })))
    ∧ (s.clocks.src = 0 → s.clocks.inUse = i → x.blockLock = true →
      ((tbOf s (tbOther i)).elig = true →
        ∃ s', exec (.blockLockLost i) s = .next s' ∧ s'.clocks.src = 0 ∧ s'.clocks.inUse = tbOther i ∧ s'.clocks.relock = some (s.now + 40)
          ∧ s'.clocks.relockAll = true ∧ s'.clocks.relocks = inc16 s.clocks.relocks)
      ∧ ((tbOf s (tbOther i)).elig = false → s.clocks.losc = true →
        ∃ s', exec (.blockLockLost i) s = .next s' ∧ s'.clocks.src = 1 ∧ s'.clocks.inUse = i ∧ s'.clocks.relock = some (s.now + 40)
          ∧ s'.clocks.fallbacks = inc16 s.clocks.fallbacks ∧ s'.errs.nmi.getLsbD 0 = true)
      ∧ ((tbOf s (tbOther i)).elig = false → s.clocks.losc = false →
        ∃ s', exec (.blockLockLost i) s = .next s' ∧ s'.clocks.src = 2 ∧ s'.clocks.relock = none ∧ s'.clocks.holds = inc16 s.clocks.holds
          ∧ s'.errs.nmi.getLsbD 1 = true))
    ∧ (∀ pos p, tbRuns s i = true → tbValid x = true → pos ≠ sofGood p →
      exec (.startOfFrameFault i pos p) s = .next (setTb s i { x with badsof := inc16 x.badsof }))
    ∧ (∀ pos p, tbValid x = true → pos = sofGood p → exec (.startOfFrameFault i pos p) s = .next s)

/-- R382, R383, R385, R387: the clock monitor's measurements. A good window raises GOODWIN, up to 16, and a bad one takes it and
the RCLK's eligibility; a watch check of an RCLK out of tolerance
takes its eligibility; a trim interval moves AUTO by at most 8, within 1000; a relock that ends restarts the clocks; RETURN_NOW is kept
while REF is LOSC. -/
def Obligations.ClockMonitor : Prop :=
  ∀ (s : State), monitorRuns s = true →
    (∀ c0 c1, tbValid s.tb0 = true → tbValid s.tb1 = true → 25003 ≤ c0 → c0 ≤ 25013 → 25003 ≤ c1 → c1 ≤ 25013 → s.clocks.src = 0 →
      s.tb0.elig = true → s.tb1.elig = true → s.clocks.losc = true →
      exec (.windowCheck c0 c1) s = .next
        { s with tb0 := { s.tb0 with goodwin := min 16 (s.tb0.goodwin + 1) }, tb1 := { s.tb1 with goodwin := min 16 (s.tb1.goodwin + 1) } })
    ∧ (∀ c0 c1, tbValid s.tb0 = true → tbValid s.tb1 = true → 25003 ≤ c0 → c0 ≤ 25013 → (c1 < 25003 ∨ 25013 < c1) → s.clocks.src = 0 →
      s.clocks.inUse = .tb0 → s.tb0.elig = true → s.clocks.losc = true → s.clocks.loscWatch = true →
      exec (.windowCheck c0 c1) s = .next
        { s with tb0 := { s.tb0 with goodwin := min 16 (s.tb0.goodwin + 1) }, tb1 := { s.tb1 with goodwin := 0, elig := false } })
    ∧ (∀ c r0 r1, (r1 < 368640 ∨ 450560 < r1) → 368640 ≤ r0 → r0 ≤ 450560 → 368640 ≤ c → c ≤ 450560 → s.clocks.src = 0 →
      s.clocks.inUse = .tb0 → s.tb0.elig = true → s.clocks.losc = true →
      ∃ s', exec (.watchCheck c r0 r1) s = .next s' ∧ s'.tb1 = { s.tb1 with elig := false, watchRun := 0 } ∧ s'.tb0.elig = true
        ∧ s'.clocks.loscWatch = true ∧ s'.clocks.loscFails = 0 ∧ s'.clocks.src = 0)
    ∧ (∀ e, (tbOf s s.clocks.inUse).elig = true → -1000 ≤ s.clocks.auto.toInt → s.clocks.auto.toInt ≤ 1000 →
      ∃ s', exec (.trimUpdate e) s = .next s' ∧ s'.clocks.auto.toInt ≤ s.clocks.auto.toInt + 8
        ∧ s.clocks.auto.toInt - 8 ≤ s'.clocks.auto.toInt ∧ -1000 ≤ s'.clocks.auto.toInt ∧ s'.clocks.auto.toInt ≤ 1000
        ∧ s'.slots = s.slots ∧ s'.tiles = s.tiles)
    ∧ (∀ t, s.clocks.relock = some t → refRuns s = true → NothingWaits s → s.power.gateWait = .idle → s.modes.boxing = false → s.modes.recovering = false →
      ∃ s', exec .relockEnd s = .next s' ∧ s'.clocks.relock = none ∧ s'.clocks.relockAll = false ∧ s'.slots = s.slots ∧ s'.tiles = s.tiles
        ∧ s'.mem = s.mem)
    ∧ (s.clocks.src = 1 → avail s (mgmtBase + 0x70008) = .served → s.errs.block = false →
      exec .clkReturnNow s = .next { s with clocks := { s.clocks with returnReq := true } })
    ∧ (s.clocks.src ≠ 1 → avail s (mgmtBase + 0x70008) = .served → exec .clkReturnNow s = .next s)

/-- R342, R345, R346, R393: memory ports and domains. A stack address names its port and its device address, which name it again. An OFF port of a
powered domain trains once STK_PG is high; a training port that is through is UP, and one that is too slow is FAILED with its cause, its reads
returning poison; an UP port that loses training or its power retrains or fails; a domain whose regulator faults is off at once. -/
def Obligations.MemoryPortsAndDomains : Prop :=
  (∀ (s : State) (p : BitVec 5) (r : Byte),
    let x := mpOf s p.toNat
    let put (y : MemPort) : SMap MemPort := smSet MemPort.off s.ports p.toNat y
    let revived : Mem := { s.mem with failed := s.mem.failed &&& ~~~(BitVec.ofNat 32 (2 ^ p.toNat)) }
    (woscRuns s = true → x.st = .off → s.power.on.getLsbD (mpDomain p.toNat) = true →
      ∃ s', exec (.stkPgRise p) s = .next s' ∧ mpOf s' p.toNat = { x with pg := true, st := .training } ∧ s' = { s with ports := s'.ports }
        ∧ ∀ q, q ≠ p.toNat → mpOf s' q = mpOf s q)
    ∧ (x.st = .training → refRuns s = true → s.power.on.getLsbD (mpDomain p.toNat) = true →
      (x.retrain = false →
        ∃ s', exec (.mpTrained p r) s = .next s' ∧ s'.ports = put { x with st := .up, retrain := false, repaired := r } ∧ s'.mem = revived
          ∧ s'.slots = s.slots)
      ∧ (x.retrain = true → NothingWaits s →
        ∃ s', exec (.mpRetrained p r) s = .next s' ∧ s'.ports = put { x with st := .up, retrain := false, repaired := r } ∧ s'.mem = revived
          ∧ s'.slots = s.slots))
    ∧ (∀ c : BitVec 4, x.st = .training → x.retrain = false → refRuns s = true → 1 ≤ c.toNat → c.toNat ≤ 6 →
      exec (.mpTrainTimeout p c) s = .next
        { s with ports := put { x with st := .failed, retrain := false, cause := c }
                 mem := { s.mem with failed := s.mem.failed ||| BitVec.ofNat 32 (2 ^ p.toNat) } })
    ∧ (x.st = .training → x.retrain = true → refRuns s = true → NothingWaits s →
      ∃ s', exec (.mpRetrainTimeout p) s = .next s' ∧ mpOf s' p.toNat = { x with st := .failed, retrain := false, cause := 7 }
        ∧ s'.mem.failed = s.mem.failed ||| BitVec.ofNat 32 (2 ^ p.toNat))
    ∧ (x.st = .up →
      ∃ s', exec (.memPortRetrain p) s = .next s' ∧ s'.ports = put { x with st := .training, retrain := true, retrains := inc8 x.retrains }
        ∧ s'.slots = s.slots ∧ s'.tiles = s.tiles)
    ∧ (woscRuns s = true → x.pg = true → x.st = .up → s.clocks.held = [] →
      ∃ s', exec (.stkPgFall p) s = .next s' ∧ mpOf s' p.toNat = { x with pg := false, st := .failed, retrain := false, cause := 8 }))
  ∧ (∀ (s : State) (d : BitVec 6), d.toNat < 36 → s.power.on.getLsbD d.toNat = true → s.su.off = false →
    ∃ s', exec (.domainFault d) s = .next s' ∧ s'.power.on.getLsbD d.toNat = false ∧ s'.power.clk.getLsbD d.toNat = false
      ∧ s'.power.fault.getLsbD d.toNat = true ∧ ∀ e, e < 36 → e ≠ d.toNat → s'.power.on.getLsbD e = s.power.on.getLsbD e)
  ∧ (∀ a, a < stackEnd → portOf a < 32 ∧ devAddr a < 48 * 2 ^ 30 ∧ stackAddr (portOf a) (devAddr a) = a)
  ∧ ∀ p d, p < 32 → d < 48 * 2 ^ 30 → stackAddr p d < stackEnd ∧ portOf (stackAddr p d) = p ∧ devAddr (stackAddr p d) = d

/-- R306, R308, R309, R398: what ends Boxcars, and what allows it again. A spent thermal account sets RECOVERING; a sensor above 100 degrees C, its
thermal offset counted, sets HOT, all below 95 clear it; each that is in force leaves Boxcars; THERMAL at 20,000 ms ends RECOVERING. -/
def Obligations.BoxcarsLimits : Prop :=
  ∀ (s : State), refRuns s = true →
    (s.modes.boxing = true → clocksRun s = true →
      ∃ s', exec .boxcarsSpent s = .next s' ∧ s'.modes.boxing = false ∧ s'.modes.recovering = true ∧ s'.modes.thermal = 0)
    ∧ (s.modes.boxing = true → clocksRun s = true → s.modes.wearBase.toNat * 1000000 + s.modes.usedUs ≤ 7200000000000 →
      5 * (7200000000000 - (s.modes.wearBase.toNat * 1000000 + s.modes.usedUs)) < s.modes.thermal →
      ∃ s', exec .boxcarsWorn s = .next s' ∧ s'.modes.boxing = false ∧ wornOf s'.modes = true ∧ s'.modes.recovering = s.modes.recovering)
    ∧ (∀ (n : BitVec 5) (t : BitVec 16), n.toNat < 24 → 400 < (effTemp s n.toNat t).toInt → ctRuns s = true →
      ∃ s', exec (.boxcarsHot n t) s = .next s' ∧ s'.modes.hot = true ∧ s'.modes.boxing = false ∧ smGet 0 s'.power.temps n.toNat = t)
    ∧ (∀ l : List (BitVec 16), l.length = 24 → (∀ k t, l[k]? = some t → (effTemp s k t).toInt < 380) → ctRuns s = true →
      ∃ s', exec (.hotClear l) s = .next s' ∧ s'.modes = { s.modes with hot := false } ∧ s'.mem = s.mem ∧ s'.slots = s.slots)
    ∧ (s.modes.recovering = true → s.modes.boxing = false → clocksRun s = true → s.modes.thermal ≤ 100000000 →
      ∃ s', exec .thermalRecovered s = .next s' ∧ s'.modes = { s.modes with recovering := false, thermal := 100000000 })

/-- R411, R413, R415, R417, R419, R422, R423: the error manager. With no entry being handled the next queued one is: a TENANT entry with nothing of its tenant
left ends DONE, and no ADMIT reaches the tenant's images; a REQUEST entry without a job or a request ends DONE; one
names its requests, the first error of each counted, the second ending it as FAILED; a step that does not
advance stops the block. -/
def Obligations.ErrorsHandled : Prop :=
  ∀ (s : State) (e : ErrEntry), s.errs.block = false → ctRuns s = true →
    (s.errs.handling = none → nextEntry s = some e → (∀ g ∈ s.errs.log, g.lseq = e.lseq → g = e) →
      (∀ h, (half s h).run = none) →
      (e.cls = .request → e.job = none → e.reqs = [] → (∀ x ∈ s.slots, x.2.w.blocked = false) →
        (∀ h, (half s h).jobs = [] ∧ (half s h).replayJobs = [] ∧ (half s h).maskJobs = []) →
        ∃ s' c, exec .errorEntryHandle s = .next s' ∧ entryOf s' e.lseq = some { e with step := .done, chain := c } ∧ s'.errs.handling = none
          ∧ s'.slots = s.slots ∧ s'.tiles = s.tiles)
      ∧ (∀ n, e.cls = .request → e.job = none → e.src ≠ 0x07 → e.reqs = [(n, (slotOf s n).r.sgen)] → slotLive (slotOf s n).r.st = true →
        (∀ x ∈ s.slots, x.2.w.blocked = false) → (∀ h, (half s h).jobs = [] ∧ (half s h).replayJobs = [] ∧ (half s h).maskJobs = []) →
        ((slotOf s n).r.errs = 0 → (slotOf s n).w.ran = [] → s.group.plan = none → imageOf s (slotOf s n).w.image = none →
          ∃ s' c, exec .errorEntryHandle s = .next s' ∧ entryOf s' e.lseq = some { e with step := .done, count := inc16 e.count, chain := c }
            ∧ (slotOf s' n).r = { (slotOf s n).r with errs := (slotOf s n).r.errs + 1 } ∧ s'.errs.handling = none
            ∧ ∀ k, k ≠ n → slotOf s' k = slotOf s k)
        ∧ ((slotOf s n).r.errs ≠ 0 →
          ∃ s' g, exec .errorEntryHandle s = .next s' ∧ entryOf s' e.lseq = some g ∧ g.step = .done ∧ g.count = inc16 e.count
            ∧ g.failed = inc16 e.failed ∧ (slotOf s' n).r.st = .failed))
      ∧ (e.cls = .tenant → e.job = none → (∀ x ∈ s.slots, slotLive x.2.r.st = true → x.2.r.tenant ≠ e.tenant) →
        ∃ s' c, exec .errorEntryHandle s = .next s' ∧ entryOf s' e.lseq = some { e with step := .done, chain := c } ∧ s'.errs.handling = none
          ∧ s'.slots = s.slots ∧ s'.tiles = s.tiles ∧ ∀ k i, imageOf s' k = some i → i.tenant = e.tenant → i.admits = false))
    ∧ (∀ l, s.errs.handling = some l →
      ∃ s', exec .recoveryStepTimeout s = .next s' ∧ s'.errs.block = true ∧ s'.su.phase = .stopped ∧ s'.su.code = 0x20
        ∧ s'.errs.handling = none ∧ s'.errs.nmi.getLsbD 3 = true ∧ s'.mem = s.mem ∧ s'.slots = s.slots)

/-- What reset leaves: the register values that the tables of R279 (REQ_SLOT_SEL of half B), R312, R337, R375, R405, R434 and R456 give, no request,
image or command, and the memory empty in its canonical form. -/
def Obligations.ResetState : Prop :=
  let s := State.reset
  s.turns.margin = 0x20 ∧ s.turns.cur = 0 ∧ s.modes.box = 1 ∧ s.modes.base = 0 ∧ s.modes.recovering = true ∧ s.modes.thermal = 0
    ∧ s.modes.wearBase = 0x006ddd00 ∧ s.win.noticeUs = 2 ∧ s.win.hclkS = 2 ∧ s.win.hclkE = 1 ∧ s.win.hclkB = 4 ∧ s.group.timeout = 0x14
    ∧ s.group.areaLog2 = 4 ∧ s.errs.lastChain = 0xffffffff ∧ s.errs.log = [] ∧ s.su.phase = .reset ∧ s.su.sealed = false
    ∧ s.su.seated = false ∧ s.su.fwResult = 2 ∧ s.slots = [] ∧ s.images = [] ∧ s.pending = [] ∧ CanonicalMemory s
    ∧ (half s .B).selSlot = 0x8000
    ∧ s.clocks.src = 0 ∧ s.clocks.inUse = .tb0 ∧ s.clocks.losc = true ∧ s.clocks.relock = none ∧ s.clocks.fallbacks = 0 ∧ s.clocks.holds = 0
    ∧ s.clocks.relocks = 0 ∧ s.clocks.manual = false ∧ s.clocks.auto = 0 ∧ s.clocks.revert = false ∧ s.clocks.pref = false
    ∧ (∀ i, (tbOf s i).blockLock = true ∧ (tbOf s i).frameLock = true ∧ (tbOf s i).elig = true ∧ (tbOf s i).goodwin = 16 ∧ (tbOf s i).badsof = 0
      ∧ (tbOf s i).losses = 0)
    ∧ s.pins.glitchRst = 0 ∧ s.pins.glitchPwr = 0 ∧ s.pins.glitchHalt = 0 ∧ s.power.skew = 0 ∧ s.power.vin = 0 ∧ s.power.iin = 0 ∧ s.power.pin = 0
    ∧ s.power.peak = 0 ∧ s.power.on = 0xfffffffff ∧ s.power.clk = 0xfffffffff ∧ s.power.fault = 0 ∧ s.power.gateResult = 0
    ∧ s.power.gateDomain = 0 ∧ s.power.gateOp = 0 ∧ s.power.gateCycles = 0 ∧ s.power.temps = [] ∧ s.cal.osc = 0 ∧ s.cal.vf = [] ∧ s.cal.therm = []
    ∧ s.cal.deskew = []

/-- The memory stays in its one canonical form: every step of the block keeps it, from every state. -/
def Obligations.StepsKeepMemoryCanonical : Prop :=
  ∀ (s s' : State), CanonicalMemory s → step s = .next s' → CanonicalMemory s'

/-- R57: no step of the block changes a fuse; only whether the fuses are loaded changes. -/
def Obligations.StepsKeepFuses : Prop :=
  ∀ (s s' : State), step s = .next s' → SameFuses s s'

/-- A command leaves the queue of commands that wait behind it, no step turns time back, and a step with no command waiting lets time pass (the
model's choices, log 2). -/
def Obligations.QueueAndTime : Prop :=
  (∀ (i : Instr) (s s' : State), exec i s = .next s' → s'.pending = s.pending ∧ s.now ≤ s'.now)
  ∧ (∀ (s : State), s.pending = [] → ∃ s', step s = .next s' ∧ s'.pending = [] ∧ s.now < s'.now)
end

