-- ==== Sys2Proof/Laws/Maps.lean ====
section
/-! SUPPORT. Sparse maps (Machine/SMap.lean): reading after writing, and the canonical form that every write keeps. -/

namespace Sys2Proof.Machine

variable {α : Type}

theorem smGet_smInsert_same (d : α) (m : SMap α) (k : Nat) (v : α) : smGet d (smInsert m k v) k = v := by
  induction m with
  | nil => simp [smInsert, smGet]
  | cons p m ih =>
    obtain ⟨j, x⟩ := p
    unfold smInsert
    split
    · simp [smGet]
    · split
      · simp [smGet]
      · next h _ => simp [smGet, h, ih]

theorem smGet_smInsert_other (d : α) (m : SMap α) (k j : Nat) (v : α) (h : j ≠ k) : smGet d (smInsert m k v) j = smGet d m j := by
  induction m with
  | nil => simp [smInsert, smGet, h.symm]
  | cons p m ih =>
    obtain ⟨i, x⟩ := p
    unfold smInsert
    split
    · next e => subst e; simp [smGet, h.symm]
    · split
      · simp [smGet, h.symm]
      · simp [smGet, ih]

theorem smGet_smErase_same (d : α) (m : SMap α) (k : Nat) : smGet d (smErase m k) k = d := by
  induction m with
  | nil => rfl
  | cons p m ih =>
    obtain ⟨i, x⟩ := p
    unfold smErase
    split
    · exact ih
    · next h => simp [smGet, h, ih]

theorem smGet_smErase_other (d : α) (m : SMap α) (k j : Nat) (h : j ≠ k) : smGet d (smErase m k) j = smGet d m j := by
  induction m with
  | nil => rfl
  | cons p m ih =>
    obtain ⟨i, x⟩ := p
    unfold smErase
    split
    · next e => subst e; simp [smGet, h.symm, ih]
    · simp [smGet, ih]

/-- A map reads what was last written. -/
@[simp] theorem smGet_smSet_same [DecidableEq α] (d : α) (m : SMap α) (k : Nat) (v : α) : smGet d (smSet d m k v) k = v := by
  unfold smSet
  split
  · next h => rw [h, smGet_smErase_same]
  · exact smGet_smInsert_same d m k v

/-- A write leaves every other key alone. -/
theorem smGet_smSet_other [DecidableEq α] (d : α) (m : SMap α) (k j : Nat) (v : α) (h : j ≠ k) :
    smGet d (smSet d m k v) j = smGet d m j := by
  unfold smSet
  split
  · exact smGet_smErase_other d m k j h
  · exact smGet_smInsert_other d m k j v h

theorem smErase_sublist (m : SMap α) (k : Nat) : (smErase m k).Sublist m := by
  induction m with
  | nil => exact List.Sublist.slnil
  | cons p m ih =>
    obtain ⟨i, x⟩ := p
    unfold smErase
    split
    · exact ih.cons _
    · exact ih.cons_cons _

theorem smInsert_mem (m : SMap α) (k : Nat) (v : α) (p : Nat × α) (h : p ∈ smInsert m k v) : p = (k, v) ∨ p ∈ m := by
  induction m with
  | nil => simpa [smInsert] using h
  | cons q m ih =>
    obtain ⟨i, x⟩ := q
    unfold smInsert at h
    split at h
    · exact (List.mem_cons.mp h).imp id fun e => List.mem_cons_of_mem _ e
    · split at h
      · exact (List.mem_cons.mp h).imp id id
      · simp only [List.mem_cons] at h ⊢
        rcases h with h | h
        · exact .inr (.inl h)
        · rcases ih h with e | e
          · exact .inl e
          · exact .inr (.inr e)

theorem smInsert_pairwise (m : SMap α) (k : Nat) (v : α) (h : m.Pairwise (fun a b => a.1 < b.1)) :
    (smInsert m k v).Pairwise (fun a b => a.1 < b.1) := by
  induction m with
  | nil => simp [smInsert]
  | cons q m ih =>
    obtain ⟨i, x⟩ := q
    obtain ⟨h1, h2⟩ := List.pairwise_cons.mp h
    unfold smInsert
    split
    · next e => subst e; exact List.pairwise_cons.mpr ⟨h1, h2⟩
    · split
      · next hlt =>
        refine List.pairwise_cons.mpr ⟨fun b hb => ?_, h⟩
        rcases List.mem_cons.mp hb with e | e
        · rw [e]; exact hlt
        · exact Nat.lt_trans hlt (h1 b e)
      · next hne hlt =>
        refine List.pairwise_cons.mpr ⟨fun b hb => ?_, ih h2⟩
        rcases smInsert_mem m k v b hb with e | e
        · rw [e]; show i < k; omega
        · exact h1 b e

/-- Taking an entry out keeps the canonical form. -/
theorem smErase_wf [DecidableEq α] (d : α) (m : SMap α) (k : Nat) (h : smWf d m) : smWf d (smErase m k) :=
  ⟨h.1.sublist (smErase_sublist m k), fun p hp => h.2 p ((smErase_sublist m k).subset hp)⟩

/-- A write keeps the canonical form. -/
theorem smSet_wf [DecidableEq α] (d : α) (m : SMap α) (k : Nat) (v : α) (h : smWf d m) : smWf d (smSet d m k v) := by
  unfold smSet
  split
  · exact ⟨h.1.sublist (smErase_sublist m k), fun p hp => h.2 p ((smErase_sublist m k).subset hp)⟩
  · next hv =>
    refine ⟨smInsert_pairwise m k v h.1, fun p hp => ?_⟩
    rcases smInsert_mem m k v p hp with e | e
    · rw [e]; exact hv
    · exact h.2 p e

/-- Leaving entries out keeps the canonical form. -/
theorem smFilter_wf [DecidableEq α] (d : α) (m : SMap α) (f : Nat × α → Bool) (h : smWf d m) : smWf d (m.filter f) :=
  ⟨h.1.sublist List.filter_sublist, fun p hp => h.2 p (List.filter_sublist.subset hp)⟩

end Sys2Proof.Machine
end

