-- ==== Sys2Proof/Laws/State.lean ====
section
/-! SUPPORT. The named updates of State: what each leaves and what it sets, one lemma per field. -/

namespace Sys2Proof.Machine


@[simp] theorem setTile_pending (s : State) (t : Nat) (x : Tile) : (setTile s t x).pending = s.pending := rfl
@[simp] theorem setTile_now (s : State) (t : Nat) (x : Tile) : (setTile s t x).now = s.now := rfl
@[simp] theorem setTile_mem (s : State) (t : Nat) (x : Tile) : (setTile s t x).mem = s.mem := rfl
@[simp] theorem setTile_slots (s : State) (t : Nat) (x : Tile) : (setTile s t x).slots = s.slots := rfl
@[simp] theorem setTile_images (s : State) (t : Nat) (x : Tile) : (setTile s t x).images = s.images := rfl
@[simp] theorem setTile_bseqs (s : State) (t : Nat) (x : Tile) : (setTile s t x).bseqs = s.bseqs := rfl
@[simp] theorem setTile_bwaits (s : State) (t : Nat) (x : Tile) : (setTile s t x).bwaits = s.bwaits := rfl
@[simp] theorem setTile_taken (s : State) (t : Nat) (x : Tile) : (setTile s t x).taken = s.taken := rfl
@[simp] theorem setTile_replies (s : State) (t : Nat) (x : Tile) : (setTile s t x).replies = s.replies := rfl
@[simp] theorem setTile_halfA (s : State) (t : Nat) (x : Tile) : (setTile s t x).halfA = s.halfA := rfl
@[simp] theorem setTile_halfB (s : State) (t : Nat) (x : Tile) : (setTile s t x).halfB = s.halfB := rfl
@[simp] theorem setTile_turns (s : State) (t : Nat) (x : Tile) : (setTile s t x).turns = s.turns := rfl
@[simp] theorem setTile_modes (s : State) (t : Nat) (x : Tile) : (setTile s t x).modes = s.modes := rfl
@[simp] theorem setTile_tb0 (s : State) (t : Nat) (x : Tile) : (setTile s t x).tb0 = s.tb0 := rfl
@[simp] theorem setTile_tb1 (s : State) (t : Nat) (x : Tile) : (setTile s t x).tb1 = s.tb1 := rfl
@[simp] theorem setTile_clocks (s : State) (t : Nat) (x : Tile) : (setTile s t x).clocks = s.clocks := rfl
@[simp] theorem setTile_pins (s : State) (t : Nat) (x : Tile) : (setTile s t x).pins = s.pins := rfl
@[simp] theorem setTile_power (s : State) (t : Nat) (x : Tile) : (setTile s t x).power = s.power := rfl
@[simp] theorem setTile_cal (s : State) (t : Nat) (x : Tile) : (setTile s t x).cal = s.cal := rfl
@[simp] theorem setTile_fuse (s : State) (t : Nat) (x : Tile) : (setTile s t x).fuse = s.fuse := rfl
@[simp] theorem setTile_ports (s : State) (t : Nat) (x : Tile) : (setTile s t x).ports = s.ports := rfl
@[simp] theorem setTile_hosts (s : State) (t : Nat) (x : Tile) : (setTile s t x).hosts = s.hosts := rfl
@[simp] theorem setTile_win (s : State) (t : Nat) (x : Tile) : (setTile s t x).win = s.win := rfl
@[simp] theorem setTile_group (s : State) (t : Nat) (x : Tile) : (setTile s t x).group = s.group := rfl
@[simp] theorem setTile_errs (s : State) (t : Nat) (x : Tile) : (setTile s t x).errs = s.errs := rfl
@[simp] theorem setTile_su (s : State) (t : Nat) (x : Tile) : (setTile s t x).su = s.su := rfl
@[simp] theorem setTile_sent (s : State) (t : Nat) (x : Tile) : (setTile s t x).sent = s.sent := rfl

@[simp] theorem setSlot_pending (s : State) (n : Nat) (x : Slot) : (setSlot s n x).pending = s.pending := rfl
@[simp] theorem setSlot_now (s : State) (n : Nat) (x : Slot) : (setSlot s n x).now = s.now := rfl
@[simp] theorem setSlot_mem (s : State) (n : Nat) (x : Slot) : (setSlot s n x).mem = s.mem := rfl
@[simp] theorem setSlot_tiles (s : State) (n : Nat) (x : Slot) : (setSlot s n x).tiles = s.tiles := rfl
@[simp] theorem setSlot_images (s : State) (n : Nat) (x : Slot) : (setSlot s n x).images = s.images := rfl
@[simp] theorem setSlot_bseqs (s : State) (n : Nat) (x : Slot) : (setSlot s n x).bseqs = s.bseqs := rfl
@[simp] theorem setSlot_bwaits (s : State) (n : Nat) (x : Slot) : (setSlot s n x).bwaits = s.bwaits := rfl
@[simp] theorem setSlot_taken (s : State) (n : Nat) (x : Slot) : (setSlot s n x).taken = s.taken := rfl
@[simp] theorem setSlot_replies (s : State) (n : Nat) (x : Slot) : (setSlot s n x).replies = s.replies := rfl
@[simp] theorem setSlot_halfA (s : State) (n : Nat) (x : Slot) : (setSlot s n x).halfA = s.halfA := rfl
@[simp] theorem setSlot_halfB (s : State) (n : Nat) (x : Slot) : (setSlot s n x).halfB = s.halfB := rfl
@[simp] theorem setSlot_turns (s : State) (n : Nat) (x : Slot) : (setSlot s n x).turns = s.turns := rfl
@[simp] theorem setSlot_modes (s : State) (n : Nat) (x : Slot) : (setSlot s n x).modes = s.modes := rfl
@[simp] theorem setSlot_tb0 (s : State) (n : Nat) (x : Slot) : (setSlot s n x).tb0 = s.tb0 := rfl
@[simp] theorem setSlot_tb1 (s : State) (n : Nat) (x : Slot) : (setSlot s n x).tb1 = s.tb1 := rfl
@[simp] theorem setSlot_clocks (s : State) (n : Nat) (x : Slot) : (setSlot s n x).clocks = s.clocks := rfl
@[simp] theorem setSlot_pins (s : State) (n : Nat) (x : Slot) : (setSlot s n x).pins = s.pins := rfl
@[simp] theorem setSlot_power (s : State) (n : Nat) (x : Slot) : (setSlot s n x).power = s.power := rfl
@[simp] theorem setSlot_cal (s : State) (n : Nat) (x : Slot) : (setSlot s n x).cal = s.cal := rfl
@[simp] theorem setSlot_fuse (s : State) (n : Nat) (x : Slot) : (setSlot s n x).fuse = s.fuse := rfl
@[simp] theorem setSlot_ports (s : State) (n : Nat) (x : Slot) : (setSlot s n x).ports = s.ports := rfl
@[simp] theorem setSlot_hosts (s : State) (n : Nat) (x : Slot) : (setSlot s n x).hosts = s.hosts := rfl
@[simp] theorem setSlot_win (s : State) (n : Nat) (x : Slot) : (setSlot s n x).win = s.win := rfl
@[simp] theorem setSlot_group (s : State) (n : Nat) (x : Slot) : (setSlot s n x).group = s.group := rfl
@[simp] theorem setSlot_errs (s : State) (n : Nat) (x : Slot) : (setSlot s n x).errs = s.errs := rfl
@[simp] theorem setSlot_su (s : State) (n : Nat) (x : Slot) : (setSlot s n x).su = s.su := rfl
@[simp] theorem setSlot_sent (s : State) (n : Nat) (x : Slot) : (setSlot s n x).sent = s.sent := rfl

@[simp] theorem modSlot_pending (s : State) (n : Nat) (f : Slot → Slot) : (modSlot s n f).pending = s.pending := rfl
@[simp] theorem modSlot_now (s : State) (n : Nat) (f : Slot → Slot) : (modSlot s n f).now = s.now := rfl
@[simp] theorem modSlot_mem (s : State) (n : Nat) (f : Slot → Slot) : (modSlot s n f).mem = s.mem := rfl
@[simp] theorem modSlot_tiles (s : State) (n : Nat) (f : Slot → Slot) : (modSlot s n f).tiles = s.tiles := rfl
@[simp] theorem modSlot_images (s : State) (n : Nat) (f : Slot → Slot) : (modSlot s n f).images = s.images := rfl
@[simp] theorem modSlot_bseqs (s : State) (n : Nat) (f : Slot → Slot) : (modSlot s n f).bseqs = s.bseqs := rfl
@[simp] theorem modSlot_bwaits (s : State) (n : Nat) (f : Slot → Slot) : (modSlot s n f).bwaits = s.bwaits := rfl
@[simp] theorem modSlot_taken (s : State) (n : Nat) (f : Slot → Slot) : (modSlot s n f).taken = s.taken := rfl
@[simp] theorem modSlot_replies (s : State) (n : Nat) (f : Slot → Slot) : (modSlot s n f).replies = s.replies := rfl
@[simp] theorem modSlot_halfA (s : State) (n : Nat) (f : Slot → Slot) : (modSlot s n f).halfA = s.halfA := rfl
@[simp] theorem modSlot_halfB (s : State) (n : Nat) (f : Slot → Slot) : (modSlot s n f).halfB = s.halfB := rfl
@[simp] theorem modSlot_turns (s : State) (n : Nat) (f : Slot → Slot) : (modSlot s n f).turns = s.turns := rfl
@[simp] theorem modSlot_modes (s : State) (n : Nat) (f : Slot → Slot) : (modSlot s n f).modes = s.modes := rfl
@[simp] theorem modSlot_tb0 (s : State) (n : Nat) (f : Slot → Slot) : (modSlot s n f).tb0 = s.tb0 := rfl
@[simp] theorem modSlot_tb1 (s : State) (n : Nat) (f : Slot → Slot) : (modSlot s n f).tb1 = s.tb1 := rfl
@[simp] theorem modSlot_clocks (s : State) (n : Nat) (f : Slot → Slot) : (modSlot s n f).clocks = s.clocks := rfl
@[simp] theorem modSlot_pins (s : State) (n : Nat) (f : Slot → Slot) : (modSlot s n f).pins = s.pins := rfl
@[simp] theorem modSlot_power (s : State) (n : Nat) (f : Slot → Slot) : (modSlot s n f).power = s.power := rfl
@[simp] theorem modSlot_cal (s : State) (n : Nat) (f : Slot → Slot) : (modSlot s n f).cal = s.cal := rfl
@[simp] theorem modSlot_fuse (s : State) (n : Nat) (f : Slot → Slot) : (modSlot s n f).fuse = s.fuse := rfl
@[simp] theorem modSlot_ports (s : State) (n : Nat) (f : Slot → Slot) : (modSlot s n f).ports = s.ports := rfl
@[simp] theorem modSlot_hosts (s : State) (n : Nat) (f : Slot → Slot) : (modSlot s n f).hosts = s.hosts := rfl
@[simp] theorem modSlot_win (s : State) (n : Nat) (f : Slot → Slot) : (modSlot s n f).win = s.win := rfl
@[simp] theorem modSlot_group (s : State) (n : Nat) (f : Slot → Slot) : (modSlot s n f).group = s.group := rfl
@[simp] theorem modSlot_errs (s : State) (n : Nat) (f : Slot → Slot) : (modSlot s n f).errs = s.errs := rfl
@[simp] theorem modSlot_su (s : State) (n : Nat) (f : Slot → Slot) : (modSlot s n f).su = s.su := rfl
@[simp] theorem modSlot_sent (s : State) (n : Nat) (f : Slot → Slot) : (modSlot s n f).sent = s.sent := rfl

@[simp] theorem setImage_pending (s : State) (n : Nat) (x : Option Image) : (setImage s n x).pending = s.pending := rfl
@[simp] theorem setImage_now (s : State) (n : Nat) (x : Option Image) : (setImage s n x).now = s.now := rfl
@[simp] theorem setImage_mem (s : State) (n : Nat) (x : Option Image) : (setImage s n x).mem = s.mem := rfl
@[simp] theorem setImage_tiles (s : State) (n : Nat) (x : Option Image) : (setImage s n x).tiles = s.tiles := rfl
@[simp] theorem setImage_slots (s : State) (n : Nat) (x : Option Image) : (setImage s n x).slots = s.slots := rfl
@[simp] theorem setImage_bseqs (s : State) (n : Nat) (x : Option Image) : (setImage s n x).bseqs = s.bseqs := rfl
@[simp] theorem setImage_bwaits (s : State) (n : Nat) (x : Option Image) : (setImage s n x).bwaits = s.bwaits := rfl
@[simp] theorem setImage_taken (s : State) (n : Nat) (x : Option Image) : (setImage s n x).taken = s.taken := rfl
@[simp] theorem setImage_replies (s : State) (n : Nat) (x : Option Image) : (setImage s n x).replies = s.replies := rfl
@[simp] theorem setImage_halfA (s : State) (n : Nat) (x : Option Image) : (setImage s n x).halfA = s.halfA := rfl
@[simp] theorem setImage_halfB (s : State) (n : Nat) (x : Option Image) : (setImage s n x).halfB = s.halfB := rfl
@[simp] theorem setImage_turns (s : State) (n : Nat) (x : Option Image) : (setImage s n x).turns = s.turns := rfl
@[simp] theorem setImage_modes (s : State) (n : Nat) (x : Option Image) : (setImage s n x).modes = s.modes := rfl
@[simp] theorem setImage_tb0 (s : State) (n : Nat) (x : Option Image) : (setImage s n x).tb0 = s.tb0 := rfl
@[simp] theorem setImage_tb1 (s : State) (n : Nat) (x : Option Image) : (setImage s n x).tb1 = s.tb1 := rfl
@[simp] theorem setImage_clocks (s : State) (n : Nat) (x : Option Image) : (setImage s n x).clocks = s.clocks := rfl
@[simp] theorem setImage_pins (s : State) (n : Nat) (x : Option Image) : (setImage s n x).pins = s.pins := rfl
@[simp] theorem setImage_power (s : State) (n : Nat) (x : Option Image) : (setImage s n x).power = s.power := rfl
@[simp] theorem setImage_cal (s : State) (n : Nat) (x : Option Image) : (setImage s n x).cal = s.cal := rfl
@[simp] theorem setImage_fuse (s : State) (n : Nat) (x : Option Image) : (setImage s n x).fuse = s.fuse := rfl
@[simp] theorem setImage_ports (s : State) (n : Nat) (x : Option Image) : (setImage s n x).ports = s.ports := rfl
@[simp] theorem setImage_hosts (s : State) (n : Nat) (x : Option Image) : (setImage s n x).hosts = s.hosts := rfl
@[simp] theorem setImage_win (s : State) (n : Nat) (x : Option Image) : (setImage s n x).win = s.win := rfl
@[simp] theorem setImage_group (s : State) (n : Nat) (x : Option Image) : (setImage s n x).group = s.group := rfl
@[simp] theorem setImage_errs (s : State) (n : Nat) (x : Option Image) : (setImage s n x).errs = s.errs := rfl
@[simp] theorem setImage_su (s : State) (n : Nat) (x : Option Image) : (setImage s n x).su = s.su := rfl
@[simp] theorem setImage_sent (s : State) (n : Nat) (x : Option Image) : (setImage s n x).sent = s.sent := rfl

@[simp] theorem setHp_pending (s : State) (p : Nat) (x : HostPort) : (setHp s p x).pending = s.pending := rfl
@[simp] theorem setHp_now (s : State) (p : Nat) (x : HostPort) : (setHp s p x).now = s.now := rfl
@[simp] theorem setHp_mem (s : State) (p : Nat) (x : HostPort) : (setHp s p x).mem = s.mem := rfl
@[simp] theorem setHp_tiles (s : State) (p : Nat) (x : HostPort) : (setHp s p x).tiles = s.tiles := rfl
@[simp] theorem setHp_slots (s : State) (p : Nat) (x : HostPort) : (setHp s p x).slots = s.slots := rfl
@[simp] theorem setHp_images (s : State) (p : Nat) (x : HostPort) : (setHp s p x).images = s.images := rfl
@[simp] theorem setHp_bseqs (s : State) (p : Nat) (x : HostPort) : (setHp s p x).bseqs = s.bseqs := rfl
@[simp] theorem setHp_bwaits (s : State) (p : Nat) (x : HostPort) : (setHp s p x).bwaits = s.bwaits := rfl
@[simp] theorem setHp_taken (s : State) (p : Nat) (x : HostPort) : (setHp s p x).taken = s.taken := rfl
@[simp] theorem setHp_replies (s : State) (p : Nat) (x : HostPort) : (setHp s p x).replies = s.replies := rfl
@[simp] theorem setHp_halfA (s : State) (p : Nat) (x : HostPort) : (setHp s p x).halfA = s.halfA := rfl
@[simp] theorem setHp_halfB (s : State) (p : Nat) (x : HostPort) : (setHp s p x).halfB = s.halfB := rfl
@[simp] theorem setHp_turns (s : State) (p : Nat) (x : HostPort) : (setHp s p x).turns = s.turns := rfl
@[simp] theorem setHp_modes (s : State) (p : Nat) (x : HostPort) : (setHp s p x).modes = s.modes := rfl
@[simp] theorem setHp_tb0 (s : State) (p : Nat) (x : HostPort) : (setHp s p x).tb0 = s.tb0 := rfl
@[simp] theorem setHp_tb1 (s : State) (p : Nat) (x : HostPort) : (setHp s p x).tb1 = s.tb1 := rfl
@[simp] theorem setHp_clocks (s : State) (p : Nat) (x : HostPort) : (setHp s p x).clocks = s.clocks := rfl
@[simp] theorem setHp_pins (s : State) (p : Nat) (x : HostPort) : (setHp s p x).pins = s.pins := rfl
@[simp] theorem setHp_power (s : State) (p : Nat) (x : HostPort) : (setHp s p x).power = s.power := rfl
@[simp] theorem setHp_cal (s : State) (p : Nat) (x : HostPort) : (setHp s p x).cal = s.cal := rfl
@[simp] theorem setHp_fuse (s : State) (p : Nat) (x : HostPort) : (setHp s p x).fuse = s.fuse := rfl
@[simp] theorem setHp_ports (s : State) (p : Nat) (x : HostPort) : (setHp s p x).ports = s.ports := rfl
@[simp] theorem setHp_win (s : State) (p : Nat) (x : HostPort) : (setHp s p x).win = s.win := rfl
@[simp] theorem setHp_group (s : State) (p : Nat) (x : HostPort) : (setHp s p x).group = s.group := rfl
@[simp] theorem setHp_errs (s : State) (p : Nat) (x : HostPort) : (setHp s p x).errs = s.errs := rfl
@[simp] theorem setHp_su (s : State) (p : Nat) (x : HostPort) : (setHp s p x).su = s.su := rfl
@[simp] theorem setHp_sent (s : State) (p : Nat) (x : HostPort) : (setHp s p x).sent = s.sent := rfl

@[simp] theorem winPut_pending (s : State) (off : Nat) (ws : List W64) : (winPut s off ws).pending = s.pending := rfl
@[simp] theorem winPut_now (s : State) (off : Nat) (ws : List W64) : (winPut s off ws).now = s.now := rfl
@[simp] theorem winPut_tiles (s : State) (off : Nat) (ws : List W64) : (winPut s off ws).tiles = s.tiles := rfl
@[simp] theorem winPut_slots (s : State) (off : Nat) (ws : List W64) : (winPut s off ws).slots = s.slots := rfl
@[simp] theorem winPut_images (s : State) (off : Nat) (ws : List W64) : (winPut s off ws).images = s.images := rfl
@[simp] theorem winPut_bseqs (s : State) (off : Nat) (ws : List W64) : (winPut s off ws).bseqs = s.bseqs := rfl
@[simp] theorem winPut_bwaits (s : State) (off : Nat) (ws : List W64) : (winPut s off ws).bwaits = s.bwaits := rfl
@[simp] theorem winPut_taken (s : State) (off : Nat) (ws : List W64) : (winPut s off ws).taken = s.taken := rfl
@[simp] theorem winPut_replies (s : State) (off : Nat) (ws : List W64) : (winPut s off ws).replies = s.replies := rfl
@[simp] theorem winPut_halfA (s : State) (off : Nat) (ws : List W64) : (winPut s off ws).halfA = s.halfA := rfl
@[simp] theorem winPut_halfB (s : State) (off : Nat) (ws : List W64) : (winPut s off ws).halfB = s.halfB := rfl
@[simp] theorem winPut_turns (s : State) (off : Nat) (ws : List W64) : (winPut s off ws).turns = s.turns := rfl
@[simp] theorem winPut_modes (s : State) (off : Nat) (ws : List W64) : (winPut s off ws).modes = s.modes := rfl
@[simp] theorem winPut_tb0 (s : State) (off : Nat) (ws : List W64) : (winPut s off ws).tb0 = s.tb0 := rfl
@[simp] theorem winPut_tb1 (s : State) (off : Nat) (ws : List W64) : (winPut s off ws).tb1 = s.tb1 := rfl
@[simp] theorem winPut_clocks (s : State) (off : Nat) (ws : List W64) : (winPut s off ws).clocks = s.clocks := rfl
@[simp] theorem winPut_pins (s : State) (off : Nat) (ws : List W64) : (winPut s off ws).pins = s.pins := rfl
@[simp] theorem winPut_power (s : State) (off : Nat) (ws : List W64) : (winPut s off ws).power = s.power := rfl
@[simp] theorem winPut_cal (s : State) (off : Nat) (ws : List W64) : (winPut s off ws).cal = s.cal := rfl
@[simp] theorem winPut_fuse (s : State) (off : Nat) (ws : List W64) : (winPut s off ws).fuse = s.fuse := rfl
@[simp] theorem winPut_ports (s : State) (off : Nat) (ws : List W64) : (winPut s off ws).ports = s.ports := rfl
@[simp] theorem winPut_hosts (s : State) (off : Nat) (ws : List W64) : (winPut s off ws).hosts = s.hosts := rfl
@[simp] theorem winPut_win (s : State) (off : Nat) (ws : List W64) : (winPut s off ws).win = s.win := rfl
@[simp] theorem winPut_group (s : State) (off : Nat) (ws : List W64) : (winPut s off ws).group = s.group := rfl
@[simp] theorem winPut_errs (s : State) (off : Nat) (ws : List W64) : (winPut s off ws).errs = s.errs := rfl
@[simp] theorem winPut_su (s : State) (off : Nat) (ws : List W64) : (winPut s off ws).su = s.su := rfl
@[simp] theorem winPut_sent (s : State) (off : Nat) (ws : List W64) : (winPut s off ws).sent = s.sent := rfl

@[simp] theorem sendPacket_pending (s : State) (p : Packet) : (sendPacket s p).pending = s.pending := rfl
@[simp] theorem sendPacket_now (s : State) (p : Packet) : (sendPacket s p).now = s.now := rfl
@[simp] theorem sendPacket_mem (s : State) (p : Packet) : (sendPacket s p).mem = s.mem := rfl
@[simp] theorem sendPacket_tiles (s : State) (p : Packet) : (sendPacket s p).tiles = s.tiles := rfl
@[simp] theorem sendPacket_slots (s : State) (p : Packet) : (sendPacket s p).slots = s.slots := rfl
@[simp] theorem sendPacket_images (s : State) (p : Packet) : (sendPacket s p).images = s.images := rfl
@[simp] theorem sendPacket_bseqs (s : State) (p : Packet) : (sendPacket s p).bseqs = s.bseqs := rfl
@[simp] theorem sendPacket_bwaits (s : State) (p : Packet) : (sendPacket s p).bwaits = s.bwaits := rfl
@[simp] theorem sendPacket_taken (s : State) (p : Packet) : (sendPacket s p).taken = s.taken := rfl
@[simp] theorem sendPacket_replies (s : State) (p : Packet) : (sendPacket s p).replies = s.replies := rfl
@[simp] theorem sendPacket_halfA (s : State) (p : Packet) : (sendPacket s p).halfA = s.halfA := rfl
@[simp] theorem sendPacket_halfB (s : State) (p : Packet) : (sendPacket s p).halfB = s.halfB := rfl
@[simp] theorem sendPacket_turns (s : State) (p : Packet) : (sendPacket s p).turns = s.turns := rfl
@[simp] theorem sendPacket_modes (s : State) (p : Packet) : (sendPacket s p).modes = s.modes := rfl
@[simp] theorem sendPacket_tb0 (s : State) (p : Packet) : (sendPacket s p).tb0 = s.tb0 := rfl
@[simp] theorem sendPacket_tb1 (s : State) (p : Packet) : (sendPacket s p).tb1 = s.tb1 := rfl
@[simp] theorem sendPacket_clocks (s : State) (p : Packet) : (sendPacket s p).clocks = s.clocks := rfl
@[simp] theorem sendPacket_pins (s : State) (p : Packet) : (sendPacket s p).pins = s.pins := rfl
@[simp] theorem sendPacket_power (s : State) (p : Packet) : (sendPacket s p).power = s.power := rfl
@[simp] theorem sendPacket_cal (s : State) (p : Packet) : (sendPacket s p).cal = s.cal := rfl
@[simp] theorem sendPacket_fuse (s : State) (p : Packet) : (sendPacket s p).fuse = s.fuse := rfl
@[simp] theorem sendPacket_ports (s : State) (p : Packet) : (sendPacket s p).ports = s.ports := rfl
@[simp] theorem sendPacket_hosts (s : State) (p : Packet) : (sendPacket s p).hosts = s.hosts := rfl
@[simp] theorem sendPacket_win (s : State) (p : Packet) : (sendPacket s p).win = s.win := rfl
@[simp] theorem sendPacket_group (s : State) (p : Packet) : (sendPacket s p).group = s.group := rfl
@[simp] theorem sendPacket_errs (s : State) (p : Packet) : (sendPacket s p).errs = s.errs := rfl
@[simp] theorem sendPacket_su (s : State) (p : Packet) : (sendPacket s p).su = s.su := rfl

@[simp] theorem setHalf_pending (s : State) (h : Half) (x : HalfState) : (setHalf s h x).pending = s.pending := by cases h <;> rfl
@[simp] theorem setHalf_now (s : State) (h : Half) (x : HalfState) : (setHalf s h x).now = s.now := by cases h <;> rfl
@[simp] theorem setHalf_mem (s : State) (h : Half) (x : HalfState) : (setHalf s h x).mem = s.mem := by cases h <;> rfl
@[simp] theorem setHalf_tiles (s : State) (h : Half) (x : HalfState) : (setHalf s h x).tiles = s.tiles := by cases h <;> rfl
@[simp] theorem setHalf_slots (s : State) (h : Half) (x : HalfState) : (setHalf s h x).slots = s.slots := by cases h <;> rfl
@[simp] theorem setHalf_images (s : State) (h : Half) (x : HalfState) : (setHalf s h x).images = s.images := by cases h <;> rfl
@[simp] theorem setHalf_bseqs (s : State) (h : Half) (x : HalfState) : (setHalf s h x).bseqs = s.bseqs := by cases h <;> rfl
@[simp] theorem setHalf_bwaits (s : State) (h : Half) (x : HalfState) : (setHalf s h x).bwaits = s.bwaits := by cases h <;> rfl
@[simp] theorem setHalf_taken (s : State) (h : Half) (x : HalfState) : (setHalf s h x).taken = s.taken := by cases h <;> rfl
@[simp] theorem setHalf_replies (s : State) (h : Half) (x : HalfState) : (setHalf s h x).replies = s.replies := by cases h <;> rfl
@[simp] theorem setHalf_turns (s : State) (h : Half) (x : HalfState) : (setHalf s h x).turns = s.turns := by cases h <;> rfl
@[simp] theorem setHalf_modes (s : State) (h : Half) (x : HalfState) : (setHalf s h x).modes = s.modes := by cases h <;> rfl
@[simp] theorem setHalf_tb0 (s : State) (h : Half) (x : HalfState) : (setHalf s h x).tb0 = s.tb0 := by cases h <;> rfl
@[simp] theorem setHalf_tb1 (s : State) (h : Half) (x : HalfState) : (setHalf s h x).tb1 = s.tb1 := by cases h <;> rfl
@[simp] theorem setHalf_clocks (s : State) (h : Half) (x : HalfState) : (setHalf s h x).clocks = s.clocks := by cases h <;> rfl
@[simp] theorem setHalf_pins (s : State) (h : Half) (x : HalfState) : (setHalf s h x).pins = s.pins := by cases h <;> rfl
@[simp] theorem setHalf_power (s : State) (h : Half) (x : HalfState) : (setHalf s h x).power = s.power := by cases h <;> rfl
@[simp] theorem setHalf_cal (s : State) (h : Half) (x : HalfState) : (setHalf s h x).cal = s.cal := by cases h <;> rfl
@[simp] theorem setHalf_fuse (s : State) (h : Half) (x : HalfState) : (setHalf s h x).fuse = s.fuse := by cases h <;> rfl
@[simp] theorem setHalf_ports (s : State) (h : Half) (x : HalfState) : (setHalf s h x).ports = s.ports := by cases h <;> rfl
@[simp] theorem setHalf_hosts (s : State) (h : Half) (x : HalfState) : (setHalf s h x).hosts = s.hosts := by cases h <;> rfl
@[simp] theorem setHalf_win (s : State) (h : Half) (x : HalfState) : (setHalf s h x).win = s.win := by cases h <;> rfl
@[simp] theorem setHalf_group (s : State) (h : Half) (x : HalfState) : (setHalf s h x).group = s.group := by cases h <;> rfl
@[simp] theorem setHalf_errs (s : State) (h : Half) (x : HalfState) : (setHalf s h x).errs = s.errs := by cases h <;> rfl
@[simp] theorem setHalf_su (s : State) (h : Half) (x : HalfState) : (setHalf s h x).su = s.su := by cases h <;> rfl
@[simp] theorem setHalf_sent (s : State) (h : Half) (x : HalfState) : (setHalf s h x).sent = s.sent := by cases h <;> rfl

@[simp] theorem modHalf_pending (s : State) (h : Half) (f : HalfState → HalfState) : (modHalf s h f).pending = s.pending := by cases h <;> rfl
@[simp] theorem modHalf_now (s : State) (h : Half) (f : HalfState → HalfState) : (modHalf s h f).now = s.now := by cases h <;> rfl
@[simp] theorem modHalf_mem (s : State) (h : Half) (f : HalfState → HalfState) : (modHalf s h f).mem = s.mem := by cases h <;> rfl
@[simp] theorem modHalf_tiles (s : State) (h : Half) (f : HalfState → HalfState) : (modHalf s h f).tiles = s.tiles := by cases h <;> rfl
@[simp] theorem modHalf_slots (s : State) (h : Half) (f : HalfState → HalfState) : (modHalf s h f).slots = s.slots := by cases h <;> rfl
@[simp] theorem modHalf_images (s : State) (h : Half) (f : HalfState → HalfState) : (modHalf s h f).images = s.images := by cases h <;> rfl
@[simp] theorem modHalf_bseqs (s : State) (h : Half) (f : HalfState → HalfState) : (modHalf s h f).bseqs = s.bseqs := by cases h <;> rfl
@[simp] theorem modHalf_bwaits (s : State) (h : Half) (f : HalfState → HalfState) : (modHalf s h f).bwaits = s.bwaits := by cases h <;> rfl
@[simp] theorem modHalf_taken (s : State) (h : Half) (f : HalfState → HalfState) : (modHalf s h f).taken = s.taken := by cases h <;> rfl
@[simp] theorem modHalf_replies (s : State) (h : Half) (f : HalfState → HalfState) : (modHalf s h f).replies = s.replies := by cases h <;> rfl
@[simp] theorem modHalf_turns (s : State) (h : Half) (f : HalfState → HalfState) : (modHalf s h f).turns = s.turns := by cases h <;> rfl
@[simp] theorem modHalf_modes (s : State) (h : Half) (f : HalfState → HalfState) : (modHalf s h f).modes = s.modes := by cases h <;> rfl
@[simp] theorem modHalf_tb0 (s : State) (h : Half) (f : HalfState → HalfState) : (modHalf s h f).tb0 = s.tb0 := by cases h <;> rfl
@[simp] theorem modHalf_tb1 (s : State) (h : Half) (f : HalfState → HalfState) : (modHalf s h f).tb1 = s.tb1 := by cases h <;> rfl
@[simp] theorem modHalf_clocks (s : State) (h : Half) (f : HalfState → HalfState) : (modHalf s h f).clocks = s.clocks := by cases h <;> rfl
@[simp] theorem modHalf_pins (s : State) (h : Half) (f : HalfState → HalfState) : (modHalf s h f).pins = s.pins := by cases h <;> rfl
@[simp] theorem modHalf_power (s : State) (h : Half) (f : HalfState → HalfState) : (modHalf s h f).power = s.power := by cases h <;> rfl
@[simp] theorem modHalf_cal (s : State) (h : Half) (f : HalfState → HalfState) : (modHalf s h f).cal = s.cal := by cases h <;> rfl
@[simp] theorem modHalf_fuse (s : State) (h : Half) (f : HalfState → HalfState) : (modHalf s h f).fuse = s.fuse := by cases h <;> rfl
@[simp] theorem modHalf_ports (s : State) (h : Half) (f : HalfState → HalfState) : (modHalf s h f).ports = s.ports := by cases h <;> rfl
@[simp] theorem modHalf_hosts (s : State) (h : Half) (f : HalfState → HalfState) : (modHalf s h f).hosts = s.hosts := by cases h <;> rfl
@[simp] theorem modHalf_win (s : State) (h : Half) (f : HalfState → HalfState) : (modHalf s h f).win = s.win := by cases h <;> rfl
@[simp] theorem modHalf_group (s : State) (h : Half) (f : HalfState → HalfState) : (modHalf s h f).group = s.group := by cases h <;> rfl
@[simp] theorem modHalf_errs (s : State) (h : Half) (f : HalfState → HalfState) : (modHalf s h f).errs = s.errs := by cases h <;> rfl
@[simp] theorem modHalf_su (s : State) (h : Half) (f : HalfState → HalfState) : (modHalf s h f).su = s.su := by cases h <;> rfl
@[simp] theorem modHalf_sent (s : State) (h : Half) (f : HalfState → HalfState) : (modHalf s h f).sent = s.sent := by cases h <;> rfl

@[simp] theorem setTb_pending (s : State) (i : TbIn) (x : Tb) : (setTb s i x).pending = s.pending := by cases i <;> rfl
@[simp] theorem setTb_now (s : State) (i : TbIn) (x : Tb) : (setTb s i x).now = s.now := by cases i <;> rfl
@[simp] theorem setTb_mem (s : State) (i : TbIn) (x : Tb) : (setTb s i x).mem = s.mem := by cases i <;> rfl
@[simp] theorem setTb_tiles (s : State) (i : TbIn) (x : Tb) : (setTb s i x).tiles = s.tiles := by cases i <;> rfl
@[simp] theorem setTb_slots (s : State) (i : TbIn) (x : Tb) : (setTb s i x).slots = s.slots := by cases i <;> rfl
@[simp] theorem setTb_images (s : State) (i : TbIn) (x : Tb) : (setTb s i x).images = s.images := by cases i <;> rfl
@[simp] theorem setTb_bseqs (s : State) (i : TbIn) (x : Tb) : (setTb s i x).bseqs = s.bseqs := by cases i <;> rfl
@[simp] theorem setTb_bwaits (s : State) (i : TbIn) (x : Tb) : (setTb s i x).bwaits = s.bwaits := by cases i <;> rfl
@[simp] theorem setTb_taken (s : State) (i : TbIn) (x : Tb) : (setTb s i x).taken = s.taken := by cases i <;> rfl
@[simp] theorem setTb_replies (s : State) (i : TbIn) (x : Tb) : (setTb s i x).replies = s.replies := by cases i <;> rfl
@[simp] theorem setTb_halfA (s : State) (i : TbIn) (x : Tb) : (setTb s i x).halfA = s.halfA := by cases i <;> rfl
@[simp] theorem setTb_halfB (s : State) (i : TbIn) (x : Tb) : (setTb s i x).halfB = s.halfB := by cases i <;> rfl
@[simp] theorem setTb_turns (s : State) (i : TbIn) (x : Tb) : (setTb s i x).turns = s.turns := by cases i <;> rfl
@[simp] theorem setTb_modes (s : State) (i : TbIn) (x : Tb) : (setTb s i x).modes = s.modes := by cases i <;> rfl
@[simp] theorem setTb_clocks (s : State) (i : TbIn) (x : Tb) : (setTb s i x).clocks = s.clocks := by cases i <;> rfl
@[simp] theorem setTb_pins (s : State) (i : TbIn) (x : Tb) : (setTb s i x).pins = s.pins := by cases i <;> rfl
@[simp] theorem setTb_power (s : State) (i : TbIn) (x : Tb) : (setTb s i x).power = s.power := by cases i <;> rfl
@[simp] theorem setTb_cal (s : State) (i : TbIn) (x : Tb) : (setTb s i x).cal = s.cal := by cases i <;> rfl
@[simp] theorem setTb_fuse (s : State) (i : TbIn) (x : Tb) : (setTb s i x).fuse = s.fuse := by cases i <;> rfl
@[simp] theorem setTb_ports (s : State) (i : TbIn) (x : Tb) : (setTb s i x).ports = s.ports := by cases i <;> rfl
@[simp] theorem setTb_hosts (s : State) (i : TbIn) (x : Tb) : (setTb s i x).hosts = s.hosts := by cases i <;> rfl
@[simp] theorem setTb_win (s : State) (i : TbIn) (x : Tb) : (setTb s i x).win = s.win := by cases i <;> rfl
@[simp] theorem setTb_group (s : State) (i : TbIn) (x : Tb) : (setTb s i x).group = s.group := by cases i <;> rfl
@[simp] theorem setTb_errs (s : State) (i : TbIn) (x : Tb) : (setTb s i x).errs = s.errs := by cases i <;> rfl
@[simp] theorem setTb_su (s : State) (i : TbIn) (x : Tb) : (setTb s i x).su = s.su := by cases i <;> rfl
@[simp] theorem setTb_sent (s : State) (i : TbIn) (x : Tb) : (setTb s i x).sent = s.sent := by cases i <;> rfl

@[simp] theorem setTile_half (s : State) (t : Nat) (x : Tile) (h' : Half) : half (setTile s t x) h' = half s h' := by cases h' <;> rfl
@[simp] theorem setTile_slotOf (s : State) (t : Nat) (x : Tile) (k : Nat) : slotOf (setTile s t x) k = slotOf s k := rfl
@[simp] theorem setTile_mpOf (s : State) (t : Nat) (x : Tile) (q : Nat) : mpOf (setTile s t x) q = mpOf s q := rfl
@[simp] theorem setTile_hpOf (s : State) (t : Nat) (x : Tile) (q : Nat) : hpOf (setTile s t x) q = hpOf s q := rfl
@[simp] theorem setTile_imageOf (s : State) (t : Nat) (x : Tile) (m : Nat) : imageOf (setTile s t x) m = imageOf s m := rfl
@[simp] theorem setTile_tbOf (s : State) (t : Nat) (x : Tile) (j : TbIn) : tbOf (setTile s t x) j = tbOf s j := by cases j <;> rfl

@[simp] theorem setSlot_half (s : State) (n : Nat) (x : Slot) (h' : Half) : half (setSlot s n x) h' = half s h' := by cases h' <;> rfl
@[simp] theorem setSlot_tileOf (s : State) (n : Nat) (x : Slot) (u : Nat) : tileOf (setSlot s n x) u = tileOf s u := rfl
@[simp] theorem setSlot_mpOf (s : State) (n : Nat) (x : Slot) (q : Nat) : mpOf (setSlot s n x) q = mpOf s q := rfl
@[simp] theorem setSlot_hpOf (s : State) (n : Nat) (x : Slot) (q : Nat) : hpOf (setSlot s n x) q = hpOf s q := rfl
@[simp] theorem setSlot_imageOf (s : State) (n : Nat) (x : Slot) (m : Nat) : imageOf (setSlot s n x) m = imageOf s m := rfl
@[simp] theorem setSlot_tbOf (s : State) (n : Nat) (x : Slot) (j : TbIn) : tbOf (setSlot s n x) j = tbOf s j := by cases j <;> rfl

@[simp] theorem modSlot_half (s : State) (n : Nat) (f : Slot → Slot) (h' : Half) : half (modSlot s n f) h' = half s h' := by cases h' <;> rfl
@[simp] theorem modSlot_tileOf (s : State) (n : Nat) (f : Slot → Slot) (u : Nat) : tileOf (modSlot s n f) u = tileOf s u := rfl
@[simp] theorem modSlot_mpOf (s : State) (n : Nat) (f : Slot → Slot) (q : Nat) : mpOf (modSlot s n f) q = mpOf s q := rfl
@[simp] theorem modSlot_hpOf (s : State) (n : Nat) (f : Slot → Slot) (q : Nat) : hpOf (modSlot s n f) q = hpOf s q := rfl
@[simp] theorem modSlot_imageOf (s : State) (n : Nat) (f : Slot → Slot) (m : Nat) : imageOf (modSlot s n f) m = imageOf s m := rfl
@[simp] theorem modSlot_tbOf (s : State) (n : Nat) (f : Slot → Slot) (j : TbIn) : tbOf (modSlot s n f) j = tbOf s j := by cases j <;> rfl

@[simp] theorem setImage_half (s : State) (n : Nat) (x : Option Image) (h' : Half) : half (setImage s n x) h' = half s h' := by cases h' <;> rfl
@[simp] theorem setImage_tileOf (s : State) (n : Nat) (x : Option Image) (u : Nat) : tileOf (setImage s n x) u = tileOf s u := rfl
@[simp] theorem setImage_slotOf (s : State) (n : Nat) (x : Option Image) (k : Nat) : slotOf (setImage s n x) k = slotOf s k := rfl
@[simp] theorem setImage_mpOf (s : State) (n : Nat) (x : Option Image) (q : Nat) : mpOf (setImage s n x) q = mpOf s q := rfl
@[simp] theorem setImage_hpOf (s : State) (n : Nat) (x : Option Image) (q : Nat) : hpOf (setImage s n x) q = hpOf s q := rfl
@[simp] theorem setImage_tbOf (s : State) (n : Nat) (x : Option Image) (j : TbIn) : tbOf (setImage s n x) j = tbOf s j := by cases j <;> rfl

@[simp] theorem setHp_half (s : State) (p : Nat) (x : HostPort) (h' : Half) : half (setHp s p x) h' = half s h' := by cases h' <;> rfl
@[simp] theorem setHp_tileOf (s : State) (p : Nat) (x : HostPort) (u : Nat) : tileOf (setHp s p x) u = tileOf s u := rfl
@[simp] theorem setHp_slotOf (s : State) (p : Nat) (x : HostPort) (k : Nat) : slotOf (setHp s p x) k = slotOf s k := rfl
@[simp] theorem setHp_mpOf (s : State) (p : Nat) (x : HostPort) (q : Nat) : mpOf (setHp s p x) q = mpOf s q := rfl
@[simp] theorem setHp_imageOf (s : State) (p : Nat) (x : HostPort) (m : Nat) : imageOf (setHp s p x) m = imageOf s m := rfl
@[simp] theorem setHp_tbOf (s : State) (p : Nat) (x : HostPort) (j : TbIn) : tbOf (setHp s p x) j = tbOf s j := by cases j <;> rfl

@[simp] theorem winPut_half (s : State) (off : Nat) (ws : List W64) (h' : Half) : half (winPut s off ws) h' = half s h' := by cases h' <;> rfl
@[simp] theorem winPut_tileOf (s : State) (off : Nat) (ws : List W64) (u : Nat) : tileOf (winPut s off ws) u = tileOf s u := rfl
@[simp] theorem winPut_slotOf (s : State) (off : Nat) (ws : List W64) (k : Nat) : slotOf (winPut s off ws) k = slotOf s k := rfl
@[simp] theorem winPut_mpOf (s : State) (off : Nat) (ws : List W64) (q : Nat) : mpOf (winPut s off ws) q = mpOf s q := rfl
@[simp] theorem winPut_hpOf (s : State) (off : Nat) (ws : List W64) (q : Nat) : hpOf (winPut s off ws) q = hpOf s q := rfl
@[simp] theorem winPut_imageOf (s : State) (off : Nat) (ws : List W64) (m : Nat) : imageOf (winPut s off ws) m = imageOf s m := rfl
@[simp] theorem winPut_tbOf (s : State) (off : Nat) (ws : List W64) (j : TbIn) : tbOf (winPut s off ws) j = tbOf s j := by cases j <;> rfl

@[simp] theorem sendPacket_half (s : State) (p : Packet) (h' : Half) : half (sendPacket s p) h' = half s h' := by cases h' <;> rfl
@[simp] theorem sendPacket_tileOf (s : State) (p : Packet) (u : Nat) : tileOf (sendPacket s p) u = tileOf s u := rfl
@[simp] theorem sendPacket_slotOf (s : State) (p : Packet) (k : Nat) : slotOf (sendPacket s p) k = slotOf s k := rfl
@[simp] theorem sendPacket_mpOf (s : State) (p : Packet) (q : Nat) : mpOf (sendPacket s p) q = mpOf s q := rfl
@[simp] theorem sendPacket_hpOf (s : State) (p : Packet) (q : Nat) : hpOf (sendPacket s p) q = hpOf s q := rfl
@[simp] theorem sendPacket_imageOf (s : State) (p : Packet) (m : Nat) : imageOf (sendPacket s p) m = imageOf s m := rfl
@[simp] theorem sendPacket_tbOf (s : State) (p : Packet) (j : TbIn) : tbOf (sendPacket s p) j = tbOf s j := by cases j <;> rfl

@[simp] theorem setHalf_tileOf (s : State) (h : Half) (x : HalfState) (u : Nat) : tileOf (setHalf s h x) u = tileOf s u := by cases h <;> rfl
@[simp] theorem setHalf_slotOf (s : State) (h : Half) (x : HalfState) (k : Nat) : slotOf (setHalf s h x) k = slotOf s k := by cases h <;> rfl
@[simp] theorem setHalf_mpOf (s : State) (h : Half) (x : HalfState) (q : Nat) : mpOf (setHalf s h x) q = mpOf s q := by cases h <;> rfl
@[simp] theorem setHalf_hpOf (s : State) (h : Half) (x : HalfState) (q : Nat) : hpOf (setHalf s h x) q = hpOf s q := by cases h <;> rfl
@[simp] theorem setHalf_imageOf (s : State) (h : Half) (x : HalfState) (m : Nat) : imageOf (setHalf s h x) m = imageOf s m := by cases h <;> rfl
@[simp] theorem setHalf_tbOf (s : State) (h : Half) (x : HalfState) (j : TbIn) : tbOf (setHalf s h x) j = tbOf s j := by cases h <;> cases j <;> rfl

@[simp] theorem modHalf_tileOf (s : State) (h : Half) (f : HalfState → HalfState) (u : Nat) : tileOf (modHalf s h f) u = tileOf s u := by cases h <;> rfl
@[simp] theorem modHalf_slotOf (s : State) (h : Half) (f : HalfState → HalfState) (k : Nat) : slotOf (modHalf s h f) k = slotOf s k := by cases h <;> rfl
@[simp] theorem modHalf_mpOf (s : State) (h : Half) (f : HalfState → HalfState) (q : Nat) : mpOf (modHalf s h f) q = mpOf s q := by cases h <;> rfl
@[simp] theorem modHalf_hpOf (s : State) (h : Half) (f : HalfState → HalfState) (q : Nat) : hpOf (modHalf s h f) q = hpOf s q := by cases h <;> rfl
@[simp] theorem modHalf_imageOf (s : State) (h : Half) (f : HalfState → HalfState) (m : Nat) : imageOf (modHalf s h f) m = imageOf s m := by cases h <;> rfl
@[simp] theorem modHalf_tbOf (s : State) (h : Half) (f : HalfState → HalfState) (j : TbIn) : tbOf (modHalf s h f) j = tbOf s j := by cases h <;> cases j <;> rfl

@[simp] theorem setTb_half (s : State) (i : TbIn) (x : Tb) (h' : Half) : half (setTb s i x) h' = half s h' := by cases i <;> cases h' <;> rfl
@[simp] theorem setTb_tileOf (s : State) (i : TbIn) (x : Tb) (u : Nat) : tileOf (setTb s i x) u = tileOf s u := by cases i <;> rfl
@[simp] theorem setTb_slotOf (s : State) (i : TbIn) (x : Tb) (k : Nat) : slotOf (setTb s i x) k = slotOf s k := by cases i <;> rfl
@[simp] theorem setTb_mpOf (s : State) (i : TbIn) (x : Tb) (q : Nat) : mpOf (setTb s i x) q = mpOf s q := by cases i <;> rfl
@[simp] theorem setTb_hpOf (s : State) (i : TbIn) (x : Tb) (q : Nat) : hpOf (setTb s i x) q = hpOf s q := by cases i <;> rfl
@[simp] theorem setTb_imageOf (s : State) (i : TbIn) (x : Tb) (m : Nat) : imageOf (setTb s i x) m = imageOf s m := by cases i <;> rfl

@[simp] theorem half_setHalf_same (s : State) (h : Half) (x : HalfState) : half (setHalf s h x) h = x := by cases h <;> rfl
theorem half_setHalf_other (s : State) (h k : Half) (x : HalfState) (n : k ≠ h) : half (setHalf s h x) k = half s k := by
  cases h <;> cases k <;> first | rfl | exact absurd rfl n
@[simp] theorem half_modHalf_same (s : State) (h : Half) (f : HalfState → HalfState) : half (modHalf s h f) h = f (half s h) := by
  cases h <;> rfl
theorem half_modHalf_other (s : State) (h k : Half) (f : HalfState → HalfState) (n : k ≠ h) : half (modHalf s h f) k = half s k := by
  cases h <;> cases k <;> first | rfl | exact absurd rfl n
@[simp] theorem tbOf_setTb_same (s : State) (i : TbIn) (x : Tb) : tbOf (setTb s i x) i = x := by cases i <;> rfl
theorem tbOf_setTb_other (s : State) (i j : TbIn) (x : Tb) (n : j ≠ i) : tbOf (setTb s i x) j = tbOf s j := by
  cases i <;> cases j <;> first | rfl | exact absurd rfl n

end Sys2Proof.Machine
end

