-- ==== Sys2Proof/Laws/Lookup.lean ====
section
/-! SUPPORT. What a named read gives after a named write: the value at the same place, and what stood at every other one. -/

namespace Sys2Proof.Machine

@[simp] theorem tileOf_setTile_same (s : State) (k : Nat) (x : Tile) : tileOf (setTile s k x) k = x := by
  simp only [tileOf, setTile, smGet_smSet_same]

theorem tileOf_setTile_other (s : State) (k j : Nat) (x : Tile) (h : j ≠ k) : tileOf (setTile s k x) j = tileOf s j := by
  simp only [tileOf, setTile, smGet_smSet_other _ _ _ _ _ h]

@[simp] theorem slotOf_setSlot_same (s : State) (k : Nat) (x : Slot) : slotOf (setSlot s k x) k = x := by
  simp only [slotOf, setSlot, smGet_smSet_same]

theorem slotOf_setSlot_other (s : State) (k j : Nat) (x : Slot) (h : j ≠ k) : slotOf (setSlot s k x) j = slotOf s j := by
  simp only [slotOf, setSlot, smGet_smSet_other _ _ _ _ _ h]

@[simp] theorem hpOf_setHp_same (s : State) (k : Nat) (x : HostPort) : hpOf (setHp s k x) k = x := by
  simp only [hpOf, setHp, smGet_smSet_same]

theorem hpOf_setHp_other (s : State) (k j : Nat) (x : HostPort) (h : j ≠ k) : hpOf (setHp s k x) j = hpOf s j := by
  simp only [hpOf, setHp, smGet_smSet_other _ _ _ _ _ h]

@[simp] theorem imageOf_setImage_same (s : State) (k : Nat) (x : Option Image) : imageOf (setImage s k x) k = x := by
  simp only [imageOf, setImage, smGet_smSet_same]

theorem imageOf_setImage_other (s : State) (k j : Nat) (x : Option Image) (h : j ≠ k) : imageOf (setImage s k x) j = imageOf s j := by
  simp only [imageOf, setImage, smGet_smSet_other _ _ _ _ _ h]

@[simp] theorem tileQ_setQ_same (tl : Tile) (k : Nat) (x : Queue) : tileQ (setQ tl k x) k = x := by
  simp only [tileQ, setQ, smGet_smSet_same]

theorem tileQ_setQ_other (tl : Tile) (k j : Nat) (x : Queue) (h : j ≠ k) : tileQ (setQ tl k x) j = tileQ tl j := by
  simp only [tileQ, setQ, smGet_smSet_other _ _ _ _ _ h]

@[simp] theorem credit_setCredit_same (tl : Tile) (k : Nat) (x : Byte) : credit (setCredit tl k x) k = x := by
  simp only [credit, setCredit, smGet_smSet_same]

theorem credit_setCredit_other (tl : Tile) (k j : Nat) (x : Byte) (h : j ≠ k) : credit (setCredit tl k x) j = credit tl j := by
  simp only [credit, setCredit, smGet_smSet_other _ _ _ _ _ h]

@[simp] theorem vGet_vSet_same (tl : Tile) (k : Nat) (x : List Lane) : vGet (vSet tl k x) k = x := by
  simp only [vGet, vSet, smGet_smSet_same]

theorem vGet_vSet_other (tl : Tile) (k j : Nat) (x : List Lane) (h : j ≠ k) : vGet (vSet tl k x) j = vGet tl j := by
  simp only [vGet, vSet, smGet_smSet_other _ _ _ _ _ h]

@[simp] theorem bankGet_bankSet_same (tl : Tile) (k : Nat) (x : List Lane) : bankGet (bankSet tl k x) k = x := by
  simp only [bankGet, bankSet, smGet_smSet_same]

theorem bankGet_bankSet_other (tl : Tile) (k j : Nat) (x : List Lane) (h : j ≠ k) : bankGet (bankSet tl k x) j = bankGet tl j := by
  simp only [bankGet, bankSet, smGet_smSet_other _ _ _ _ _ h]

@[simp] theorem slotOf_modSlot_same (s : State) (n : Nat) (f : Slot → Slot) : slotOf (modSlot s n f) n = f (slotOf s n) := by
  simp only [modSlot, slotOf_setSlot_same]

theorem slotOf_modSlot_other (s : State) (n k : Nat) (f : Slot → Slot) (h : k ≠ n) : slotOf (modSlot s n f) k = slotOf s k := by
  simp only [modSlot, slotOf_setSlot_other _ _ _ _ h]

@[simp] theorem eng_setEng_same (tl : Tile) (e : Eng) (x : EngState) : eng (setEng tl e x) e = x := by
  simp only [eng, setEng, smGet_smSet_same]

theorem engNum_inj {e f : Eng} (h : engNum e = engNum f) : e = f := by
  cases e <;> cases f <;> first | rfl | exact absurd h (by decide)

theorem eng_setEng_other (tl : Tile) (e f : Eng) (x : EngState) (h : f ≠ e) : eng (setEng tl e x) f = eng tl f := by
  simp only [eng, setEng, smGet_smSet_other _ _ _ _ _ (fun c => h (engNum_inj c))]

/-- R92: a written s-register other than s0 reads back; s0 reads as zero. -/
theorem sGet_sSet_same (tl : Tile) (r : BitVec 5) (x : Lane) : sGet (sSet tl r x) r = if r = 0 then Lane.zero else x := by
  unfold sGet sSet
  split
  · rfl
  · simp only [smGet_smSet_same]

theorem sGet_sSet_other (tl : Tile) (r q : BitVec 5) (x : Lane) (h : q ≠ r) : sGet (sSet tl r x) q = sGet tl q := by
  have : q.toNat ≠ r.toNat := fun c => h (BitVec.eq_of_toNat_eq c)
  unfold sGet sSet
  split
  · rfl
  · split
    · rfl
    · simp only [smGet_smSet_other _ _ _ _ _ this]

@[simp] theorem aGet_aSet_same (tl : Tile) (r : BitVec 4) (x : ALane) : aGet (aSet tl r x) r = x := by
  simp only [aGet, aSet, smGet_smSet_same]

theorem aGet_aSet_other (tl : Tile) (r q : BitVec 4) (x : ALane) (h : q ≠ r) : aGet (aSet tl r x) q = aGet tl q := by
  have : q.toNat ≠ r.toNat := fun c => h (BitVec.eq_of_toNat_eq c)
  simp only [aGet, aSet, smGet_smSet_other _ _ _ _ _ this]

end Sys2Proof.Machine
end

