-- ==== Sys2Proof/Laws/Events.lean ====
section
/-! SUPPORT. What an event, a notice, and a detection can change: said once. -/

namespace Sys2Proof.Machine

set_option Elab.async false

/-- All that sending events and notices can change: memory behind the same ports, the event sequence and drop counts of the halves, LOST and the
notices of the window, the events that wait for the clocks, and the packets sent. -/
structure EventFrame (s s' : State) : Prop where
  pending : s'.pending = s.pending
  now : s'.now = s.now
  failed : s'.mem.failed = s.mem.failed
  tiles : s'.tiles = s.tiles
  slots : s'.slots = s.slots
  images : s'.images = s.images
  bseqs : s'.bseqs = s.bseqs
  bwaits : s'.bwaits = s.bwaits
  taken : s'.taken = s.taken
  replies : s'.replies = s.replies
  halfA : s'.halfA = { s.halfA with eseq := s'.halfA.eseq, evDropped := s'.halfA.evDropped }
  halfB : s'.halfB = { s.halfB with eseq := s'.halfB.eseq, evDropped := s'.halfB.evDropped }
  turns : s'.turns = s.turns
  modes : s'.modes = s.modes
  tb0 : s'.tb0 = s.tb0
  tb1 : s'.tb1 = s.tb1
  clocks : s'.clocks = { s.clocks with evs := s'.clocks.evs }
  pins : s'.pins = s.pins
  power : s'.power = s.power
  cal : s'.cal = s.cal
  fuse : s'.fuse = s.fuse
  ports : s'.ports = s.ports
  hosts : s'.hosts = s.hosts
  win : s'.win = { s.win with lost := s'.win.lost, notices := s'.win.notices }
  group : s'.group = s.group
  errs : s'.errs = s.errs
  su : s'.su = s.su

theorem EventFrame.refl (s : State) : EventFrame s s := by constructor <;> rfl

theorem EventFrame.trans {a b c : State} (h : EventFrame a b) (k : EventFrame b c) : EventFrame a c where
  pending := k.pending.trans h.pending
  now := k.now.trans h.now
  failed := k.failed.trans h.failed
  tiles := k.tiles.trans h.tiles
  slots := k.slots.trans h.slots
  images := k.images.trans h.images
  bseqs := k.bseqs.trans h.bseqs
  bwaits := k.bwaits.trans h.bwaits
  taken := k.taken.trans h.taken
  replies := k.replies.trans h.replies
  halfA := by rw [k.halfA, h.halfA]
  halfB := by rw [k.halfB, h.halfB]
  turns := k.turns.trans h.turns
  modes := k.modes.trans h.modes
  tb0 := k.tb0.trans h.tb0
  tb1 := k.tb1.trans h.tb1
  clocks := by rw [k.clocks, h.clocks]
  pins := k.pins.trans h.pins
  power := k.power.trans h.power
  cal := k.cal.trans h.cal
  fuse := k.fuse.trans h.fuse
  ports := k.ports.trans h.ports
  hosts := k.hosts.trans h.hosts
  win := by rw [k.win, h.win]
  group := k.group.trans h.group
  errs := k.errs.trans h.errs
  su := k.su.trans h.su

theorem sendNotice_frame (s : State) (n : Notice) : EventFrame s (sendNotice s n) := by
  unfold sendNotice sendPacket; split <;> constructor <;> rfl

theorem publishNotice_frame (s : State) (k : NoticeKey) (l : W32) : EventFrame s (publishNotice s k l) := by
  unfold publishNotice
  split
  · exact sendNotice_frame ..
  · split
    · constructor <;> rfl
    · exact .trans (b := { s with win := { s.win with notices := s.win.notices ++ [{ key := k, last := l, pending := false }] } })
        (by constructor <;> rfl) (sendNotice_frame ..)

theorem winPut_frame (s : State) (off : Nat) (ws : List W64) : EventFrame s (winPut s off ws) := by
  constructor <;> rfl

theorem modHalf_events_frame (s : State) (h : Half) (f : HalfState → HalfState)
    (hf : ∀ x : HalfState, f x = { x with eseq := (f x).eseq, evDropped := (f x).evDropped }) : EventFrame s (modHalf s h f) := by
  cases h <;> constructor <;> first | rfl | exact hf _

theorem putSlotWords_frame (s : State) (off : Nat) (ws : List W64) (o : Nat) : EventFrame s (putSlotWords s off ws o) :=
  (winPut_frame s off (ws.take 7)).trans (winPut_frame _ _ _)

theorem writeEvent_frame (s : State) (h : Half) (e : Ev) : EventFrame s (writeEvent s h e) :=
  ((putSlotWords_frame s _ _ 1).trans (modHalf_events_frame _ h (fun x => { x with eseq := x.eseq + 1 }) fun _ => rfl)).trans
    (publishNotice_frame ..)

theorem dropEvent_frame (s : State) (h : Half) : EventFrame s (dropEvent s h) :=
  (modHalf_events_frame s h (fun x => { x with evDropped := x.evDropped + 1 }) fun _ => rfl).trans (by constructor <;> rfl)

theorem flushLost_frame (s : State) (h : Half) : EventFrame s (flushLost s h) := by
  unfold flushLost
  split
  · exact .refl s
  · exact (writeEvent_frame ..).trans (modHalf_events_frame _ h (fun x => { x with evDropped := 0 }) fun _ => rfl)

/-- R333, R404: an event changes nothing but what EventFrame names. -/
theorem sendEvent_frame (s : State) (e : Ev) : EventFrame s (sendEvent s e) := by
  unfold sendEvent
  split
  · exact .refl s
  · split
    · constructor <;> rfl
    · split
      · exact .refl s
      · simp only []
        split
        · exact (flushLost_frame ..).trans (writeEvent_frame ..)
        · exact (flushLost_frame ..).trans (dropEvent_frame ..)

theorem sendHalfEvent_frame (s : State) (h : Half) (c : BitVec 16) (x : W64) : EventFrame s (sendHalfEvent s h c x) := sendEvent_frame ..

theorem sendBlockEvent_frame (s : State) (c : BitVec 16) (x : W64) : EventFrame s (sendBlockEvent s c x) := sendEvent_frame ..

theorem sendSlotEvent_frame (s : State) (n : Nat) (c : BitVec 16) (x : W64) : EventFrame s (sendSlotEvent s n c x) := sendEvent_frame ..

/-- All that a detection can change: what an event can, the error log, whether tiles are stopped, and the start-up sequencer's stop with its
NMI. -/
structure DetectFrame (s s' : State) : Prop where
  pending : s'.pending = s.pending
  now : s'.now = s.now
  failed : s'.mem.failed = s.mem.failed
  tiles : s'.tiles = s.tiles ∨ s'.tiles = s.tiles.map fun p => (p.1, { p.2 with stopped := true })
  slots : s'.slots = s.slots
  images : s'.images = s.images
  bseqs : s'.bseqs = s.bseqs
  bwaits : s'.bwaits = s.bwaits
  taken : s'.taken = s.taken
  replies : s'.replies = s.replies
  halfA : s'.halfA = { s.halfA with eseq := s'.halfA.eseq, evDropped := s'.halfA.evDropped }
  halfB : s'.halfB = { s.halfB with eseq := s'.halfB.eseq, evDropped := s'.halfB.evDropped }
  turns : s'.turns = s.turns
  modes : s'.modes = s.modes
  tb0 : s'.tb0 = s.tb0
  tb1 : s'.tb1 = s.tb1
  clocks : s'.clocks = { s.clocks with evs := s'.clocks.evs }
  pins : s'.pins = s.pins
  power : s'.power = s.power
  cal : s'.cal = s.cal
  fuse : s'.fuse = s.fuse
  ports : s'.ports = s.ports
  hosts : s'.hosts = s.hosts
  win : s'.win = { s.win with lost := s'.win.lost, notices := s'.win.notices }
  group : s'.group = s.group
  su : s'.su = { s.su with phase := s'.su.phase, code := s'.su.code, elapsed := s'.su.elapsed, counting := s'.su.counting, own := s'.su.own
                           dropped := s'.su.dropped }

theorem EventFrame.detect {s s' : State} (h : EventFrame s s') : DetectFrame s s' :=
  { h with tiles := .inl h.tiles, su := by rw [h.su] }

theorem DetectFrame.trans {a b c : State} (h : DetectFrame a b) (k : DetectFrame b c) : DetectFrame a c where
  pending := k.pending.trans h.pending
  now := k.now.trans h.now
  failed := k.failed.trans h.failed
  tiles := by
    rcases h.tiles with p | p <;> rcases k.tiles with q | q <;> rw [q, p]
    · exact .inl rfl
    · exact .inr rfl
    · exact .inr rfl
    · right; simp only [List.map_map]; rfl
  slots := k.slots.trans h.slots
  images := k.images.trans h.images
  bseqs := k.bseqs.trans h.bseqs
  bwaits := k.bwaits.trans h.bwaits
  taken := k.taken.trans h.taken
  replies := k.replies.trans h.replies
  halfA := by rw [k.halfA, h.halfA]
  halfB := by rw [k.halfB, h.halfB]
  turns := k.turns.trans h.turns
  modes := k.modes.trans h.modes
  tb0 := k.tb0.trans h.tb0
  tb1 := k.tb1.trans h.tb1
  clocks := by rw [k.clocks, h.clocks]
  pins := k.pins.trans h.pins
  power := k.power.trans h.power
  cal := k.cal.trans h.cal
  fuse := k.fuse.trans h.fuse
  ports := k.ports.trans h.ports
  hosts := k.hosts.trans h.hosts
  win := by rw [k.win, h.win]
  group := k.group.trans h.group
  su := by rw [k.su, h.su]

theorem modEntry_frame (s : State) (l : W32) (f : ErrEntry → ErrEntry) : DetectFrame s (modEntry s l f) := by
  constructor <;> first | rfl | exact .inl rfl

theorem setStep_frame (s : State) (l : W32) (k : ErrStep) : DetectFrame s (setStep s l k) := modEntry_frame ..

theorem appendEntry_frame (s : State) (e : ErrEntry) : DetectFrame s (appendEntry s e) := by
  simp only [appendEntry]
  split <;> constructor <;> first | rfl | exact .inl rfl

theorem errorLogged_frame (s : State) (e : ErrEntry) : EventFrame s (errorLogged s e) := by
  simp only [errorLogged]; split
  · exact .refl s
  · exact sendEvent_frame ..

theorem ownFrame_frame (s : State) (f : Frame) : DetectFrame s (ownFrame s f) := by
  simp only [ownFrame]; split <;> constructor <;> first | rfl | exact .inl rfl

theorem raiseNmi_frame (s : State) (c : Nat) : DetectFrame s (raiseNmi s c) := by
  simp only [raiseNmi]
  exact .trans (b := { s with errs := { s.errs with nmi := s.errs.nmi ||| BitVec.ofNat 4 (2 ^ c) } })
    (by constructor <;> first | rfl | exact .inl rfl) (ownFrame_frame ..)

theorem stopElapsed_frame (s : State) : DetectFrame s (stopElapsed s) := by
  simp only [stopElapsed]; split <;> constructor <;> first | rfl | exact .inl rfl

theorem supersede_frame (s : State) (p : ErrEntry → Bool) : DetectFrame s (supersede s p) := by
  simp only [supersede]
  generalize s.errs.log.filter _ = l
  induction l generalizing s with
  | nil => exact (EventFrame.refl s).detect
  | cons e l ih => exact (setStep_frame ..).trans (ih _)

theorem stopped_frame (b c : State) (h : DetectFrame b c) : DetectFrame b { c with
    tiles := c.tiles.map fun p => (p.1, { p.2 with stopped := true })
    errs := { c.errs with handling := none }
    su := { c.su with phase := .stopped, code := 0x20 } } :=
  h.trans (by constructor <;> first | rfl | exact .inr rfl)

theorem blockStop_frame (s : State) (d : Detect) : DetectFrame s (blockStop s d) := by
  unfold blockStop
  split
  · exact (EventFrame.refl s).detect
  · simp only []
    refine .trans ?_ (raiseNmi_frame ..)
    cases s.errs.handling with
    | none => exact stopped_frame _ _ ((appendEntry_frame ..).trans (stopElapsed_frame ..))
    | some l => exact stopped_frame _ _ (((modEntry_frame ..).trans (appendEntry_frame ..)).trans (stopElapsed_frame ..))

/-- R407, R417 to R420, R427: a detection changes nothing but what DetectFrame names. -/
theorem detect_frame (s : State) (d : Detect) : DetectFrame s (detect s d) := by
  unfold detect
  split
  · exact (EventFrame.refl s).detect
  · split
    · exact blockStop_frame ..
    · split
      · exact modEntry_frame ..
      · split
        · exact blockStop_frame ..
        · split
          · exact appendEntry_frame ..
          · split
            · exact blockStop_frame ..
            · simp only []
              exact ((appendEntry_frame ..).trans (supersede_frame ..)).trans (errorLogged_frame ..).detect

end Sys2Proof.Machine
end

