-- ==== Sys2Proof/Laws/Issue.lean ====
section
/-! SUPPORT. What the issue of an engine instruction is, said once: a ready instruction issues, and what follows its work. -/

namespace Sys2Proof.Machine

set_option linter.unusedSimpArgs false

theorem issueAt_ready {s : State} {t : BitVec 10} {e : Eng} {w : W64} {tl : Tile} (h : Ready s t e w tl) (b : Body) :
    issueAt s t.toNat e w b = issueWord s t.toNat e w b tl := by
  have h0 := h.going
  have h1 := h.kernel
  have h2 := h.runs
  simp only [issueAt, h.fetched, h.reach, h0, h1, h2, Bool.not_true, Bool.false_eq_true, or_self, if_false, ne_eq, not_true_eq_false]

theorem exec_ready {i : Instr} {c : EngineInstr} {e : Eng} {s : State} {tl : Tile} (hi : engineInstr i = some c) (hf : c.fits e)
    (h : Ready s c.tile e c.word tl) : exec i s = .next (issueWord s c.tile.toNat e c.word c.body tl) := by
  have hn := h.named
  have hr := issueAt_ready h
  obtain ⟨f1, f2⟩ := hf
  cases i <;> simp only [engineInstr, reduceCtorEq, Option.some.injEq] at hi <;> subst hi <;>
    simp only [if_true, Bool.false_eq_true, if_false] at f2 f1 hn hr ⊢ <;>
    first
    | (have f3 := f1; rw [f2] at f3
       simp only [exec, execNop, execRepeat, execKenter, execKend, execLi, execAlu, execAlui, execBr, execJmp, execSeta, execAdda,
         execAddas, execAread, execKarg, execCredit, execQrd, execQwr, execQstat, execTrap, execLoad, execStore, execLdq, execQst,
         execGather, execEbag, execZero, execSend, execRecv, execMmw, execMxout, execMzero, execVld, execVst, execVpop, execVpush, execVscl,
         execVop, execVopi, execVred, execVrot, execVpick, execVside, execVqz, execVqnt, execVqs, execVpack, execVunpk, execTfe, execTwalk,
         execTout, execAstep, issueOp, onTile, hn, f3, f2, hr, if_true])
    | (simp only [exec, execNop, execRepeat, issueAny, onTile, hn, f1, f2, hr, if_true])

theorem addUe_nil {s : State} {l : List (Nat × Nat)} (h : ∀ p ∈ l, p.2 = 0) : addUe s l = s := by
  unfold addUe
  induction l generalizing s with
  | nil => rfl
  | cons p l ih =>
    simp only [List.foldl_cons, h p (List.mem_cons_self ..), if_true]
    exact ih fun q hq => h q (List.mem_cons_of_mem _ hq)

theorem sendIssued_quiet {s : State} {t : Nat} {p : Pend} (h : match p with | .send c _ _ _ _ _ _ => c.isLocal = true | _ => True) :
    sendIssued s t p = s := by
  unfold sendIssued; split
  · simp only [] at h; simp only [h, if_true]
  · rfl

theorem addBytes_tile (s : State) (t u : Nat) (l) : tileOf (addBytes s t l) u = tileOf s u := by
  unfold addBytes; simp only []; split
  · rfl
  · exact modHalf_tileOf ..

theorem runOut_stays {s : State} {t : Nat} {e : Eng} {w : W64} (h : e = .sq → wOpcode w ≠ 0xc3 → (eng (tileOf s t) .sq).pos < (eng (tileOf s t) .sq).length) :
    runOut s t e w = s := by
  unfold runOut; simp only []
  split
  · rename_i hh; have := h hh.1 hh.2.1; omega
  · rfl

/-- A ready instruction whose answer is no fault issues: the words with a correctable error that it read are corrected, and what follows its work
follows (R63, R78, R79). -/
theorem issueWord_next {s : State} {t : BitVec 10} {e : Eng} {w : W64} {tl : Tile} (h : Ready s t e w tl) (b : Body) (r : IRes)
    (hr : r = answerOf s t e w tl b) (hf : r.fault = none) (ht : r.touch.any (portWaits s) = false) (hb : badTarget (eng tl e) r.jump = false) :
    issueWord s t.toNat e w b tl = runOut (afterIssue ((singlesOf s.mem r.reads).foldl correctUnit
      (issued s t e w (eng tl e).pos (eng r.tile e) r.tile r.mem r.pend (r.sigCtr.getD (wSig w, 1)) r.jump)) t.toNat e (eng tl e).pos r) t.toNat e w := by
  have h1 := h.room
  have h4 : (waits w && decide ((credit tl (waitCtr w)).toNat ≤ servedFirst tl e (waitCtr w))) = false := by
    cases hw : waits w
    · rfl
    · simpa using h.credit hw
  unfold issueWord
  simp only [answerOf] at hr
  simp only [← hr, hf, ht, hb, h1, h4, Bool.not_true, Bool.false_eq_true, or_self, if_false]
  rfl

/-- R135: words taken from a queue go into the store, with those tagged that came with PZ; nothing else of the front end changes. -/
theorem pullWords_frame (n : Nat) (is : List QItem) (q : Queue) (x : EngState) :
    (pullWords n is q x).2 = { x with store := (pullWords n is q x).2.store, tagged := (pullWords n is q x).2.tagged } := by
  induction is generalizing q x with
  | nil => rfl
  | cons i is ih =>
    simp only [pullWords]
    split
    · rfl
    · rw [ih]

/-- R135: reading on changes the store of SQ's front end, and nothing else of it. -/
theorem eng_readOn (tl : Tile) (e : Eng) :
    eng (readOn tl e) e = { eng tl e with store := (eng (readOn tl e) e).store, tagged := (eng (readOn tl e) e).tagged } := by
  simp only [readOn]
  split
  · simp only [pullTo, eng_setEng_same]
    exact pullWords_frame ..
  · rfl

theorem eng_readOn_pos (tl : Tile) (e : Eng) : (eng (readOn tl e) e).pos = (eng tl e).pos := by rw [eng_readOn]

theorem eng_readOn_loops (tl : Tile) (e : Eng) : (eng (readOn tl e) e).loops = (eng tl e).loops := by rw [eng_readOn]

theorem eng_readOn_length (tl : Tile) (e : Eng) : (eng (readOn tl e) e).length = (eng tl e).length := by rw [eng_readOn]

theorem eng_readOn_flight (tl : Tile) (e : Eng) : (eng (readOn tl e) e).flight = (eng tl e).flight := by rw [eng_readOn]

/-- Where an instruction leaves the position within the words that have arrived, nothing is read on. -/
theorem readOn_here (tl : Tile) (e : Eng) (h : e = .sq → (eng tl e).pos ≤ (eng tl e).store.length) : readOn tl e = tl := by
  simp only [readOn]
  split
  · rename_i c; have := h c.1; omega
  · rfl

theorem addBytes_nil (s : State) (t : Nat) : addBytes s t [] = s := by
  simp only [addBytes, List.filter_nil, List.map_nil, List.sum_nil, if_true]

/-- A ready instruction whose answer is quiet, meets no correctable error and moves no stack bytes issues, and nothing else follows. -/
theorem exec_quiet {i : Instr} {c : EngineInstr} {e : Eng} {s : State} {tl : Tile} (hi : engineInstr i = some c) (hf : c.fits e)
    (h : Ready s c.tile e c.word tl) (r : IRes) (hr : answerOf s c.tile e c.word tl c.body = r) (hn : r.fault = none) (hq : Quiet r)
    (hc : singlesOf s.mem r.reads = []) (ht : r.touch = []) (hb : badTarget (eng tl e) r.jump = false)
    (hs : staysIn e c.word (eng r.tile e) r.jump) : exec i s = .next (issued s c.tile e c.word (eng tl e).pos (eng r.tile e) r.tile r.mem r.pend (r.sigCtr.getD (wSig c.word, 1)) r.jump) := by
  rw [exec_ready hi hf h, issueWord_next h _ r hr.symm hn (by rw [ht]; rfl) hb]
  obtain ⟨q1, q2, q3, q4, q5⟩ := hq
  simp only [afterIssue, hc, q1, q2, q3, List.foldl_nil, addOverruns, addUe_nil q4, sendIssued_quiet q5, ht, addBytes_nil]
  rw [runOut_stays]
  intro he hw
  subst he
  simp only [issued]
  show (eng (tileOf (setTile _ _ _) _) .sq).pos < (eng (tileOf (setTile _ _ _) _) .sq).length
  rw [tileOf_setTile_same, eng_readOn_pos, eng_readOn_length, eng_setEng_same]
  have := hs rfl hw
  revert this
  unfold advance
  cases r.jump <;> exact id

theorem eng_paid (tl : Tile) (w : W64) (e : Eng) : eng (paid tl w) e = eng tl e := by unfold paid; split <;> rfl
theorem sGet_paid (tl : Tile) (w : W64) (e) : sGet (paid tl w) e = sGet tl e := by unfold paid; split <;> rfl
theorem aGet_paid (tl : Tile) (w : W64) (e) : aGet (paid tl w) e = aGet tl e := by unfold paid; split <;> rfl
theorem tainted_paid (tl : Tile) (w : W64) : (paid tl w).tainted = tl.tainted := by unfold paid; split <;> rfl
theorem args_paid (tl : Tile) (w : W64) : (paid tl w).args = tl.args := by unfold paid; split <;> rfl
theorem tileQ_paid (tl : Tile) (w : W64) (q) : tileQ (paid tl w) q = tileQ tl q := by unfold paid; split <;> rfl
theorem kid_paid (tl : Tile) (w : W64) : (paid tl w).kernelId = tl.kernelId := by unfold paid; split <;> rfl


/-- A ready instruction that only changes its tile, to `tl'`, and leaves `p`, `sg` and `j` (R94). -/
theorem exec_done {i : Instr} {c : EngineInstr} {e : Eng} {s : State} {tl : Tile} (hi : engineInstr i = some c) (hf : c.fits e)
    (h : Ready s c.tile e c.word tl) (tl' : Tile) (p : Pend) (sg : Option (Nat × Nat)) (j : Option Int)
    (ha : answerOf s c.tile e c.word tl c.body = { iresDone (envOf s c.tile.toNat (eng tl e)) tl' with pend := p, sigCtr := sg, jump := j })
    (hp : match p with | .send c _ _ _ _ _ _ => c.isLocal = true | _ => True) (he : eng tl' e = eng tl e)
    (hb : badTarget (eng tl e) j = false) (hs : staysIn e c.word (eng tl e) j) :
    exec i s = .next (issued s c.tile e c.word (eng tl e).pos (eng tl e) tl' s.mem p (sg.getD (wSig c.word, 1)) j) := by
  have hq : Quiet { iresDone (envOf s c.tile.toNat (eng tl e)) tl' with pend := p, sigCtr := sg, jump := j } := by
    refine ⟨rfl, rfl, rfl, fun q hm => absurd hm List.not_mem_nil, ?_⟩
    cases p <;> first | exact hp | exact trivial
  have hx : staysIn e c.word (eng ({ iresDone (envOf s c.tile.toNat (eng tl e)) tl' with pend := p, sigCtr := sg, jump := j } : IRes).tile e) j := by
    rw [show ({ iresDone (envOf s c.tile.toNat (eng tl e)) tl' with pend := p, sigCtr := sg, jump := j } : IRes).tile = tl' from rfl, he]
    exact hs
  rw [exec_quiet hi hf h _ ha rfl hq rfl rfl hb hx]
  simp only [iresDone, he, envOf]

end Sys2Proof.Machine
end

