-- ==== Sys2Proof/Laws/Memory.lean ====
section
/-! SUPPORT. The byte memory: a write keeps the canonical form, is read back, and leaves every other byte alone. -/

namespace Sys2Proof.Machine

theorem putBytes_wf (m : Mem) (cs : List Host.Cell) (a : Nat) (l : List Byte) (h : smWf (0 : Byte) cs) :
    smWf (0 : Byte) (putBytes m cs a l) := by
  induction l generalizing cs a with
  | nil => exact h
  | cons b l ih =>
    unfold putBytes
    apply ih
    split
    · exact h
    · exact smSet_wf 0 cs a b h

theorem putPoison_wf (m : Mem) (a : Nat) (l : List PByte) (p : SMap Bool) (bs : List Nat) (h : smWf false p) :
    smWf false (putPoison m a l p bs) := by
  induction bs generalizing p with
  | nil => exact h
  | cons b bs ih =>
    unfold putPoison
    apply ih
    split
    · exact h
    · exact smSet_wf false p b _ h

theorem healUnits_wf (p : SMap Bool) (bs : List Nat) (h : smWf false p) : smWf false (healUnits p bs) := by
  induction bs generalizing p with
  | nil => exact h
  | cons b bs ih => exact ih _ (smErase_wf false p b h)

/-- Every write to the memory keeps its canonical form. -/
theorem memWrite_wf (m : Mem) (a : Nat) (l : List PByte) (h : Memory.wf m) : Memory.wf (memWrite m a l) :=
  ⟨putBytes_wf m m.cells a _ h.1, putPoison_wf m a l m.poison _ h.2.1, healUnits_wf m.single _ h.2.2⟩

/-- A read that writes corrected words back keeps the canonical form. -/
theorem memHeal_wf (m : Mem) (a n : Nat) (h : Memory.wf m) : Memory.wf (memHeal m a n) := ⟨h.1, h.2.1, healUnits_wf m.single _ h.2.2⟩

theorem healUnits_nil (bs : List Nat) : healUnits [] bs = [] := by
  induction bs with
  | nil => rfl
  | cons b bs ih => exact ih

/-- A write to a memory without correctable errors leaves none. -/
theorem memWrite_single (m : Mem) (a : Nat) (l : List PByte) (h : m.single = []) : (memWrite m a l).single = [] := by
  show healUnits m.single _ = []
  rw [h, healUnits_nil]

/-- Reads of a memory without correctable errors meet none. -/
theorem singlesOf_nil (m : Mem) (rs : List (Nat × Nat)) (h : m.single = []) : singlesOf m rs = [] := by
  have : ∀ p ∈ rs, singleUnits m p.1 p.2 = [] := by
    intro p _
    simp [singleUnits, h, smGet]
  simp only [singlesOf, List.flatMap_eq_nil_iff.mpr this, List.eraseDups_nil]

theorem memPutWord_wf (m : Mem) (a : Nat) (w : W64) (h : Memory.wf m) : Memory.wf (memPutWord m a w) := memWrite_wf m a _ h

theorem memPutWords_wf (m : Mem) (a : Nat) (ws : List W64) (h : Memory.wf m) : Memory.wf (memPutWords m a ws) := memWrite_wf m a _ h

theorem clearRange_wf (m : Mem) (a n : Nat) (h : Memory.wf m) : Memory.wf (clearRange m a n) :=
  ⟨smFilter_wf 0 m.cells _ h.1, smFilter_wf false m.poison _ h.2.1, smFilter_wf false m.single _ h.2.2⟩

theorem stacksOnly_wf (m : Mem) (h : Memory.wf m) : Memory.wf (stacksOnly m) :=
  ⟨smFilter_wf 0 m.cells _ h.1, smFilter_wf false m.poison _ h.2.1, smFilter_wf false m.single _ h.2.2⟩

/-- The memory after reset is in canonical form. -/
theorem reset_mem_wf : Memory.wf State.reset.mem := by decide

@[simp] theorem memWrite_failed (m : Mem) (a : Nat) (l : List PByte) : (memWrite m a l).failed = m.failed := rfl

@[simp] theorem memDead_memWrite (m : Mem) (a : Nat) (l : List PByte) (b : Nat) : memDead (memWrite m a l) b = memDead m b := rfl

theorem putBytes_other (m : Mem) (cs : List Host.Cell) (a : Nat) (l : List Byte) (b : Nat) (h : b < a ∨ a + l.length ≤ b) :
    smGet 0 (putBytes m cs a l) b = smGet 0 cs b := by
  induction l generalizing cs a with
  | nil => rfl
  | cons x l ih =>
    have hl : (x :: l).length = l.length + 1 := rfl
    unfold putBytes
    rw [ih _ _ (by omega)]
    split
    · rfl
    · exact smGet_smSet_other 0 cs a b x (by omega)

/-- A write leaves every byte outside it alone. -/
theorem memByte_memWrite_other (m : Mem) (a : Nat) (l : List PByte) (b : Nat) (h : b < a ∨ a + l.length ≤ b) :
    memByte (memWrite m a l) b = memByte m b := by
  have e := putBytes_other m m.cells a (l.map (·.1)) b (by simpa using h)
  have c : (memWrite m a l).cells = putBytes m m.cells a (l.map (·.1)) := rfl
  simp only [memByte, memDead_memWrite, c, e]

theorem putBytes_same (m : Mem) (cs : List Host.Cell) (a : Nat) (l : List Byte) (i : Nat) (hi : i < l.length)
    (hd : memDead m (a + i) = false) : smGet 0 (putBytes m cs a l) (a + i) = l[i] := by
  induction l generalizing cs a i with
  | nil => simp at hi
  | cons x l ih =>
    unfold putBytes
    cases i with
    | zero =>
      rw [putBytes_other m _ _ _ _ (by omega)]
      have : memDead m a = false := by simpa using hd
      simp [this]
    | succ i =>
      have e : a + (i + 1) = a + 1 + i := by omega
      rw [e] at hd ⊢
      simpa using ih _ (a + 1) i (by simpa using hi) hd

/-- A byte written reads back, unless its port has FAILED (R346). -/
theorem memByte_memWrite_same (m : Mem) (a : Nat) (l : List PByte) (i : Nat) (hi : i < l.length)
    (hd : memDead m (a + i) = false) : memByte (memWrite m a l) (a + i) = l[i].1 := by
  have e := putBytes_same m m.cells a (l.map (·.1)) i (by simpa using hi) hd
  have c : (memWrite m a l).cells = putBytes m m.cells a (l.map (·.1)) := rfl
  have f : (l.map (·.1))[i]'(by simpa using hi) = l[i].1 := by simp
  simp only [memByte, memDead_memWrite, hd, c]
  exact e.trans f

end Sys2Proof.Machine
end

