-- ==== Sys2Proof/WellFormed.lean ====
section
/-! DEFINITION. Which commands are well formed: what an operand of a fixed width can hold that names nothing (R16, R40, R316, R392). -/

namespace Sys2Proof

/-- R40: a tile ID names a row of 0 to 11 and a column of 0 to 23. -/
def tileIdOk (t : BitVec 10) : Bool := t.toNat / 32 % 16 ≤ 11 && t.toNat % 32 ≤ 23

/-- R392: a domain number is 0 to 35. -/
def domainOk (d : BitVec 6) : Bool := decide (d.toNat < 36)

/-- R316: LEN of a packet is a field of 12 bits. -/
def payloadOk (l : List W64) : Bool := decide (l.length < 4096)

/-- R16, R56: a register address is aligned to its 8-byte word. -/
def regAddrOk (a : W48) : Bool := a.toNat % 8 == 0

/-- The well-formed commands. -/
def Instr.wf : Instr → Bool
  | .nop t _ => tileIdOk t
  | .repeat_ t _ => tileIdOk t
  | .kenter t _ => tileIdOk t
  | .kend t _ => tileIdOk t
  | .li t _ => tileIdOk t
  | .alu t _ => tileIdOk t
  | .alui t _ => tileIdOk t
  | .br t _ => tileIdOk t
  | .jmp t _ => tileIdOk t
  | .seta t _ => tileIdOk t
  | .adda t _ => tileIdOk t
  | .addas t _ => tileIdOk t
  | .aread t _ => tileIdOk t
  | .karg t _ => tileIdOk t
  | .credit t _ => tileIdOk t
  | .qrd t _ => tileIdOk t
  | .qwr t _ => tileIdOk t
  | .qstat t _ => tileIdOk t
  | .trap t _ => tileIdOk t
  | .load t _ => tileIdOk t
  | .store t _ => tileIdOk t
  | .ldq t _ => tileIdOk t
  | .qst t _ => tileIdOk t
  | .gather t _ => tileIdOk t
  | .ebag t _ => tileIdOk t
  | .zero t _ => tileIdOk t
  | .send t _ => tileIdOk t
  | .recv t _ => tileIdOk t
  | .mmw t _ => tileIdOk t
  | .mxout t _ => tileIdOk t
  | .mzero t _ => tileIdOk t
  | .vld t _ => tileIdOk t
  | .vst t _ => tileIdOk t
  | .vpop t _ => tileIdOk t
  | .vpush t _ => tileIdOk t
  | .vscl t _ => tileIdOk t
  | .vop t _ => tileIdOk t
  | .vopi t _ => tileIdOk t
  | .vred t _ => tileIdOk t
  | .vrot t _ => tileIdOk t
  | .vpick t _ => tileIdOk t
  | .vside t _ => tileIdOk t
  | .vqz t _ => tileIdOk t
  | .vqnt t _ => tileIdOk t
  | .vqs t _ => tileIdOk t
  | .vpack t _ => tileIdOk t
  | .vunpk t _ => tileIdOk t
  | .tfe t _ => tileIdOk t
  | .twalk t _ => tileIdOk t
  | .tout t _ => tileIdOk t
  | .astep t _ => tileIdOk t
  | .instructionComplete t _ _ => tileIdOk t
  | .creditStall t => tileIdOk t
  | .streamLoaderFill t _ => tileIdOk t
  | .kernelEnd t => tileIdOk t
  | .exchangeTimeout t _ => tileIdOk t
  | .tileFlush t _ => tileIdOk t
  | .illegalOpcode t _ _ => tileIdOk t
  | .mwr _ _ _ data => payloadOk data
  | .registerWrite addr _ => regAddrOk addr
  | .admitReq _ => true
  | .tokens _ => true
  | .takeback _ => true
  | .resign _ => true
  | .pause _ => true
  | .resume _ => true
  | .resumeLoss _ => true
  | .resumeRebuild _ => true
  | .prefixRefMark _ => true
  | .prefixRefDrop _ => true
  | .closeClock d => domainOk d
  | .openClock d => domainOk d
  | .powerOff d => domainOk d
  | .powerOn d => domainOk d
  | .domainFault d => domainOk d
  | .boxcarsHot sensor _ => decide (sensor.toNat < 24)
  | .hotClear temps => temps.length == 24
  | .kernelDispatch _ _ => true
  | .turnMark _ _ => true
  | .turnStall => true
  | .pauseExpiry _ => true
  | .handleExpiry _ _ => true
  | .mrd _ _ _ => true
  | .doorbell _ _ _ => true
  | .pauseDrained _ => true
  | .pauseTransferDone _ => true
  | .imageFetchDone _ => true
  | .verdictEntryReturned _ => true
  | .bulletinTimeout _ => true
  | .bulletinSlotReturned _ => true
  | .eventEntryReturned _ => true
  | .imageBufferReturned _ => true
  | .masksetEntryReturned _ => true
  | .noticeInterval _ => true
  | .mcSeat _ => true
  | .mcRd _ => true
  | .mcWr _ => true
  | .mcForward _ => true
  | .reqSlotSel _ _ => true
  | .errLogSel _ => true
  | .meterSel _ => true
  | .codeSel _ => true
  | .routeLoad _ => true
  | .routeLoadComplete => true
  | .codeLoad _ => true
  | .codeAct _ => true
  | .gateHandshakeDone _ => true
  | .gateTimeout => true
  | .railGood => true
  | .railTimeout => true
  | .clkReturnNow => true
  | .fwLoad _ => true
  | .fwAuthComplete => true
  | .seal => true
  | .shutdown => true
  | .shutdownComplete => true
  | .loadProgram _ _ => true
  | .unloadProgram _ => true
  | .loadPlan _ => true
  | .stewardCommandDone => true
  | .xchDataItem _ _ => true
  | .xchScaleItem _ _ => true
  | .xchAckItem _ _ => true
  | .xchNakItem _ _ => true
  | .outSlotReturned _ => true
  | .resetNFall => true
  | .resetNRise => true
  | .pwrOkRise => true
  | .pwrOkFall => true
  | .vinOutOfRange => true
  | .haltReqAssert => true
  | .haltReqRelease => true
  | .haltStuck => true
  | .haltRearmed => true
  | .blockLockAcquired _ => true
  | .blockLockLost _ => true
  | .frameLockAcquired _ => true
  | .frameLockLost _ => true
  | .windowCheck _ _ => true
  | .watchCheck _ _ _ => true
  | .trimUpdate _ => true
  | .relockEnd => true
  | .stkPgRise _ => true
  | .mpTrained _ _ => true
  | .mpTrainTimeout _ _ => true
  | .stkPgFall _ => true
  | .memPortRetrain _ => true
  | .mpRetrained _ _ => true
  | .mpRetrainTimeout _ => true
  | .linkFlitReplay _ _ => true
  | .hostPortDown _ => true
  | .hostPortUp _ _ => true
  | .boxcarsSpent => true
  | .boxcarsWorn => true
  | .thermalRecovered => true
  | .errorEntryHandle => true
  | .recoveryStepTimeout => true
  | .startupPhaseEnd => true
  | .startupTimeout _ => true
  | .badpkt _ _ => true
  | .baditem _ _ => true
  | .startOfFrameFault _ _ _ => true
  | .filteredPulse _ => true

end Sys2Proof
end

