-- ==== Sys2Proof/Tests/Slice0.lean ====
section
/-! SUPPORT. The author's tests: terms that the checks of WellFormed refuse, single steps with the results the spec gives, and for every
statement a state and operands that meet all its premises. -/

set_option Elab.async false
set_option linter.unusedVariables false

namespace Sys2Proof.Tests
open Sys2Proof Sys2Proof.Machine

/-- The state a step left; the reset state where it stopped. -/
def after (o : Host.Outcome State Fault Refusal) : State :=
  match o with
  | .next s => s
  | _ => State.reset

/-- A clean 32-bit register or lane. -/
def reg (v : Nat) : Machine.Lane := ⟨BitVec.ofNat 32 v, false⟩

/-- A clean a-register. -/
def areg (v : Nat) : ALane := ⟨BitVec.ofNat 48 v, false⟩

/-- An instruction word (R88): opcode, WAIT, SIG, and its operand fields, each with its lowest bit. -/
def iw (op wait sig : Nat) (fields : List (Nat × Nat)) : W64 :=
  BitVec.ofNat 64 (op * 2 ^ 56 + wait * 2 ^ 52 + sig * 2 ^ 48 + (fields.map fun f => f.2 * 2 ^ f.1).sum)

/-- A block past its seal: READY, seated, with a window of 16 MiB at block address 0 and the turn 5 open. -/
def ready : State :=
  let s := State.reset
  { s with
    su := { s.su with phase := .ready, sealed := true, counting := false, seated := true, addr := 0x0101 }
    win := { s.win with base := 0, size := 0x100 }
    turns := { s.turns with seen := true, last := 5, cur := 5, plan := 5, nom := 8000 } }

/-- A tile that runs a kernel whose engine `e` reaches word `w` next, at position `pos` of 4. -/
def tileAt (e : Eng) (pos : Nat) (w : W64) : Tile :=
  setEng { Tile.idle with kernel := true, kernelId := 7, args := [11, 22, 33] } e
    { EngState.idle with length := 4, pos := pos, store := (List.replicate pos 0) ++ [w] }

/-- The block whose tile 0 is that tile at position 1, changed by `f`. -/
def at1 (e : Eng) (w : W64) (f : Tile → Tile) : State := setTile ready 0 (f (tileAt e 1 w))

/-- Tile 0 with the next word of engine `e` fetched. -/
def fetched (s : State) (e : Eng) : Tile := (fetchWord (tileOf s 0) e).elim (tileOf s 0) (·.2)

/-- A queue word of `n` lanes that all hold `v`. -/
def qw (n v : Nat) : QWord := { lanes := List.replicate n (BitVec.ofNat 64 v), pz := false }

/-- A packet. -/
def pkt (words : List QWord) : QItem := { kind := 1, seq := 0, ovr := false, words := words, flips := [] }

/-- A tile whose queue `q` holds one item. -/
def holding (q : Nat) (i : QItem) (tl : Tile) : Tile := setQ tl q { Queue.empty with items := [i] }

/-- A tile with these a-registers. -/
def regsA (l : List (Nat × Nat)) (tl : Tile) : Tile := { tl with a := l.map fun p => (p.1, areg p.2) }

/-- A tile with these s-registers. -/
def regsS (l : List (Nat × Nat)) (tl : Tile) : Tile := { tl with s := l.map fun p => (p.1, reg p.2) }

/-- The block with bytes of memory written. -/
def bytesAt (a : Nat) (bs : List Nat) (s : State) : State := { s with mem := memWrite s.mem a (clean (bs.map (BitVec.ofNat 8))) }

/-- The block with 64-bit words of memory written. -/
def wordsAt (a : Nat) (ws : List Nat) (s : State) : State := { s with mem := memPutWords s.mem a (ws.map (BitVec.ofNat 64)) }

/-- A tenant image whose one kernel has its descriptor at 0x20000. -/
def img1 : Image :=
  { tenant := 9, base := 0xf00000000000, len := 0x1000, plag := 2, rate := 16, pmax := 8, maskc := 1, classes := [{ rowsMax := 4096, cls := 1, tc := 1, mb := 1 }]
    omode := false, masks := false, mset := 0, msUnit := 0, msCount := 0, msEntry := 0, tqds := [], values := [], kernels := [0x20000], segs := []
    admits := true, serves := true, retiring := false }

/-- A plan of two members with a kernel of tenant 9 on tile 0 and a mask-lane tile on each half. -/
def plan1 : PlanDef :=
  { major := 2, minor := 0, group := 5, addrs := [0x0101, 0x0102], maps := [], start := 3, logb := 0
    kernels := [{ half := .A, tile := 0, tenant := 9, kernel := 7, fixed := none, args := [44], verdict := true }]
    maskTilesA := [1], maskTilesB := [513], maskKernels := [(9, 7, [])] }

/-- The ready block with its directory, one tenant image, its plan and route map, and a page region in each half. -/
def hosted : State :=
  let s := wordsAt 0x20000 [7 * 2 ^ 48 + 1 * 2 ^ 16] (wordsAt (0x20000 + 56) [4] ready)
  { s with
    images := [(1, some img1)]
    hosts := [(2, { HostPort.off with trained := true })]
    group := { s.group with
      plan := some plan1, areaBase := 0x70, areaLog2 := 4
      newMap := some { epoch := 3, ents := (List.replicate 9 0) ++ [BitVec.ofNat 64 (2 ^ 62 + 0x0101 * 2 ^ 32)] } }
    halfA := { s.halfA with pageBase := 0x100, pageCount := 64 }
    halfB := { s.halfB with pageBase := 0x200, pageCount := 64 }
    win := { s.win with
      copy := [0x100000, 2, 0x800000, 0x120000, 4, 0x10000000200000, 1, 0x4010000400000, 0x4010000410000, 0x4000000420000, 0x4000000430000,
        0, 0, 0, 0, 0, 0x300000, 16] ++ List.replicate 30 0 } }

/-- A slot of tenant 9 in state `st`, changed by `f`. -/
def slot1 (st : SlotSt) (f : Slot → Slot) : Slot :=
  f { r := { SlotRec.free with st := st, tenant := 9, sgen := 4, epoch := 3, ring := 1, plag := 2, commit := 100, head := 110 }
      w := { SlotWork.none with image := 1, ringBase := 0x500000, ringCount := 8, computed := 100, published := 100, screened := 110, entered := 110 } }

/-- The hosted block with that slot as slot 0. -/
def slotted (st : SlotSt) (f : Slot → Slot) : State := setSlot hosted 0 (slot1 st f)

/-- A message of ring 0 with its words; its slot, where it names one, is 0 with SGEN 4 and tenant 9. -/
def msg (type : Nat) (w1 w2 w3 w4 : Nat) : Msg :=
  { ring := 0, idx := 0, w0 := BitVec.ofNat 64 (type * 2 ^ 56 + 2 * 2 ^ 48 + 3 * 2 ^ 32)
    w1 := BitVec.ofNat 64 (9 * 2 ^ 48 + 4 * 2 ^ 24 + w1), w2 := BitVec.ofNat 64 w2, w3 := BitVec.ofNat 64 w3, w4 := BitVec.ofNat 64 w4 }

/-- The block with message `m` the next to be decided. -/
def asked (m : Msg) (s : State) : State := { s with taken := [m], replies := [{ ring := 0, idx := 0, turn := 5, words := none }] }
def wLi : W64 := iw 0xc4 0 1 [(43, 31), (0, 77)]
def sLi : State := at1 .sq wLi id
def wRep : W64 := iw 0x41 0 0 [(40, 1), (0, 65535)]
def sRep : State := at1 .vx wRep id
def wBadLi : W64 := iw 0xc4 0 1 [(43, 31), (40, 1), (0, 77)]
def sBadLi : State := at1 .sq wBadLi id
def wEnter : W64 := iw 0xc2 0 0 [(0, 7)]
def sEnter1 : State := at1 .sq wEnter id
def wRep2 : W64 := iw 0x41 0 0 [(40, 2), (0, 1)]
def sRep2 : State := at1 .vx wRep2 id
def sLi3 : State := setTile ready 0 (tileAt .sq 3 wLi)
def wWaits : W64 := iw 0xc4 15 1 [(43, 31), (0, 77)]
def sWaits : State := at1 .sq wWaits id
def sq (w : W64) : State := at1 .sq w fun tl => regsS [(1, 0x80000001), (2, 3)] (regsA [(1, 0x123456789abc), (2, 0xffffffffffff)] tl)
def wAlu : W64 := iw 0xc5 0 0 [(43, 3), (38, 1), (33, 2), (29, 15)]
def wAlui : W64 := iw 0xc6 0 15 [(43, 3), (38, 1), (34, 0), (0, 0x8000)]
def wAread : W64 := iw 0xcc 0 0 [(43, 3), (39, 2), (38, 1)]
def wKarg : W64 := iw 0xcd 0 0 [(43, 3), (34, 15)]
def wQstat : W64 := iw 0xd1 0 0 [(43, 3), (38, 4), (33, 17)]
def wSeta0 : W64 := iw 0xc9 0 0 [(44, 15), (42, 0), (0, 0xffffffff)]
def wSeta1 : W64 := iw 0xc9 0 0 [(44, 1), (42, 1), (0, 0xffff)]
def wSeta2 : W64 := iw 0xc9 0 0 [(44, 1), (42, 2), (0, 0)]
def wSeta3 : W64 := iw 0xc9 0 0 [(44, 1), (42, 1), (0, 0x10000)]
def wAdda : W64 := iw 0xca 0 0 [(44, 1), (40, 2), (0, 0x80000000)]
def wAddas : W64 := iw 0xcb 0 0 [(44, 1), (40, 2), (35, 1), (31, 15)]
def wNop : W64 := iw 0x20 0 15 []
def sNop : State := at1 .mx wNop id
def sEnter : State := setTile ready 0 { tileAt .sq 0 wEnter with credits := [(0, 1)] }
def wKend : W64 := iw 0xc3 0 0 []
def sKend : State := setTile ready 0 (tileAt .sq 3 wKend)
def wBr : W64 := iw 0xc7 0 0 [(45, 5), (40, 1), (35, 1), (0, 0xffff)]
def wBr0 : W64 := iw 0xc7 0 0 [(45, 0), (40, 1), (35, 2), (0, 2)]
def wJmp : W64 := iw 0xc8 0 0 [(0, 2)]
def wCredit : W64 := iw 0xce 0 0 [(44, 15), (0, 255)]
def wQrd : W64 := iw 0xcf 0 0 [(43, 1), (38, 2)]
def sQrd : State := at1 .sq wQrd (holding qAuSq (pkt [qw 1 0xfedcba9876543210]))
def wQwr : W64 := iw 0xd0 0 0 [(43, 1), (38, 2)]
def sc0 : Nat := 0xf80000000000
def ld (w : W64) (s : State := ready) : State := setTile s 0 (regsA [(1, 0x10000), (2, 0x80), (3, 5), (4, 0x4000), (5, 0x8000), (6,0), (7,0x200)] (tileAt .ld 1 w))
def wLoad : W64 := iw 0x02 0 3 [(44, 1), (40, 2), (30, 0), (16, 0x3fff), (2, 1)]
def sLoad : State := ld wLoad (bytesAt 0x10000 (List.range 64) ready)
def wStore : W64 := iw 0x03 0 3 [(44, 1), (40, 2), (30, 1), (16, 1), (2, 1)]
def sStore : State := ld wStore (bytesAt (sc0 + 0x80) (List.range 128) ready)
def wZero : W64 := iw 0x08 0 3 [(44, 2), (34, 1)]
def sZero : State := ld wZero (bytesAt (sc0 + 0x80) (List.range 200) ready)
def wZeroA : W64 := iw 0x08 0 3 [(44, 3), (34, 1)]
def sZeroA : State := ld wZeroA
def wQst : W64 := iw 0x05 0 0 [(44, 1), (43, 0), (39, 0), (25, 1)]
def sQst : State := setTile ready 0 (holding qVxLd (pkt [qw 32 7, qw 32 9]) (tileOf (ld wQst) 0))
def wLdq : W64 := iw 0x04 0 0 [(44, 1), (42, 3), (35, 127), (27, 0xff), (13, 0)]
def sLdq : State := ld wLdq
def wGather : W64 := iw 0x06 0 0 [(44, 4), (40, 2), (36, 7), (26, 1), (20, 0), (19, 0)]
def sGather : State := setTile (wordsAt 0x4000 (List.range 40) (wordsAt (sc0 + 0x80) [0x100000004] ready)) 0 (regsA [(4, 0x4000), (5, 5), (2, 0x80), (7, 0x200)] (tileAt .ld 1 wGather))
def wEbag : W64 := iw 0x07 0 0 [(44, 4), (40, 2), (36, 7), (32, 8), (24, 1), (18, 0), (17, 0), (16, 0)]
def sEbag : State := setTile (wordsAt 0x4000 [0x3f8000003f800000, 0x4000000040000000] (wordsAt (sc0 + 0x80) [0x100000000] (wordsAt (sc0 + 0x200) [0x100000000, 2] ready))) 0 (regsA [(4, 0x4000), (5, 5), (2, 0x80), (7, 0x200), (8, 0x400)] (tileAt .ld 1 wEbag))
def wEbag1 : W64 := iw 0x07 0 0 [(44, 4), (40, 2), (36, 7), (32, 8), (24, 0), (18, 0), (17, 1), (16, 1)]
def sEbag1 : State := setTile (wordsAt 0x4000 [0x3f8000003f800000, 0x4000000040000000] (wordsAt (sc0 + 0x80) [0x123456789, 77] (wordsAt (sc0 + 0x200) [0x100000000] ready))) 0 (regsA [(4, 0x4000), (5, 0xff0200000003), (2, 0x80), (7, 0x200), (8, 0x400)] (tileAt .ld 1 wEbag1))
def vrow (n : Nat) : List Machine.Lane := (List.range 64).map fun i => reg (0x3f800000 + n * 0x800000 + i * 4096)
def vx (w : W64) (s : State := ready) : State := setTile s 0 { tileAt .vx 1 w with v := (List.range 32).map fun i => (i, vrow i) }
def scr (s : State) : State := bytesAt sc0 ((List.range 256).map fun i => i * 7 % 256) s
def wVld : W64 := iw 0x42 0 0 [(43, 31), (40, 0), (25, 1), (10, 0x7fff)]
def wVst : W64 := iw 0x43 0 0 [(43, 30), (40, 1), (25, 1), (10, 1)]
def wVpop : W64 := iw 0x44 0 0 [(43, 30), (41, 1), (37, 2)]
def sVpop : State := setTile ready 0 (holding qMxVx (pkt [qw 32 7, qw 32 9]) (tileOf (vx wVpop) 0))
def wVpush : W64 := iw 0x45 0 0 [(43, 17), (39, 15), (38, 1), (30, 255)]
def wVscl : W64 := iw 0x46 0 0 [(43, 3), (42, 1), (36, 63), (35, 1)]
def sVscl : State := setTile ready 0 (holding qSqVx (pkt [qw 1 0x123456789]) (tileOf (vx wVscl) 0))
def wVop (f : Nat) : W64 := iw 0x47 0 0 [(43, 3), (38, 4), (33, 5), (28, 6), (23, f)]
def wVopi : W64 := iw 0x48 0 0 [(43, 3), (38, 4), (33, 29), (0, 0xffffffff)]
def wVred : W64 := iw 0x49 0 0 [(43, 3), (38, 4), (35, 5)]
def wVrot : W64 := iw 0x4a 0 0 [(43, 28), (38, 4), (37, 1), (21, 3)]
def sideS : State := wordsAt sc0 [0xf1, 1] (bytesAt sc0 [0xf1, 0,0,0,0,0,0,0, 1] ready)
def wVpick : W64 := iw 0x4b 0 0 [(43, 3), (38, 4), (21, 0)]
def wVside : W64 := iw 0x4c 0 0 [(43, 3), (38, 4), (23, 0)]
def sideS2 : State := wordsAt (sc0 + 64) (List.replicate 32 0x3f8000003f800000) sideS
def wVpack : W64 := iw 0x50 0 0 [(43, 3), (38, 4), (36, 2)]
def wVunpk : W64 := iw 0x51 0 0 [(43, 4), (38, 3), (33, 0), (25, 0xf0), (17, 15), (15, 0), (14, 0)]
def wVqz : W64 := iw 0x4d 0 0 [(43, 4), (38, 3), (33, 7), (25, 0xf0), (17, 255), (15, 2), (14, 1), (13, 0)]
def recS : State := bytesAt sc0 [0, 0x80, 0xfe, 47, 15, 0] ready
def wVqnt : W64 := iw 0x4e 0 0 [(43, 4), (38, 3), (33, 7), (16, 0), (15, 1)]
def wVqs : W64 := iw 0x4f 0 0 [(47, 0), (46, 1), (29, 0), (21, 9)]
def sVqs : State := setTile recS 0 (holding qMxVx (pkt (List.replicate 4 (qw 32 0x4000000080000))) (tileOf (vx wVqs) 0))
def wMmw : W64 := iw 0x22 0 0 [(45, 7), (44, 1), (43, 0), (42, 1), (39, 1), (37, 0), (35, 0), (27, 1), (17, 0), (1, 64)]
def mmPkt : QItem := pkt (List.replicate 8 (qw 8 0x1122334455667788))
def sMmw : State := setTile (bytesAt (sc0 + 2048) [3, 0xff] (bytesAt sc0 ((List.range 128).map fun i => i % 64) ready)) 0 (holding qLdMx mmPkt (tileAt .mx 1 wMmw))
def wMxout : W64 := iw 0x23 0 0 [(45, 7), (40, 31), (36, 1), (35, 1), (34, 0), (26, 255)]
def sMxout : State := setTile ready 0 { tileAt .mx 1 wMxout with acc := [(255, List.replicate 64 (reg 5))] }
def wMzero : W64 := iw 0x24 0 0 [(40, 0x80)]
def sMzero : State := setTile ready 0 { tileAt .mx 1 wMzero with acc := [(0, List.replicate 64 (reg 6)), (255, List.replicate 64 (reg 5))] }
def wTfe : W64 := iw 0x63 0 0 [(44, 1), (40, 2), (36, 3), (35, 0), (29, 1), (17, 0), (8, 4), (0, 1)]
def sTfe : State := setTile (wordsAt (sc0 + 0x100) [0, 0x4000000000000000] (bytesAt (sc0 + 0x200) [0,0,0x40,0x40] ready)) 0
  (regsA [(1, 0x100), (2, 0x200), (3, 0x400)] (tileAt .tr 1 wTfe))
def wTwalk : W64 := iw 0x62 0 0 [(44, 1), (40, 2), (36, 3), (34, 3), (33, 0), (27, 1), (15, 0), (7, 1)]
def sTwalk : State := setTile (wordsAt (sc0 + 0x100) [3 * 2 ^ 34 + 1 * 2 ^ 17 + 2, 0x800000003f800000, 0x8000000040000000] (wordsAt (sc0 + 0x200) [0x300000000] (bytesAt (sc0 + 0x400) [5, 0] ready))) 0
  (regsA [(1, 0x100), (2, 0x200), (3, 0x400)] (tileAt .tr 1 wTwalk))
def wTout : W64 := iw 0x64 0 0 [(46, 1), (44, 2), (43, 1), (35, 255)]
def sTout : State := setTile ready 0 { tileAt .tr 1 wTout with bank := [(1, List.replicate 64 (reg 5))] }
def wAstep : W64 := iw 0x82 0 0 [(44, 1), (40, 2), (37, 7), (31, 1), (30, 0), (24, 63), (23, 0)]
def sAstep : State := setTile (wordsAt (sc0 + 0x400) [0, 1 * 2 ^ 40] ready) 0 (regsA [(1, 0x400), (2, 0x800)] (tileAt .au 1 wAstep))
def wSend : W64 := iw 0xa2 0 0 [(22, 1), (18, 15), (17, 1), (14, 2), (1, 1)]
def sSend : State := setTile ready 0 (holding qVxXf (pkt [qw 32 7]) (tileAt .xf 1 wSend))
def plan2 : PlanDef :=
  { major := 2, minor := 0, group := 5, addrs := [0x0101, 0x0102], maps := [], start := 3, logb := 0, kernels := []
    maskTilesA := [3], maskTilesB := [], maskKernels := [(9, 4, [])] }
def wSendR : W64 := iw 0xa2 0 0 [(32, 0x0102), (22, 1), (18, 15), (17, 0), (14, 2), (1, 1)]
def sSendR : State := setTile { ready with group := { ready.group with plan := some plan2, areaBase := 0x8 } } 0 (holding qVxXf (pkt [qw 32 7]) (tileAt .xf 1 wSendR))
def wRecv : W64 := iw 0xa3 0 0 [(32, 0), (22, 1), (18, 15), (17, 1), (14, 2), (10, 15), (9, 1)]
def sRecv : State := setTile ready 0 (tileAt .xf 1 wRecv)
def fl (p : Pend) (sig : Nat) : InFlight := { idx := 0, sig := sig, n := 1, done := false, unit := 0, since := 0, pend := p }
def tileFlight (e : Eng) (fs : List InFlight) (f : Tile → Tile := id) : State :=
  setTile ready 0 (f (setEng { Tile.idle with kernel := true } e { EngState.idle with length := 4, pos := 4, flight := fs }))
def rsX : List (BitVec 5 × Machine.Lane) := [(0, reg 3), (31, ⟨5, true⟩)]
def raX : List (BitVec 4 × ALane) := [(15, areg 3)]
def sLoader : State := setTile (wordsAt 0x1000 [1, 2, 3, 4] ready) 0 (setEng { Tile.idle with kernel := true } .vx { EngState.idle with start := 0x1000, length := 4, sent := 3 })
def wIll : W64 := iw 0xd3 0 0 []
def sIll : State := at1 .sq wIll id
def wStall : W64 := iw 0x40 3 0 []
def sStall : State := at1 .vx wStall id
def wTrap : W64 := iw 0xd2 0 0 []
def sTrap : State := at1 .sq wTrap id
def job0 : Job :=
  { num := 3, half := .A, tile := 0, tenant := 9, image := 1, lane := .plan, rows := [], kernel := 7, fixed := none, args := [], verdict := false
    turn := 5, since := 0, dead := false, entry := none, bytes := 0, excess := false, snap := [], held := [] }
def withJob (j : Job) (s : State) : State := { s with halfA := { s.halfA with jobs := [j] } }
def sEnd (c : SMap Byte) : State :=
  withJob job0 (setTile ready 0 (setEng { Tile.idle with kernel := true, credits := c } .sq { EngState.idle with length := 4, pos := 4, flight := [fl .kend 0] }))
def pagesR (s : Slot) : Slot := { s with r := { s.r with pages := [1, 2, 0, 0, 0, 0, 0, 0] } }
def withPages (s : State) : State := { s with halfA := { s.halfA with refs := [(1, 1), (2, 1)] } }
def jobM : Job := { num := 3, half := .A, tile := 33, tenant := 9, image := 1, lane := .mask, rows := [{ slot := 0, sgen := 4, first := 0, past := 5, upto := 5 }], kernel := 7, fixed := none, args := [], verdict := false, turn := 5, since := 0, dead := false, entry := none, bytes := 0, excess := false, snap := [], held := [] }
def sMaskD : State := withPages { slotted .generating pagesR with halfA := { hosted.halfA with maskJobs := [jobM], lastTurn := 5 } }
def jobR : Job := { jobM with tile := 2, lane := .plan, entry := some 4 }
def prun : PlanRun := { turn := 5, marked := 0, left := [], cut := [], batches := [] }
def sReplayD : State := withPages { slotted .generating pagesR with halfA := { hosted.halfA with replayJobs := [jobR], run := some prun } }
def pk : PlanKernel := { half := .A, tile := 0, tenant := 9, kernel := 7, fixed := none, args := [44], verdict := true }
def bt : Batch := { num := 8, tenant := 9, image := 1, rows := [{ slot := 0, sgen := 4, first := 100, past := 105, upto := 105 }] }
def jobP : Job := { num := 8, half := .A, tile := 0, tenant := 9, image := 1, lane := .plan, rows := bt.rows, kernel := 7, fixed := none, args := [44], verdict := true, turn := 5, since := 0, dead := false, entry := none, bytes := 0, excess := false, snap := [], held := [] }
def prun2 : PlanRun := { turn := 5, marked := 0, left := [(pk, some 1)], cut := [9], batches := [bt] }
def sPlanD : State := withPages { slotted .generating pagesR with halfA := { hosted.halfA with run := some prun2 } }
def sofW (t : Nat) : W64 :=
  let lo := 0xd2 + 2 ^ 8 + t * 2 ^ 16 + 7 * 2 ^ 48
  BitVec.ofNat 64 (lo + crc8 (bytesOf 7 lo) * 2 ^ 56)
def sMark : State := { hosted with now := 2000, halfA := { hosted.halfA with run := some prun }, halfB := { hosted.halfB with run := some prun } }
def sMark0 : State := { sMark with now := 0, turns := { hosted.turns with seen := false } }
def paused (x : W32) (rt : Bool) : State := slotted .paused fun s => { r := { s.r with sub := 2, expiry := x }, w := { s.w with pause := { s.w.pause with commit := 90, retain := rt } } }
def hd (x : W32) : Handle := { tenant := 9, value := 77, len := 64, pages := [3], ext := 0, scale := [], toksum := 0, expiry := x, image := 1, toks := [], hist := [], source := none, filling := none }
def sHandle (x : W32) : State := { hosted with halfB := { hosted.halfB with handles := [(0, some (hd x)), (16383, some (hd x))] } }
def hdr (t n : Nat) : W64 := BitVec.ofNat 64 (t * 2 ^ 56 + 2 * 2 ^ 48 + 0x55 * 2 ^ 32 + n * 2 ^ 8)
def sBell (o : Nat) : State := wordsAt 0x300000 [0x0202000300000000, 0, 0, 0, 0, 0, 0, o * 2 ^ 62] hosted
def toksS (f : Slot → Slot) : State := wordsAt 0x600000 [0x200000001, 3] (slotted .generating f)
def mTok : Msg := msg 2 (111) (110 * 2 ^ 40 + 3 * 2 ^ 32) 0x600000 0
def mTake : Msg := msg 3 100 0 0 0
def mResign : Msg := msg 4 0 0 0 0
def mPause : Msg := msg 5 (2 ^ 23) (0xffffff * 2 ^ 40) 0 0
def mLoss : Msg := msg 6 (2 ^ 22) 0 0 0
def mResume : Msg := msg 6 0 (2 * 2 ^ 40 + 0x600000) 0 0
def sResume : State := wordsAt 0x600000 [0x200000001, 3] (paused 9 false)
def mResume0 : Msg := msg 6 0 0 0 0
def mRebuild : Msg := msg 6 (2 ^ 23) (0x600000) (100 * 2 ^ 40) 0
def sRebuild : State := wordsAt 0x600000 [0x200000001, 3] (slotted .lost id)
def mMark : Msg := msg 7 0 (77 * 2 ^ 32 + 100 * 2 ^ 8) (3 * 2 ^ 40) 0
def mDrop : Msg := { msg 7 (2 ^ 22) (77 * 2 ^ 32) 0 0 with w1 := BitVec.ofNat 64 (9 * 2 ^ 48 + 2 ^ 22) }
def mAdmit : Msg := { msg 1 0 (3 * 2 ^ 40 + 0x600000) (1 * 2 ^ 16) 0xabc with w1 := BitVec.ofNat 64 (9 * 2 ^ 48 + 7 * 2 ^ 45) }
def sAdmit : State := wordsAt 0x600000 [0x200000001, 3] (wordsAt 0x100000 [0x500000, 8] hosted)
def drained (f : Slot → Slot) : State := withPages (slotted .paused fun s => f (pagesR { r := { s.r with commit := 2, head := 2 }, w := { s.w with computed := 2, published := 2, screened := 2, pause := { s.w.pause with ttl := 3 } } }))
def imgOwned (s : State) : State := wordsAt (0x200000 + 56) [2 ^ 63] (wordsAt (0x210000 + 56) [2 ^ 63] s)
def fetching : State := withPages (slotted .ready fun s => pagesR { r := { s.r with commit := 2, head := 2 }, w := { s.w with computed := 2, published := 2, screened := 2, pause := { s.w.pause with fetch := true, imgOff := 0x200000, commit := 2 } } })
def bare (s : Slot) : Slot := { r := { s.r with commit := 0, head := 0, sub := 1 }, w := { s.w with computed := 0, published := 0, screened := 0, pause := { s.w.pause with ioWait := true } } }
def owned : State := imgOwned (drained bare)
def written : State := after (exec (.imageBufferReturned 0) owned)
def refetch : State := { (modSlot (drained bare) 0 fun x => { r := { x.r with st := .ready, sub := 2 }, w := { x.w with pause := { x.w.pause with fetch := true, imgOff := 0x200000, commit := 0, chain := [], oseq := 0, toksum := 0 } } }) with mem := written.mem }
def cell0 : Nat := 0x1020000 + 36 * 1024 + 320
def sVer : State := wordsAt (0x500000 + 56) [2 ^ 63] (wordsAt cell0 [2 ^ 62 + 2 ^ 61] (slotted .generating fun s => pagesR { r := { s.r with commit := 101, oseq := 8 }, w := { s.w with computed := 101, prod := [(200, 4)] } }))
def vrec : VRec := { kind := 0, term := false, reason := 0, pos := 100, turn := 4, due := 7, verdict := 1, nscore := 0, lo := 0, hi := 0, scores := [0, 0, 0, 0] }
def vcell : Cell := { valid := true, pub := false, pz := false, verdict := 1, nscore := 0, lo := 0, hi := 0, scores := [0, 0, 0, 0] }
def sBull : State := { hosted with halfB := { hosted.halfB with bullOpen := [(0, List.replicate 128 (1, false))], bullSince := 0 } }
def sBull2 : State := wordsAt (0x410000 + 56) [2 ^ 63] { hosted with halfB := { hosted.halfB with bullWait := [{ seq := 0, recs := [(0, List.replicate 128 (1, false))], poison := none }] } }
def sEv : State := wordsAt (0x430000 + 56) [2 ^ 63] { hosted with halfB := { hosted.halfB with evDropped := 9 } }
def imgM : Image := { img1 with retiring := true, msEntry := 65535, mset := 3 }
def sMs : State := wordsAt (0x120000 + 64 * 65535 + 56) [2 ^ 63] { hosted with images := [(1, some img1), (2, some imgM)] }
def nKey : NoticeKey := .tenant 9
def sNot (p : Bool) : State := { hosted with win := { hosted.win with notices := [{ key := .event .A, last := 3, pending := true }, { key := nKey, last := 8, pending := p }] } }
def frame (t dst : Nat) (arg data : Nat) : Frame := sealFrame { type := BitVec.ofNat 8 t, flags := 0, dst := BitVec.ofNat 16 dst, src := 3, tag := 9, arg := BitVec.ofNat 64 arg, data := BitVec.ofNat 64 data, crc := 0 }
def sSeat : State := { hosted with su := { hosted.su with sealed := false } }
def ra (o : Nat) : W48 := BitVec.ofNat 48 (mgmtBase + o)
def sFlush : State := setTile hosted 0 (holding 17 (pkt [qw 1 3]) (holding 0 (pkt [qw 1 4]) Tile.idle))
def sMap (f : Group → Group) : State := { hosted with group := f hosted.group }
def rl : Option (BitVec 16 × BitVec 36) := some (4, 0x600000)
def ent : Nat := 2 ^ 62 + 0x0101 * 2 ^ 32
def sRoute : State := wordsAt 0x600000 [4 * 2 ^ 48, (crc32c (bytesOf 8 ent)).toNat, 0, 0, 0, 0, 0, 0, ent] (sMap fun g => { g with routeLoad := rl })
def sTab : State := sMap fun g => { g with codes := [(0xffe, { CodeTable.empty with gens := CodeTable.empty.gens.set 3 { st := 1, turn := 0, lens := [1, 1] } })] }
def off (ph : Phase) : State := { hosted with su := { hosted.su with phase := ph, sealed := false } }
def dom (on clk : Nat) (s : State) : State := { s with power := { s.power with on := s.power.on &&& ~~~(BitVec.ofNat 36 on), clk := s.power.clk &&& ~~~(BitVec.ofNat 36 clk) } }
def gw (w : GateWait) : State := { off .sealWait with power := { hosted.power with gateDomain := 35, gateOp := 0, gateResult := 3, gateWait := w } }
def fwImage : Nat := 0x9c8b63f5e9407e4cbe76d8322567f0bd6253d3dde5cfb71288a258bda74742067edabfcb05052c0fcdac4f014fbe668a077a41d4606ffa1464793c7e5fdc7d98cb9d3910202dcd06bea4f240d3566da6b408bbae5026580d02d7e5c70500c8318e80f1fa5b1b3cedb7bfe8dffd6dba74b275d875bc6cc43e904e505f256ab4255ffd43e94d39e22d61501e700a940e8008d999057ba3d2d969260045c55b97f089025959a6f434d651d207d19fb96e9e4fe0e86ebe0e64f85b96a9c75295df6100000000000000004b53465712340204
def fwReady : State := { off .fwAuth with su := { (off .fwAuth).su with fwLen := 4, stewMem := clean (bytesOf 256 fwImage) }, fuse := { hosted.fuse with keyHash := 0x7725a199b9e9991e329eb73911b55484409e1302c0678d9e1fd4b406e86d979c491c2ad2b4d62221b5e557ae546cf302 } }
def sealable : State := wordsAt 0xff0000 [0x100000, 2, 0x800000, 0x120000, 0, 0x10000000200000, 1, 0x4010000400000, 0x4010000410000, 0x4000000420000, 0x4000000430000, 0, 0, 0, 0, 0, 0x300000, 16] { off .sealWait with win := { hosted.win with dir := 0xff0000 } }
def stw (w : StwWork) (s : State := hosted) : State := { s with su := { s.su with stw := w } }
def map0 : ImageMap := { batch := false, vocab := 0, nmask := 0, storeOff := 0, automata := [], features := [], trees := [], weightPairs := [], sideLists := [], requants := [], rotChannels := [], values := [] }
def sLoadP : State := wordsAt 0x600000 ([9 * 2 ^ 48 + 2 * 2 ^ 40 + 4 * 2 ^ 32 + 3, 0, 64, 0, 0, 0, 0, 0, 16 * 2 ^ 48 + 2 ^ 40 + 2 * 2 ^ 32, 0,0,0,0,0,0,0, 0, 1] : List Nat) { stw (.load 1 9) with su := { (stw (.load 1 9)).su with stwLen := 3, stwOff := 0x600000 } }
def planX (st : W32) : PlanDef := { plan1 with minor := 4, maps := [hosted.fuse.map, []], start := st }
def inA : Nat := 0x700000 + 16 * 4096 + 15 * 4096
def item (kind words size : Nat) (sc : Bool) (s : State) : State :=
  wordsAt inA [kind * 2 ^ 56 + 2 * 2 ^ 48 + 0x0101 * 2 ^ 32 + 0x0102 * 2 ^ 16 + 5, 3 * 2 ^ 54 + 4 * 2 ^ 44 + 6 * 2 ^ 40 + b2n sc * 2 ^ 39 + words * 2 ^ 32 + 9 * 2 ^ 16, size + 5 * 2 ^ 32, 0, 0, 0, 0, 2 ^ 63, 0x55] s
def logI : LogItem := { src := 0x0102, stile := 4, dtile := 3, chan := 6, scale := false, turn := 5, xid := 9, words := [], pz := false, ce := 0 }
def kept (r : Nat) : Kept := { tile := 4, chan := { block := 0x0102, tile := 3, chan := 6, scale := false, isLocal := false }, xid := 9, turn := 5, coded := false, width := 0, table := 0, gen := none, words := [qw 32 8], seq := 0, replay := r, waiting := false, ce := 0 }
def sKept : State := { hosted with halfA := { hosted.halfA with kept := [kept 14] } }
def itemX : Item := readItem (item 1 1 256 false hosted) inA
def sOut : State := wordsAt (0x700000 + 15 * 4096 + 56) [2 ^ 63] { item 1 1 256 false hosted with halfA := { hosted.halfA with outQueue := [itemX], outNext := 15, outWait := true } }
def recvF : InFlight := { idx := 0, sig := 0, n := 1, done := false, unit := 0, since := 0, pend := .recv { block := 0x0102, tile := 3, chan := 6, scale := false, isLocal := false } false 0 15 9 5 }
def sRecvT : State := setTile hosted 0 (setEng { Tile.idle with kernel := true } .xf { EngState.idle with length := 4, pos := 4, flight := [recvF] })
def noPwr : State := { off .power with pins := { hosted.pins with pwrOk := false } }
def pins (f : Pins → Pins) : State := { hosted with pins := f hosted.pins }
def allUp : State := { off .links with hosts := [(0, { HostPort.off with trained := true })], ports := (List.range 32).map fun p => (p, { MemPort.off with st := .up }) }
def tbs (f : Tb → Tb) : State := { hosted with tb1 := f hosted.tb1 }
def port (f : MemPort → MemPort) : State := { hosted with ports := [(31, f MemPort.off)] }
def box (f : Modes → Modes) : State := { hosted with modes := f { hosted.modes with boxing := true, recovering := false, thermal := 1000 } }
def errEnt (c : ErrClass) : ErrEntry :=
  { src := 3, cls := c, step := .queued, half := .A, nest := false, fault := 1, turn := 5, tenant := 9, slot := 77, sgen := 3, pos := 0, addr := 0, unit := 0,
    lseq := 7, parent := 7, count := 1, failed := 0, merged := 0, job := none, chain := 0, reqs := [] }
def sErr (c : ErrClass) : State := { hosted with errs := { hosted.errs with log := [errEnt c], next := 8 } }

def sEndS : State := withJob { job0 with dead := true } (setTile ready 0 (setEng { Tile.idle with kernel := true, stopped := true, credits := [(3, 1)] } .sq { EngState.idle with length := 4, pos := 4, flight := [fl .kend 0] }))
def vterm : VRec := { kind := 2, term := true, reason := 4, pos := 100, turn := 5, due := 5, verdict := 0, nscore := 0, lo := 0, hi := 0, scores := [] }
def lim1 : BatchLim := { slot := 0, sgen := 4, out := 0, prompt := 0, term := true }
def bw1 : BatchWait := { tenant := 9, turn := 4, part := 2, lims := [lim1], ready := true }
def sBatch : State :=
  wordsAt (0x900000 + 768 + 56) [2 ^ 63] (wordsAt 0x800090 [0x900000, 4 * 2 ^ 32 + 3]
    { slotted .failed (fun s => { r := { s.r with omode := true, oseq := 6 }, w := { s.w with term := some vterm } }) with bwaits := [bw1], bseqs := [(9, 0xffffffff)] })
def sTerm : State := wordsAt (0x500000 + 6 * 64 + 56) [2 ^ 63] (slotted .done fun s => { r := { s.r with oseq := 6 }, w := { s.w with term := some vterm } })
def bull1 : Bulletin := { seq := 0, recs := [(0, List.replicate 128 (1, false))], poison := none }
def bull2 : Bulletin := { seq := 1, recs := [(0, List.replicate 128 (2, false))], poison := none }
def sBull3 : State := wordsAt (0x410000 + 56) [2 ^ 63] { hosted with halfB := { hosted.halfB with bullWait := [bull1, bull2] } }
def sHeldR : State := { hosted with clocks := { hosted.clocks with relock := some 5, relockAll := true } }
def fNom : Frame := frame 3 0x0101 (mgmtBase + 0x30008) 0x1f40
def sLast : State := { hosted with su := { hosted.su with lastWr := some (9, mk64 (mgmtBase + 0x30008), 0x1f40) } }
def codedI (w1 body : Nat) : State :=
  wordsAt inA ([1 * 2 ^ 56 + 2 * 2 ^ 48 + 0x0101 * 2 ^ 32 + 0x0102 * 2 ^ 16 + 5, 3 * 2 ^ 54 + 4 * 2 ^ 44 + 6 * 2 ^ 40 + 2 ^ 38 + w1 + 9 * 2 ^ 16, body + 5 * 2 ^ 32, 0, 0, 0, 0, 2 ^ 63]) hosted
def sCodedBad : State := codedI (1 * 2 ^ 32) 8
def sKept4 : State := { hosted with halfB := { hosted.halfB with kept := [{ kept 14 with tile := 516 }] } }
def itemT (kind st : Nat) (s : State) : State :=
  wordsAt inA [kind * 2 ^ 56 + 2 * 2 ^ 48 + 0x0101 * 2 ^ 32 + 0x0102 * 2 ^ 16 + 5, 3 * 2 ^ 54 + st * 2 ^ 44 + 6 * 2 ^ 40 + 9 * 2 ^ 16, 5 * 2 ^ 32, 0, 0, 0, 0, 2 ^ 63, 0x55] s
def sOut2 : State := wordsAt (0x700000 + 15 * 4096 + 56) [2 ^ 63] { item 1 1 256 false hosted with halfA := { hosted.halfA with outQueue := [itemX, itemX], outNext := 15, outWait := true } }
def chanT : Chan := { block := 0x0102, tile := 3, chan := 6, scale := false, isLocal := false }
def sRecvT2 : State := setTile hosted 0 (setEng { Tile.idle with kernel := true } .xf { EngState.idle with length := 4, pos := 4, flight := [{ recvF with done := true }, fl .none 0, recvF] })
def resetLow (ph : Phase) : State := { off ph with pins := { hosted.pins with resetN := false } }
def sBells : State := wordsAt (0x300000 + 56) [2 ^ 63] { hosted with pins := { hosted.pins with haltReq := true, bells := [(0, 1, 5), (0, 17, 5)] } }
def portsPg : State := { off .domains with ports := [(31, { MemPort.off with pg := true })], power := { hosted.power with on := ctBits, clk := ctBits } }
def tbUse (a b l : Bool) : State := { hosted with tb0 := { hosted.tb0 with elig := a }, tb1 := { hosted.tb1 with elig := b }, clocks := { hosted.clocks with losc := l } }
def errReq (n : Nat) : ErrEntry := { errEnt .request with reqs := [(0, 4)], count := BitVec.ofNat 16 n }
def sErrReq (er : BitVec 2) (p : Bool) : State :=
  let s := slotted .ready fun s => { r := { s.r with errs := er }, w := { s.w with image := if p then 77 else 1 } }
  { s with group := { s.group with plan := if p then none else s.group.plan }, errs := { s.errs with log := [errReq 1], next := 8 } }
def wAluF (f : Nat) : W64 := iw 0xc5 0 0 [(43, 3), (38, 1), (33, 2), (29, f)]

def wBrFar : W64 := iw 0xc7 0 0 [(45, 5), (40, 1), (35, 1), (0, 0xfffe)]
def wJmpFar : W64 := iw 0xc8 0 0 [(0, 3)]
def lp (past left : Nat) : Loop := { first := 1, past := past, left := left, done := 3, inner := some 0 }
def sNopL (ls : List Loop) : State := at1 .mx wNop fun tl => setEng tl .mx { eng tl .mx with loops := ls }
def wRepIn : W64 := iw 0x41 0 0 [(40, 0), (0, 9)]
def sRepIn : State := at1 .vx wRepIn fun tl => setEng tl .vx { eng tl .vx with loops := [{ lp 4 5 with inner := none }] }
def sSkip : State :=
  wordsAt (0x420000 + 56) [2 ^ 63] { sMark with halfA := { sMark.halfA with planLess := [9, 3] }, halfB := { sMark.halfB with planLess := [4] } }
def mgAt (o : Nat) : W64 := BitVec.ofNat 64 (2 ^ 63 + mgmtBase + o)
def noTiles : State := { hosted with fuse := { hosted.fuse with map := [] } }
def big70 : State :=
  imgOwned (setSlot { hosted with halfA := { hosted.halfA with refs := [(1, 1), (2, 1)] } } 0
    (slot1 .paused fun s => pagesR { r := { s.r with commit := 70, head := 70 }, w := { s.w with computed := 70, published := 70, screened := 70, pause := { s.w.pause with ttl := 3 } } }))
def sBullO : State := wordsAt (0x410000 + 56) [2 ^ 63] sBull
def sBull1 : State := wordsAt (0x410000 + 56) [2 ^ 63] { hosted with halfB := { hosted.halfB with bullWait := [bull1] } }
def sEvM : State := wordsAt (0x420000 + 56) [2 ^ 63] (wordsAt (0x120000 + 64 * 65535) [5, 6, 7] sMs)
def outOwned (s : State) : State := wordsAt (0x700000 + 3 * 4096 + 56) [2 ^ 63] s

def sHandles (x : W32) : State := { hosted with halfB := { hosted.halfB with handles := [(0, some { hd x with value := 76 }), (16383, some (hd x))] } }
/-- Engine instructions of tile 0. -/
def cLi : EngineInstr := ⟨0, wLi, false, 0xc4, bodyLi⟩
def cRep : EngineInstr := ⟨0, wRep, true, 1, bodyRepeat⟩
def cBadLi : EngineInstr := ⟨0, wBadLi, false, 0xc4, bodyLi⟩
def cEnter : EngineInstr := ⟨0, wEnter, false, 0xc2, bodyKenter⟩
def cRep2 : EngineInstr := ⟨0, wRep2, true, 1, bodyRepeat⟩
def cBrFar : EngineInstr := ⟨0, wBrFar, false, 0xc7, bodyBr⟩
def cJmpFar : EngineInstr := ⟨0, wJmpFar, false, 0xc8, bodyJmp⟩
def cWaits : EngineInstr := ⟨0, wWaits, false, 0xc4, bodyLi⟩
def StepRunsFront_s : State := { ready with pending := [.turnStall, .seal] }
def VxQuantises_2_p : QItem := pkt (List.replicate 4 (qw 32 0x4000000080000))
def FetchAndCompletion_0_s : State := tileFlight .sq [fl .none 0, fl (.regs rsX raX true) 0]
def FetchAndCompletion_1_s : State := tileFlight .vx [fl .none 15] (fun t => { t with credits := [(15, 254)] })
def FetchAndCompletion_1_sb : State := tileFlight .vx [fl .none 0] (fun t => { t with credits := [(15, 254)] })
def MarksAndStalls_0_1_s : State := { hosted with now := 1999 }
def DoorbellsTakeEntries_0_s : State := { hosted with pins := { hosted.pins with haltReq := true } }
def HostPortsTrain_3_s : State := { hosted with ports := [(31, { MemPort.off with st := .up })] }
def HostPortsTrain_4_s : State := { hosted with hosts := [(3, { HostPort.off with trained := true })] }
def ResumesReopen_0_p : Nat := ((price (asked mResume sResume) .A 1 true 2).getD (0, [])).1
def ResumesReopen_0_pl : List (W32 × Nat) := ((price (asked mResume sResume) .A 1 true 2).getD (0, [])).2
def ResumesReopen_0_pb : Nat := ((price (asked mResume sResume) .A 1 true 0).getD (0, [])).1
def ResumesReopen_0_plb : List (W32 × Nat) := ((price (asked mResume sResume) .A 1 true 0).getD (0, [])).2
def ResumesReopen_1_p : Nat := ((price (asked mRebuild sRebuild) .A 1 true 100).getD (0, [])).1
def ResumesReopen_1_pl : List (W32 × Nat) := ((price (asked mRebuild sRebuild) .A 1 true 100).getD (0, [])).2
def AdmitFillsSlot_p : Nat := ((price (dropTaken (asked mAdmit sAdmit)) .A 1 true 3).getD (0, [])).1
def AdmitFillsSlot_pl : List (W32 × Nat) := ((price (dropTaken (asked mAdmit sAdmit)) .A 1 true 3).getD (0, [])).2
def FirmwareSealShutdown_0_s : State := bytesAt 0x600000 (List.range 64) (off .fwWait)
def FirmwareSealShutdown_3_0_s : State := { off .sealWait with su := { (off .sealWait).su with seated := false } }
def FirmwareSealShutdown_5_s : State := { hosted with su := { hosted.su with closing := true } }
def PrefixHandles_0_s : State := asked mMark (withPages (slotted .ready pagesR))
def KernelEnds_0_j : Job := { job0 with dead := true }
def WindowReturnsAct_2_1_s : State := { sBull3 with mem := hosted.mem }
def NoticeIntervals_1_0_n : Notice := { key := nKey, last := 8, pending := false }
def NoticeIntervals_1_1_n : Notice := { key := nKey, last := 8, pending := true }
def NoticeIntervals_1_2_s : State := { sNot true with hosts := [] }
def ChainFrames_4_s : State := { hosted with su := { hosted.su with phase := .clock } }
def ChainFrames_10_f : Frame := { frame 3 0x0102 (mgmtBase + 0x30008) 0x1f40 with crc := 0 }
def MapsAndTablesLoad_3_0_s : State := sMap fun g => { g with routeLoad := rl, oldMap := some { epoch := 2, ents := [] } }
def MapsAndTablesLoad_3_2_m : RouteMap := { epoch := 4, ents := [BitVec.ofNat 64 ent] }
def MapsAndTablesLoad_3_3_s : State := { sRoute with group := { sRoute.group with newMap := some { epoch := 2, ents := [] } } }
def MapsAndTablesLoad_3_3_n : RouteMap := { epoch := 2, ents := [] }
def MapsAndTablesLoad_4_d : W64 := BitVec.ofNat 64 (0xffe * 2 ^ 52 + 3 * 2 ^ 50 + 2 * 2 ^ 48 + 0x600000)
def MapsAndTablesLoad_5_1_d : W64 := BitVec.ofNat 64 (0xffe * 2 ^ 52 + 3 * 2 ^ 50)
def MapsAndTablesLoad_6_d : W64 := BitVec.ofNat 64 (0xffe * 2 ^ 52 + 3 * 2 ^ 50 + 5)
def MapsAndTablesLoad_7_d : W64 := BitVec.ofNat 64 (0xffe * 2 ^ 52 + 3 * 2 ^ 50 + 6)
def GateCommands_1_1_s : State := { gw (.close true) with power := { (gw (.close true)).power with gateDomain := 16 } }
def GateCommands_1_1_sb : State := { gw (.close true) with power := { (gw (.close true)).power with gateDomain := 34 } }
def ExchangeItemsHandled_0_1_1_r : Nat := (((dataBlocks sCodedBad (readItem sCodedBad inA)).2.1).getD 0)
def ExchangeItemsHandled_0_2_1_s : State := item 2 1 256 true { hosted with halfA := { hosted.halfA with log := [logI] } }
def ExchangeItemsHandled_0_4_d : Kept := { kept 14 with tile := 516 }
def ResetAndPowerPins_0_s : State := bytesAt 0xf00000000000 [7] (slotted .ready id)
def StartupPhases_2_s : State := { off .clock with tb0 := Tb.unlocked }
def StartupPhases_6_s : State := bytesAt 0xf00000000000 [7] { slotted .ready id with su := { hosted.su with phase := .selftest } }
def TimebaseLocks_0_s : State := tbs fun x => { x with blockLock := false, frameLock := false }
def TimebaseLocks_1_2_s : State := tbs fun x => { x with frameLock := false, elig := false, goodwin := 15 }
def ClockMonitor_3_s : State := { hosted with clocks := { hosted.clocks with auto := BitVec.ofInt 11 1000 } }
def ClockMonitor_4_s : State := { hosted with modes := { hosted.modes with recovering := false }, clocks := { hosted.clocks with relock := some 25 } }
def ClockMonitor_5_s : State := { hosted with clocks := { hosted.clocks with src := 1 } }
def MemoryPortsAndDomains_0_1_1_s : State := port fun x => { x with st := .training, retrain := true }
def MemoryPortsAndDomains_0_4_s : State := port fun x => { x with st := .up, retrains := 255 }
def MemoryPortsAndDomains_0_5_s : State := port fun x => { x with st := .up, pg := true }
def BoxcarsLimits_1_s : State := box fun m => { m with usedUs := 6799999, wearBase := 7199993, thermal := 1001006 }
def BoxcarsLimits_4_s : State := box fun m => { m with boxing := false, recovering := true }
def ErrorsHandled_1_s : State := { sErr .half with errs := { (sErr .half).errs with handling := some 7 } }
def PauseImages_2_s : State := imgOwned (drained fun s => { r := { s.r with sub := 1 }, w := { s.w with steady := true, pause := { s.w.pause with chain := [0, 1] } } })
def RegisterWrites_23_s : State := { hosted with group := { hosted.group with absent := BitVec.ofNat 512 (2 ^ 511 + 2 ^ 448 + 3) } }
def RegisterWrites_35_s : State := { hosted with power := { hosted.power with fault := 0xfffffffff } }
def RegisterWrites_43_s : State := setTile hosted 1 { Tile.idle with fault := 0xffffffffffffffff }
def RegisterWrites_46_s : State := { hosted with errs := { hosted.errs with nmi := 15 } }
def RegisterWrites_47_s : State := setTile hosted 1 { Tile.idle with ovf := 0xffff }

/-- The premise that an instruction is ready, from the values it speaks of. -/
theorem ready_of {s : State} {t : BitVec 10} {e : Eng} {w : W64} {tl : Tile}
    (h : tileNamed t.toNat = true ∧ tileRuns s t.toNat = true ∧ (tileOf s t.toNat).kernel = true ∧ (tileOf s t.toNat).stopped = false
      ∧ fetchWord (tileOf s t.toNat) e = some (w, tl) ∧ reachFault e (eng tl e) w = none ∧ hasRoom e (eng tl e) w = true
      ∧ (waits w = true → servedFirst tl e (waitCtr w) < (credit tl (waitCtr w)).toNat)) : Ready s t e w tl :=
  let ⟨a, b, c, d, e, f, g, h⟩ := h
  ⟨a, b, c, d, e, f, g, h⟩

/-- The same, and that nothing it reads needs a correction. -/
theorem plain_of {s : State} {t : BitVec 10} {e : Eng} {w : W64} {tl : Tile}
    (h : (tileNamed t.toNat = true ∧ tileRuns s t.toNat = true ∧ (tileOf s t.toNat).kernel = true ∧ (tileOf s t.toNat).stopped = false
      ∧ fetchWord (tileOf s t.toNat) e = some (w, tl) ∧ reachFault e (eng tl e) w = none ∧ hasRoom e (eng tl e) w = true
      ∧ (waits w = true → servedFirst tl e (waitCtr w) < (credit tl (waitCtr w)).toNat))
      ∧ (eng tl e).tagged.contains (eng tl e).pos = false ∧ s.mem.single = []) : Plain s t e w tl :=
  { toReady := ready_of h.1, clean := h.2.1, whole := fun _ _ => h.2.2 }

theorem nothing_of {s : State}
    (h : s.clocks.evs = [] ∧ s.clocks.catchMarks = [] ∧ s.clocks.held = [] ∧ s.pins.bells = [] ∧ s.replies = []
      ∧ (s.halfA.outQueue = [] ∧ s.halfB.outQueue = []) ∧ (s.halfA.bullWait = [] ∧ s.halfB.bullWait = [])
      ∧ (∀ p ∈ Machine.images s, p.2.admits = true) ∧ s.bwaits = [] ∧ s.slots = []) : NothingWaits s :=
  let ⟨a, b, c, d, e, o, f, i, g, h⟩ := h
  ⟨a, b, c, d, e, fun x => by cases x <;> simp [half, o.1, o.2], fun x => by cases x <;> simp [half, f.1, f.2], i, g, h⟩

/-- No byte lies behind a FAILED port where no port is FAILED. -/
theorem alive_of {s : State} {a n : Nat} (h : s.mem.failed = 0) : alive s a n := fun j _ => by simp [memDead, h]

theorem event_of {s : State} {x : Half} (h : windowOpen s = true ∧ (half s x).evDropped = 0 ∧ eventRoom s x = true ∧ s.mem.failed = 0) :
    EventReady s x :=
  ⟨h.1, h.2.1, h.2.2.1, alive_of h.2.2.2⟩

theorem stays_of {e : Eng} {w : W64} {x : EngState} {j : Option Int}
    (h : e = .sq → wOpcode w ≠ 0xc3 → (advance x w j).pos < x.length) : staysIn e w x j := h

/-- A premise about every number in a range, from the numbers below its end. -/
theorem upto_of {n : Nat} {p : Nat → Prop} (h : ∀ k, k < n + 1 → 1 ≤ k → p k) : ∀ k, 1 ≤ k → k ≤ n → p k :=
  fun k a b => h k (by omega) a

theorem upto2_of {n m : Nat} {p : Nat → Nat → Prop} (h : ∀ r, r < n → ∀ c, c < m → p r c) : ∀ r c, r < n → c < m → p r c :=
  fun r c a b => h r a c b

theorem listed_of {α : Type} {n : Nat} {l : List α} {p : Nat → α → Prop} (h : ∀ r, r < n → ∀ y ∈ l, p r y) :
    ∀ r y, r < n → y ∈ l → p r y :=
  fun r y a b => h r a y b

theorem warm_of {α : Type} {l : List α} {p : Nat → α → Prop} (h : ∀ k : Fin l.length, p k.1 l[k.1]) : ∀ k t, l[k]? = some t → p k t := by
  intro k t hk
  obtain ⟨hl, rfl⟩ := List.getElem?_eq_some_iff.1 hk
  exact h ⟨k, hl⟩

theorem held_of {α : Type} {o : Option α} {p : α → Prop} (h : match o with | some n => p n | none => True) : ∀ n, o = some n → p n := by
  rintro n rfl
  exact h

theorem some_of {α : Type} {o : Option α} {d : α} (h : o.isSome = true) : o = some (o.getD d) := by
  cases o <;> simp_all

theorem halves_of {p : Half → Prop} (h : p .A ∧ p .B) : ∀ x, p x := fun x => by cases x <;> simp [h]

/-- A witness of the premises of `Obligations.StepRunsFront`, clause by clause. -/
theorem meets_StepRunsFront :
    (StepRunsFront_s.pending = [Instr.turnStall, Instr.seal]) := by
  repeat' apply And.intro
  all_goals
    first
    | decide +kernel
    | exact plain_of (by decide +kernel)
    | exact ready_of (by decide +kernel)
    | exact nothing_of (by decide +kernel)
    | exact alive_of (by decide +kernel)
    | exact event_of (by decide +kernel)
    | exact warm_of (by decide +kernel)
    | exact stays_of (by decide +kernel)
    | rfl
    | exact trivial
    | exact upto_of (by decide +kernel)
    | exact upto2_of (by decide +kernel)
    | exact listed_of (by decide +kernel)
    | exact ⟨15, by decide +kernel, by decide +kernel, by decide +kernel⟩
    | exact held_of (by decide +kernel)
    | exact halves_of (by decide +kernel)
    | exact fun n h => nomatch h

/-- A witness of the premises of `Obligations.EngineInstructionsIssue`, clause by clause. -/
theorem meets_EngineInstructionsIssue :
    (engineInstr (Instr.li 0 wLi) = some cLi ∧
       cLi.fits Eng.sq ∧
         Ready sLi cLi.tile Eng.sq cLi.word (fetched sLi Eng.sq) ∧
           let r := answerOf sLi cLi.tile Eng.sq cLi.word (fetched sLi Eng.sq) cLi.body;
           r.fault = none ∧
             Quiet r ∧
               r.touch.any (portWaits sLi) = false ∧
                 badTarget (eng (fetched sLi Eng.sq) Eng.sq) r.jump = false ∧ staysIn Eng.sq cLi.word (eng r.tile Eng.sq) r.jump)
    ∧ (engineInstr (Instr.repeat_ 0 wRep) = some cRep ∧
       cRep.fits Eng.vx ∧
         Ready sRep cRep.tile Eng.vx cRep.word (fetched sRep Eng.vx) ∧
           let r := answerOf sRep cRep.tile Eng.vx cRep.word (fetched sRep Eng.vx) cRep.body;
           r.fault = none ∧
             Quiet r ∧
               r.touch.any (portWaits sRep) = false ∧
                 badTarget (eng (fetched sRep Eng.vx) Eng.vx) r.jump = false ∧ staysIn Eng.vx cRep.word (eng r.tile Eng.vx) r.jump) := by
  repeat' apply And.intro
  all_goals
    first
    | decide +kernel
    | exact plain_of (by decide +kernel)
    | exact ready_of (by decide +kernel)
    | exact nothing_of (by decide +kernel)
    | exact alive_of (by decide +kernel)
    | exact event_of (by decide +kernel)
    | exact warm_of (by decide +kernel)
    | exact stays_of (by decide +kernel)
    | rfl
    | exact trivial
    | exact upto_of (by decide +kernel)
    | exact upto2_of (by decide +kernel)
    | exact listed_of (by decide +kernel)
    | exact ⟨15, by decide +kernel, by decide +kernel, by decide +kernel⟩
    | exact held_of (by decide +kernel)
    | exact halves_of (by decide +kernel)
    | exact fun n h => nomatch h

/-- A witness of the premises of `Obligations.IssueFaultStopsTile`, clause by clause. -/
theorem meets_IssueFaultStopsTile :
    (engineInstr (Instr.li 0 wBadLi) = some cBadLi ∧
       cBadLi.fits Eng.sq ∧
         Ready sBadLi cBadLi.tile Eng.sq cBadLi.word (fetched sBadLi Eng.sq) ∧
           let r := answerOf sBadLi cBadLi.tile Eng.sq cBadLi.word (fetched sBadLi Eng.sq) cBadLi.body;
           r.fault = some (17, 0) ∧ r.readBad = [] ∧ r.touch.any (portWaits sBadLi) = false ∧ bit r.tile.fault 63 = false ∧ 17 < 256 ∧ 0 < 32) := by
  repeat' apply And.intro
  all_goals
    first
    | decide +kernel
    | exact plain_of (by decide +kernel)
    | exact ready_of (by decide +kernel)
    | exact nothing_of (by decide +kernel)
    | exact alive_of (by decide +kernel)
    | exact event_of (by decide +kernel)
    | exact warm_of (by decide +kernel)
    | exact stays_of (by decide +kernel)
    | rfl
    | exact trivial
    | exact upto_of (by decide +kernel)
    | exact upto2_of (by decide +kernel)
    | exact listed_of (by decide +kernel)
    | exact ⟨15, by decide +kernel, by decide +kernel, by decide +kernel⟩
    | exact held_of (by decide +kernel)
    | exact halves_of (by decide +kernel)
    | exact fun n h => nomatch h

/-- A witness of the premises of `Obligations.StructureFaultStopsTile`, clause by clause. -/
theorem meets_StructureFaultStopsTile :
    (engineInstr (Instr.kenter 0 wEnter) = some cEnter ∧
       cEnter.fits Eng.sq ∧
         bit (fetched sEnter1 Eng.sq).fault 63 = false ∧
           tileNamed cEnter.tile.toNat = true ∧
             tileRuns sEnter1 cEnter.tile.toNat = true ∧
               (tileOf sEnter1 cEnter.tile.toNat).kernel = true ∧
                 (tileOf sEnter1 cEnter.tile.toNat).stopped = false ∧
                   fetchWord (tileOf sEnter1 cEnter.tile.toNat) Eng.sq = some (cEnter.word, fetched sEnter1 Eng.sq) ∧
                     reachFault Eng.sq (eng (fetched sEnter1 Eng.sq) Eng.sq) cEnter.word = some 20)
    ∧ (engineInstr (Instr.repeat_ 0 wRep2) = some cRep2 ∧
       cRep2.fits Eng.vx ∧
         bit (fetched sRep2 Eng.vx).fault 63 = false ∧
           tileNamed cRep2.tile.toNat = true ∧
             tileRuns sRep2 cRep2.tile.toNat = true ∧
               (tileOf sRep2 cRep2.tile.toNat).kernel = true ∧
                 (tileOf sRep2 cRep2.tile.toNat).stopped = false ∧
                   fetchWord (tileOf sRep2 cRep2.tile.toNat) Eng.vx = some (cRep2.word, fetched sRep2 Eng.vx) ∧
                     reachFault Eng.vx (eng (fetched sRep2 Eng.vx) Eng.vx) cRep2.word = some 21)
    ∧ (engineInstr (Instr.li 0 wLi) = some cLi ∧
       cLi.fits Eng.sq ∧
         bit (fetched sLi3 Eng.sq).fault 63 = false ∧
           let r := answerOf sLi3 cLi.tile Eng.sq cLi.word (fetched sLi3 Eng.sq) cLi.body;
           Ready sLi3 cLi.tile Eng.sq cLi.word (fetched sLi3 Eng.sq) ∧
             wOpcode cLi.word ≠ 195 ∧
               r.fault = none ∧
                 Quiet r ∧
                   r.touch = [] ∧
                     badTarget (eng (fetched sLi3 Eng.sq) Eng.sq) r.jump = false ∧
                       bit r.tile.fault 63 = false ∧ (eng r.tile Eng.sq).length ≤ (advance (eng r.tile Eng.sq) cLi.word r.jump).pos)
    ∧ (engineInstr (Instr.br 0 wBrFar) = some cBrFar ∧
       cBrFar.fits Eng.sq ∧
         bit (fetched (sq wBrFar) Eng.sq).fault 63 = false ∧
           let w := cBrFar.word;
           let x := sGet (fetched (sq wBrFar) Eng.sq) (sReg w 40);
           let y := sGet (fetched (sq wBrFar) Eng.sq) (sReg w 35);
           let target := ↑(eng (fetched (sq wBrFar) Eng.sq) Eng.sq).pos + sext (fld w 0 16) 16;
           Ready (sq wBrFar) cBrFar.tile Eng.sq w (fetched (sq wBrFar) Eng.sq) ∧
             (wOpcode w = 200 ∧ operandsOk w (mask 15 0) ∨
                 wOpcode w = 199 ∧ operandsOk w (mask 47 35 + mask 15 0) ∧ fld w 45 3 ≤ 5 ∧ brCond (fld w 45 3) x.bits y.bits = true) ∧
               (target < 0 ∨ ↑(eng (fetched (sq wBrFar) Eng.sq) Eng.sq).length ≤ target))
    ∧ (engineInstr (Instr.jmp 0 wJmpFar) = some cJmpFar ∧
       cJmpFar.fits Eng.sq ∧
         bit (fetched (sq wJmpFar) Eng.sq).fault 63 = false ∧
           let w := cJmpFar.word;
           let x := sGet (fetched (sq wJmpFar) Eng.sq) (sReg w 40);
           let y := sGet (fetched (sq wJmpFar) Eng.sq) (sReg w 35);
           let target := ↑(eng (fetched (sq wJmpFar) Eng.sq) Eng.sq).pos + sext (fld w 0 16) 16;
           Ready (sq wJmpFar) cJmpFar.tile Eng.sq w (fetched (sq wJmpFar) Eng.sq) ∧
             (wOpcode w = 200 ∧ operandsOk w (mask 15 0) ∨
                 wOpcode w = 199 ∧ operandsOk w (mask 47 35 + mask 15 0) ∧ fld w 45 3 ≤ 5 ∧ brCond (fld w 45 3) x.bits y.bits = true) ∧
               (target < 0 ∨ ↑(eng (fetched (sq wJmpFar) Eng.sq) Eng.sq).length ≤ target)) := by
  repeat' apply And.intro
  all_goals
    first
    | decide +kernel
    | exact plain_of (by decide +kernel)
    | exact ready_of (by decide +kernel)
    | exact nothing_of (by decide +kernel)
    | exact alive_of (by decide +kernel)
    | exact event_of (by decide +kernel)
    | exact warm_of (by decide +kernel)
    | exact stays_of (by decide +kernel)
    | rfl
    | exact trivial
    | exact upto_of (by decide +kernel)
    | exact upto2_of (by decide +kernel)
    | exact listed_of (by decide +kernel)
    | exact ⟨15, by decide +kernel, by decide +kernel, by decide +kernel⟩
    | exact held_of (by decide +kernel)
    | exact halves_of (by decide +kernel)
    | exact fun n h => nomatch h

/-- A witness of the premises of `Obligations.CreditWaitHoldsIssue`, clause by clause. -/
theorem meets_CreditWaitHoldsIssue :
    (engineInstr (Instr.li 0 wWaits) = some cWaits ∧
       cWaits.fits Eng.sq ∧
         tileNamed cWaits.tile.toNat = true ∧
           fetchWord (tileOf sWaits cWaits.tile.toNat) Eng.sq = some (cWaits.word, fetched sWaits Eng.sq) ∧
             reachFault Eng.sq (eng (fetched sWaits Eng.sq) Eng.sq) cWaits.word = none ∧
               waits cWaits.word = true ∧
                 BitVec.toNat (credit (fetched sWaits Eng.sq) (waitCtr cWaits.word)) ≤
                   servedFirst (fetched sWaits Eng.sq) Eng.sq (waitCtr cWaits.word)) := by
  repeat' apply And.intro
  all_goals
    first
    | decide +kernel
    | exact plain_of (by decide +kernel)
    | exact ready_of (by decide +kernel)
    | exact nothing_of (by decide +kernel)
    | exact alive_of (by decide +kernel)
    | exact event_of (by decide +kernel)
    | exact warm_of (by decide +kernel)
    | exact stays_of (by decide +kernel)
    | rfl
    | exact trivial
    | exact upto_of (by decide +kernel)
    | exact upto2_of (by decide +kernel)
    | exact listed_of (by decide +kernel)
    | exact ⟨15, by decide +kernel, by decide +kernel, by decide +kernel⟩
    | exact held_of (by decide +kernel)
    | exact halves_of (by decide +kernel)
    | exact fun n h => nomatch h

/-- A witness of the premises of `Obligations.AluComputes`, clause by clause. -/
theorem meets_AluComputes :
    (Plain (sq wLi) (0#10) Eng.sq wLi (fetched (sq wLi) Eng.sq) ∧
       staysIn Eng.sq wLi (eng (fetched (sq wLi) Eng.sq) Eng.sq) none ∧ wOpcode wLi = 196 ∧ operandsOk wLi (mask 47 43 + mask 31 0))
    ∧ (Plain (sq wAlu) (0#10) Eng.sq wAlu (fetched (sq wAlu) Eng.sq) ∧
       staysIn Eng.sq wAlu (eng (fetched (sq wAlu) Eng.sq) Eng.sq) none ∧ wOpcode wAlu = 197 ∧ operandsOk wAlu (mask 47 29))
    ∧ (Plain (sq wAlui) (0#10) Eng.sq wAlui (fetched (sq wAlui) Eng.sq) ∧
       staysIn Eng.sq wAlui (eng (fetched (sq wAlui) Eng.sq) Eng.sq) none ∧ wOpcode wAlui = 198 ∧ operandsOk wAlui (mask 47 34 + mask 15 0)) := by
  repeat' apply And.intro
  all_goals
    first
    | decide +kernel
    | exact plain_of (by decide +kernel)
    | exact ready_of (by decide +kernel)
    | exact nothing_of (by decide +kernel)
    | exact alive_of (by decide +kernel)
    | exact event_of (by decide +kernel)
    | exact warm_of (by decide +kernel)
    | exact stays_of (by decide +kernel)
    | rfl
    | exact trivial
    | exact upto_of (by decide +kernel)
    | exact upto2_of (by decide +kernel)
    | exact listed_of (by decide +kernel)
    | exact ⟨15, by decide +kernel, by decide +kernel, by decide +kernel⟩
    | exact held_of (by decide +kernel)
    | exact halves_of (by decide +kernel)
    | exact fun n h => nomatch h

/-- A witness of the premises of `Obligations.ARegistersCompute`, clause by clause. -/
theorem meets_ARegistersCompute :
    (Plain (sq wAread) (0#10) Eng.sq wAread (fetched (sq wAread) Eng.sq) ∧
       staysIn Eng.sq wAread (eng (fetched (sq wAread) Eng.sq) Eng.sq) none ∧ wOpcode wAread = 204 ∧ operandsOk wAread (mask 47 38))
    ∧ (Plain (sq wSeta2) (0#10) Eng.sq wSeta2 (fetched (sq wSeta2) Eng.sq) ∧
       wOpcode wSeta2 = 201 ∧
         bit (fetched (sq wSeta2) Eng.sq).fault 63 = false ∧ (2 ≤ fld wSeta2 42 2 ∨ fld wSeta2 42 2 = 1 ∧ fld wSeta2 16 16 ≠ 0))
    ∧ (Plain (sq wSeta3) (0#10) Eng.sq wSeta3 (fetched (sq wSeta3) Eng.sq) ∧
       wOpcode wSeta3 = 201 ∧
         bit (fetched (sq wSeta3) Eng.sq).fault 63 = false ∧ (2 ≤ fld wSeta3 42 2 ∨ fld wSeta3 42 2 = 1 ∧ fld wSeta3 16 16 ≠ 0))
    ∧ (Plain (sq wSeta0) (0#10) Eng.sq wSeta0 (fetched (sq wSeta0) Eng.sq) ∧
       staysIn Eng.sq wSeta0 (eng (fetched (sq wSeta0) Eng.sq) Eng.sq) none ∧
         wOpcode wSeta0 = 201 ∧ operandsOk wSeta0 (mask 47 42 + mask 31 0) ∧ fld wSeta0 42 2 = 0)
    ∧ (Plain (sq wSeta1) (0#10) Eng.sq wSeta1 (fetched (sq wSeta1) Eng.sq) ∧
       staysIn Eng.sq wSeta1 (eng (fetched (sq wSeta1) Eng.sq) Eng.sq) none ∧
         wOpcode wSeta1 = 201 ∧ operandsOk wSeta1 (mask 47 42 + mask 31 0) ∧ fld wSeta1 42 2 = 1 ∧ fld wSeta1 16 16 = 0)
    ∧ (Plain (sq wAdda) (0#10) Eng.sq wAdda (fetched (sq wAdda) Eng.sq) ∧
       staysIn Eng.sq wAdda (eng (fetched (sq wAdda) Eng.sq) Eng.sq) none ∧ wOpcode wAdda = 202 ∧ operandsOk wAdda (mask 47 40 + mask 31 0))
    ∧ (Plain (sq wAddas) (0#10) Eng.sq wAddas (fetched (sq wAddas) Eng.sq) ∧
       staysIn Eng.sq wAddas (eng (fetched (sq wAddas) Eng.sq) Eng.sq) none ∧ wOpcode wAddas = 203 ∧ operandsOk wAddas (mask 47 31)) := by
  repeat' apply And.intro
  all_goals
    first
    | decide +kernel
    | exact plain_of (by decide +kernel)
    | exact ready_of (by decide +kernel)
    | exact nothing_of (by decide +kernel)
    | exact alive_of (by decide +kernel)
    | exact event_of (by decide +kernel)
    | exact warm_of (by decide +kernel)
    | exact stays_of (by decide +kernel)
    | rfl
    | exact trivial
    | exact upto_of (by decide +kernel)
    | exact upto2_of (by decide +kernel)
    | exact listed_of (by decide +kernel)
    | exact ⟨15, by decide +kernel, by decide +kernel, by decide +kernel⟩
    | exact held_of (by decide +kernel)
    | exact halves_of (by decide +kernel)
    | exact fun n h => nomatch h

/-- A witness of the premises of `Obligations.SqReadsAndQueueWords`, clause by clause. -/
theorem meets_SqReadsAndQueueWords :
    (Plain (sq wKarg) (0#10) Eng.sq wKarg (fetched (sq wKarg) Eng.sq) ∧
       staysIn Eng.sq wKarg (eng (fetched (sq wKarg) Eng.sq) Eng.sq) none ∧ wOpcode wKarg = 205 ∧ operandsOk wKarg (mask 47 43 + mask 37 34))
    ∧ (Plain (sq wQstat) (0#10) Eng.sq wQstat (fetched (sq wQstat) Eng.sq) ∧
       staysIn Eng.sq wQstat (eng (fetched (sq wQstat) Eng.sq) Eng.sq) none ∧
         wOpcode wQstat = 209 ∧ operandsOk wQstat (mask 47 33) ∧ fld wQstat 33 5 ≤ 17)
    ∧ (Plain sQrd (0#10) Eng.sq wQrd (fetched sQrd Eng.sq) ∧
       staysIn Eng.sq wQrd (eng (fetched sQrd Eng.sq) Eng.sq) none ∧
         wOpcode wQrd = 207 ∧
           operandsOk wQrd (mask 47 38) ∧ qTake (tileQ (fetched sQrd Eng.sq) qAuSq) = some (pkt [qw 1 18364758544493064720], Queue.empty))
    ∧ (Plain (sq wQwr) (0#10) Eng.sq wQwr (fetched (sq wQwr) Eng.sq) ∧
       staysIn Eng.sq wQwr (eng (fetched (sq wQwr) Eng.sq) Eng.sq) none ∧ wOpcode wQwr = 208 ∧ operandsOk wQwr (mask 47 38)) := by
  repeat' apply And.intro
  all_goals
    first
    | decide +kernel
    | exact plain_of (by decide +kernel)
    | exact ready_of (by decide +kernel)
    | exact nothing_of (by decide +kernel)
    | exact alive_of (by decide +kernel)
    | exact event_of (by decide +kernel)
    | exact warm_of (by decide +kernel)
    | exact stays_of (by decide +kernel)
    | rfl
    | exact trivial
    | exact upto_of (by decide +kernel)
    | exact upto2_of (by decide +kernel)
    | exact listed_of (by decide +kernel)
    | exact ⟨15, by decide +kernel, by decide +kernel, by decide +kernel⟩
    | exact held_of (by decide +kernel)
    | exact halves_of (by decide +kernel)
    | exact fun n h => nomatch h

/-- A witness of the premises of `Obligations.SqControlIssues`, clause by clause. -/
theorem meets_SqControlIssues :
    (Plain sNop (0#10) Eng.mx wNop (fetched sNop Eng.mx) ∧
       wOpcode wNop = 32 * engNum Eng.mx ∧ operandsOk wNop 0 ∧ staysIn Eng.mx wNop (eng (fetched sNop Eng.mx) Eng.mx) none)
    ∧ (Plain sRep (0#10) Eng.vx wRep (fetched sRep Eng.vx) ∧
       wOpcode wRep = 32 * engNum Eng.vx + 1 ∧
         operandsOk wRep (mask 47 40 + mask 15 0) ∧ staysIn Eng.vx wRep (eng (fetched sRep Eng.vx) Eng.vx) none)
    ∧ (Plain sEnter (0#10) Eng.sq wEnter (fetched sEnter Eng.sq) ∧
       wOpcode wEnter = 194 ∧
         operandsOk wEnter (mask 15 0) ∧
           wWait wEnter = 0 ∧
             fld wEnter 0 16 = (fetched sEnter Eng.sq).kernelId.toNat ∧ staysIn Eng.sq wEnter (eng (fetched sEnter Eng.sq) Eng.sq) none)
    ∧ (Plain sKend (0#10) Eng.sq wKend (fetched sKend Eng.sq) ∧ wOpcode wKend = 195 ∧ operandsOk wKend 0 ∧ wSig wKend = 0)
    ∧ (Plain (sq wBr) (0#10) Eng.sq wBr (fetched (sq wBr) Eng.sq) ∧
       let x := sGet (fetched (sq wBr) Eng.sq) (sReg wBr 40);
       let y := sGet (fetched (sq wBr) Eng.sq) (sReg wBr 35);
       let target := ↑(eng (fetched (sq wBr) Eng.sq) Eng.sq).pos + sext (fld wBr 0 16) 16;
       wOpcode wBr = 199 ∧
         operandsOk wBr (mask 47 35 + mask 15 0) ∧
           fld wBr 45 3 ≤ 5 ∧ brCond (fld wBr 45 3) x.bits y.bits = true ∧ 0 ≤ target ∧ target < ↑(eng (fetched (sq wBr) Eng.sq) Eng.sq).length)
    ∧ (Plain (sq wBr0) (0#10) Eng.sq wBr0 (fetched (sq wBr0) Eng.sq) ∧
       let x := sGet (fetched (sq wBr0) Eng.sq) (sReg wBr0 40);
       let y := sGet (fetched (sq wBr0) Eng.sq) (sReg wBr0 35);
       wOpcode wBr0 = 199 ∧
         operandsOk wBr0 (mask 47 35 + mask 15 0) ∧
           fld wBr0 45 3 ≤ 5 ∧ brCond (fld wBr0 45 3) x.bits y.bits = false ∧ staysIn Eng.sq wBr0 (eng (fetched (sq wBr0) Eng.sq) Eng.sq) none)
    ∧ (Plain (sq wJmp) (0#10) Eng.sq wJmp (fetched (sq wJmp) Eng.sq) ∧
       let target := ↑(eng (fetched (sq wJmp) Eng.sq) Eng.sq).pos + sext (fld wJmp 0 16) 16;
       wOpcode wJmp = 200 ∧ operandsOk wJmp (mask 15 0) ∧ 0 ≤ target ∧ target < ↑(eng (fetched (sq wJmp) Eng.sq) Eng.sq).length)
    ∧ (Plain (sq wCredit) (0#10) Eng.sq wCredit (fetched (sq wCredit) Eng.sq) ∧
       wOpcode wCredit = 206 ∧
         operandsOk wCredit (mask 47 44 + mask 7 0) ∧
           fld wCredit 44 4 ≠ 0 ∧
             fld wCredit 0 8 ≠ 0 ∧ wSig wCredit = 0 ∧ staysIn Eng.sq wCredit (eng (fetched (sq wCredit) Eng.sq) Eng.sq) none)
    ∧ (Plain (sq wBr) (0#10) Eng.sq wBr (fetched (sq wBr) Eng.sq) ∧
       let target := ↑(eng (fetched (sq wBr) Eng.sq) Eng.sq).pos + sext (fld wBr 0 16) 16;
       let p := (eng (fetched (sq wBr) Eng.sq) Eng.sq).pos;
       wOpcode wBr = 199 ∧
         operandsOk wBr (mask 47 35 + mask 15 0) ∧
           fld wBr 45 3 ≤ 5 ∧
             0 ≤ target ∧ target < ↑(eng (fetched (sq wBr) Eng.sq) Eng.sq).length ∧ p + 1 < (eng (fetched (sq wBr) Eng.sq) Eng.sq).length)
    ∧ (Plain (sq wBr0) (0#10) Eng.sq wBr0 (fetched (sq wBr0) Eng.sq) ∧
       let target := ↑(eng (fetched (sq wBr0) Eng.sq) Eng.sq).pos + sext (fld wBr0 0 16) 16;
       let p := (eng (fetched (sq wBr0) Eng.sq) Eng.sq).pos;
       wOpcode wBr0 = 199 ∧
         operandsOk wBr0 (mask 47 35 + mask 15 0) ∧
           fld wBr0 45 3 ≤ 5 ∧
             0 ≤ target ∧ target < ↑(eng (fetched (sq wBr0) Eng.sq) Eng.sq).length ∧ p + 1 < (eng (fetched (sq wBr0) Eng.sq) Eng.sq).length)
    ∧ (Plain (sq wJmp) (0#10) Eng.sq wJmp (fetched (sq wJmp) Eng.sq) ∧
       let target := ↑(eng (fetched (sq wJmp) Eng.sq) Eng.sq).pos + sext (fld wJmp 0 16) 16;
       wOpcode wJmp = 200 ∧ operandsOk wJmp (mask 15 0) ∧ 0 ≤ target ∧ target < ↑(eng (fetched (sq wJmp) Eng.sq) Eng.sq).length)
    ∧ (Plain sRep (0#10) Eng.vx wRep (fetched sRep Eng.vx) ∧
       wOpcode wRep = 32 * engNum Eng.vx + 1 ∧
         operandsOk wRep (mask 47 40 + mask 15 0) ∧ staysIn Eng.vx wRep (eng (fetched sRep Eng.vx) Eng.vx) none)
    ∧ (Plain sRepIn (0#10) Eng.vx wRepIn (fetched sRepIn Eng.vx) ∧
       wOpcode wRepIn = 32 * engNum Eng.vx + 1 ∧
         operandsOk wRepIn (mask 47 40 + mask 15 0) ∧ staysIn Eng.vx wRepIn (eng (fetched sRepIn Eng.vx) Eng.vx) none)
    ∧ (Plain sNop (0#10) Eng.mx wNop (fetched sNop Eng.mx) ∧
       let ls := (eng (fetched sNop Eng.mx) Eng.mx).loops;
       wOpcode wNop = 32 * engNum Eng.mx ∧ operandsOk wNop 0 ∧ staysIn Eng.mx wNop (eng (fetched sNop Eng.mx) Eng.mx) none ∧ ls = [])
    ∧ (Plain (sNopL [lp 3 2]) (0#10) Eng.mx wNop (fetched (sNopL [lp 3 2]) Eng.mx) ∧
       let p := (eng (fetched (sNopL [lp 3 2]) Eng.mx) Eng.mx).pos;
       let ls := (eng (fetched (sNopL [lp 3 2]) Eng.mx) Eng.mx).loops;
       wOpcode wNop = 32 * engNum Eng.mx ∧
         operandsOk wNop 0 ∧ staysIn Eng.mx wNop (eng (fetched (sNopL [lp 3 2]) Eng.mx) Eng.mx) none ∧ ls = [lp 3 2] ∧ (lp 3 2).past ≠ p + 1)
    ∧ (Plain (sNopL [lp 2 65535, lp 3 1]) (0#10) Eng.mx wNop (fetched (sNopL [lp 2 65535, lp 3 1]) Eng.mx) ∧
       let p := (eng (fetched (sNopL [lp 2 65535, lp 3 1]) Eng.mx) Eng.mx).pos;
       let ls := (eng (fetched (sNopL [lp 2 65535, lp 3 1]) Eng.mx) Eng.mx).loops;
       wOpcode wNop = 32 * engNum Eng.mx ∧
         operandsOk wNop 0 ∧
           staysIn Eng.mx wNop (eng (fetched (sNopL [lp 2 65535, lp 3 1]) Eng.mx) Eng.mx) none ∧
             ls = [lp 2 65535, lp 3 1] ∧ (lp 2 65535).past = p + 1 ∧ (lp 2 65535).left ≠ 0)
    ∧ (Plain (sNopL [lp 2 0]) (0#10) Eng.mx wNop (fetched (sNopL [lp 2 0]) Eng.mx) ∧
       let p := (eng (fetched (sNopL [lp 2 0]) Eng.mx) Eng.mx).pos;
       let ls := (eng (fetched (sNopL [lp 2 0]) Eng.mx) Eng.mx).loops;
       wOpcode wNop = 32 * engNum Eng.mx ∧
         operandsOk wNop 0 ∧
           staysIn Eng.mx wNop (eng (fetched (sNopL [lp 2 0]) Eng.mx) Eng.mx) none ∧ ls = [lp 2 0] ∧ (lp 2 0).past = p + 1 ∧ (lp 2 0).left = 0)
    ∧ (Plain (sNopL [lp 2 0, lp 3 1]) (0#10) Eng.mx wNop (fetched (sNopL [lp 2 0, lp 3 1]) Eng.mx) ∧
       let p := (eng (fetched (sNopL [lp 2 0, lp 3 1]) Eng.mx) Eng.mx).pos;
       let ls := (eng (fetched (sNopL [lp 2 0, lp 3 1]) Eng.mx) Eng.mx).loops;
       wOpcode wNop = 32 * engNum Eng.mx ∧
         operandsOk wNop 0 ∧
           staysIn Eng.mx wNop (eng (fetched (sNopL [lp 2 0, lp 3 1]) Eng.mx) Eng.mx) none ∧
             ls = [lp 2 0, lp 3 1] ∧ (lp 2 0).past = p + 1 ∧ (lp 2 0).left = 0 ∧ (lp 3 1).past ≠ p + 1)
    ∧ (Plain (sNopL [lp 2 0, lp 2 1]) (0#10) Eng.mx wNop (fetched (sNopL [lp 2 0, lp 2 1]) Eng.mx) ∧
       let p := (eng (fetched (sNopL [lp 2 0, lp 2 1]) Eng.mx) Eng.mx).pos;
       let ls := (eng (fetched (sNopL [lp 2 0, lp 2 1]) Eng.mx) Eng.mx).loops;
       wOpcode wNop = 32 * engNum Eng.mx ∧
         operandsOk wNop 0 ∧
           staysIn Eng.mx wNop (eng (fetched (sNopL [lp 2 0, lp 2 1]) Eng.mx) Eng.mx) none ∧
             ls = [lp 2 0, lp 2 1] ∧ (lp 2 0).past = p + 1 ∧ (lp 2 0).left = 0 ∧ (lp 2 1).past = p + 1 ∧ (lp 2 1).left ≠ 0) := by
  repeat' apply And.intro
  all_goals
    first
    | decide +kernel
    | exact plain_of (by decide +kernel)
    | exact ready_of (by decide +kernel)
    | exact nothing_of (by decide +kernel)
    | exact alive_of (by decide +kernel)
    | exact event_of (by decide +kernel)
    | exact warm_of (by decide +kernel)
    | exact stays_of (by decide +kernel)
    | rfl
    | exact trivial
    | exact upto_of (by decide +kernel)
    | exact upto2_of (by decide +kernel)
    | exact listed_of (by decide +kernel)
    | exact ⟨15, by decide +kernel, by decide +kernel, by decide +kernel⟩
    | exact held_of (by decide +kernel)
    | exact halves_of (by decide +kernel)
    | exact fun n h => nomatch h

/-- A witness of the premises of `Obligations.LdCopiesBytes`, clause by clause. -/
theorem meets_LdCopiesBytes :
    (Plain sLoad (0#10) Eng.ld wLoad (fetched sLoad Eng.ld) ∧
       let i := iterOf (eng (fetched sLoad Eng.ld) Eng.ld);
       let ga := aGet (fetched sLoad Eng.ld) (aReg wLoad 44);
       let sa := aGet (fetched sLoad Eng.ld) (aReg wLoad 40);
       let g := gAddr (BitVec.toNat ga.bits) i (sext (fld wLoad 16 14) 14) 64;
       let off := (sAddr (BitVec.toNat sa.bits) i (sext (fld wLoad 2 14) 14)).toNat;
       let n := (fld wLoad 30 10 + 1) * 64;
       operandsOk wLoad (mask 47 2) ∧
         g % 64 = 0 ∧
           off % 64 = 0 ∧
             0 ≤ sAddr (BitVec.toNat sa.bits) i (sext (fld wLoad 2 14) 14) ∧
               off + n ≤ scratchSize ∧
                 ldReach (envOf sLoad (0#10).toNat (eng (fetched sLoad Eng.ld) Eng.ld)) g n = true ∧
                   ga.pz = false ∧ sa.pz = false ∧ wOpcode wLoad = 2 ∧ memAnyPz sLoad.mem g n = false ∧ portWaits sLoad (g, n) = false)
    ∧ (Plain sStore (0#10) Eng.ld wStore (fetched sStore Eng.ld) ∧
       let i := iterOf (eng (fetched sStore Eng.ld) Eng.ld);
       let ga := aGet (fetched sStore Eng.ld) (aReg wStore 44);
       let sa := aGet (fetched sStore Eng.ld) (aReg wStore 40);
       let g := gAddr (BitVec.toNat ga.bits) i (sext (fld wStore 16 14) 14) 64;
       let off := (sAddr (BitVec.toNat sa.bits) i (sext (fld wStore 2 14) 14)).toNat;
       let own := scratchBase (0#10).toNat + off;
       let n := (fld wStore 30 10 + 1) * 64;
       operandsOk wStore (mask 47 2) ∧
         g % 64 = 0 ∧
           off % 64 = 0 ∧
             0 ≤ sAddr (BitVec.toNat sa.bits) i (sext (fld wStore 2 14) 14) ∧
               off + n ≤ scratchSize ∧
                 ldReach (envOf sStore (0#10).toNat (eng (fetched sStore Eng.ld) Eng.ld)) g n = true ∧
                   ga.pz = false ∧
                     sa.pz = false ∧
                       wOpcode wStore = 3 ∧
                         memAnyPz sStore.mem own n = false ∧
                           portWaits sStore (g, n) = false ∧
                             ldWritable (envOf sStore (0#10).toNat (eng (fetched sStore Eng.ld) Eng.ld)) g n = true) := by
  repeat' apply And.intro
  all_goals
    first
    | decide +kernel
    | exact plain_of (by decide +kernel)
    | exact ready_of (by decide +kernel)
    | exact nothing_of (by decide +kernel)
    | exact alive_of (by decide +kernel)
    | exact event_of (by decide +kernel)
    | exact warm_of (by decide +kernel)
    | exact stays_of (by decide +kernel)
    | rfl
    | exact trivial
    | exact upto_of (by decide +kernel)
    | exact upto2_of (by decide +kernel)
    | exact listed_of (by decide +kernel)
    | exact ⟨15, by decide +kernel, by decide +kernel, by decide +kernel⟩
    | exact held_of (by decide +kernel)
    | exact halves_of (by decide +kernel)
    | exact fun n h => nomatch h

/-- A witness of the premises of `Obligations.ZeroClearsScratch`, clause by clause. -/
theorem meets_ZeroClearsScratch :
    (Plain sZero (0#10) Eng.ld wZero (fetched sZero Eng.ld) ∧
       wOpcode wZero = 8 ∧
         operandsOk wZero (mask 47 34) ∧
           let rs := aGet (fetched sZero Eng.ld) (aReg wZero 44);
           let n := (fld wZero 34 10 + 1) * 64;
           BitVec.toNat rs.bits % 64 = 0 ∧ BitVec.toNat rs.bits + n ≤ scratchSize ∧ rs.pz = false)
    ∧ (Plain sZeroA (0#10) Eng.ld wZeroA (fetched sZeroA Eng.ld) ∧
       wOpcode wZeroA = 8 ∧
         operandsOk wZeroA (mask 47 34) ∧
           let rs := aGet (fetched sZeroA Eng.ld) (aReg wZeroA 44);
           BitVec.toNat rs.bits % 64 ≠ 0 ∧ bit (fetched sZeroA Eng.ld).fault 63 = false) := by
  repeat' apply And.intro
  all_goals
    first
    | decide +kernel
    | exact plain_of (by decide +kernel)
    | exact ready_of (by decide +kernel)
    | exact nothing_of (by decide +kernel)
    | exact alive_of (by decide +kernel)
    | exact event_of (by decide +kernel)
    | exact warm_of (by decide +kernel)
    | exact stays_of (by decide +kernel)
    | rfl
    | exact trivial
    | exact upto_of (by decide +kernel)
    | exact upto2_of (by decide +kernel)
    | exact listed_of (by decide +kernel)
    | exact ⟨15, by decide +kernel, by decide +kernel, by decide +kernel⟩
    | exact held_of (by decide +kernel)
    | exact halves_of (by decide +kernel)
    | exact fun n h => nomatch h

/-- A witness of the premises of `Obligations.LdMovesPackets`, clause by clause. -/
theorem meets_LdMovesPackets :
    (Plain sQst (0#10) Eng.ld wQst (fetched sQst Eng.ld) ∧
       let ga := aGet (fetched sQst Eng.ld) (aReg wQst 44);
       let g := gAddr (BitVec.toNat ga.bits) (iterOf (eng (fetched sQst Eng.ld) Eng.ld)) (sext (fld wQst 25 14) 14) 256;
       let q := if fld wQst 43 1 = 0 then qVxLd else qXfLd;
       let l := List.flatMap wordBytes (pkt [qw 32 7, qw 32 9]).words;
       wOpcode wQst = 5 ∧
         operandsOk wQst (mask 47 25) ∧
           g % 64 = 0 ∧
             qTake (tileQ (fetched sQst Eng.ld) q) = some (pkt [qw 32 7, qw 32 9], Queue.empty) ∧
               (fld wQst 39 4 = 0 ∨ fld wQst 39 4 = (pkt [qw 32 7, qw 32 9]).words.length) ∧
                 l.length = 256 * (pkt [qw 32 7, qw 32 9]).words.length ∧
                   ((pkt [qw 32 7, qw 32 9]).words.any fun x => x.pz) = false ∧
                     ga.pz = false ∧
                       ldReach (envOf sQst (0#10).toNat (eng (fetched sQst Eng.ld) Eng.ld)) g 1 = true ∧
                         ldReach (envOf sQst (0#10).toNat (eng (fetched sQst Eng.ld) Eng.ld)) g l.length = true ∧
                           ldWritable (envOf sQst (0#10).toNat (eng (fetched sQst Eng.ld) Eng.ld)) g l.length = true ∧
                             portWaits sQst (g, l.length) = false)
    ∧ (Plain sLdq (0#10) Eng.ld wLdq (fetched sLdq Eng.ld) ∧
       let ga := aGet (fetched sLdq Eng.ld) (aReg wLdq 44);
       let q := (ldqQueue (fld wLdq 42 2)).fst;
       let wb := (ldqQueue (fld wLdq 42 2)).snd.fst;
       let n := fld wLdq 35 7;
       let g := gAddr (BitVec.toNat ga.bits) (iterOf (eng (fetched sLdq Eng.ld) Eng.ld)) (sext (fld wLdq 13 14) 14) wb;
       wOpcode wLdq = 4 ∧
         operandsOk wLdq (mask 47 13) ∧
           n ≠ 0 ∧
             n ≤ (ldqQueue (fld wLdq 42 2)).snd.snd.snd ∧
               g % (ldqQueue (fld wLdq 42 2)).snd.snd.fst = 0 ∧
                 ldReach (envOf sLdq (0#10).toNat (eng (fetched sLdq Eng.ld) Eng.ld)) g (n * wb) = true ∧
                   memAnyPz sLdq.mem g (n * wb) = false ∧
                     ga.pz = false ∧ portWaits sLdq (g, n * wb) = false ∧ qFull q (tileQ (fetched sLdq Eng.ld) q) = false) := by
  repeat' apply And.intro
  all_goals
    first
    | decide +kernel
    | exact plain_of (by decide +kernel)
    | exact ready_of (by decide +kernel)
    | exact nothing_of (by decide +kernel)
    | exact alive_of (by decide +kernel)
    | exact event_of (by decide +kernel)
    | exact warm_of (by decide +kernel)
    | exact stays_of (by decide +kernel)
    | rfl
    | exact trivial
    | exact upto_of (by decide +kernel)
    | exact upto2_of (by decide +kernel)
    | exact listed_of (by decide +kernel)
    | exact ⟨15, by decide +kernel, by decide +kernel, by decide +kernel⟩
    | exact held_of (by decide +kernel)
    | exact halves_of (by decide +kernel)
    | exact fun n h => nomatch h

/-- A witness of the premises of `Obligations.LdGathersAndBags`, clause by clause. -/
theorem meets_LdGathersAndBags :
    (Plain sGather (0#10) Eng.ld wGather (fetched sGather Eng.ld) ∧
       let base := scratchBase (0#10).toNat;
       let env := envOf sGather (0#10).toNat (eng (fetched sGather Eng.ld) Eng.ld);
       let ra := aGet (fetched sGather Eng.ld) (aReg wGather 44);
       let rc := aGet (fetched sGather Eng.ld) (aReg wGather 44 + 1);
       let ri := aGet (fetched sGather Eng.ld) (aReg wGather 40);
       let rows := BitVec.toNat rc.bits % 2 ^ 32;
       let fits := fun off n => off + n ≤ scratchSize;
       let good := fun a n => ldReach env a n = true ∧ memAnyPz sGather.mem a n = false ∧ portWaits sGather (a, n) = false;
       let rs := aGet (fetched sGather Eng.ld) (aReg wGather 36);
       let n := fld wGather 26 10 + 1;
       let rb := (fld wGather 20 6 + 1) * 64;
       let es := if fld wGather 19 1 = 0 then 4 else 8;
       let ix := fun k => memNum sGather.mem (base + BitVec.toNat ri.bits + k * es) es;
       let adr := fun k => (BitVec.toNat ra.bits + ix k * rb) % 2 ^ 48;
       wOpcode wGather = 6 ∧
         operandsOk wGather (mask 47 19) ∧
           BitVec.toNat ri.bits % es = 0 ∧
             BitVec.toNat ra.bits % 64 = 0 ∧
               fits (BitVec.toNat ri.bits) (n * es) ∧
                 fits (BitVec.toNat rs.bits) (n * rb) ∧
                   memAnyPz sGather.mem (base + BitVec.toNat ri.bits) (n * es) = false ∧
                     (∀ (k : Nat), k < n → ix k < rows ∧ good (adr k) rb) ∧ ra.pz = false ∧ rc.pz = false ∧ ri.pz = false ∧ rs.pz = false)
    ∧ (Plain sEbag (0#10) Eng.ld wEbag (fetched sEbag Eng.ld) ∧
       let base := scratchBase (0#10).toNat;
       let env := envOf sEbag (0#10).toNat (eng (fetched sEbag Eng.ld) Eng.ld);
       let ra := aGet (fetched sEbag Eng.ld) (aReg wEbag 44);
       let rc := aGet (fetched sEbag Eng.ld) (aReg wEbag 44 + 1);
       let ri := aGet (fetched sEbag Eng.ld) (aReg wEbag 40);
       let rows := BitVec.toNat rc.bits % 2 ^ 32;
       let fits := fun off n => off + n ≤ scratchSize;
       let good := fun a n => ldReach env a n = true ∧ memAnyPz sEbag.mem a n = false ∧ portWaits sEbag (a, n) = false;
       let ro := BitVec.toNat (aGet (fetched sEbag Eng.ld) (aReg wEbag 36)).bits;
       let rs := BitVec.toNat (aGet (fetched sEbag Eng.ld) (aReg wEbag 32)).bits;
       let bags := fld wEbag 24 8 + 1;
       let dim := (fld wEbag 18 6 + 1) * 16;
       let hash := fld wEbag 16 1;
       let rb := if fld wEbag 17 1 = 0 then dim * 4 else dim;
       let es := if hash = 0 then 4 else 8;
       let x := sext (BitVec.toNat rc.bits / 2 ^ 40) 8;
       let off := fun b => memNum sEbag.mem (base + ro + 4 * b) 4;
       let at_ := BitVec.toNat ri.bits + es * off 0;
       let n := off bags - off 0;
       let keys := chunks es (memRead sEbag.mem (base + at_) (es * n));
       let sel :=
         List.map (bagRows env (BitVec.toNat ra.bits) rows rb hash)
           (tab bags fun b => List.take (off (b + 1) - off b) (List.drop (off b - off 0) keys));
       wOpcode wEbag = 7 ∧
         operandsOk wEbag (mask 47 16) ∧
           (fld wEbag 17 1 = 1 → expoOk x = true) ∧
             BitVec.toNat ra.bits % 64 = 0 ∧
               ro % 4 = 0 ∧
                 BitVec.toNat ri.bits % es = 0 ∧
                   rs % 64 = 0 ∧
                     fits ro (4 * (bags + 1)) ∧
                       fits rs (bags * dim * 4) ∧
                         (∀ (b : Nat), b < bags → off b ≤ off (b + 1)) ∧
                           n ≤ 65536 ∧
                             (hash = 1 → rows ≠ 0) ∧
                               fits at_ (es * n) ∧
                                 memAnyPz sEbag.mem (base + ro) (4 * (bags + 1)) = false ∧
                                   memAnyPz sEbag.mem (base + at_) (es * n) = false ∧
                                     (∀ (b : BagRows), b ∈ sel → b.bad = false ∧ ∀ (a : Nat), a ∈ b.addrs → good a rb) ∧
                                       ra.pz = false ∧
                                         rc.pz = false ∧
                                           ri.pz = false ∧
                                             (aGet (fetched sEbag Eng.ld) (aReg wEbag 36)).pz = false ∧
                                               (aGet (fetched sEbag Eng.ld) (aReg wEbag 32)).pz = false)
    ∧ (Plain sEbag1 (0#10) Eng.ld wEbag1 (fetched sEbag1 Eng.ld) ∧
       let base := scratchBase (0#10).toNat;
       let env := envOf sEbag1 (0#10).toNat (eng (fetched sEbag1 Eng.ld) Eng.ld);
       let ra := aGet (fetched sEbag1 Eng.ld) (aReg wEbag1 44);
       let rc := aGet (fetched sEbag1 Eng.ld) (aReg wEbag1 44 + 1);
       let ri := aGet (fetched sEbag1 Eng.ld) (aReg wEbag1 40);
       let rows := BitVec.toNat rc.bits % 2 ^ 32;
       let fits := fun off n => off + n ≤ scratchSize;
       let good := fun a n => ldReach env a n = true ∧ memAnyPz sEbag1.mem a n = false ∧ portWaits sEbag1 (a, n) = false;
       let ro := BitVec.toNat (aGet (fetched sEbag1 Eng.ld) (aReg wEbag1 36)).bits;
       let rs := BitVec.toNat (aGet (fetched sEbag1 Eng.ld) (aReg wEbag1 32)).bits;
       let bags := fld wEbag1 24 8 + 1;
       let dim := (fld wEbag1 18 6 + 1) * 16;
       let hash := fld wEbag1 16 1;
       let rb := if fld wEbag1 17 1 = 0 then dim * 4 else dim;
       let es := if hash = 0 then 4 else 8;
       let x := sext (BitVec.toNat rc.bits / 2 ^ 40) 8;
       let off := fun b => memNum sEbag1.mem (base + ro + 4 * b) 4;
       let at_ := BitVec.toNat ri.bits + es * off 0;
       let n := off bags - off 0;
       let keys := chunks es (memRead sEbag1.mem (base + at_) (es * n));
       let sel :=
         List.map (bagRows env (BitVec.toNat ra.bits) rows rb hash)
           (tab bags fun b => List.take (off (b + 1) - off b) (List.drop (off b - off 0) keys));
       wOpcode wEbag1 = 7 ∧
         operandsOk wEbag1 (mask 47 16) ∧
           (fld wEbag1 17 1 = 1 → expoOk x = true) ∧
             BitVec.toNat ra.bits % 64 = 0 ∧
               ro % 4 = 0 ∧
                 BitVec.toNat ri.bits % es = 0 ∧
                   rs % 64 = 0 ∧
                     fits ro (4 * (bags + 1)) ∧
                       fits rs (bags * dim * 4) ∧
                         (∀ (b : Nat), b < bags → off b ≤ off (b + 1)) ∧
                           n ≤ 65536 ∧
                             (hash = 1 → rows ≠ 0) ∧
                               fits at_ (es * n) ∧
                                 memAnyPz sEbag1.mem (base + ro) (4 * (bags + 1)) = false ∧
                                   memAnyPz sEbag1.mem (base + at_) (es * n) = false ∧
                                     (∀ (b : BagRows), b ∈ sel → b.bad = false ∧ ∀ (a : Nat), a ∈ b.addrs → good a rb) ∧
                                       ra.pz = false ∧
                                         rc.pz = false ∧
                                           ri.pz = false ∧
                                             (aGet (fetched sEbag1 Eng.ld) (aReg wEbag1 36)).pz = false ∧
                                               (aGet (fetched sEbag1 Eng.ld) (aReg wEbag1 32)).pz = false) := by
  repeat' apply And.intro
  all_goals
    first
    | decide +kernel
    | exact plain_of (by decide +kernel)
    | exact ready_of (by decide +kernel)
    | exact nothing_of (by decide +kernel)
    | exact alive_of (by decide +kernel)
    | exact event_of (by decide +kernel)
    | exact warm_of (by decide +kernel)
    | exact stays_of (by decide +kernel)
    | rfl
    | exact trivial
    | exact upto_of (by decide +kernel)
    | exact upto2_of (by decide +kernel)
    | exact listed_of (by decide +kernel)
    | exact ⟨15, by decide +kernel, by decide +kernel, by decide +kernel⟩
    | exact held_of (by decide +kernel)
    | exact halves_of (by decide +kernel)
    | exact fun n h => nomatch h

/-- A witness of the premises of `Obligations.VxMovesAndComputes`, clause by clause. -/
theorem meets_VxMovesAndComputes :
    (Plain (vx wVld (scr ready)) (0#10) Eng.vx wVld (fetched (vx wVld (scr ready)) Eng.vx) ∧
       let vd := fld wVld 43 5;
       let n := fld wVld 40 3 + 1;
       let off := (vAddr wVld (iterOf (eng (fetched (vx wVld (scr ready)) Eng.vx) Eng.vx))).toNat;
       wOpcode wVld = 66 ∧
         operandsOk wVld (mask 47 10) ∧
           vd + n ≤ 32 ∧
             0 ≤ vAddr wVld (iterOf (eng (fetched (vx wVld (scr ready)) Eng.vx) Eng.vx)) ∧
               off + 256 * n ≤ scratchSize ∧ memAnyPz (vx wVld (scr ready)).mem (scratchBase (0#10).toNat + off) (256 * n) = false)
    ∧ (Plain (vx wVst (scr ready)) (0#10) Eng.vx wVst (fetched (vx wVst (scr ready)) Eng.vx) ∧
       let vd := fld wVst 43 5;
       let n := fld wVst 40 3 + 1;
       let off := (vAddr wVst (iterOf (eng (fetched (vx wVst (scr ready)) Eng.vx) Eng.vx))).toNat;
       wOpcode wVst = 67 ∧
         operandsOk wVst (mask 47 10) ∧
           vd + n ≤ 32 ∧ 0 ≤ vAddr wVst (iterOf (eng (fetched (vx wVst (scr ready)) Eng.vx) Eng.vx)) ∧ off + 256 * n ≤ scratchSize)
    ∧ (Plain sVpop (0#10) Eng.vx wVpop (fetched sVpop Eng.vx) ∧
       let vd := fld wVpop 43 5;
       wOpcode wVpop = 68 ∧
         operandsOk wVpop (mask 47 37) ∧
           [qLdVx, qMxVx, qTrVx][fld wVpop 41 2]? = some qMxVx ∧
             qTake (tileQ (fetched sVpop Eng.vx) qMxVx) = some (pkt [qw 32 7, qw 32 9], Queue.empty) ∧
               (fld wVpop 37 4 = 0 ∨ (pkt [qw 32 7, qw 32 9]).words.length = fld wVpop 37 4) ∧ vd + (pkt [qw 32 7, qw 32 9]).words.length ≤ 32)
    ∧ (Plain (vx wVpush) (0#10) Eng.vx wVpush (fetched (vx wVpush) Eng.vx) ∧
       let vd := fld wVpush 43 5;
       wOpcode wVpush = 69 ∧
         operandsOk wVpush (mask 47 30) ∧
           fld wVpush 39 4 ≠ 0 ∧
             vd + fld wVpush 39 4 ≤ 32 ∧
               let q := if fld wVpush 38 1 = 0 then qVxLd else qVxXf;
               let put :=
                 qPutPacket q (tileQ (fetched (vx wVpush) Eng.vx) q) (BitVec.ofNat 8 (fld wVpush 30 8))
                   (tab (fld wVpush 39 4) fun k => rowWord (vGet (fetched (vx wVpush) Eng.vx) (vd + k)));
               put.snd = 0)
    ∧ (Plain sVscl (0#10) Eng.vx wVscl (fetched sVscl Eng.vx) ∧
       wOpcode wVscl = 70 ∧
         operandsOk wVscl (mask 47 35) ∧
           qTake (tileQ (fetched sVscl Eng.vx) qSqVx) = some (pkt [qw 1 4886718345], Queue.empty) ∧
             (pkt [qw 1 4886718345]).words.head? = some { lanes := [4886718345#64], pz := false })
    ∧ (Plain (vx (wVop 30)) (0#10) Eng.vx (wVop 30) (fetched (vx (wVop 30)) Eng.vx) ∧
       wOpcode (wVop 30) = 71 ∧ operandsOk (wVop 30) (mask 47 23) ∧ fld (wVop 30) 23 5 ≠ 31)
    ∧ (Plain (vx (wVop 0)) (0#10) Eng.vx (wVop 0) (fetched (vx (wVop 0)) Eng.vx) ∧
       wOpcode (wVop 0) = 71 ∧ operandsOk (wVop 0) (mask 47 23) ∧ fld (wVop 0) 23 5 ≠ 31)
    ∧ (Plain (vx wVopi) (0#10) Eng.vx wVopi (fetched (vx wVopi) Eng.vx) ∧
       wOpcode wVopi = 72 ∧ operandsOk wVopi (mask 47 33 + mask 31 0) ∧ fld wVopi 33 5 ≠ 3 ∧ fld wVopi 33 5 ≠ 30 ∧ fld wVopi 33 5 ≠ 31)
    ∧ (Plain (vx wVred) (0#10) Eng.vx wVred (fetched (vx wVred) Eng.vx) ∧ wOpcode wVred = 73 ∧ operandsOk wVred (mask 47 35) ∧ fld wVred 35 3 ≤ 5) := by
  repeat' apply And.intro
  all_goals
    first
    | decide +kernel
    | exact plain_of (by decide +kernel)
    | exact ready_of (by decide +kernel)
    | exact nothing_of (by decide +kernel)
    | exact alive_of (by decide +kernel)
    | exact event_of (by decide +kernel)
    | exact warm_of (by decide +kernel)
    | exact stays_of (by decide +kernel)
    | rfl
    | exact trivial
    | exact upto_of (by decide +kernel)
    | exact upto2_of (by decide +kernel)
    | exact listed_of (by decide +kernel)
    | exact ⟨15, by decide +kernel, by decide +kernel, by decide +kernel⟩
    | exact held_of (by decide +kernel)
    | exact halves_of (by decide +kernel)
    | exact fun n h => nomatch h

/-- A witness of the premises of `Obligations.VxRearranges`, clause by clause. -/
theorem meets_VxRearranges :
    (Plain (vx wVrot (scr ready)) (0#10) Eng.vx wVrot (fetched (vx wVrot (scr ready)) Eng.vx) ∧
       let vd := fld wVrot 43 5;
       let va := fld wVrot 38 5;
       let base := scratchBase (0#10).toNat;
       let off := fld wVrot 21 16 * 32;
       wOpcode wVrot = 74 ∧
         operandsOk wVrot (mask 47 21) ∧
           vd % 4 = 0 ∧ va % 4 = 0 ∧ off + 32 ≤ scratchSize ∧ memAnyPz (vx wVrot (scr ready)).mem (base + off) 32 = false)
    ∧ (Plain (vx wVpick sideS) (0#10) Eng.vx wVpick (fetched (vx wVpick sideS) Eng.vx) ∧
       let va := fld wVpick 38 5;
       let base := scratchBase (0#10).toNat;
       let bytes := fun off n => List.map (fun x => x.fst) (memRead (vx wVpick sideS).mem (base + off) n);
       let off := fld wVpick 21 17 * 16;
       wOpcode wVpick = 75 ∧
         operandsOk wVpick (mask 47 21) ∧
           va % 4 = 0 ∧ off + 16 ≤ scratchSize ∧ memAnyPz (vx wVpick sideS).mem (base + off) 16 = false ∧ sideList (bytes off 16) = some [241])
    ∧ (Plain (vx wVside sideS2) (0#10) Eng.vx wVside (fetched (vx wVside sideS2) Eng.vx) ∧
       let base := scratchBase (0#10).toNat;
       let bytes := fun off n => List.map (fun x => x.fst) (memRead (vx wVside sideS2).mem (base + off) n);
       let off := fld wVside 23 15 * 64;
       wOpcode wVside = 76 ∧
         operandsOk wVside (mask 47 23) ∧
           off + 64 + 256 * [241].length ≤ scratchSize ∧
             memAnyPz (vx wVside sideS2).mem (base + off) 16 = false ∧
               memAnyPz (vx wVside sideS2).mem (base + off + 64) (256 * [241].length) = false ∧ sideList (bytes off 16) = some [241])
    ∧ (Plain (vx wVpack) (0#10) Eng.vx wVpack (fetched (vx wVpack) Eng.vx) ∧
       let va := fld wVpack 38 5;
       let k := fld wVpack 36 2;
       wOpcode wVpack = 80 ∧ operandsOk wVpack (mask 47 36) ∧ va % 4 = 0 ∧ k ≠ 3)
    ∧ (Plain (vx wVunpk) (0#10) Eng.vx wVunpk (fetched (vx wVunpk) Eng.vx) ∧
       let vd := fld wVunpk 43 5;
       let k := fld wVunpk 15 2;
       let x := trkExpo (fetched (vx wVunpk) Eng.vx) (bit wVunpk 14) (fld wVunpk 25 8) (fld wVunpk 33 5);
       wOpcode wVunpk = 81 ∧
         operandsOk wVunpk (mask 47 14) ∧
           vd % 4 = 0 ∧
             k ≠ 3 ∧ fld wVunpk 17 8 < 2 ^ widthBits k ∧ (bit wVunpk 14 = true → fld wVunpk 25 8 = 0) ∧ x.snd = false ∧ expoOk x.fst = true) := by
  repeat' apply And.intro
  all_goals
    first
    | decide +kernel
    | exact plain_of (by decide +kernel)
    | exact ready_of (by decide +kernel)
    | exact nothing_of (by decide +kernel)
    | exact alive_of (by decide +kernel)
    | exact event_of (by decide +kernel)
    | exact warm_of (by decide +kernel)
    | exact stays_of (by decide +kernel)
    | rfl
    | exact trivial
    | exact upto_of (by decide +kernel)
    | exact upto2_of (by decide +kernel)
    | exact listed_of (by decide +kernel)
    | exact ⟨15, by decide +kernel, by decide +kernel, by decide +kernel⟩
    | exact held_of (by decide +kernel)
    | exact halves_of (by decide +kernel)
    | exact fun n h => nomatch h

/-- A witness of the premises of `Obligations.VxQuantises`, clause by clause. -/
theorem meets_VxQuantises :
    (Plain (vx wVqz) (0#10) Eng.vx wVqz (fetched (vx wVqz) Eng.vx) ∧
       let vc := fld wVqz 33 5;
       let k := fld wVqz 15 2;
       let x := trkExpo (fetched (vx wVqz) Eng.vx) (bit wVqz 13) (fld wVqz 25 8) vc;
       wOpcode wVqz = 77 ∧
         operandsOk wVqz (mask 47 13) ∧
           k ≠ 3 ∧ fld wVqz 17 8 < 2 ^ widthBits k ∧ (bit wVqz 13 = true → fld wVqz 25 8 = 0) ∧ x.snd = false ∧ expoOk x.fst = true)
    ∧ (Plain (vx wVqnt recS) (0#10) Eng.vx wVqnt (fetched (vx wVqnt recS) Eng.vx) ∧
       let vc := fld wVqnt 33 5;
       let rec_ := fun off => qRecOf (List.map (fun x => x.fst) (memRead (vx wVqnt recS).mem (scratchBase (0#10).toNat + off) 16));
       let clean := fun off => off + 16 ≤ scratchSize ∧ memAnyPz (vx wVqnt recS).mem (scratchBase (0#10).toNat + off) 16 = false;
       let r := rec_ (fld wVqnt 16 17 * 16);
       let x := trkExpo (fetched (vx wVqnt recS) Eng.vx) true 0 vc;
       let sh := if r.trk = true then ↑r.s + (x.fst - r.eInit) else ↑r.s;
       wOpcode wVqnt = 78 ∧
         operandsOk wVqnt (mask 47 15) ∧
           clean (fld wVqnt 16 17 * 16) ∧ r.ok = true ∧ (r.trk = true → x.snd = false ∧ expoOk x.fst = true) ∧ 0 ≤ sh ∧ sh ≤ 47)
    ∧ (Plain sVqs (0#10) Eng.vx wVqs (fetched sVqs Eng.vx) ∧
       let rec_ := fun off => qRecOf (List.map (fun x => x.fst) (memRead sVqs.mem (scratchBase (0#10).toNat + off) 16));
       let clean := fun off => off + 16 ≤ scratchSize ∧ memAnyPz sVqs.mem (scratchBase (0#10).toNat + off) 16 = false;
       let r := rec_ (fld wVqs 29 17 * 16);
       let qi := if fld wVqs 47 1 = 0 then qMxVx else qLdVx;
       let qo := if fld wVqs 46 1 = 0 then qVxLd else qVxXf;
       let put :=
         qPutPacket qo (tileQ (fetched sVqs Eng.vx) qo) (BitVec.ofNat 8 (fld wVqs 21 8))
           (wordsOf256 (packCodes r.width (vqsBlocks r false VxQuantises_2_p.words)));
       wOpcode wVqs = 79 ∧
         operandsOk wVqs (mask 47 21) ∧
           clean (fld wVqs 29 17 * 16) ∧
             r.ok = true ∧
               r.trk = false ∧
                 qTake (tileQ (fetched sVqs Eng.vx) qi) = some (VxQuantises_2_p, Queue.empty) ∧ VxQuantises_2_p.words ≠ [] ∧ put.snd = 0) := by
  repeat' apply And.intro
  all_goals
    first
    | decide +kernel
    | exact plain_of (by decide +kernel)
    | exact ready_of (by decide +kernel)
    | exact nothing_of (by decide +kernel)
    | exact alive_of (by decide +kernel)
    | exact event_of (by decide +kernel)
    | exact warm_of (by decide +kernel)
    | exact stays_of (by decide +kernel)
    | rfl
    | exact trivial
    | exact upto_of (by decide +kernel)
    | exact upto2_of (by decide +kernel)
    | exact listed_of (by decide +kernel)
    | exact ⟨15, by decide +kernel, by decide +kernel, by decide +kernel⟩
    | exact held_of (by decide +kernel)
    | exact halves_of (by decide +kernel)
    | exact fun n h => nomatch h

/-- A witness of the premises of `Obligations.MxAccumulates`, clause by clause. -/
theorem meets_MxAccumulates :
    (Plain sMmw (0#10) Eng.mx wMmw (fetched sMmw Eng.mx) ∧
       let i := iterOf (eng (fetched sMmw Eng.mx) Eng.mx);
       let env := envOf sMmw (0#10).toNat (eng (fetched sMmw Eng.mx) Eng.mx);
       let base := scratchBase (0#10).toNat;
       let acc := fld wMmw 45 3;
       let kp := fld wMmw 39 3;
       let k := fld wMmw 37 2;
       let sg := fld wMmw 35 2;
       let n := fld wMmw 27 8 + 1;
       let nacc := ceilDiv n 32;
       let emit := bit wMmw 42 && env.last;
       let xoff := fld wMmw 17 10 + if bit wMmw 43 = true then i * kp * nacc else 0;
       let soff := fld wMmw 1 16 * 32 + if (bit wMmw 43 && decide (2 ≤ sg)) = true then i * kp * 32 else 0;
       let scale := memRead sMmw.mem (base + soff) (scaleBytes sg kp);
       let tl2 :=
         mmwRows env (bit wMmw 44 && i == 0) acc xoff nacc kp (weightRows k sg kp scale mmPkt.words)
           (setQ (paid (fetched sMmw Eng.mx) wMmw) qLdMx Queue.empty) (batchRows n);
       let put := qPutPacket qMxVx (tileQ (fetched sMmw Eng.mx) qMxVx) 0 (tab n fun r => rowWord (accGet tl2 acc r));
       wOpcode wMmw = 34 ∧
         operandsOk wMmw (mask 47 1) ∧
           k ≠ 3 ∧
             kp ≠ 0 ∧
               kp ≤ kpMax k ∧
                 acc + nacc ≤ 8 ∧
                   (bit wMmw 42 = true → n ≤ 15) ∧
                     xoff + kp * nacc ≤ 768 ∧
                       soff + scaleBytes sg kp ≤ scratchSize ∧
                         memAnyPz sMmw.mem (base + soff) (scaleBytes sg kp) = false ∧
                           (∀ (o : Nat),
                               o ∈ pairOffs sg kp → pairOk k (numOf (List.map (fun x => x.fst) (List.take 2 (List.drop o scale)))) = true) ∧
                             qTake (tileQ (fetched sMmw Eng.mx) qLdMx) = some (mmPkt, Queue.empty) ∧
                               mmPkt.words.length = kp * panelWords k ∧
                                 (∀ (r c : Nat),
                                     r < n →
                                       c < kp → memAnyPz sMmw.mem (base + ((xoff + c * nacc + r / 32) * 2048 + r % 32 * 64)) 64 = false) ∧
                                   (emit = true → put.snd = 0))
    ∧ (Plain sMxout (0#10) Eng.mx wMxout (fetched sMxout Eng.mx) ∧
       let i := iterOf (eng (fetched sMxout Eng.mx) Eng.mx);
       let acc := fld wMxout 45 3;
       let first := fld wMxout 40 5 + if bit wMxout 34 = true then i * fld wMxout 36 4 else 0;
       let rows := tab (fld wMxout 36 4) fun n => first + n;
       let put :=
         qPutPacket qMxVx (tileQ (fetched sMxout Eng.mx) qMxVx) (BitVec.ofNat 8 (fld wMxout 26 8))
           (List.map (fun r => rowWord (accGet (fetched sMxout Eng.mx) acc r)) rows);
       wOpcode wMxout = 35 ∧ operandsOk wMxout (mask 47 26) ∧ fld wMxout 36 4 ≠ 0 ∧ first + fld wMxout 36 4 ≤ 32 ∧ put.snd = 0)
    ∧ (Plain sMzero (0#10) Eng.mx wMzero (fetched sMzero Eng.mx) ∧ wOpcode wMzero = 36 ∧ operandsOk wMzero (mask 47 40)) := by
  repeat' apply And.intro
  all_goals
    first
    | decide +kernel
    | exact plain_of (by decide +kernel)
    | exact ready_of (by decide +kernel)
    | exact nothing_of (by decide +kernel)
    | exact alive_of (by decide +kernel)
    | exact event_of (by decide +kernel)
    | exact warm_of (by decide +kernel)
    | exact stays_of (by decide +kernel)
    | rfl
    | exact trivial
    | exact upto_of (by decide +kernel)
    | exact upto2_of (by decide +kernel)
    | exact listed_of (by decide +kernel)
    | exact ⟨15, by decide +kernel, by decide +kernel, by decide +kernel⟩
    | exact held_of (by decide +kernel)
    | exact halves_of (by decide +kernel)
    | exact fun n h => nomatch h

/-- A witness of the premises of `Obligations.TreesAndAutomataRun`, clause by clause. -/
theorem meets_TreesAndAutomataRun :
    (Plain sTfe (0#10) Eng.tr wTfe (fetched sTfe Eng.tr) ∧
       let base := scratchBase (0#10).toNat;
       let me := paid (fetched sTfe Eng.tr) wTfe;
       let a := fun lo => BitVec.toNat (aGet (fetched sTfe Eng.tr) (aReg wTfe lo)).bits;
       let sound := fun lo => (aGet (fetched sTfe Eng.tr) (aReg wTfe lo)).pz = false;
       let src := bit wTfe 35;
       let rows := fld wTfe 29 6 + 1;
       let nf := fld wTfe 17 12 + 1;
       let rstr := fld wTfe 8 9;
       let cstr := fld wTfe 0 8;
       let p :=
         tfeRows false base (a 44) (if src = true then 0 else a 40) (a 36) rstr cstr nf src rows 0 me
           { mem := sTfe.mem, ue := 0, reads := [], fault := none };
       wOpcode wTfe = 99 ∧
         2 * nf ≤ cstr * 64 ∧
           (src = true → fld wTfe 40 4 = 0 ∧ rstr = 0) ∧
             (src = false → rstr ≠ 0 ∧ a 40 % 4 = 0 ∧ a 40 + (rows - 1) * rstr * 64 + 4 ≤ scratchSize) ∧
               a 44 % 16 = 0 ∧
                 a 36 % 64 = 0 ∧
                   a 44 + 16 * nf ≤ scratchSize ∧
                     a 36 + (rows - 1) * cstr * 64 + 2 * nf ≤ scratchSize ∧
                       p.snd.fault = none ∧ p.snd.ue = 0 ∧ sound 44 ∧ sound 36 ∧ (src = false → sound 40))
    ∧ (Plain sTwalk (0#10) Eng.tr wTwalk (fetched sTwalk Eng.tr) ∧
       let base := scratchBase (0#10).toNat;
       let a := fun lo => BitVec.toNat (aGet (fetched sTwalk Eng.tr) (aReg wTwalk lo)).bits;
       let sound := fun lo => (aGet (fetched sTwalk Eng.tr) (aReg wTwalk lo)).pz = false;
       let rows := fld wTwalk 27 6 + 1;
       let nt := fld wTwalk 15 12 + 1;
       let cstr := fld wTwalk 7 8;
       let leaf := fun r y => walkTree sTwalk.mem base (a 44) (a 36 + r * cstr * 64) (cstr * 64) y;
       wOpcode wTwalk = 98 ∧
         operandsOk wTwalk (mask 47 7) ∧
           a 44 % 8 = 0 ∧
             a 40 % 4 = 0 ∧
               a 36 % 64 = 0 ∧
                 a 40 + 4 * (nt + 1) ≤ scratchSize ∧
                   a 36 + rows * cstr * 64 ≤ scratchSize ∧
                     memAnyPz sTwalk.mem (base + a 40) (4 * (nt + 1)) = false ∧
                       treeSpans sTwalk.mem (base + a 40) nt = some [{ first := 0, past := 3, pz := false }] ∧
                         sound 44 ∧
                           sound 40 ∧
                             sound 36 ∧
                               ∀ (r : Nat) (y : TreeSpan),
                                 r < rows →
                                   y ∈ [{ first := 0, past := 3, pz := false }] →
                                     (leaf r y).fault = none ∧
                                       ∀ (z : Nat × Nat), z ∈ (leaf r y).rd → memAnyPz sTwalk.mem (base + z.fst) z.snd = false)
    ∧ (Plain sTout (0#10) Eng.tr wTout (fetched sTout Eng.tr) ∧
       let bs := tab (fld wTout 44 2 + 1) fun k => fld wTout 46 2 + k;
       let put :=
         qPutPacket qTrVx (tileQ (fetched sTout Eng.tr) qTrVx) (BitVec.ofNat 8 (fld wTout 35 8))
           (List.map (fun b => rowWord (bankGet (fetched sTout Eng.tr) b)) bs);
       wOpcode wTout = 100 ∧ operandsOk wTout (mask 47 35) ∧ fld wTout 46 2 + fld wTout 44 2 ≤ 3 ∧ put.snd = 0)
    ∧ (Plain sAstep (0#10) Eng.au wAstep (fetched sAstep Eng.au) ∧
       let base := scratchBase (0#10).toNat;
       let ha := BitVec.toNat (aGet (fetched sAstep Eng.au) (aReg wAstep 44)).bits;
       let ra := BitVec.toNat (aGet (fetched sAstep Eng.au) (aReg wAstep 40)).bits;
       let rows := fld wAstep 31 6 + 1;
       let h := hdrOf (memWords sAstep.mem (base + ha) 8) false;
       let es := tab rows fun r => rowOf h (bit wAstep 23) (memWords sAstep.mem (base + ra + 32 * r) 4) false;
       let st :=
         astepRows
           { base := base, hdr := h, row := es.headD (rowOf h (bit wAstep 23) [] false), r := 0, aut := fld wAstep 37 3,
             elim := fld wAstep 24 6, msk := bit wAstep 30, mset := (fetched sAstep Eng.au).mset.toNat, pkt := none, lastEnd := 0,
             badState := false }
           (bit wAstep 23) es 0
           { mem := sAstep.mem, tile := paid (fetched sAstep Eng.au) wAstep, ue := 0, reads := [], fault := none, emitted := 0, dropped := 0,
             overran := 0, pz := false };
       let put := qPutWord qAuSq (tileQ st.tile qAuSq) { lanes := [terminalWord (fld wAstep 37 3) st.emitted st.dropped], pz := false };
       wOpcode wAstep = 130 ∧
         operandsOk wAstep (mask 47 23) ∧
           ha % 64 = 0 ∧
             ra % 32 = 0 ∧
               ha + 64 ≤ scratchSize ∧
                 ra + 32 * rows ≤ scratchSize ∧
                   memAnyPz sAstep.mem (base + ha) 64 = false ∧
                     memAnyPz sAstep.mem (base + ra) (32 * rows) = false ∧
                       h.ok = true ∧
                         (bit wAstep 30 = true → h.mrole = true) ∧
                           (∀ (x : ARow), x ∈ es → x.symOff % 4 = 0 ∧ x.apbOff % 64 = 0 ∧ x.clsOff % 64 = 0) ∧
                             st.fault = none ∧
                               st.ue = 0 ∧
                                 st.overran = 0 ∧
                                   st.pz = false ∧
                                     put.snd = false ∧
                                       (aGet (fetched sAstep Eng.au) (aReg wAstep 44)).pz = false ∧
                                         (aGet (fetched sAstep Eng.au) (aReg wAstep 40)).pz = false) := by
  repeat' apply And.intro
  all_goals
    first
    | decide +kernel
    | exact plain_of (by decide +kernel)
    | exact ready_of (by decide +kernel)
    | exact nothing_of (by decide +kernel)
    | exact alive_of (by decide +kernel)
    | exact event_of (by decide +kernel)
    | exact warm_of (by decide +kernel)
    | exact stays_of (by decide +kernel)
    | rfl
    | exact trivial
    | exact upto_of (by decide +kernel)
    | exact upto2_of (by decide +kernel)
    | exact listed_of (by decide +kernel)
    | exact ⟨15, by decide +kernel, by decide +kernel, by decide +kernel⟩
    | exact held_of (by decide +kernel)
    | exact halves_of (by decide +kernel)
    | exact fun n h => nomatch h

/-- A witness of the premises of `Obligations.XfItemsPend`, clause by clause. -/
theorem meets_XfItemsPend :
    (Plain sSend (0#10) Eng.xf wSend (fetched sSend Eng.xf) ∧
       wOpcode wSend = 162 ∧
         operandsOk wSend (mask 47 1) ∧
           fld wSend 14 2 ≠ 3 ∧
             bit wSend 16 = false ∧
               bit wSend 17 = true ∧
                 fld wSend 32 16 = 0 ∧
                   fld wSend 2 12 = 0 ∧
                     tileNamed (fld wSend 22 10) = true ∧
                       tileEnabled sSend (fld wSend 22 10) = true ∧
                         qTake (tileQ (fetched sSend Eng.xf) qVxXf) = some (pkt [qw 32 7], Queue.empty))
    ∧ (Plain sSendR (0#10) Eng.xf wSendR (fetched sSendR Eng.xf) ∧
       wOpcode wSendR = 162 ∧
         operandsOk wSendR (mask 47 1) ∧
           fld wSendR 14 2 ≠ 3 ∧
             bit wSendR 16 = false ∧
               bit wSendR 17 = false ∧
                 fld wSendR 2 12 = 0 ∧
                   fld wSendR 32 16 ≠ sSendR.su.addr.toNat ∧
                     (memberOf sSendR (BitVec.ofNat 16 (fld wSendR 32 16))).isSome = true ∧
                       isAbsent sSendR (BitVec.ofNat 16 (fld wSendR 32 16)) = false ∧
                         qTake (tileQ (fetched sSendR Eng.xf) qVxXf) = some (pkt [qw 32 7], Queue.empty))
    ∧ (Plain sRecv (0#10) Eng.xf wRecv (fetched sRecv Eng.xf) ∧
       wOpcode wRecv = 163 ∧
         operandsOk wRecv (mask 47 9) ∧ fld wRecv 14 2 ≠ 3 ∧ fld wRecv 10 4 ≠ 0 ∧ (bit wRecv 17 = true → fld wRecv 32 16 = 0)) := by
  repeat' apply And.intro
  all_goals
    first
    | decide +kernel
    | exact plain_of (by decide +kernel)
    | exact ready_of (by decide +kernel)
    | exact nothing_of (by decide +kernel)
    | exact alive_of (by decide +kernel)
    | exact event_of (by decide +kernel)
    | exact warm_of (by decide +kernel)
    | exact stays_of (by decide +kernel)
    | rfl
    | exact trivial
    | exact upto_of (by decide +kernel)
    | exact upto2_of (by decide +kernel)
    | exact listed_of (by decide +kernel)
    | exact ⟨15, by decide +kernel, by decide +kernel, by decide +kernel⟩
    | exact held_of (by decide +kernel)
    | exact halves_of (by decide +kernel)
    | exact fun n h => nomatch h

/-- A witness of the premises of `Obligations.FetchAndCompletion`, clause by clause. -/
theorem meets_FetchAndCompletion :
    (tileNamed (0#10).toNat = true ∧
       domainRuns FetchAndCompletion_0_s (tileDomain (0#10).toNat) = true ∧
         (eng (tileOf FetchAndCompletion_0_s (0#10).toNat) Eng.sq).flight[1]? = some (fl (Pend.regs rsX raX true) 0) ∧
           (fl (Pend.regs rsX raX true) 0).done = false ∧
             (fl (Pend.regs rsX raX true) 0).pend = Pend.regs rsX raX true ∧
               (List.map (fun x => x.fst) rsX).Nodup ∧ (List.map (fun x => x.fst) raX).Nodup)
    ∧ (tileNamed (0#10).toNat = true ∧
       domainRuns FetchAndCompletion_1_s (tileDomain (0#10).toNat) = true ∧
         (eng (tileOf FetchAndCompletion_1_s (0#10).toNat) Eng.vx).flight = [fl Pend.none 15] ∧
           (fl Pend.none 15).done = false ∧
             (fl Pend.none 15).pend = Pend.none ∧
               ((fl Pend.none 15).sig ≠ 0 →
                 BitVec.toNat (credit (tileOf FetchAndCompletion_1_s (0#10).toNat) (fl Pend.none 15).sig) + (fl Pend.none 15).n ≤ 255))
    ∧ (tileNamed (0#10).toNat = true ∧
       domainRuns FetchAndCompletion_1_sb (tileDomain (0#10).toNat) = true ∧
         (eng (tileOf FetchAndCompletion_1_sb (0#10).toNat) Eng.vx).flight = [fl Pend.none 0] ∧
           (fl Pend.none 0).done = false ∧
             (fl Pend.none 0).pend = Pend.none ∧
               ((fl Pend.none 0).sig ≠ 0 →
                 BitVec.toNat (credit (tileOf FetchAndCompletion_1_sb (0#10).toNat) (fl Pend.none 0).sig) + (fl Pend.none 0).n ≤ 255))
    ∧ (tileNamed (0#10).toNat = true ∧
       tileRuns sLoader (0#10).toNat = true ∧
         (tileOf sLoader (0#10).toNat).kernel = true ∧
           let tl := readOn (tileOf sLoader (0#10).toNat) Eng.vx;
           let x := eng tl Eng.vx;
           x.sent < x.length ∧
             qLevel (engNum Eng.vx) (tileQ tl (engNum Eng.vx)) < 256 ∧
               memAnyPz sLoader.mem (x.start + 8 * x.sent) 8 = false ∧ singleUnits sLoader.mem (x.start + 8 * x.sent) 8 = []) := by
  repeat' apply And.intro
  all_goals
    first
    | decide +kernel
    | exact plain_of (by decide +kernel)
    | exact ready_of (by decide +kernel)
    | exact nothing_of (by decide +kernel)
    | exact alive_of (by decide +kernel)
    | exact event_of (by decide +kernel)
    | exact warm_of (by decide +kernel)
    | exact stays_of (by decide +kernel)
    | rfl
    | exact trivial
    | exact upto_of (by decide +kernel)
    | exact upto2_of (by decide +kernel)
    | exact listed_of (by decide +kernel)
    | exact ⟨15, by decide +kernel, by decide +kernel, by decide +kernel⟩
    | exact held_of (by decide +kernel)
    | exact halves_of (by decide +kernel)
    | exact fun n h => nomatch h

/-- A witness of the premises of `Obligations.TileEventsFault`, clause by clause. -/
theorem meets_TileEventsFault :
    (tileNamed (0#10).toNat = true ∧
       tileRuns sIll (0#10).toNat = true ∧
         (tileOf sIll (0#10).toNat).kernel = true ∧
           (tileOf sIll (0#10).toNat).stopped = false ∧
             bit (tileOf sIll (0#10).toNat).fault 63 = false ∧
               wordLegal Eng.sq wIll = false ∧ fetchWord (tileOf sIll (0#10).toNat) Eng.sq = some (wIll, fetched sIll Eng.sq))
    ∧ (tileNamed (0#10).toNat = true ∧
       tileRuns sStall (0#10).toNat = true ∧
         (tileOf sStall (0#10).toNat).kernel = true ∧
           (tileOf sStall (0#10).toNat).stopped = false ∧
             bit (tileOf sStall (0#10).toNat).fault 63 = false ∧ creditStalled (tileOf sStall (0#10).toNat) = true)
    ∧ (tileNamed (0#10).toNat = true ∧
       tileRuns sTrap (0#10).toNat = true ∧
         (tileOf sTrap (0#10).toNat).kernel = true ∧
           (tileOf sTrap (0#10).toNat).stopped = false ∧
             bit (tileOf sTrap (0#10).toNat).fault 63 = false ∧
               Ready sTrap (0#10) Eng.sq wTrap (fetched sTrap Eng.sq) ∧
                 wOpcode wTrap = 210 ∧ operandsOk wTrap 0 ∧ bit (fetched sTrap Eng.sq).fault 63 = false) := by
  repeat' apply And.intro
  all_goals
    first
    | decide +kernel
    | exact plain_of (by decide +kernel)
    | exact ready_of (by decide +kernel)
    | exact nothing_of (by decide +kernel)
    | exact alive_of (by decide +kernel)
    | exact event_of (by decide +kernel)
    | exact warm_of (by decide +kernel)
    | exact stays_of (by decide +kernel)
    | rfl
    | exact trivial
    | exact upto_of (by decide +kernel)
    | exact upto2_of (by decide +kernel)
    | exact listed_of (by decide +kernel)
    | exact ⟨15, by decide +kernel, by decide +kernel, by decide +kernel⟩
    | exact held_of (by decide +kernel)
    | exact halves_of (by decide +kernel)
    | exact fun n h => nomatch h

/-- A witness of the premises of `Obligations.KernelsDispatched`, clause by clause. -/
theorem meets_KernelsDispatched :
    (mayDispatch sMaskD Half.A = true ∧
       imageOf sMaskD jobM.image = some img1 ∧
         descOf sMaskD img1 jobM.kernel (jobClass img1 jobM) = some 131072 ∧
           jobM.half = Half.A ∧
             memAnyPz sMaskD.mem 131072 64 = false ∧
               fld (memWord sMaskD.mem (131072 + 56)) 0 16 ≠ 0 ∧
                 singleUnits sMaskD.mem 131072 64 = [] ∧
                   (∀ (r : Row), r ∈ jobM.rows → pagesNeeded sMaskD r.slot r.first r.past = 0) ∧
                     (half sMaskD Half.A).planLess = [] ∧
                       (jobM.lane = Lane.replay →
                           ∀ (r : Row),
                             r ∈ jobM.rows →
                               rowLive sMaskD r = false ∨
                                 jobBegun sMaskD r.slot jobM.num = true ∨ r.past ≤ (slotOf sMaskD r.slot).w.entered ∧ img1.tqds = []) ∧
                         nextMask sMaskD Half.A = some jobM ∧
                           List.find? (tileFree1 sMaskD) (planMaskTiles sMaskD (halfPlan sMaskD Half.A) Half.A) = some 1)
    ∧ (mayDispatch sReplayD Half.A = true ∧
       imageOf sReplayD jobR.image = some img1 ∧
         descOf sReplayD img1 jobR.kernel (jobClass img1 jobR) = some 131072 ∧
           jobR.half = Half.A ∧
             memAnyPz sReplayD.mem 131072 64 = false ∧
               fld (memWord sReplayD.mem (131072 + 56)) 0 16 ≠ 0 ∧
                 singleUnits sReplayD.mem 131072 64 = [] ∧
                   (∀ (r : Row), r ∈ jobR.rows → pagesNeeded sReplayD r.slot r.first r.past = 0) ∧
                     (half sReplayD Half.A).planLess = [] ∧
                       (jobR.lane = Lane.replay →
                           ∀ (r : Row),
                             r ∈ jobR.rows →
                               rowLive sReplayD r = false ∨
                                 jobBegun sReplayD r.slot jobR.num = true ∨ r.past ≤ (slotOf sReplayD r.slot).w.entered ∧ img1.tqds = []) ∧
                         (half sReplayD Half.A).replayJobs = [jobR] ∧
                           jobR.lane ≠ Lane.mask ∧ (half sReplayD Half.A).run.isSome = true ∧ jobR.tile = 2 ∧ tileFree1 sReplayD 2 = true)
    ∧ (mayDispatch sPlanD Half.A = true ∧
       imageOf sPlanD jobP.image = some img1 ∧
         descOf sPlanD img1 jobP.kernel (jobClass img1 jobP) = some 131072 ∧
           jobP.half = Half.A ∧
             memAnyPz sPlanD.mem 131072 64 = false ∧
               fld (memWord sPlanD.mem (131072 + 56)) 0 16 ≠ 0 ∧
                 singleUnits sPlanD.mem 131072 64 = [] ∧
                   (∀ (r : Row), r ∈ jobP.rows → pagesNeeded sPlanD r.slot r.first r.past = 0) ∧
                     (half sPlanD Half.A).planLess = [] ∧
                       (jobP.lane = Lane.replay →
                           ∀ (r : Row),
                             r ∈ jobP.rows →
                               rowLive sPlanD r = false ∨
                                 jobBegun sPlanD r.slot jobP.num = true ∨ r.past ≤ (slotOf sPlanD r.slot).w.entered ∧ img1.tqds = []) ∧
                         (half sPlanD Half.A).replayJobs = [] ∧
                           (half sPlanD Half.A).run = some prun2 ∧
                             skipEmpty prun2.batches prun2.left = [(pk, some 1)] ∧
                               List.find? (fun b => b.image == 1 && b.tenant == pk.tenant) prun2.batches = some bt ∧
                                 pk.tile.toNat = 0 ∧
                                   tileFree1 sPlanD 0 = true ∧
                                     jobP =
                                       { num := bt.num, half := Half.A, tile := 0, tenant := pk.tenant, image := 1, lane := Lane.plan,
                                         rows := bt.rows, kernel := pk.kernel, fixed := pk.fixed, args := pk.args, verdict := pk.verdict,
                                         turn := prun2.turn, since := 0, dead := false, entry := none, bytes := 0, excess := false, snap := [],
                                         held := [] }) := by
  repeat' apply And.intro
  all_goals
    first
    | decide +kernel
    | exact plain_of (by decide +kernel)
    | exact ready_of (by decide +kernel)
    | exact nothing_of (by decide +kernel)
    | exact alive_of (by decide +kernel)
    | exact event_of (by decide +kernel)
    | exact warm_of (by decide +kernel)
    | exact stays_of (by decide +kernel)
    | rfl
    | exact trivial
    | exact upto_of (by decide +kernel)
    | exact upto2_of (by decide +kernel)
    | exact listed_of (by decide +kernel)
    | exact ⟨15, by decide +kernel, by decide +kernel, by decide +kernel⟩
    | exact held_of (by decide +kernel)
    | exact halves_of (by decide +kernel)
    | exact fun n h => nomatch h

/-- A witness of the premises of `Obligations.MarksAndStalls`, clause by clause. -/
theorem meets_MarksAndStalls :
    (takesMark hosted TbIn.tb0 (sofW 5) = true ∧
       let t := sofTurn (sofW 5);
       hosted.turns.seen = true ∧ later t hosted.turns.last = false)
    ∧ (takesMark MarksAndStalls_0_1_s TbIn.tb0 (sofW 6) = true ∧
       let t := sofTurn (sofW 6);
       MarksAndStalls_0_1_s.turns.seen = true ∧
         later t MarksAndStalls_0_1_s.turns.last = true ∧ MarksAndStalls_0_1_s.now < MarksAndStalls_0_1_s.turns.lastTime + 2000)
    ∧ (takesMark sMark TbIn.tb0 (sofW 6) = true ∧
       let t := sofTurn (sofW 6);
       (sMark.turns.seen = true → t = sMark.turns.last + 1 ∧ later t sMark.turns.last = true ∧ sMark.turns.lastTime + 2000 ≤ sMark.now) ∧
         sMark.turns.stalled = false ∧
           (∀ (n : Nat), (slotOf sMark n).r.st ≠ SlotSt.paused) ∧
             sMark.halfA.handles = [] ∧
               sMark.halfB.handles = [] ∧
                 sMark.halfA.run.isSome = true ∧ sMark.halfB.run.isSome = true ∧ halfRuns sMark Half.A = true ∧ halfRuns sMark Half.B = true)
    ∧ (takesMark sMark0 TbIn.tb0 (sofW 4294967295) = true ∧
       let t := sofTurn (sofW 4294967295);
       (sMark0.turns.seen = true → t = sMark0.turns.last + 1 ∧ later t sMark0.turns.last = true ∧ sMark0.turns.lastTime + 2000 ≤ sMark0.now) ∧
         sMark0.turns.stalled = false ∧
           (∀ (n : Nat), (slotOf sMark0 n).r.st ≠ SlotSt.paused) ∧
             sMark0.halfA.handles = [] ∧
               sMark0.halfB.handles = [] ∧
                 sMark0.halfA.run.isSome = true ∧
                   sMark0.halfB.run.isSome = true ∧ halfRuns sMark0 Half.A = true ∧ halfRuns sMark0 Half.B = true)
    ∧ (mayStall hosted = true)
    ∧ (takesMark sSkip TbIn.tb0 (sofW 9) = true ∧
       let t := sofTurn (sofW 9);
       let c := sSkip.turns.last;
       sSkip.turns.seen = true ∧
         later t c = true ∧
           t ≠ c + 1 ∧
             sSkip.turns.lastTime + 2000 ≤ sSkip.now ∧
               sSkip.turns.stalled = false ∧
                 (∀ (n : Nat), (slotOf sSkip n).r.st ≠ SlotSt.paused) ∧
                   sSkip.halfA.handles = [] ∧
                     sSkip.halfB.handles = [] ∧
                       sSkip.halfA.run.isSome = true ∧
                         sSkip.halfB.run.isSome = true ∧ halfRuns sSkip Half.A = true ∧ halfRuns sSkip Half.B = true ∧ EventReady sSkip Half.A) := by
  repeat' apply And.intro
  all_goals
    first
    | decide +kernel
    | exact plain_of (by decide +kernel)
    | exact ready_of (by decide +kernel)
    | exact nothing_of (by decide +kernel)
    | exact alive_of (by decide +kernel)
    | exact event_of (by decide +kernel)
    | exact warm_of (by decide +kernel)
    | exact stays_of (by decide +kernel)
    | rfl
    | exact trivial
    | exact upto_of (by decide +kernel)
    | exact upto2_of (by decide +kernel)
    | exact listed_of (by decide +kernel)
    | exact ⟨15, by decide +kernel, by decide +kernel, by decide +kernel⟩
    | exact held_of (by decide +kernel)
    | exact halves_of (by decide +kernel)
    | exact fun n h => nomatch h

/-- A witness of the premises of `Obligations.ExpiriesAct`, clause by clause. -/
theorem meets_ExpiriesAct :
    (windowOpen (paused 6 false) = true ∧
       (slotOf (paused 6 false) (0#16).toNat).r.st = SlotSt.paused ∧
         (slotOf (paused 6 false) (0#16).toNat).r.sub = 2 ∧
           notEarlier (paused 6 false).turns.cur (slotOf (paused 6 false) (0#16).toNat).r.expiry = false)
    ∧ (windowOpen (paused 5 false) = true ∧
       (slotOf (paused 5 false) (0#16).toNat).r.st = SlotSt.paused ∧
         (slotOf (paused 5 false) (0#16).toNat).r.sub = 2 ∧
           notEarlier (paused 5 false).turns.cur (slotOf (paused 5 false) (0#16).toNat).r.expiry = true ∧
             (slotOf (paused 5 false) (0#16).toNat).w.pause.retain = false ∧ (slotOf (paused 5 false) (0#16).toNat).w.pause.fetch = false)
    ∧ (windowOpen (paused 5 true) = true ∧
       (slotOf (paused 5 true) (0#16).toNat).r.st = SlotSt.paused ∧
         (slotOf (paused 5 true) (0#16).toNat).r.sub = 2 ∧
           notEarlier (paused 5 true).turns.cur (slotOf (paused 5 true) (0#16).toNat).r.expiry = true ∧
             (slotOf (paused 5 true) (0#16).toNat).w.pause.retain = true ∧
               (slotOf (paused 5 true) (0#16).toNat).w.held = [] ∧ (slotOf (paused 5 true) (0#16).toNat).w.pause.fetch = false)
    ∧ (windowOpen (sHandle 6) = true ∧
       smGet none (half (sHandle 6) Half.B).handles (16383#14).toNat = some (hd 6) ∧ notEarlier (sHandle 6).turns.cur (hd 6).expiry = false)
    ∧ (windowOpen (sHandle 5) = true ∧
       smGet none (half (sHandle 5) Half.B).handles (16383#14).toNat = some (hd 5) ∧ notEarlier (sHandle 5).turns.cur (hd 5).expiry = true) := by
  repeat' apply And.intro
  all_goals
    first
    | decide +kernel
    | exact plain_of (by decide +kernel)
    | exact ready_of (by decide +kernel)
    | exact nothing_of (by decide +kernel)
    | exact alive_of (by decide +kernel)
    | exact event_of (by decide +kernel)
    | exact warm_of (by decide +kernel)
    | exact stays_of (by decide +kernel)
    | rfl
    | exact trivial
    | exact upto_of (by decide +kernel)
    | exact upto2_of (by decide +kernel)
    | exact listed_of (by decide +kernel)
    | exact ⟨15, by decide +kernel, by decide +kernel, by decide +kernel⟩
    | exact held_of (by decide +kernel)
    | exact halves_of (by decide +kernel)
    | exact fun n h => nomatch h

/-- A witness of the premises of `Obligations.HostPacketsServed`, clause by clause. -/
theorem meets_HostPacketsServed :
    (portOpen hosted (2#2).toNat = true ∧
       let a := fld (16777200#64) 0 48;
       let n := pktLen (hdr 16 2);
       headOk (hdr 16 2) 16 = true ∧
         fld (16777200#64) 48 15 = 0 ∧
           [1, 2].length = n ∧
             bit (16777200#64) 63 = false ∧
               hosted.errs.block = false ∧ windowAccess hosted a n = true ∧ rangeShut hosted (winAddr hosted a) (8 * n) = false)
    ∧ (portOpen hosted (2#2).toNat = true ∧
       let a := fld (16777208#64) 0 48;
       let n := pktLen (hdr 16 2);
       headOk (hdr 16 2) 16 = true ∧
         fld (16777208#64) 48 15 = 0 ∧
           [1, 2].length = n ∧ bit (16777208#64) 63 = false ∧ hosted.errs.block = false ∧ windowAccess hosted a n = false)
    ∧ (portOpen hosted (2#2).toNat = true ∧
       let a := fld (131072#64) 0 48;
       let n := pktLen (hdr 17 2);
       headOk (hdr 17 2) 17 = true ∧
         fld (131072#64) 48 15 = 0 ∧
           bit (131072#64) 63 = false ∧
             windowAccess hosted a n = true ∧
               rangeShut hosted (winAddr hosted a) (8 * n) = false ∧ memAnyPz hosted.mem (winAddr hosted a) (8 * n) = false)
    ∧ (portOpen hosted (2#2).toNat = true ∧
       let a := fld (131072#64) 0 48;
       let n := pktLen (hdr 17 513);
       headOk (hdr 17 513) 17 = true ∧ fld (131072#64) 48 15 = 0 ∧ bit (131072#64) 63 = false ∧ windowAccess hosted a n = false)
    ∧ (portOpen hosted (2#2).toNat = true ∧
       fld (hdr 16 2 + 1048576) 56 8 = 16 ∧ headOk (hdr 16 2 + 1048576) 16 = false ∧ accessShut hosted (hdr 16 2 + 1048576) 131072#64 = false)
    ∧ (portOpen hosted (2#2).toNat = true ∧
       fld (hdr 17 2 + 1048576) 56 8 = 17 ∧ headOk (hdr 17 2 + 1048576) 17 = false ∧ accessShut hosted (hdr 17 2 + 1048576) 131072#64 = false)
    ∧ (portOpen hosted (2#2).toNat = true ∧ fld (hdr 32 2 + 1048576) 56 8 = 32 ∧ headOk (hdr 32 2 + 1048576) 32 = false)
    ∧ (portOpen hosted (2#2).toNat = true ∧ fld (hdr 18 2) 56 8 ≠ 16 ∧ fld (hdr 18 2) 56 8 ≠ 17 ∧ fld (hdr 18 2) 56 8 ≠ 32)
    ∧ (portOpen hosted (2#2).toNat = true ∧
       let a := fld (mgAt 196616) 0 48;
       let n := pktLen (hdr 16 1);
       let one := n = 1 ∧ a % 8 = 0 ∧ mgmtBase ≤ a;
       bit (mgAt 196616) 63 = true ∧
         fld (mgAt 196616) 48 15 = 0 ∧
           headOk (hdr 16 1) 16 = true ∧
             [8000].length = n ∧ [8000].head? = some 8000#64 ∧ one ∧ avail hosted a = Avail.served ∧ regBlock a = some (RegBlock.turns, 8))
    ∧ (portOpen noTiles (2#2).toNat = true ∧
       let a := fld (mgAt 4294967320) 0 48;
       let n := pktLen (hdr 16 1);
       let one := n = 1 ∧ a % 8 = 0 ∧ mgmtBase ≤ a;
       bit (mgAt 4294967320) 63 = true ∧
         fld (mgAt 4294967320) 48 15 = 0 ∧
           headOk (hdr 16 1) 16 = true ∧
             [7].length = n ∧
               [7].head? = some 7#64 ∧ one ∧ (regBlock a).isSome = true ∧ (avail noTiles a = Avail.access ∨ avail noTiles a = Avail.notReady))
    ∧ (portOpen hosted (2#2).toNat = true ∧
       let a := fld (mgAt 196616) 0 48;
       let n := pktLen (hdr 16 2);
       let one := n = 1 ∧ a % 8 = 0 ∧ mgmtBase ≤ a;
       bit (mgAt 196616) 63 = true ∧
         fld (mgAt 196616) 48 15 = 0 ∧ headOk (hdr 16 2) 16 = true ∧ [1, 2].length = n ∧ [1, 2].head? = some 1#64 ∧ (¬one ∨ regBlock a = none))
    ∧ (portOpen (dom 0 1 hosted) (2#2).toNat = true ∧
       let a := fld (mgAt 4294967320) 0 48;
       let n := pktLen (hdr 16 1);
       let one := n = 1 ∧ a % 8 = 0 ∧ mgmtBase ≤ a;
       bit (mgAt 4294967320) 63 = true ∧
         fld (mgAt 4294967320) 48 15 = 0 ∧
           headOk (hdr 16 1) 16 = true ∧ [7].length = n ∧ [7].head? = some 7#64 ∧ one ∧ avail (dom 0 1 hosted) a = Avail.held)
    ∧ (portOpen hosted (2#2).toNat = true ∧
       let a := fld (mgAt 196616) 0 48;
       let n := pktLen (hdr 17 1);
       let one := n = 1 ∧ a % 8 = 0 ∧ mgmtBase ≤ a;
       bit (mgAt 196616) 63 = true ∧
         fld (mgAt 196616) 48 15 = 0 ∧
           headOk (hdr 17 1) 17 = true ∧ one ∧ avail hosted a = Avail.served ∧ regBlock a = some (RegBlock.turns, 8))
    ∧ (portOpen hosted (2#2).toNat = true ∧
       let a := fld (mgAt 196616) 0 48;
       let n := pktLen (hdr 17 2);
       let one := n = 1 ∧ a % 8 = 0 ∧ mgmtBase ≤ a;
       bit (mgAt 196616) 63 = true ∧
         fld (mgAt 196616) 48 15 = 0 ∧ headOk (hdr 17 2) 17 = true ∧ (¬one ∨ avail hosted a = Avail.access ∨ avail hosted a = Avail.notReady))
    ∧ (portOpen noTiles (2#2).toNat = true ∧
       let a := fld (mgAt 4294967320) 0 48;
       let n := pktLen (hdr 17 1);
       let one := n = 1 ∧ a % 8 = 0 ∧ mgmtBase ≤ a;
       bit (mgAt 4294967320) 63 = true ∧
         fld (mgAt 4294967320) 48 15 = 0 ∧
           headOk (hdr 17 1) 17 = true ∧ (¬one ∨ avail noTiles a = Avail.access ∨ avail noTiles a = Avail.notReady))
    ∧ (portOpen (dom 0 1 hosted) (2#2).toNat = true ∧
       let a := fld (mgAt 4294967320) 0 48;
       let n := pktLen (hdr 17 1);
       let one := n = 1 ∧ a % 8 = 0 ∧ mgmtBase ≤ a;
       bit (mgAt 4294967320) 63 = true ∧
         fld (mgAt 4294967320) 48 15 = 0 ∧ headOk (hdr 17 1) 17 = true ∧ one ∧ avail (dom 0 1 hosted) a = Avail.held) := by
  repeat' apply And.intro
  all_goals
    first
    | decide +kernel
    | exact plain_of (by decide +kernel)
    | exact ready_of (by decide +kernel)
    | exact nothing_of (by decide +kernel)
    | exact alive_of (by decide +kernel)
    | exact event_of (by decide +kernel)
    | exact warm_of (by decide +kernel)
    | exact stays_of (by decide +kernel)
    | rfl
    | exact trivial
    | exact upto_of (by decide +kernel)
    | exact upto2_of (by decide +kernel)
    | exact listed_of (by decide +kernel)
    | exact ⟨15, by decide +kernel, by decide +kernel, by decide +kernel⟩
    | exact held_of (by decide +kernel)
    | exact halves_of (by decide +kernel)
    | exact fun n h => nomatch h

/-- A witness of the premises of `Obligations.DoorbellsTakeEntries`, clause by clause. -/
theorem meets_DoorbellsTakeEntries :
    (portOpen DoorbellsTakeEntries_0_s (2#2).toNat = true ∧
       headOk (hdr 32 0) 32 = true ∧
         fld (1#64) 36 28 = 0 ∧ DoorbellsTakeEntries_0_s.errs.block = false ∧ halted DoorbellsTakeEntries_0_s = true)
    ∧ (portOpen hosted (2#2).toNat = true ∧
       headOk (hdr 32 0) 32 = true ∧
         fld (17#64) 36 28 = 0 ∧
           hosted.errs.block = false ∧
             let r := fld (17#64) 32 4;
             let pi := BitVec.ofNat 32 (fld (17#64) 0 32);
             let k := ciOf hosted r;
             halted hosted = false ∧ ringEntries hosted r < BitVec.toNat (pi - k))
    ∧ (portOpen (sBell 2) (2#2).toNat = true ∧
       headOk (hdr 32 0) 32 = true ∧
         fld (1#64) 36 28 = 0 ∧
           (sBell 2).errs.block = false ∧
             let r := fld (1#64) 32 4;
             let pi := BitVec.ofNat 32 (fld (1#64) 0 32);
             let k := ciOf (sBell 2) r;
             let off := subEntry (sBell 2) r k;
             let m :=
               { ring := BitVec.ofNat 4 r, idx := k, w0 := winWord (sBell 2) off, w1 := winWord (sBell 2) (off + 8),
                 w2 := winWord (sBell 2) (off + 16), w3 := winWord (sBell 2) (off + 24), w4 := winWord (sBell 2) (off + 32) };
             halted (sBell 2) = false ∧
               pi = k + 1 ∧
                 1 ≤ ringEntries (sBell 2) r ∧
                   serving (sBell 2) = true ∧
                     memAnyPz (sBell 2).mem (winAddr (sBell 2) off) 64 = false ∧
                       ownedByBlock (sBell 2) off = true ∧ 1 ≤ msgType m ∧ msgType m ≤ 7)
    ∧ (portOpen (sBell 1) (2#2).toNat = true ∧
       headOk (hdr 32 0) 32 = true ∧
         fld (1#64) 36 28 = 0 ∧
           (sBell 1).errs.block = false ∧
             let r := fld (1#64) 32 4;
             let pi := BitVec.ofNat 32 (fld (1#64) 0 32);
             let k := ciOf (sBell 1) r;
             let off := subEntry (sBell 1) r k;
             halted (sBell 1) = false ∧
               pi = k + 1 ∧
                 1 ≤ ringEntries (sBell 1) r ∧
                   serving (sBell 1) = true ∧ memAnyPz (sBell 1).mem (winAddr (sBell 1) off) 64 = false ∧ ownedByBlock (sBell 1) off = false) := by
  repeat' apply And.intro
  all_goals
    first
    | decide +kernel
    | exact plain_of (by decide +kernel)
    | exact ready_of (by decide +kernel)
    | exact nothing_of (by decide +kernel)
    | exact alive_of (by decide +kernel)
    | exact event_of (by decide +kernel)
    | exact warm_of (by decide +kernel)
    | exact stays_of (by decide +kernel)
    | rfl
    | exact trivial
    | exact upto_of (by decide +kernel)
    | exact upto2_of (by decide +kernel)
    | exact listed_of (by decide +kernel)
    | exact ⟨15, by decide +kernel, by decide +kernel, by decide +kernel⟩
    | exact held_of (by decide +kernel)
    | exact halves_of (by decide +kernel)
    | exact fun n h => nomatch h

/-- A witness of the premises of `Obligations.HostPortsTrain`, clause by clause. -/
theorem meets_HostPortsTrain :
    ((hpOf hosted (2#2).toNat).trained = true)
    ∧ ((hpOf hosted (1#2).toNat).trained = false)
    ∧ ((hpOf hosted (1#2).toNat).trained = false ∧
       refRuns hosted = true ∧ hosted.power.on.getLsbD (hpDomain (1#2).toNat) = true ∧ hosted.power.clk.getLsbD (hpDomain (1#2).toNat) = true)
    ∧ ((mpOf HostPortsTrain_3_s (31#5).toNat).st = PortSt.up)
    ∧ ((3#5).toNat < 4 ∧ (hpOf HostPortsTrain_4_s (3#5).toNat).trained = true) := by
  repeat' apply And.intro
  all_goals
    first
    | decide +kernel
    | exact plain_of (by decide +kernel)
    | exact ready_of (by decide +kernel)
    | exact nothing_of (by decide +kernel)
    | exact alive_of (by decide +kernel)
    | exact event_of (by decide +kernel)
    | exact warm_of (by decide +kernel)
    | exact stays_of (by decide +kernel)
    | rfl
    | exact trivial
    | exact upto_of (by decide +kernel)
    | exact upto2_of (by decide +kernel)
    | exact listed_of (by decide +kernel)
    | exact ⟨15, by decide +kernel, by decide +kernel, by decide +kernel⟩
    | exact held_of (by decide +kernel)
    | exact halves_of (by decide +kernel)
    | exact fun n h => nomatch h

/-- A witness of the premises of `Obligations.MessagesInOrder`, clause by clause. -/
theorem meets_MessagesInOrder :
    (isNext hosted (msg 2 0 0 0 0) = false) := by
  repeat' apply And.intro
  all_goals
    first
    | decide +kernel
    | exact plain_of (by decide +kernel)
    | exact ready_of (by decide +kernel)
    | exact nothing_of (by decide +kernel)
    | exact alive_of (by decide +kernel)
    | exact event_of (by decide +kernel)
    | exact warm_of (by decide +kernel)
    | exact stays_of (by decide +kernel)
    | rfl
    | exact trivial
    | exact upto_of (by decide +kernel)
    | exact upto2_of (by decide +kernel)
    | exact listed_of (by decide +kernel)
    | exact ⟨15, by decide +kernel, by decide +kernel, by decide +kernel⟩
    | exact held_of (by decide +kernel)
    | exact halves_of (by decide +kernel)
    | exact fun n h => nomatch h

/-- A witness of the premises of `Obligations.TokensAndTakebackMoveHead`, clause by clause. -/
theorem meets_TokensAndTakebackMoveHead :
    (isNext (asked mTok (withPages (toksS pagesR))) mTok = true ∧
       slotGate (asked mTok (withPages (toksS pagesR))) mTok true false = none ∧
         settled (slotOf (asked mTok (withPages (toksS pagesR))) (msgSlot mTok)) = true ∧
           let old := (slotOf (asked mTok (withPages (toksS pagesR))) (msgSlot mTok)).r;
           (old.st = SlotSt.ready ∨ old.st = SlotSt.generating) ∧
             hdrOk mTok 2 = true ∧
               fld mTok.w2 0 31 = 0 ∧
                 fld mTok.w2 32 8 ≤ 64 ∧
                   fld mTok.w3 36 28 = 0 ∧
                     mTok.w4 = 0 ∧
                       (fld mTok.w2 32 8 = 0 ∨ toksOk (asked mTok (withPages (toksS pagesR))) (fld mTok.w3 0 36) (fld mTok.w2 32 8) = true) ∧
                         tokensFail (asked mTok (withPages (toksS pagesR))) mTok = none)
    ∧ (isNext (asked mTake (withPages (toksS pagesR))) mTake = true ∧
       slotGate (asked mTake (withPages (toksS pagesR))) mTake true false = none ∧
         settled (slotOf (asked mTake (withPages (toksS pagesR))) (msgSlot mTake)) = true ∧
           let old := (slotOf (asked mTake (withPages (toksS pagesR))) (msgSlot mTake)).r;
           (old.st = SlotSt.ready ∨ old.st = SlotSt.generating) ∧
             hdrOk mTake 3 = true ∧
               mTake.w2 = 0 ∧ mTake.w3 = 0 ∧ mTake.w4 = 0 ∧ takebackFail (asked mTake (withPages (toksS pagesR))) mTake = none) := by
  repeat' apply And.intro
  all_goals
    first
    | decide +kernel
    | exact plain_of (by decide +kernel)
    | exact ready_of (by decide +kernel)
    | exact nothing_of (by decide +kernel)
    | exact alive_of (by decide +kernel)
    | exact event_of (by decide +kernel)
    | exact warm_of (by decide +kernel)
    | exact stays_of (by decide +kernel)
    | rfl
    | exact trivial
    | exact upto_of (by decide +kernel)
    | exact upto2_of (by decide +kernel)
    | exact listed_of (by decide +kernel)
    | exact ⟨15, by decide +kernel, by decide +kernel, by decide +kernel⟩
    | exact held_of (by decide +kernel)
    | exact halves_of (by decide +kernel)
    | exact fun n h => nomatch h

/-- A witness of the premises of `Obligations.ResignPauseLoss`, clause by clause. -/
theorem meets_ResignPauseLoss :
    (isNext (asked mResign (withPages (toksS pagesR))) mResign = true ∧
       let k := msgSlot mResign;
       let old := slotOf (asked mResign (withPages (toksS pagesR))) k;
       hdrOk mResign 4 = true ∧
         fld mResign.w1 0 24 = 0 ∧
           mResign.w2 = 0 ∧
             mResign.w3 = 0 ∧ mResign.w4 = 0 ∧ slotGate (asked mResign (withPages (toksS pagesR))) mResign false true = none ∧ old.w.held = [])
    ∧ (isNext (asked mPause (withPages (toksS pagesR))) mPause = true ∧
       let k := msgSlot mPause;
       let old := slotOf (asked mPause (withPages (toksS pagesR))) k;
       hdrOk mPause 5 = true ∧
         fld mPause.w1 0 23 = 0 ∧
           fld mPause.w2 40 24 ≠ 0 ∧
             fld mPause.w2 0 40 = 0 ∧
               mPause.w3 = 0 ∧
                 mPause.w4 = 0 ∧
                   slotGate (asked mPause (withPages (toksS pagesR))) mPause true false = none ∧
                     settled old = true ∧ (old.r.st = SlotSt.ready ∨ old.r.st = SlotSt.generating))
    ∧ (isNext (asked mLoss (paused 9 false)) mLoss = true ∧
       let k := msgSlot mLoss;
       let old := slotOf (asked mLoss (paused 9 false)) k;
       msgType mLoss = 6 ∧
         bit mLoss.w1 22 = true ∧
           bit mLoss.w1 23 = false ∧
             resumeBad (asked mLoss (paused 9 false)) mLoss = false ∧
               slotGate (asked mLoss (paused 9 false)) mLoss false false = none ∧
                 (old.r.st = SlotSt.paused ∧ old.r.sub = 2 ∨
                     (old.r.st = SlotSt.prompt ∨ old.r.st = SlotSt.ready ∨ old.r.st = SlotSt.generating) ∧ old.r.sub = 1) ∧
                   old.w.fillFrom ≠ some (k, old.r.sgen)) := by
  repeat' apply And.intro
  all_goals
    first
    | decide +kernel
    | exact plain_of (by decide +kernel)
    | exact ready_of (by decide +kernel)
    | exact nothing_of (by decide +kernel)
    | exact alive_of (by decide +kernel)
    | exact event_of (by decide +kernel)
    | exact warm_of (by decide +kernel)
    | exact stays_of (by decide +kernel)
    | rfl
    | exact trivial
    | exact upto_of (by decide +kernel)
    | exact upto2_of (by decide +kernel)
    | exact listed_of (by decide +kernel)
    | exact ⟨15, by decide +kernel, by decide +kernel, by decide +kernel⟩
    | exact held_of (by decide +kernel)
    | exact halves_of (by decide +kernel)
    | exact fun n h => nomatch h

/-- A witness of the premises of `Obligations.ResumesReopen`, clause by clause. -/
theorem meets_ResumesReopen :
    (isNext (asked mResume sResume) mResume = true ∧
       msgType mResume = 6 ∧
         resumeBad (asked mResume sResume) mResume = false ∧
           slotGate (asked mResume sResume) mResume false false = none ∧
             let k := msgSlot mResume;
             let old := slotOf (asked mResume sResume) k;
             let n := fld mResume.w2 40 24;
             let off := fld mResume.w2 0 36;
             bit mResume.w1 23 = bit mResume.w1 22 ∧
               old.r.st = SlotSt.paused ∧
                 old.r.masks = false ∧
                   old.r.commit + n ≤ maxPos ∧
                     toksPz (asked mResume sResume) off n = false ∧
                       pagesNeeded (asked mResume sResume) k (if old.r.sub = 2 then 0 else old.r.commit) (old.r.commit + n) ≤
                           freePages (asked mResume sResume) (slotHalf k) ∧
                         price (asked mResume sResume) (slotHalf k) old.w.image (old.r.sub == 2) n =
                           some (ResumesReopen_0_p, ResumesReopen_0_pl))
    ∧ (isNext (asked mResume0 sResume) mResume0 = true ∧
       msgType mResume0 = 6 ∧
         resumeBad (asked mResume0 sResume) mResume0 = false ∧
           slotGate (asked mResume0 sResume) mResume0 false false = none ∧
             let k := msgSlot mResume0;
             let old := slotOf (asked mResume0 sResume) k;
             let n := fld mResume0.w2 40 24;
             let off := fld mResume0.w2 0 36;
             bit mResume0.w1 23 = bit mResume0.w1 22 ∧
               old.r.st = SlotSt.paused ∧
                 old.r.masks = false ∧
                   old.r.commit + n ≤ maxPos ∧
                     toksPz (asked mResume0 sResume) off n = false ∧
                       pagesNeeded (asked mResume0 sResume) k (if old.r.sub = 2 then 0 else old.r.commit) (old.r.commit + n) ≤
                           freePages (asked mResume0 sResume) (slotHalf k) ∧
                         price (asked mResume0 sResume) (slotHalf k) old.w.image (old.r.sub == 2) n =
                           some (ResumesReopen_0_pb, ResumesReopen_0_plb))
    ∧ (isNext (asked mRebuild sRebuild) mRebuild = true ∧
       msgType mRebuild = 6 ∧
         resumeBad (asked mRebuild sRebuild) mRebuild = false ∧
           slotGate (asked mRebuild sRebuild) mRebuild false false = none ∧
             let k := msgSlot mRebuild;
             let old := slotOf (asked mRebuild sRebuild) k;
             let n := fld mRebuild.w2 40 24;
             let nold := fld mRebuild.w3 40 24;
             let off := fld mRebuild.w2 0 36;
             bit mRebuild.w1 23 = true ∧
               bit mRebuild.w1 22 = false ∧
                 old.r.st = SlotSt.lost ∧
                   old.r.sub = 0 ∧
                     old.r.masks = false ∧
                       nold = old.r.commit ∧
                         nold + n ≤ maxPos ∧
                           toksPz (asked mRebuild sRebuild) off (nold + n) = false ∧
                             pagesNeeded (asked mRebuild sRebuild) k 0 (nold + n) ≤ freePages (asked mRebuild sRebuild) (slotHalf k) ∧
                               price (asked mRebuild sRebuild) (slotHalf k) old.w.image true (nold + n) =
                                   some (ResumesReopen_1_p, ResumesReopen_1_pl) ∧
                                 imageOf (asked mRebuild sRebuild) old.w.image = some img1) := by
  repeat' apply And.intro
  all_goals
    first
    | decide +kernel
    | exact plain_of (by decide +kernel)
    | exact ready_of (by decide +kernel)
    | exact nothing_of (by decide +kernel)
    | exact alive_of (by decide +kernel)
    | exact event_of (by decide +kernel)
    | exact warm_of (by decide +kernel)
    | exact stays_of (by decide +kernel)
    | rfl
    | exact trivial
    | exact upto_of (by decide +kernel)
    | exact upto2_of (by decide +kernel)
    | exact listed_of (by decide +kernel)
    | exact ⟨15, by decide +kernel, by decide +kernel, by decide +kernel⟩
    | exact held_of (by decide +kernel)
    | exact halves_of (by decide +kernel)
    | exact fun n h => nomatch h

/-- A witness of the premises of `Obligations.AdmitFillsSlot`, clause by clause. -/
theorem meets_AdmitFillsSlot :
    (isNext (asked mAdmit sAdmit) mAdmit = true ∧
       admitBad (asked mAdmit sAdmit) mAdmit = false ∧
         msgType mAdmit = 1 ∧
           mapOf (asked mAdmit sAdmit) (fld mAdmit.w0 32 16) = some (hosted.group.newMap.getD { epoch := 0, ents := [] }) ∧
             homedHere (asked mAdmit sAdmit) (hosted.group.newMap.getD { epoch := 0, ents := [] }) (msgTenant mAdmit) = true ∧
               (asked mAdmit sAdmit).turns.seen = true ∧
                 nomOk (asked mAdmit sAdmit).turns = true ∧
                   admitImage (asked mAdmit sAdmit) (msgTenant mAdmit) = some (1, img1) ∧
                     fld mAdmit.w3 32 32 = 0 ∧
                       (if img1.omode = true then fld mAdmit.w3 16 16 = 0 ∧ (poolOf (asked mAdmit sAdmit) (msgTenant mAdmit)).snd.fst ≠ 0
                         else
                           ringBad (asked mAdmit sAdmit) (fld mAdmit.w3 16 16) = false ∧
                             ringPz (asked mAdmit sAdmit) (fld mAdmit.w3 16 16) = false) ∧
                         toksPz (asked mAdmit sAdmit) (fld mAdmit.w2 0 36) (fld mAdmit.w2 40 24) = false ∧
                           freeSlot (asked mAdmit sAdmit) (placeHalf (asked mAdmit sAdmit)) = some 0 ∧
                             img1.masks = false ∧
                               pagesNeeded (admitSlot (dropTaken (asked mAdmit sAdmit)) mAdmit 0 1 img1 none 0 []) 0 0 (fld mAdmit.w2 40 24) +
                                     1 ≤
                                   freePages (admitSlot (dropTaken (asked mAdmit sAdmit)) mAdmit 0 1 img1 none 0 [])
                                     (placeHalf (asked mAdmit sAdmit)) ∧
                                 price (dropTaken (asked mAdmit sAdmit)) (placeHalf (asked mAdmit sAdmit)) 1 true (fld mAdmit.w2 40 24) =
                                   some (AdmitFillsSlot_p, AdmitFillsSlot_pl)) := by
  repeat' apply And.intro
  all_goals
    first
    | decide +kernel
    | exact plain_of (by decide +kernel)
    | exact ready_of (by decide +kernel)
    | exact nothing_of (by decide +kernel)
    | exact alive_of (by decide +kernel)
    | exact event_of (by decide +kernel)
    | exact warm_of (by decide +kernel)
    | exact stays_of (by decide +kernel)
    | rfl
    | exact trivial
    | exact upto_of (by decide +kernel)
    | exact upto2_of (by decide +kernel)
    | exact listed_of (by decide +kernel)
    | exact ⟨15, by decide +kernel, by decide +kernel, by decide +kernel⟩
    | exact held_of (by decide +kernel)
    | exact halves_of (by decide +kernel)
    | exact fun n h => nomatch h

/-- A witness of the premises of `Obligations.SelectsCopy`, clause by clause. -/
theorem meets_SelectsCopy :
    (avail (slotted SlotSt.ready id) (mgmtBase + 131096 + 4096 * halfNum Half.A) = Avail.served ∧ slotHalf (fld (0#64) 0 16) = Half.A)
    ∧ (avail (slotted SlotSt.ready id) (mgmtBase + 131096 + 4096 * halfNum Half.B) = Avail.served ∧ slotHalf (fld (32768#64) 0 16) = Half.B)
    ∧ (slotHalf (fld (32768#64) 0 16) ≠ Half.A ∧ avail (slotted SlotSt.ready id) (mgmtBase + 131096 + 4096 * halfNum Half.A) = Avail.served)
    ∧ (avail hosted (mgmtBase + 524320) = Avail.served)
    ∧ (avail hosted (mgmtBase + 393728) = Avail.served)
    ∧ (avail hosted (mgmtBase + 393624) = Avail.served) := by
  repeat' apply And.intro
  all_goals
    first
    | decide +kernel
    | exact plain_of (by decide +kernel)
    | exact ready_of (by decide +kernel)
    | exact nothing_of (by decide +kernel)
    | exact alive_of (by decide +kernel)
    | exact event_of (by decide +kernel)
    | exact warm_of (by decide +kernel)
    | exact stays_of (by decide +kernel)
    | rfl
    | exact trivial
    | exact upto_of (by decide +kernel)
    | exact upto2_of (by decide +kernel)
    | exact listed_of (by decide +kernel)
    | exact ⟨15, by decide +kernel, by decide +kernel, by decide +kernel⟩
    | exact held_of (by decide +kernel)
    | exact halves_of (by decide +kernel)
    | exact fun n h => nomatch h

/-- A witness of the premises of `Obligations.TileFlushEmpties`, clause by clause. -/
theorem meets_TileFlushEmpties :
    (avail sFlush (mgmtBase + 4294967296 + 4096 * (0#10).toNat + 40) = Avail.served ∧ sFlush.errs.block = false) := by
  repeat' apply And.intro
  all_goals
    first
    | decide +kernel
    | exact plain_of (by decide +kernel)
    | exact ready_of (by decide +kernel)
    | exact nothing_of (by decide +kernel)
    | exact alive_of (by decide +kernel)
    | exact event_of (by decide +kernel)
    | exact warm_of (by decide +kernel)
    | exact stays_of (by decide +kernel)
    | rfl
    | exact trivial
    | exact upto_of (by decide +kernel)
    | exact upto2_of (by decide +kernel)
    | exact listed_of (by decide +kernel)
    | exact ⟨15, by decide +kernel, by decide +kernel, by decide +kernel⟩
    | exact held_of (by decide +kernel)
    | exact halves_of (by decide +kernel)
    | exact fun n h => nomatch h

/-- A witness of the premises of `Obligations.FirmwareSealShutdown`, clause by clause. -/
theorem meets_FirmwareSealShutdown :
    (FirmwareSealShutdown_0_s.su.phase = Phase.fwWait ∧ avail FirmwareSealShutdown_0_s (mgmtBase + 589840) = Avail.served)
    ∧ (fwReady.su.phase = Phase.fwAuth ∧ ctRuns fwReady = true ∧ fwCheck fwReady = 0)
    ∧ ((off Phase.fwAuth).su.phase = Phase.fwAuth ∧ ctRuns (off Phase.fwAuth) = true ∧ fwCheck (off Phase.fwAuth) ≠ 0)
    ∧ (FirmwareSealShutdown_3_0_s.su.phase = Phase.sealWait ∧
       avail FirmwareSealShutdown_3_0_s (mgmtBase + 589832) = Avail.served ∧ sealFail FirmwareSealShutdown_3_0_s = some 16)
    ∧ (sealable.su.phase = Phase.sealWait ∧ avail sealable (mgmtBase + 589832) = Avail.served ∧ sealFail sealable = none)
    ∧ (hosted.su.phase = Phase.ready ∧ avail hosted (mgmtBase + 589832) = Avail.served ∧ hosted.errs.block = false)
    ∧ (FirmwareSealShutdown_5_s.su.phase = Phase.ready ∧
       FirmwareSealShutdown_5_s.su.closing = true ∧
         ctRuns FirmwareSealShutdown_5_s = true ∧ FirmwareSealShutdown_5_s.halfA.jobs = [] ∧ FirmwareSealShutdown_5_s.halfB.jobs = []) := by
  repeat' apply And.intro
  all_goals
    first
    | decide +kernel
    | exact plain_of (by decide +kernel)
    | exact ready_of (by decide +kernel)
    | exact nothing_of (by decide +kernel)
    | exact alive_of (by decide +kernel)
    | exact event_of (by decide +kernel)
    | exact warm_of (by decide +kernel)
    | exact stays_of (by decide +kernel)
    | rfl
    | exact trivial
    | exact upto_of (by decide +kernel)
    | exact upto2_of (by decide +kernel)
    | exact listed_of (by decide +kernel)
    | exact ⟨15, by decide +kernel, by decide +kernel, by decide +kernel⟩
    | exact held_of (by decide +kernel)
    | exact halves_of (by decide +kernel)
    | exact fun n h => nomatch h

/-- A witness of the premises of `Obligations.StewardCommands`, clause by clause. -/
theorem meets_StewardCommands :
    (windowOpen (stw (StwWork.load 1 9)) = true ∧
       (stw (StwWork.load 1 9)).su.stw = StwWork.load 1 9#16 ∧ stwInWindow (stw (StwWork.load 1 9)) = false)
    ∧ (windowOpen sLoadP = true ∧
       sLoadP.su.stw = StwWork.load 1 9#16 ∧
         stwInWindow sLoadP = true ∧
           (List.filter (fun p => !p.snd.retiring) (imagesOf sLoadP 9#16)).length < 2 ∧
             poisonedAt (stwImage sLoadP) = none ∧
               imageFail sLoadP (stwImage sLoadP) (9#16).toNat sLoadP.su.stwLen.toNat map0 = none ∧
                 stagePlace sLoadP (stwImage sLoadP).len = some 263882790670336 ∧ icount (stwImage sLoadP) 1 = 0)
    ∧ (windowOpen hosted = true ∧ hosted.su.stw = StwWork.idle ∧ avail hosted (mgmtBase + 589896) = Avail.served)
    ∧ (windowOpen (stw (StwWork.load 3 0)) = true ∧
       (stw (StwWork.load 3 0)).su.stw = StwWork.load 3 0#16 ∧ planFail (stw (StwWork.load 3 0)) (planX 6) = some 3)
    ∧ (windowOpen (stw (StwWork.load 3 0)) = true ∧
       (stw (StwWork.load 3 0)).su.stw = StwWork.load 3 0#16 ∧ planFail (stw (StwWork.load 3 0)) (planX 7) = none)
    ∧ (windowOpen (stw (StwWork.result 3 77 none)) = true ∧ (stw (StwWork.result 3 77 none)).su.stw = StwWork.result 3 (77#32) none)
    ∧ (windowOpen (stw (StwWork.result 0 0 (some 1))) = true ∧
       (stw (StwWork.result 0 0 (some 1))).su.stw = StwWork.result 0 (0#32) (some 1) ∧
         imageOf (stw (StwWork.result 0 0 (some 1))) 1 = some img1) := by
  repeat' apply And.intro
  all_goals
    first
    | decide +kernel
    | exact plain_of (by decide +kernel)
    | exact ready_of (by decide +kernel)
    | exact nothing_of (by decide +kernel)
    | exact alive_of (by decide +kernel)
    | exact event_of (by decide +kernel)
    | exact warm_of (by decide +kernel)
    | exact stays_of (by decide +kernel)
    | rfl
    | exact trivial
    | exact upto_of (by decide +kernel)
    | exact upto2_of (by decide +kernel)
    | exact listed_of (by decide +kernel)
    | exact ⟨15, by decide +kernel, by decide +kernel, by decide +kernel⟩
    | exact held_of (by decide +kernel)
    | exact halves_of (by decide +kernel)
    | exact fun n h => nomatch h

/-- A witness of the premises of `Obligations.PrefixHandles`, clause by clause. -/
theorem meets_PrefixHandles :
    (isNext PrefixHandles_0_s mMark = true ∧
       prefixBad mMark = false ∧
         let v := BitVec.ofNat 32 (fld mMark.w2 32 32);
         fld mMark.w1 22 2 = 0 ∧
           slotGate PrefixHandles_0_s mMark false false = none ∧
             let x := slotOf PrefixHandles_0_s (msgSlot mMark);
             let h := slotHalf (msgSlot mMark);
             let len := fld mMark.w2 8 24;
             (x.r.st = SlotSt.ready ∨ x.r.st = SlotSt.generating) ∧
               len ≠ 0 ∧
                 len ≤ x.r.commit ∧
                   len ≤ x.w.published ∧ findHandle PrefixHandles_0_s x.r.tenant.toNat v = none ∧ freeHandle PrefixHandles_0_s h = some 0)
    ∧ (isNext (asked mDrop (sHandles 6)) mDrop = true ∧
       prefixBad mDrop = false ∧
         let v := BitVec.ofNat 32 (fld mDrop.w2 32 32);
         fld mDrop.w1 22 2 = 1 ∧
           msgSlot mDrop = 0 ∧ msgSgen mDrop = 0 ∧ findHandle (asked mDrop (sHandles 6)) (msgTenant mDrop) v = some (Half.B, 16383, hd 6)) := by
  repeat' apply And.intro
  all_goals
    first
    | decide +kernel
    | exact plain_of (by decide +kernel)
    | exact ready_of (by decide +kernel)
    | exact nothing_of (by decide +kernel)
    | exact alive_of (by decide +kernel)
    | exact event_of (by decide +kernel)
    | exact warm_of (by decide +kernel)
    | exact stays_of (by decide +kernel)
    | rfl
    | exact trivial
    | exact upto_of (by decide +kernel)
    | exact upto2_of (by decide +kernel)
    | exact listed_of (by decide +kernel)
    | exact ⟨15, by decide +kernel, by decide +kernel, by decide +kernel⟩
    | exact held_of (by decide +kernel)
    | exact halves_of (by decide +kernel)
    | exact fun n h => nomatch h

/-- A witness of the premises of `Obligations.KernelEnds`, clause by clause. -/
theorem meets_KernelEnds :
    (tileNamed (0#10).toNat = true ∧
       jobOf sEndS (0#10).toNat = some KernelEnds_0_j ∧
         (tileOf sEndS (0#10).toNat).kernel = true ∧
           KernelEnds_0_j.half = tileHalf (0#10).toNat ∧
             domainRuns sEndS (tileDomain (0#10).toNat) = true ∧
               sEndS.errs.block = false ∧
                 (tileOf sEndS (0#10).toNat).stopped = true ∧
                   tileQuiet (tileOf sEndS (0#10).toNat) = true ∧ (KernelEnds_0_j.dead = true ∨ KernelEnds_0_j.entry.isSome = true))
    ∧ (tileNamed (0#10).toNat = true ∧
       jobOf (sEnd [(15, 255)]) (0#10).toNat = some job0 ∧
         (tileOf (sEnd [(15, 255)]) (0#10).toNat).kernel = true ∧
           job0.half = tileHalf (0#10).toNat ∧
             domainRuns (sEnd [(15, 255)]) (tileDomain (0#10).toNat) = true ∧
               (sEnd [(15, 255)]).errs.block = false ∧
                 (tileOf (sEnd [(15, 255)]) (0#10).toNat).stopped = false ∧
                   kernelOver (tileOf (sEnd [(15, 255)]) (0#10).toNat) = true ∧
                     (∃ k, 1 ≤ k ∧ k ≤ 15 ∧ credit (tileOf (sEnd [(15, 255)]) (0#10).toNat) k ≠ 0) ∧
                       bit (tileOf (sEnd [(15, 255)]) (0#10).toNat).fault 63 = false)
    ∧ (tileNamed (0#10).toNat = true ∧
       jobOf (sEnd [(0, 2)]) (0#10).toNat = some job0 ∧
         (tileOf (sEnd [(0, 2)]) (0#10).toNat).kernel = true ∧
           job0.half = tileHalf (0#10).toNat ∧
             domainRuns (sEnd [(0, 2)]) (tileDomain (0#10).toNat) = true ∧
               (sEnd [(0, 2)]).errs.block = false ∧
                 (tileOf (sEnd [(0, 2)]) (0#10).toNat).stopped = false ∧
                   kernelOver (tileOf (sEnd [(0, 2)]) (0#10).toNat) = true ∧
                     ∀ (k : Nat), 1 ≤ k → k ≤ 15 → credit (tileOf (sEnd [(0, 2)]) (0#10).toNat) k = 0)
    ∧ (tileNamed (0#10).toNat = true ∧
       jobOf (sEnd [(0, 2)]) (0#10).toNat = some job0 ∧
         (tileOf (sEnd [(0, 2)]) (0#10).toNat).kernel = true ∧
           job0.half = tileHalf (0#10).toNat ∧
             domainRuns (sEnd [(0, 2)]) (tileDomain (0#10).toNat) = true ∧
               (sEnd [(0, 2)]).errs.block = false ∧
                 (tileOf (sEnd [(0, 2)]) (0#10).toNat).stopped = false ∧
                   kernelOver (tileOf (sEnd [(0, 2)]) (0#10).toNat) = true ∧
                     (∀ (k : Nat), 1 ≤ k → k ≤ 15 → credit (tileOf (sEnd [(0, 2)]) (0#10).toNat) k = 0) ∧
                       job0.dead = false ∧
                         job0.lane = Lane.plan ∧
                           job0.verdict = false ∧ (half (sEnd [(0, 2)]) job0.half).run = none ∧ images (sEnd [(0, 2)]) = []) := by
  repeat' apply And.intro
  all_goals
    first
    | decide +kernel
    | exact plain_of (by decide +kernel)
    | exact ready_of (by decide +kernel)
    | exact nothing_of (by decide +kernel)
    | exact alive_of (by decide +kernel)
    | exact event_of (by decide +kernel)
    | exact warm_of (by decide +kernel)
    | exact stays_of (by decide +kernel)
    | rfl
    | exact trivial
    | exact upto_of (by decide +kernel)
    | exact upto2_of (by decide +kernel)
    | exact listed_of (by decide +kernel)
    | exact ⟨15, by decide +kernel, by decide +kernel, by decide +kernel⟩
    | exact held_of (by decide +kernel)
    | exact halves_of (by decide +kernel)
    | exact fun n h => nomatch h

/-- A witness of the premises of `Obligations.VerdictPublished`, clause by clause. -/
theorem meets_VerdictPublished :
    (windowOpen (off Phase.sealWait) = false)
    ∧ (windowOpen sVer = true)
    ∧ (windowOpen sBatch = true)
    ∧ (windowOpen sBatch = true ∧ ∀ (w : BatchWait), w ∈ sBatch.bwaits → w.tenant ≠ 8#16)
    ∧ (let x := slotOf sBatch lim1.slot;
     let q := bseqOf sBatch (9#16).toNat;
     let off := bufferOff sBatch (9#16).toNat q;
     let pool := fld (dirWord sBatch 2) 0 36 + 16 * (9#16).toNat;
     windowOpen sBatch = true ∧
       sBatch.bwaits = [bw1] ∧
         bw1.tenant = 9#16 ∧
           bw1.ready = true ∧
             bw1.lims = [lim1] ∧
               lim1.term = true ∧
                 x.r.sgen = lim1.sgen ∧
                   x.r.tenant = 9#16 ∧
                     slotEnded x.r.st = true ∧
                       x.w.term = some vterm ∧
                         vterm.kind = 2 ∧
                           bufferRoom sBatch (9#16).toNat = true ∧
                             (∀ (j : Nat), j < 128 → memDead sBatch.mem (winAddr sBatch off + j) = false) ∧
                               (pool + 16 ≤ off ∨ off + 128 ≤ pool))
    ∧ (let x := slotOf sTerm (0#16).toNat;
     let off := ringEntry sTerm (0#16).toNat;
     windowOpen sTerm = true ∧
       x.r.omode = false ∧
         slotEnded x.r.st = true ∧
           x.w.term = some vterm ∧
             vterm.kind = 2 ∧
               x.w.maskPos = [] ∧ ownedByBlock sTerm off = true ∧ ∀ (j : Nat), j < 64 → memDead sTerm.mem (winAddr sTerm off + j) = false)
    ∧ (let k := (0#16).toNat;
     let x := slotOf sVer k;
     let q := x.w.published;
     let off := ringEntry sVer k;
     windowOpen sVer = true ∧
       x.r.omode = false ∧
         x.r.st = SlotSt.generating ∧
           x.w.term = none ∧
             x.w.runOpen = false ∧
               x.r.masks = false ∧
                 x.w.maskPos = [] ∧
                   x.w.computed ≤ q + 1 ∧
                     nextRecord sVer k = some (vrec, some (q, vcell)) ∧
                       vcell.pz = false ∧
                         spanOk x.w false q vcell = true ∧
                           vrec.term = false ∧
                             duePast sVer vrec.due = false ∧
                               ownedByBlock sVer off = true ∧
                                 (∀ (j : Nat), j < 64 → memDead sVer.mem (winAddr sVer off + j) = false) ∧
                                   (winAddr sVer off + 64 ≤ cellAddr sVer k q ∨ cellAddr sVer k q + 64 ≤ winAddr sVer off)) := by
  repeat' apply And.intro
  all_goals
    first
    | decide +kernel
    | exact plain_of (by decide +kernel)
    | exact ready_of (by decide +kernel)
    | exact nothing_of (by decide +kernel)
    | exact alive_of (by decide +kernel)
    | exact event_of (by decide +kernel)
    | exact warm_of (by decide +kernel)
    | exact stays_of (by decide +kernel)
    | rfl
    | exact trivial
    | exact upto_of (by decide +kernel)
    | exact upto2_of (by decide +kernel)
    | exact listed_of (by decide +kernel)
    | exact ⟨15, by decide +kernel, by decide +kernel, by decide +kernel⟩
    | exact held_of (by decide +kernel)
    | exact halves_of (by decide +kernel)
    | exact fun n h => nomatch h

/-- A witness of the premises of `Obligations.WindowReturnsAct`, clause by clause. -/
theorem meets_WindowReturnsAct :
    (windowOpen sBull = true ∧ (half sBull Half.B).bullOpen ≠ [])
    ∧ (windowOpen sBull = true ∧ (half sBull Half.A).bullOpen = [])
    ∧ (windowOpen sBull3 = true ∧
       (half sBull3 Half.B).bullWait = [bull1, bull2] ∧
         let off := bullOff sBull3 Half.B bull1.seq;
         ownedByBlock sBull3 off = true)
    ∧ (windowOpen WindowReturnsAct_2_1_s = true ∧
       (half WindowReturnsAct_2_1_s Half.B).bullWait = [bull1, bull2] ∧
         let off := bullOff WindowReturnsAct_2_1_s Half.B bull1.seq;
         ownedByBlock WindowReturnsAct_2_1_s off = false)
    ∧ (windowOpen sEv = true ∧ (half sEv Half.B).evDropped ≠ 0 ∧ eventRoom sEv Half.B = true)
    ∧ (windowOpen hosted = true ∧ ((half hosted Half.B).evDropped = 0 ∨ eventRoom hosted Half.B = false))
    ∧ (windowOpen sMs = true ∧
       (ownedByBlock sMs (msetEntry sMs (65534#16).toNat) = false ∨
         List.find? (fun q => q.snd.retiring && q.snd.msEntry == (65534#16).toNat) (images sMs) = none))
    ∧ (windowOpen sMs = true ∧
       ownedByBlock sMs (msetEntry sMs (65535#16).toNat) = true ∧
         List.find? (fun q => q.snd.retiring && q.snd.msEntry == (65535#16).toNat) (images sMs) = some (2, imgM))
    ∧ (windowOpen sBullO = true ∧ (half sBullO Half.B).bullOpen ≠ [])
    ∧ (windowOpen sBull1 = true ∧
       (half sBull1 Half.B).bullWait = [bull1] ∧
         let off := bullOff sBull1 Half.B bull1.seq;
         ownedByBlock sBull1 off = true)
    ∧ (windowOpen sEvM = true ∧
       ownedByBlock sEvM (msetEntry sEvM (65535#16).toNat) = true ∧
         List.find? (fun q => q.snd.retiring && q.snd.msEntry == (65535#16).toNat) (images sEvM) = some (2, imgM)) := by
  repeat' apply And.intro
  all_goals
    first
    | decide +kernel
    | exact plain_of (by decide +kernel)
    | exact ready_of (by decide +kernel)
    | exact nothing_of (by decide +kernel)
    | exact alive_of (by decide +kernel)
    | exact event_of (by decide +kernel)
    | exact warm_of (by decide +kernel)
    | exact stays_of (by decide +kernel)
    | rfl
    | exact trivial
    | exact upto_of (by decide +kernel)
    | exact upto2_of (by decide +kernel)
    | exact listed_of (by decide +kernel)
    | exact ⟨15, by decide +kernel, by decide +kernel, by decide +kernel⟩
    | exact held_of (by decide +kernel)
    | exact halves_of (by decide +kernel)
    | exact fun n h => nomatch h

/-- A witness of the premises of `Obligations.NoticeIntervals`, clause by clause. -/
theorem meets_NoticeIntervals :
    (windowOpen hosted = true ∧ List.find? (fun x => x.key == nKey) hosted.win.notices = none)
    ∧ (windowOpen (sNot false) = true ∧
       List.find? (fun x => x.key == nKey) (sNot false).win.notices = some NoticeIntervals_1_0_n ∧ NoticeIntervals_1_0_n.pending = false)
    ∧ (windowOpen (sNot true) = true ∧
       List.find? (fun x => x.key == nKey) (sNot true).win.notices = some NoticeIntervals_1_1_n ∧
         NoticeIntervals_1_1_n.pending = true ∧ noticePort (sNot true) = some 2)
    ∧ (windowOpen NoticeIntervals_1_2_s = true ∧
       List.find? (fun x => x.key == nKey) NoticeIntervals_1_2_s.win.notices = some NoticeIntervals_1_1_n ∧
         NoticeIntervals_1_1_n.pending = true ∧ noticePort NoticeIntervals_1_2_s = none) := by
  repeat' apply And.intro
  all_goals
    first
    | decide +kernel
    | exact plain_of (by decide +kernel)
    | exact ready_of (by decide +kernel)
    | exact nothing_of (by decide +kernel)
    | exact alive_of (by decide +kernel)
    | exact event_of (by decide +kernel)
    | exact warm_of (by decide +kernel)
    | exact stays_of (by decide +kernel)
    | rfl
    | exact trivial
    | exact upto_of (by decide +kernel)
    | exact upto2_of (by decide +kernel)
    | exact listed_of (by decide +kernel)
    | exact ⟨15, by decide +kernel, by decide +kernel, by decide +kernel⟩
    | exact held_of (by decide +kernel)
    | exact halves_of (by decide +kernel)
    | exact fun n h => nomatch h

/-- A witness of the premises of `Obligations.ChainFrames`, clause by clause. -/
theorem meets_ChainFrames :
    (mcQuiet sSeat = true ∧
       crcOk (frame 1 0 (7 * 2 ^ 16 + 255) 0) = true ∧
         (frame 1 0 (7 * 2 ^ 16 + 255) 0).type = 1 ∧ fld (frame 1 0 (7 * 2 ^ 16 + 255) 0).arg 0 9 < 256 ∧ sSeat.su.sealed = false)
    ∧ (mcQuiet sSeat = true ∧
       crcOk (frame 1 0 (7 * 2 ^ 16 + 256) 0) = true ∧
         (frame 1 0 (7 * 2 ^ 16 + 256) 0).type = 1 ∧ 256 ≤ fld (frame 1 0 (7 * 2 ^ 16 + 256) 0).arg 0 9)
    ∧ (mcQuiet hosted = true ∧
       crcOk (frame 1 0 (7 * 2 ^ 16 + 255) 0) = true ∧
         (frame 1 0 (7 * 2 ^ 16 + 255) 0).type = 1 ∧ fld (frame 1 0 (7 * 2 ^ 16 + 255) 0).arg 0 9 < 256 ∧ hosted.su.sealed = true)
    ∧ (mcQuiet hosted = true ∧
       crcOk (frame 2 257 mgmtBase 0) = true ∧
         (frame 2 257 mgmtBase 0).type = 2 ∧
           isMine hosted (frame 2 257 mgmtBase 0) = true ∧
             mcAvail hosted (mcAddr (frame 2 257 mgmtBase 0)) = Avail.served ∧
               regBlock (mcAddr (frame 2 257 mgmtBase 0)) = some (RegBlock.ident, 0))
    ∧ (mcQuiet ChainFrames_4_s = true ∧
       crcOk (frame 2 257 (mgmtBase + 196616) 0) = true ∧
         (frame 2 257 (mgmtBase + 196616) 0).type = 2 ∧
           isMine ChainFrames_4_s (frame 2 257 (mgmtBase + 196616) 0) = true ∧
             mcAvail ChainFrames_4_s (mcAddr (frame 2 257 (mgmtBase + 196616) 0)) = Avail.notReady)
    ∧ (mcQuiet hosted = true ∧
       crcOk (frame 2 257 (mgmtBase + 68719476736) 0) = true ∧
         (frame 2 257 (mgmtBase + 68719476736) 0).type = 2 ∧
           isMine hosted (frame 2 257 (mgmtBase + 68719476736) 0) = true ∧
             mcAvail hosted (mcAddr (frame 2 257 (mgmtBase + 68719476736) 0)) = Avail.access)
    ∧ (mcQuiet sHeldR = true ∧
       crcOk (frame 2 257 (mgmtBase + 196616) 0) = true ∧
         (frame 2 257 (mgmtBase + 196616) 0).type = 2 ∧
           isMine sHeldR (frame 2 257 (mgmtBase + 196616) 0) = true ∧ mcAvail sHeldR (mcAddr (frame 2 257 (mgmtBase + 196616) 0)) = Avail.held)
    ∧ (mcQuiet ChainFrames_4_s = true ∧
       crcOk fNom = true ∧ fNom.type = 3 ∧ isMine ChainFrames_4_s fNom = true ∧ mcAvail ChainFrames_4_s (mcAddr fNom) = Avail.notReady)
    ∧ (mcQuiet hosted = true ∧
       crcOk (frame 3 257 (mgmtBase + 68719476736) 0) = true ∧
         (frame 3 257 (mgmtBase + 68719476736) 0).type = 3 ∧
           isMine hosted (frame 3 257 (mgmtBase + 68719476736) 0) = true ∧
             mcAvail hosted (mcAddr (frame 3 257 (mgmtBase + 68719476736) 0)) = Avail.access)
    ∧ (mcQuiet sHeldR = true ∧ crcOk fNom = true ∧ fNom.type = 3 ∧ isMine sHeldR fNom = true ∧ mcAvail sHeldR (mcAddr fNom) = Avail.held)
    ∧ (mcQuiet sLast = true ∧
       crcOk fNom = true ∧
         fNom.type = 3 ∧
           isMine sLast fNom = true ∧
             mcAvail sLast (mcAddr fNom) = Avail.served ∧
               regBlock (mcAddr fNom) = some (RegBlock.turns, 8) ∧
                 let key := (fNom.tag, mk64 (mcAddr fNom), fNom.data);
                 sLast.su.lastWr = some key)
    ∧ (mcQuiet hosted = true ∧
       crcOk fNom = true ∧
         fNom.type = 3 ∧
           isMine hosted fNom = true ∧
             mcAvail hosted (mcAddr fNom) = Avail.served ∧
               regBlock (mcAddr fNom) = some (RegBlock.turns, 8) ∧
                 let key := (fNom.tag, mk64 (mcAddr fNom), fNom.data);
                 hosted.su.lastWr ≠ some key)
    ∧ (mcQuiet hosted = true ∧
       crcOk fNom = true ∧
         fNom.type = 3 ∧
           isMine hosted fNom = true ∧
             mcAvail hosted (mcAddr fNom) = Avail.served ∧
               regBlock (mcAddr fNom) = some (RegBlock.turns, 8) ∧ hosted.su.lastWr ≠ some (fNom.tag, mk64 (mcAddr fNom), fNom.data))
    ∧ (mcQuiet hosted = true ∧
       crcOk (frame 3 258 (mgmtBase + 196616) 8000) = true ∧ consumed hosted (frame 3 258 (mgmtBase + 196616) 8000) = false)
    ∧ (mcQuiet hosted = true ∧ crcOk ChainFrames_10_f = false) := by
  repeat' apply And.intro
  all_goals
    first
    | decide +kernel
    | exact plain_of (by decide +kernel)
    | exact ready_of (by decide +kernel)
    | exact nothing_of (by decide +kernel)
    | exact alive_of (by decide +kernel)
    | exact event_of (by decide +kernel)
    | exact warm_of (by decide +kernel)
    | exact stays_of (by decide +kernel)
    | rfl
    | exact trivial
    | exact upto_of (by decide +kernel)
    | exact upto2_of (by decide +kernel)
    | exact listed_of (by decide +kernel)
    | exact ⟨15, by decide +kernel, by decide +kernel, by decide +kernel⟩
    | exact held_of (by decide +kernel)
    | exact halves_of (by decide +kernel)
    | exact fun n h => nomatch h

/-- A witness of the premises of `Obligations.MapsAndTablesLoad`, clause by clause. -/
theorem meets_MapsAndTablesLoad :
    (hosted.errs.block = false ∧ avail hosted (mgmtBase + 393472) = Avail.served ∧ hosted.group.routeLoad = none)
    ∧ ((sMap fun g =>
               { plan := g.plan, member := g.member, old := g.old, next := g.next, timeout := g.timeout, absent := g.absent,
                 areaLog2 := g.areaLog2, areaBase := g.areaBase, logSize := g.logSize, logBase := g.logBase, replays := g.replays,
                 poisoned := g.poisoned, timeouts := g.timeouts, stale := g.stale, baditem := g.baditem, dup := g.dup, waitMax := g.waitMax,
                 waitEnds := g.waitEnds, oldMap := g.oldMap, newMap := g.newMap, routeResult := g.routeResult, mismatch := g.mismatch,
                 routeLoad := rl, codes := g.codes, codeStat := g.codeStat, codeSel := g.codeSel, codeData := g.codeData, acts := g.acts,
                 meters := g.meters, meterSel := g.meterSel, meterData := g.meterData, lastClose := g.lastClose,
                 chans := g.chans }).errs.block =
         false ∧
       avail
             (sMap fun g =>
               { plan := g.plan, member := g.member, old := g.old, next := g.next, timeout := g.timeout, absent := g.absent,
                 areaLog2 := g.areaLog2, areaBase := g.areaBase, logSize := g.logSize, logBase := g.logBase, replays := g.replays,
                 poisoned := g.poisoned, timeouts := g.timeouts, stale := g.stale, baditem := g.baditem, dup := g.dup, waitMax := g.waitMax,
                 waitEnds := g.waitEnds, oldMap := g.oldMap, newMap := g.newMap, routeResult := g.routeResult, mismatch := g.mismatch,
                 routeLoad := rl, codes := g.codes, codeStat := g.codeStat, codeSel := g.codeSel, codeData := g.codeData, acts := g.acts,
                 meters := g.meters, meterSel := g.meterSel, meterData := g.meterData, lastClose := g.lastClose, chans := g.chans })
             (mgmtBase + 393472) =
           Avail.served ∧
         (sMap fun g =>
                   { plan := g.plan, member := g.member, old := g.old, next := g.next, timeout := g.timeout, absent := g.absent,
                     areaLog2 := g.areaLog2, areaBase := g.areaBase, logSize := g.logSize, logBase := g.logBase, replays := g.replays,
                     poisoned := g.poisoned, timeouts := g.timeouts, stale := g.stale, baditem := g.baditem, dup := g.dup,
                     waitMax := g.waitMax, waitEnds := g.waitEnds, oldMap := g.oldMap, newMap := g.newMap, routeResult := g.routeResult,
                     mismatch := g.mismatch, routeLoad := rl, codes := g.codes, codeStat := g.codeStat, codeSel := g.codeSel,
                     codeData := g.codeData, acts := g.acts, meters := g.meters, meterSel := g.meterSel, meterData := g.meterData,
                     lastClose := g.lastClose, chans := g.chans }).group.routeLoad.isSome =
           true)
    ∧ (hosted.errs.block = false ∧ hosted.group.routeLoad = none)
    ∧ (MapsAndTablesLoad_3_0_s.errs.block = false ∧
       MapsAndTablesLoad_3_0_s.group.routeLoad = some (4#16, 6291456#36) ∧
         ctRuns MapsAndTablesLoad_3_0_s = true ∧ MapsAndTablesLoad_3_0_s.group.oldMap.isSome = true)
    ∧ ((sMap fun g =>
               { plan := g.plan, member := g.member, old := g.old, next := g.next, timeout := g.timeout, absent := g.absent,
                 areaLog2 := g.areaLog2, areaBase := g.areaBase, logSize := g.logSize, logBase := g.logBase, replays := g.replays,
                 poisoned := g.poisoned, timeouts := g.timeouts, stale := g.stale, baditem := g.baditem, dup := g.dup, waitMax := g.waitMax,
                 waitEnds := g.waitEnds, oldMap := g.oldMap, newMap := g.newMap, routeResult := g.routeResult, mismatch := g.mismatch,
                 routeLoad := rl, codes := g.codes, codeStat := g.codeStat, codeSel := g.codeSel, codeData := g.codeData, acts := g.acts,
                 meters := g.meters, meterSel := g.meterSel, meterData := g.meterData, lastClose := g.lastClose,
                 chans := g.chans }).errs.block =
         false ∧
       (sMap fun g =>
                 { plan := g.plan, member := g.member, old := g.old, next := g.next, timeout := g.timeout, absent := g.absent,
                   areaLog2 := g.areaLog2, areaBase := g.areaBase, logSize := g.logSize, logBase := g.logBase, replays := g.replays,
                   poisoned := g.poisoned, timeouts := g.timeouts, stale := g.stale, baditem := g.baditem, dup := g.dup, waitMax := g.waitMax,
                   waitEnds := g.waitEnds, oldMap := g.oldMap, newMap := g.newMap, routeResult := g.routeResult, mismatch := g.mismatch,
                   routeLoad := rl, codes := g.codes, codeStat := g.codeStat, codeSel := g.codeSel, codeData := g.codeData, acts := g.acts,
                   meters := g.meters, meterSel := g.meterSel, meterData := g.meterData, lastClose := g.lastClose,
                   chans := g.chans }).group.routeLoad =
           some (4#16, 6291456#36) ∧
         ctRuns
               (sMap fun g =>
                 { plan := g.plan, member := g.member, old := g.old, next := g.next, timeout := g.timeout, absent := g.absent,
                   areaLog2 := g.areaLog2, areaBase := g.areaBase, logSize := g.logSize, logBase := g.logBase, replays := g.replays,
                   poisoned := g.poisoned, timeouts := g.timeouts, stale := g.stale, baditem := g.baditem, dup := g.dup, waitMax := g.waitMax,
                   waitEnds := g.waitEnds, oldMap := g.oldMap, newMap := g.newMap, routeResult := g.routeResult, mismatch := g.mismatch,
                   routeLoad := rl, codes := g.codes, codeStat := g.codeStat, codeSel := g.codeSel, codeData := g.codeData, acts := g.acts,
                   meters := g.meters, meterSel := g.meterSel, meterData := g.meterData, lastClose := g.lastClose, chans := g.chans }) =
             true ∧
           (sMap fun g =>
                     { plan := g.plan, member := g.member, old := g.old, next := g.next, timeout := g.timeout, absent := g.absent,
                       areaLog2 := g.areaLog2, areaBase := g.areaBase, logSize := g.logSize, logBase := g.logBase, replays := g.replays,
                       poisoned := g.poisoned, timeouts := g.timeouts, stale := g.stale, baditem := g.baditem, dup := g.dup,
                       waitMax := g.waitMax, waitEnds := g.waitEnds, oldMap := g.oldMap, newMap := g.newMap, routeResult := g.routeResult,
                       mismatch := g.mismatch, routeLoad := rl, codes := g.codes, codeStat := g.codeStat, codeSel := g.codeSel,
                       codeData := g.codeData, acts := g.acts, meters := g.meters, meterSel := g.meterSel, meterData := g.meterData,
                       lastClose := g.lastClose, chans := g.chans }).group.oldMap =
               none ∧
             routeImage
                 (sMap fun g =>
                   { plan := g.plan, member := g.member, old := g.old, next := g.next, timeout := g.timeout, absent := g.absent,
                     areaLog2 := g.areaLog2, areaBase := g.areaBase, logSize := g.logSize, logBase := g.logBase, replays := g.replays,
                     poisoned := g.poisoned, timeouts := g.timeouts, stale := g.stale, baditem := g.baditem, dup := g.dup,
                     waitMax := g.waitMax, waitEnds := g.waitEnds, oldMap := g.oldMap, newMap := g.newMap, routeResult := g.routeResult,
                     mismatch := g.mismatch, routeLoad := rl, codes := g.codes, codeStat := g.codeStat, codeSel := g.codeSel,
                     codeData := g.codeData, acts := g.acts, meters := g.meters, meterSel := g.meterSel, meterData := g.meterData,
                     lastClose := g.lastClose, chans := g.chans })
                 (4#16).toNat (6291456#36).toNat =
               none)
    ∧ (sRoute.errs.block = false ∧
       sRoute.group.routeLoad = some (4#16, 6291456#36) ∧
         ctRuns sRoute = true ∧
           sRoute.group.oldMap = none ∧
             routeImage sRoute (4#16).toNat (6291456#36).toNat = some MapsAndTablesLoad_3_2_m ∧
               ∀ (n : RouteMap), sRoute.group.newMap = some n → 4#16 = n.epoch + 1)
    ∧ (MapsAndTablesLoad_3_3_s.errs.block = false ∧
       MapsAndTablesLoad_3_3_s.group.routeLoad = some (4#16, 6291456#36) ∧
         ctRuns MapsAndTablesLoad_3_3_s = true ∧
           MapsAndTablesLoad_3_3_s.group.oldMap = none ∧
             routeImage MapsAndTablesLoad_3_3_s (4#16).toNat (6291456#36).toNat = some MapsAndTablesLoad_3_2_m ∧
               MapsAndTablesLoad_3_3_s.group.newMap = some MapsAndTablesLoad_3_3_n ∧ 4#16 ≠ MapsAndTablesLoad_3_3_n.epoch + 1)
    ∧ ((bytesAt 6291456 [17] hosted).errs.block = false ∧
       let t := fld MapsAndTablesLoad_4_d 52 12;
       let g := fld MapsAndTablesLoad_4_d 50 2;
       let w := fld MapsAndTablesLoad_4_d 48 2;
       let c := smGet CodeTable.empty (bytesAt 6291456 [17] hosted).group.codes t;
       let lens :=
         tableLens (memBytes (bytesAt 6291456 [17] hosted).mem (winAddr (bytesAt 6291456 [17] hosted) (fld MapsAndTablesLoad_4_d 0 36)) 128);
       avail (bytesAt 6291456 [17] hosted) (mgmtBase + 393600) = Avail.served ∧
         t ≠ 4095 ∧
           Option.map (fun x => x.st) c.gens[g]? = some 0 ∧
             w ≠ 3 ∧
               ((c.gens.zipIdx.any fun x => x.snd != g && x.fst.st != 0) = true → w = c.width) ∧
                 fld MapsAndTablesLoad_4_d 0 36 + 128 ≤ winBytes (bytesAt 6291456 [17] hosted) ∧
                   memAnyPz (bytesAt 6291456 [17] hosted).mem (winAddr (bytesAt 6291456 [17] hosted) (fld MapsAndTablesLoad_4_d 0 36)) 128 =
                       false ∧
                     tableOk lens (widthBits w) = true)
    ∧ (hosted.errs.block = false ∧ avail hosted (mgmtBase + 393600) = Avail.served ∧ fld (BitVec.ofNat 64 (4095 * 2 ^ 52)) 52 12 = 4095)
    ∧ (sTab.errs.block = false ∧
       avail sTab (mgmtBase + 393600) = Avail.served ∧
         fld MapsAndTablesLoad_5_1_d 52 12 ≠ 4095 ∧
           Option.map (fun x => x.st)
               (smGet CodeTable.empty sTab.group.codes (fld MapsAndTablesLoad_5_1_d 52 12)).gens[fld MapsAndTablesLoad_5_1_d 50 2]? ≠
             some 0)
    ∧ (sTab.errs.block = false ∧
       avail sTab (mgmtBase + 393608) = Avail.served ∧
         (fld MapsAndTablesLoad_6_d 52 12 = 4095 ∨
           Option.map (fun x => x.st)
                 (smGet CodeTable.empty sTab.group.codes (fld MapsAndTablesLoad_6_d 52 12)).gens[fld MapsAndTablesLoad_6_d 50 2]? ≠
               some 1 ∨
             later (BitVec.ofNat 32 (fld MapsAndTablesLoad_6_d 0 32)) sTab.turns.cur = false))
    ∧ (sTab.errs.block = false ∧
       let t := fld MapsAndTablesLoad_7_d 52 12;
       let g := fld MapsAndTablesLoad_7_d 50 2;
       avail sTab (mgmtBase + 393608) = Avail.served ∧
         t ≠ 4095 ∧
           Option.map (fun x => x.st) (smGet CodeTable.empty sTab.group.codes t).gens[g]? = some 1 ∧
             later (BitVec.ofNat 32 (fld MapsAndTablesLoad_7_d 0 32)) sTab.turns.cur = true) := by
  repeat' apply And.intro
  all_goals
    first
    | decide +kernel
    | exact plain_of (by decide +kernel)
    | exact ready_of (by decide +kernel)
    | exact nothing_of (by decide +kernel)
    | exact alive_of (by decide +kernel)
    | exact event_of (by decide +kernel)
    | exact warm_of (by decide +kernel)
    | exact stays_of (by decide +kernel)
    | rfl
    | exact trivial
    | exact upto_of (by decide +kernel)
    | exact upto2_of (by decide +kernel)
    | exact listed_of (by decide +kernel)
    | exact ⟨15, by decide +kernel, by decide +kernel, by decide +kernel⟩
    | exact held_of (by decide +kernel)
    | exact halves_of (by decide +kernel)
    | exact fun n h => nomatch h

/-- A witness of the premises of `Obligations.GateCommands`, clause by clause. -/
theorem meets_GateCommands :
    ((35#6).toNat < 36 ∧
       let on := (off Phase.sealWait).power.on.getLsbD (35#6).toNat;
       let clk := (off Phase.sealWait).power.clk.getLsbD (35#6).toNat;
       gateFree (off Phase.sealWait) = true ∧ on = true ∧ clk = true)
    ∧ ((0#6).toNat < 36 ∧ gateFree (off Phase.sealWait) = true)
    ∧ ((35#6).toNat < 36 ∧
       let on := (off Phase.sealWait).power.on.getLsbD (35#6).toNat;
       let clk := (off Phase.sealWait).power.clk.getLsbD (35#6).toNat;
       gateFree (off Phase.sealWait) = true ∧ on = true ∧ clk = true)
    ∧ ((35#6).toNat < 36 ∧
       let on := (dom (2 ^ 35) (2 ^ 35) (off Phase.sealWait)).power.on.getLsbD (35#6).toNat;
       gateFree (dom (2 ^ 35) (2 ^ 35) (off Phase.sealWait)) = true ∧ on = false)
    ∧ ((35#6).toNat < 36 ∧
       let on := (off Phase.sealWait).power.on.getLsbD (35#6).toNat;
       gateFree (off Phase.sealWait) = true ∧ on = true)
    ∧ ((35#6).toNat < 36 ∧
       let on := (dom 0 (2 ^ 35) (off Phase.sealWait)).power.on.getLsbD (35#6).toNat;
       let clk := (dom 0 (2 ^ 35) (off Phase.sealWait)).power.clk.getLsbD (35#6).toNat;
       gateFree (dom 0 (2 ^ 35) (off Phase.sealWait)) = true ∧ (on = false ∨ clk = false))
    ∧ ((34#6).toNat < 36 ∧
       let on := (dom 0 (2 ^ 34) (off Phase.sealWait)).power.on.getLsbD (34#6).toNat;
       let clk := (dom 0 (2 ^ 34) (off Phase.sealWait)).power.clk.getLsbD (34#6).toNat;
       gateFree (dom 0 (2 ^ 34) (off Phase.sealWait)) = true ∧ (on = false ∨ clk = false))
    ∧ ((0#6).toNat < 36 ∧
       let on := (dom 0 (2 ^ 0) (off Phase.sealWait)).power.on.getLsbD (0#6).toNat;
       let clk := (dom 0 (2 ^ 0) (off Phase.sealWait)).power.clk.getLsbD (0#6).toNat;
       gateFree (dom 0 (2 ^ 0) (off Phase.sealWait)) = true ∧ (on = false ∨ clk = false))
    ∧ ((35#6).toNat < 36 ∧
       hosted.su.phase = Phase.ready ∧
         avail hosted (mgmtBase + 458848) = Avail.served ∧
           hosted.errs.block = false ∧ hosted.su.off = false ∧ hosted.power.gateWait = GateWait.idle)
    ∧ (let d := (gw (GateWait.close false)).power.gateDomain.toNat;
     (gw (GateWait.close false)).power.gateWait = GateWait.close false ∧
       domainRuns (gw (GateWait.close false)) d = true ∧ (4096#13).toNat ≤ 4096)
    ∧ (let d := (gw (GateWait.close true)).power.gateDomain.toNat;
     (gw (GateWait.close true)).power.gateWait = GateWait.close true ∧ domainRuns (gw (GateWait.close true)) d = true ∧ (4096#13).toNat ≤ 4096)
    ∧ (let d := GateCommands_1_1_s.power.gateDomain.toNat;
     GateCommands_1_1_s.power.gateWait = GateWait.close true ∧ domainRuns GateCommands_1_1_s d = true ∧ (7#13).toNat ≤ 4096)
    ∧ (let d := GateCommands_1_1_sb.power.gateDomain.toNat;
     GateCommands_1_1_sb.power.gateWait = GateWait.close true ∧ domainRuns GateCommands_1_1_sb d = true ∧ (7#13).toNat ≤ 4096)
    ∧ (let d := (gw (GateWait.close true)).power.gateDomain.toNat;
     (gw (GateWait.close true)).power.gateWait = GateWait.close true ∧ domainRuns (gw (GateWait.close true)) d = true)
    ∧ ((gw GateWait.rail).power.gateWait = GateWait.rail ∧ ctRuns (gw GateWait.rail) = true) := by
  repeat' apply And.intro
  all_goals
    first
    | decide +kernel
    | exact plain_of (by decide +kernel)
    | exact ready_of (by decide +kernel)
    | exact nothing_of (by decide +kernel)
    | exact alive_of (by decide +kernel)
    | exact event_of (by decide +kernel)
    | exact warm_of (by decide +kernel)
    | exact stays_of (by decide +kernel)
    | rfl
    | exact trivial
    | exact upto_of (by decide +kernel)
    | exact upto2_of (by decide +kernel)
    | exact listed_of (by decide +kernel)
    | exact ⟨15, by decide +kernel, by decide +kernel, by decide +kernel⟩
    | exact held_of (by decide +kernel)
    | exact halves_of (by decide +kernel)
    | exact fun n h => nomatch h

/-- A witness of the premises of `Obligations.ExchangeItemsHandled`, clause by clause. -/
theorem meets_ExchangeItemsHandled :
    (let off := xchSlot (item 1 1 256 false hosted) (inRing Half.A) (15#14).toNat;
     let i := readItem (item 1 1 256 false hosted) off;
     windowOpen (item 1 1 256 false hosted) = true ∧
       (15#14).toNat < 2 ^ (item 1 1 256 false hosted).group.areaLog2.toNat ∧
         ownedByBlock (item 1 1 256 false hosted) off = true ∧ itemOk (item 1 1 256 false hosted) off = true ∧ i.kind = 1)
    ∧ (let off := xchSlot (item 2 1 256 true hosted) (inRing Half.A) (15#14).toNat;
     let i := readItem (item 2 1 256 true hosted) off;
     windowOpen (item 2 1 256 true hosted) = true ∧
       (15#14).toNat < 2 ^ (item 2 1 256 true hosted).group.areaLog2.toNat ∧
         ownedByBlock (item 2 1 256 true hosted) off = true ∧ itemOk (item 2 1 256 true hosted) off = true ∧ i.kind = 2)
    ∧ (let off := xchSlot (item 3 0 0 false sKept) (inRing Half.A) (15#14).toNat;
     let i := readItem (item 3 0 0 false sKept) off;
     windowOpen (item 3 0 0 false sKept) = true ∧
       (15#14).toNat < 2 ^ (item 3 0 0 false sKept).group.areaLog2.toNat ∧
         ownedByBlock (item 3 0 0 false sKept) off = true ∧ itemOk (item 3 0 0 false sKept) off = true ∧ i.kind = 3)
    ∧ (let off := xchSlot (item 4 0 0 false sKept) (inRing Half.A) (15#14).toNat;
     let i := readItem (item 4 0 0 false sKept) off;
     windowOpen (item 4 0 0 false sKept) = true ∧
       (15#14).toNat < 2 ^ (item 4 0 0 false sKept).group.areaLog2.toNat ∧
         ownedByBlock (item 4 0 0 false sKept) off = true ∧ itemOk (item 4 0 0 false sKept) off = true ∧ i.kind = 4)
    ∧ (let off := xchSlot (codedI 0 0) (inRing Half.A) (15#14).toNat;
     let i := readItem (codedI 0 0) off;
     windowOpen (codedI 0 0) = true ∧
       (15#14).toNat < 2 ^ (codedI 0 0).group.areaLog2.toNat ∧
         ownedByBlock (codedI 0 0) off = true ∧
           itemOk (codedI 0 0) off = true ∧
             turnStale (codedI 0 0) Half.A i.turn = false ∧
               isAbsent (codedI 0 0) i.src = false ∧
                 i.kind = 1 ∧
                   i.coded = true ∧
                     i.scale = false ∧
                       logged (codedI 0 0) Half.A i false = false ∧
                         (dataBlocks (codedI 0 0) i).snd.fst = none ∧
                           pairOf (codedI 0 0) Half.A i = none ∧ logged (codedI 0 0) Half.A i true = false)
    ∧ (let off := xchSlot sCodedBad (inRing Half.A) (15#14).toNat;
     let i := readItem sCodedBad off;
     windowOpen sCodedBad = true ∧
       (15#14).toNat < 2 ^ sCodedBad.group.areaLog2.toNat ∧
         ownedByBlock sCodedBad off = true ∧
           itemOk sCodedBad off = true ∧
             turnStale sCodedBad Half.A i.turn = false ∧
               isAbsent sCodedBad i.src = false ∧
                 i.kind = 1 ∧
                   i.coded = true ∧
                     i.scale = false ∧
                       logged sCodedBad Half.A i false = false ∧
                         (dataBlocks sCodedBad i).snd.fst = some ExchangeItemsHandled_0_1_1_r ∧ nakCount sCodedBad Half.A i < 2)
    ∧ (let off := xchSlot (item 1 1 256 false hosted) (inRing Half.A) (15#14).toNat;
     let i := readItem (item 1 1 256 false hosted) off;
     windowOpen (item 1 1 256 false hosted) = true ∧
       (15#14).toNat < 2 ^ (item 1 1 256 false hosted).group.areaLog2.toNat ∧
         ownedByBlock (item 1 1 256 false hosted) off = true ∧
           itemOk (item 1 1 256 false hosted) off = true ∧
             turnStale (item 1 1 256 false hosted) Half.A i.turn = false ∧
               isAbsent (item 1 1 256 false hosted) i.src = false ∧
                 i.body.length = i.size ∧
                   i.size = 256 * i.words ∧
                     i.kind = 1 ∧
                       i.coded = false ∧
                         logged (item 1 1 256 false hosted) Half.A i false = false ∧ (half (item 1 1 256 false hosted) Half.A).pairs = [])
    ∧ (let off := xchSlot ExchangeItemsHandled_0_2_1_s (inRing Half.A) (15#14).toNat;
     let i := readItem ExchangeItemsHandled_0_2_1_s off;
     windowOpen ExchangeItemsHandled_0_2_1_s = true ∧
       (15#14).toNat < 2 ^ ExchangeItemsHandled_0_2_1_s.group.areaLog2.toNat ∧
         ownedByBlock ExchangeItemsHandled_0_2_1_s off = true ∧
           itemOk ExchangeItemsHandled_0_2_1_s off = true ∧
             turnStale ExchangeItemsHandled_0_2_1_s Half.A i.turn = false ∧
               isAbsent ExchangeItemsHandled_0_2_1_s i.src = false ∧
                 i.body.length = i.size ∧
                   i.size = 256 * i.words ∧
                     i.kind = 2 ∧
                       logged ExchangeItemsHandled_0_2_1_s Half.A i true = false ∧ logged ExchangeItemsHandled_0_2_1_s Half.A i false = true)
    ∧ (let off := xchSlot (item 3 0 0 false sKept) (inRing Half.A) (15#14).toNat;
     let i := readItem (item 3 0 0 false sKept) off;
     let from_ := tileHalf i.stile.toNat;
     windowOpen (item 3 0 0 false sKept) = true ∧
       (15#14).toNat < 2 ^ (item 3 0 0 false sKept).group.areaLog2.toNat ∧
         ownedByBlock (item 3 0 0 false sKept) off = true ∧
           itemOk (item 3 0 0 false sKept) off = true ∧
             i.kind = 3 ∧
               isAbsent (item 3 0 0 false sKept) i.src = false ∧
                 List.filter (fun d => !keptFor d i) (half (item 3 0 0 false sKept) from_).kept = [] ∧
                   ∃ d, d ∈ (half (item 3 0 0 false sKept) from_).kept ∧ keptFor d i = true)
    ∧ (let off := xchSlot (itemT 3 516 sKept4) (inRing Half.A) (15#14).toNat;
     let i := readItem (itemT 3 516 sKept4) off;
     let from_ := tileHalf i.stile.toNat;
     windowOpen (itemT 3 516 sKept4) = true ∧
       (15#14).toNat < 2 ^ (itemT 3 516 sKept4).group.areaLog2.toNat ∧
         ownedByBlock (itemT 3 516 sKept4) off = true ∧
           itemOk (itemT 3 516 sKept4) off = true ∧
             i.kind = 3 ∧
               isAbsent (itemT 3 516 sKept4) i.src = false ∧
                 List.filter (fun d => !keptFor d i) (half (itemT 3 516 sKept4) from_).kept = [] ∧
                   ∃ d, d ∈ (half (itemT 3 516 sKept4) from_).kept ∧ keptFor d i = true)
    ∧ (let off := xchSlot (item 4 0 0 false sKept) (inRing Half.A) (15#14).toNat;
     let i := readItem (item 4 0 0 false sKept) off;
     let from_ := tileHalf i.stile.toNat;
     windowOpen (item 4 0 0 false sKept) = true ∧
       (15#14).toNat < 2 ^ (item 4 0 0 false sKept).group.areaLog2.toNat ∧
         ownedByBlock (item 4 0 0 false sKept) off = true ∧
           itemOk (item 4 0 0 false sKept) off = true ∧
             i.kind = 4 ∧
               isAbsent (item 4 0 0 false sKept) i.src = false ∧
                 (half (item 4 0 0 false sKept) from_).kept = [kept 14] ∧ keptFor (kept 14) i = true)
    ∧ (let off := xchSlot (itemT 4 516 sKept4) (inRing Half.A) (15#14).toNat;
     let i := readItem (itemT 4 516 sKept4) off;
     let from_ := tileHalf i.stile.toNat;
     windowOpen (itemT 4 516 sKept4) = true ∧
       (15#14).toNat < 2 ^ (itemT 4 516 sKept4).group.areaLog2.toNat ∧
         ownedByBlock (itemT 4 516 sKept4) off = true ∧
           itemOk (itemT 4 516 sKept4) off = true ∧
             i.kind = 4 ∧
               isAbsent (itemT 4 516 sKept4) i.src = false ∧
                 (half (itemT 4 516 sKept4) from_).kept = [ExchangeItemsHandled_0_4_d] ∧ keptFor ExchangeItemsHandled_0_4_d i = true)
    ∧ (let off := xchSlot (item 5 0 0 false sKept) (inRing Half.A) (15#14).toNat;
     windowOpen (item 5 0 0 false sKept) = true ∧
       (15#14).toNat < 2 ^ (item 5 0 0 false sKept).group.areaLog2.toNat ∧
         ownedByBlock (item 5 0 0 false sKept) off = true ∧ itemOk (item 5 0 0 false sKept) off = false)
    ∧ (let off := xchSlot (item 1 1 256 false hosted) (inRing Half.A) (15#14).toNat;
     windowOpen (item 1 1 256 false hosted) = true ∧
       (15#14).toNat < 2 ^ (item 1 1 256 false hosted).group.areaLog2.toNat ∧
         ownedByBlock (item 1 1 256 false hosted) off = true ∧ (half (item 1 1 256 false hosted) Half.A).outQueue = [])
    ∧ (let off := xchSlot sOut2 (inRing Half.A) (15#14).toNat;
     windowOpen sOut2 = true ∧
       (15#14).toNat < 2 ^ sOut2.group.areaLog2.toNat ∧
         ownedByBlock sOut2 off = true ∧ (half sOut2 Half.A).outQueue = [itemX, itemX] ∧ freeOut sOut2 Half.A = some 15)
    ∧ (let off := xchSlot sOut (inRing Half.A) (15#14).toNat;
     windowOpen sOut = true ∧
       (15#14).toNat < 2 ^ sOut.group.areaLog2.toNat ∧
         ownedByBlock sOut off = true ∧ (half sOut Half.A).outQueue = [itemX] ∧ freeOut sOut Half.A = some 15)
    ∧ (tileNamed (0#10).toNat = true ∧
       tileRuns sRecvT (0#10).toNat = true ∧
         (eng (tileOf sRecvT (0#10).toNat) Eng.xf).flight[0]? = some recvF ∧
           recvFirst (eng (tileOf sRecvT (0#10).toNat) Eng.xf) 0 = true ∧
             recvF.done = false ∧
               recvF.sig = 0 ∧
                 recvF.pend = Pend.recv chanT false 0 15 9 5#32 ∧
                   chanT.isLocal = false ∧
                     recvPacket sRecvT (0#10).toNat chanT 15 9 5#32 = none ∧
                       memberOf sRecvT chanT.block = some 1 ∧
                         1 < 512 ∧ (qPutPacket qXfLd (tileQ (tileOf sRecvT (0#10).toNat) qXfLd) 0 (poisonPacket 15)).snd = 0)
    ∧ (tileNamed (0#10).toNat = true ∧
       tileRuns sRecvT2 (0#10).toNat = true ∧
         (eng (tileOf sRecvT2 (0#10).toNat) Eng.xf).flight[2]? = some recvF ∧
           recvFirst (eng (tileOf sRecvT2 (0#10).toNat) Eng.xf) 2 = true ∧
             recvF.done = false ∧
               recvF.sig = 0 ∧
                 recvF.pend = Pend.recv chanT false 0 15 9 5#32 ∧
                   chanT.isLocal = false ∧
                     recvPacket sRecvT2 (0#10).toNat chanT 15 9 5#32 = none ∧
                       memberOf sRecvT2 chanT.block = some 1 ∧
                         1 < 512 ∧ (qPutPacket qXfLd (tileQ (tileOf sRecvT2 (0#10).toNat) qXfLd) 0 (poisonPacket 15)).snd = 0)
    ∧ (let off := xchSlot (outOwned (item 4 0 0 false sKept)) (inRing Half.A) (15#14).toNat;
     let i := readItem (outOwned (item 4 0 0 false sKept)) off;
     let from_ := tileHalf i.stile.toNat;
     windowOpen (outOwned (item 4 0 0 false sKept)) = true ∧
       (15#14).toNat < 2 ^ (outOwned (item 4 0 0 false sKept)).group.areaLog2.toNat ∧
         ownedByBlock (outOwned (item 4 0 0 false sKept)) off = true ∧
           itemOk (outOwned (item 4 0 0 false sKept)) off = true ∧
             i.kind = 4 ∧
               isAbsent (outOwned (item 4 0 0 false sKept)) i.src = false ∧
                 (half (outOwned (item 4 0 0 false sKept)) from_).kept = [kept 14] ∧ keptFor (kept 14) i = true)
    ∧ (let off := xchSlot (outOwned (item 1 1 256 false hosted)) (inRing Half.A) (15#14).toNat;
     let i := readItem (outOwned (item 1 1 256 false hosted)) off;
     windowOpen (outOwned (item 1 1 256 false hosted)) = true ∧
       (15#14).toNat < 2 ^ (outOwned (item 1 1 256 false hosted)).group.areaLog2.toNat ∧
         ownedByBlock (outOwned (item 1 1 256 false hosted)) off = true ∧
           itemOk (outOwned (item 1 1 256 false hosted)) off = true ∧
             turnStale (outOwned (item 1 1 256 false hosted)) Half.A i.turn = false ∧
               isAbsent (outOwned (item 1 1 256 false hosted)) i.src = false ∧
                 i.body.length = i.size ∧
                   i.size = 256 * i.words ∧
                     i.kind = 1 ∧
                       i.coded = false ∧
                         logged (outOwned (item 1 1 256 false hosted)) Half.A i false = false ∧
                           (half (outOwned (item 1 1 256 false hosted)) Half.A).pairs = []) := by
  repeat' apply And.intro
  all_goals
    first
    | decide +kernel
    | exact plain_of (by decide +kernel)
    | exact ready_of (by decide +kernel)
    | exact nothing_of (by decide +kernel)
    | exact alive_of (by decide +kernel)
    | exact event_of (by decide +kernel)
    | exact warm_of (by decide +kernel)
    | exact stays_of (by decide +kernel)
    | rfl
    | exact trivial
    | exact upto_of (by decide +kernel)
    | exact upto2_of (by decide +kernel)
    | exact listed_of (by decide +kernel)
    | exact ⟨15, by decide +kernel, by decide +kernel, by decide +kernel⟩
    | exact held_of (by decide +kernel)
    | exact halves_of (by decide +kernel)
    | exact fun n h => nomatch h

/-- A witness of the premises of `Obligations.ResetAndPowerPins`, clause by clause. -/
theorem meets_ResetAndPowerPins :
    (ResetAndPowerPins_0_s.su.off = false ∧ ResetAndPowerPins_0_s.pins.resetN = true ∧ ResetAndPowerPins_0_s.su.phase ≠ Phase.power)
    ∧ ((resetLow Phase.reset).su.off = false ∧ (resetLow Phase.reset).su.phase = Phase.reset)
    ∧ ((resetLow Phase.ready).su.off = true ∨ (resetLow Phase.ready).su.phase ≠ Phase.reset)
    ∧ ((off Phase.power).su.off = true ∨ (off Phase.power).su.phase = Phase.power)
    ∧ ((slotted SlotSt.ready id).pins.pwrOk = true)
    ∧ ((slotted SlotSt.ready id).su.off = false)
    ∧ (noPwr.pins.pwrOk = false) := by
  repeat' apply And.intro
  all_goals
    first
    | decide +kernel
    | exact plain_of (by decide +kernel)
    | exact ready_of (by decide +kernel)
    | exact nothing_of (by decide +kernel)
    | exact alive_of (by decide +kernel)
    | exact event_of (by decide +kernel)
    | exact warm_of (by decide +kernel)
    | exact stays_of (by decide +kernel)
    | rfl
    | exact trivial
    | exact upto_of (by decide +kernel)
    | exact upto2_of (by decide +kernel)
    | exact listed_of (by decide +kernel)
    | exact ⟨15, by decide +kernel, by decide +kernel, by decide +kernel⟩
    | exact held_of (by decide +kernel)
    | exact halves_of (by decide +kernel)
    | exact fun n h => nomatch h

/-- A witness of the premises of `Obligations.HaltAndFilters`, clause by clause. -/
theorem meets_HaltAndFilters :
    (woscRuns hosted = true)
    ∧ (woscRuns
           (pins fun p =>
             { resetN := p.resetN, pwrOk := p.pwrOk, haltReq := true, stuck := p.stuck, glitchRst := p.glitchRst, glitchPwr := p.glitchPwr,
               glitchHalt := p.glitchHalt, bells := p.bells }) =
         true ∧
       (pins fun p =>
                 { resetN := p.resetN, pwrOk := p.pwrOk, haltReq := true, stuck := p.stuck, glitchRst := p.glitchRst, glitchPwr := p.glitchPwr,
                   glitchHalt := p.glitchHalt, bells := p.bells }).pins.haltReq =
           true ∧
         (pins fun p =>
                 { resetN := p.resetN, pwrOk := p.pwrOk, haltReq := true, stuck := p.stuck, glitchRst := p.glitchRst, glitchPwr := p.glitchPwr,
                   glitchHalt := p.glitchHalt, bells := p.bells }).pins.bells =
           [])
    ∧ (woscRuns sBells = true ∧ sBells.pins.haltReq = true ∧ ctRuns sBells = true)
    ∧ (woscRuns
           (pins fun p =>
             { resetN := p.resetN, pwrOk := p.pwrOk, haltReq := p.haltReq, stuck := true, glitchRst := p.glitchRst, glitchPwr := p.glitchPwr,
               glitchHalt := p.glitchHalt, bells := p.bells }) =
         true ∧
       (pins fun p =>
                 { resetN := p.resetN, pwrOk := p.pwrOk, haltReq := p.haltReq, stuck := true, glitchRst := p.glitchRst,
                   glitchPwr := p.glitchPwr, glitchHalt := p.glitchHalt, bells := p.bells }).pins.haltReq =
           false ∧
         (pins fun p =>
                 { resetN := p.resetN, pwrOk := p.pwrOk, haltReq := p.haltReq, stuck := true, glitchRst := p.glitchRst,
                   glitchPwr := p.glitchPwr, glitchHalt := p.glitchHalt, bells := p.bells }).pins.stuck =
           true)
    ∧ (woscRuns
         (pins fun p =>
           { resetN := p.resetN, pwrOk := p.pwrOk, haltReq := p.haltReq, stuck := p.stuck, glitchRst := 65535, glitchPwr := p.glitchPwr,
             glitchHalt := p.glitchHalt, bells := p.bells }) =
       true)
    ∧ (woscRuns hosted = true)
    ∧ (woscRuns (off Phase.reset) = true) := by
  repeat' apply And.intro
  all_goals
    first
    | decide +kernel
    | exact plain_of (by decide +kernel)
    | exact ready_of (by decide +kernel)
    | exact nothing_of (by decide +kernel)
    | exact alive_of (by decide +kernel)
    | exact event_of (by decide +kernel)
    | exact warm_of (by decide +kernel)
    | exact stays_of (by decide +kernel)
    | rfl
    | exact trivial
    | exact upto_of (by decide +kernel)
    | exact upto2_of (by decide +kernel)
    | exact listed_of (by decide +kernel)
    | exact ⟨15, by decide +kernel, by decide +kernel, by decide +kernel⟩
    | exact held_of (by decide +kernel)
    | exact halves_of (by decide +kernel)
    | exact fun n h => nomatch h

/-- A witness of the premises of `Obligations.StartupPhases`, clause by clause. -/
theorem meets_StartupPhases :
    ((off Phase.power).su.off = false ∧ (off Phase.power).su.phase = Phase.power)
    ∧ ((resetLow Phase.power).su.off = false ∧ (resetLow Phase.power).su.phase = Phase.power)
    ∧ ((off Phase.reset).su.off = false ∧ (off Phase.reset).su.phase = Phase.reset ∧ (off Phase.reset).pins.resetN = true)
    ∧ (StartupPhases_2_s.su.off = false ∧ StartupPhases_2_s.su.phase = Phase.clock ∧ anyRclk StartupPhases_2_s = true)
    ∧ (portsPg.su.off = false ∧ portsPg.su.phase = Phase.domains ∧ ctRuns portsPg = true)
    ∧ ((off Phase.fuse).su.off = false ∧ (off Phase.fuse).su.phase = Phase.fuse ∧ fuseOk (off Phase.fuse).fuse = true)
    ∧ (allUp.su.off = false ∧ allUp.su.phase = Phase.links ∧ (hpOf allUp 0).trained = true ∧ ∀ (p : Nat), p < 32 → (mpOf allUp p).st = PortSt.up)
    ∧ (StartupPhases_6_s.su.off = false ∧ StartupPhases_6_s.su.phase = Phase.selftest)
    ∧ ((off Phase.selftest).su.off = false ∧
       (off Phase.selftest).su.phase = Phase.selftest ∧
         (Phase.selftest = Phase.power ∧ 7#8 = 1 ∨
           Phase.selftest = Phase.fuse ∧ 7#8 = 2 ∨
             Phase.selftest = Phase.domains ∧ 7#8 = 3 ∨
               Phase.selftest = Phase.links ∧ 7#8 = 4 ∧ (hpOf (off Phase.selftest) 0).trained = false ∨
                 (Phase.selftest = Phase.links ∧ 7#8 = 5 ∧ ∃ m, m < 32 ∧ (mpOf (off Phase.selftest) m).st = PortSt.failed) ∨
                   (Phase.selftest = Phase.links ∧ 7#8 = 6 ∧ ∃ m, m < 32 ∧ (mpOf (off Phase.selftest) m).st = PortSt.off) ∨
                     Phase.selftest = Phase.selftest ∧ 7#8 = 7))
    ∧ ((off Phase.power).su.off = false ∧
       (off Phase.power).su.phase = Phase.power ∧
         (Phase.power = Phase.power ∧ 1#8 = 1 ∨
           Phase.power = Phase.fuse ∧ 1#8 = 2 ∨
             Phase.power = Phase.domains ∧ 1#8 = 3 ∨
               Phase.power = Phase.links ∧ 1#8 = 4 ∧ (hpOf (off Phase.power) 0).trained = false ∨
                 (Phase.power = Phase.links ∧ 1#8 = 5 ∧ ∃ m, m < 32 ∧ (mpOf (off Phase.power) m).st = PortSt.failed) ∨
                   (Phase.power = Phase.links ∧ 1#8 = 6 ∧ ∃ m, m < 32 ∧ (mpOf (off Phase.power) m).st = PortSt.off) ∨
                     Phase.power = Phase.selftest ∧ 1#8 = 7))
    ∧ ((off Phase.links).su.off = false ∧
       (off Phase.links).su.phase = Phase.links ∧
         (Phase.links = Phase.power ∧ 4#8 = 1 ∨
           Phase.links = Phase.fuse ∧ 4#8 = 2 ∨
             Phase.links = Phase.domains ∧ 4#8 = 3 ∨
               Phase.links = Phase.links ∧ 4#8 = 4 ∧ (hpOf (off Phase.links) 0).trained = false ∨
                 (Phase.links = Phase.links ∧ 4#8 = 5 ∧ ∃ m, m < 32 ∧ (mpOf (off Phase.links) m).st = PortSt.failed) ∨
                   (Phase.links = Phase.links ∧ 4#8 = 6 ∧ ∃ m, m < 32 ∧ (mpOf (off Phase.links) m).st = PortSt.off) ∨
                     Phase.links = Phase.selftest ∧ 4#8 = 7))
    ∧ ((off Phase.fwAuth).su.off = false ∧ (off Phase.fwAuth).su.phase = Phase.fwAuth) := by
  repeat' apply And.intro
  all_goals
    first
    | decide +kernel
    | exact plain_of (by decide +kernel)
    | exact ready_of (by decide +kernel)
    | exact nothing_of (by decide +kernel)
    | exact alive_of (by decide +kernel)
    | exact event_of (by decide +kernel)
    | exact warm_of (by decide +kernel)
    | exact stays_of (by decide +kernel)
    | rfl
    | exact trivial
    | exact upto_of (by decide +kernel)
    | exact upto2_of (by decide +kernel)
    | exact listed_of (by decide +kernel)
    | exact ⟨15, by decide +kernel, by decide +kernel, by decide +kernel⟩
    | exact held_of (by decide +kernel)
    | exact halves_of (by decide +kernel)
    | exact fun n h => nomatch h

/-- A witness of the premises of `Obligations.TimebaseLocks`, clause by clause. -/
theorem meets_TimebaseLocks :
    (monitorRuns TimebaseLocks_0_s = true ∧ tbRuns TimebaseLocks_0_s TbIn.tb1 = true)
    ∧ (monitorRuns hosted = true ∧
       let x := tbOf hosted TbIn.tb1;
       hosted.clocks.src = 0 ∧ hosted.clocks.inUse ≠ TbIn.tb1 ∧ (tbOf hosted hosted.clocks.inUse).elig = true ∧ x.blockLock = true)
    ∧ (monitorRuns hosted = true ∧
       let x := tbOf hosted TbIn.tb1;
       hosted.clocks.src = 0 ∧ hosted.clocks.inUse ≠ TbIn.tb1 ∧ (tbOf hosted hosted.clocks.inUse).elig = true ∧ x.frameLock = true)
    ∧ (monitorRuns TimebaseLocks_1_2_s = true ∧
       let x := tbOf TimebaseLocks_1_2_s TbIn.tb1;
       TimebaseLocks_1_2_s.clocks.src = 0 ∧
         TimebaseLocks_1_2_s.clocks.inUse ≠ TbIn.tb1 ∧
           (tbOf TimebaseLocks_1_2_s TimebaseLocks_1_2_s.clocks.inUse).elig = true ∧
             tbRuns TimebaseLocks_1_2_s TbIn.tb1 = true ∧ x.blockLock = true ∧ TimebaseLocks_1_2_s.clocks.loscWatch = true ∧ x.goodwin ≠ 16)
    ∧ (monitorRuns (tbUse true true true) = true ∧
       let x := tbOf (tbUse true true true) TbIn.tb0;
       (tbUse true true true).clocks.src = 0 ∧
         (tbUse true true true).clocks.inUse = TbIn.tb0 ∧ x.blockLock = true ∧ (tbOf (tbUse true true true) (tbOther TbIn.tb0)).elig = true)
    ∧ (monitorRuns (tbUse true false true) = true ∧
       let x := tbOf (tbUse true false true) TbIn.tb0;
       (tbUse true false true).clocks.src = 0 ∧
         (tbUse true false true).clocks.inUse = TbIn.tb0 ∧
           x.blockLock = true ∧ (tbOf (tbUse true false true) (tbOther TbIn.tb0)).elig = false ∧ (tbUse true false true).clocks.losc = true)
    ∧ (monitorRuns (tbUse true false false) = true ∧
       let x := tbOf (tbUse true false false) TbIn.tb0;
       (tbUse true false false).clocks.src = 0 ∧
         (tbUse true false false).clocks.inUse = TbIn.tb0 ∧
           x.blockLock = true ∧ (tbOf (tbUse true false false) (tbOther TbIn.tb0)).elig = false ∧ (tbUse true false false).clocks.losc = false)
    ∧ (monitorRuns hosted = true ∧
       let x := tbOf hosted TbIn.tb1;
       tbRuns hosted TbIn.tb1 = true ∧ tbValid x = true ∧ true ≠ sofGood 0#64)
    ∧ (monitorRuns hosted = true ∧
       let x := tbOf hosted TbIn.tb1;
       tbValid x = true ∧ true = sofGood (sofW 9)) := by
  repeat' apply And.intro
  all_goals
    first
    | decide +kernel
    | exact plain_of (by decide +kernel)
    | exact ready_of (by decide +kernel)
    | exact nothing_of (by decide +kernel)
    | exact alive_of (by decide +kernel)
    | exact event_of (by decide +kernel)
    | exact warm_of (by decide +kernel)
    | exact stays_of (by decide +kernel)
    | rfl
    | exact trivial
    | exact upto_of (by decide +kernel)
    | exact upto2_of (by decide +kernel)
    | exact listed_of (by decide +kernel)
    | exact ⟨15, by decide +kernel, by decide +kernel, by decide +kernel⟩
    | exact held_of (by decide +kernel)
    | exact halves_of (by decide +kernel)
    | exact fun n h => nomatch h

/-- A witness of the premises of `Obligations.ClockMonitor`, clause by clause. -/
theorem meets_ClockMonitor :
    (monitorRuns
           (tbs fun x =>
             { blockLock := x.blockLock, frameLock := x.frameLock, elig := x.elig, goodwin := 15, watchRun := x.watchRun, badsof := x.badsof,
               losses := x.losses, hist := x.hist }) =
         true ∧
       tbValid
             (tbs fun x =>
                 { blockLock := x.blockLock, frameLock := x.frameLock, elig := x.elig, goodwin := 15, watchRun := x.watchRun,
                   badsof := x.badsof, losses := x.losses, hist := x.hist }).tb0 =
           true ∧
         tbValid
               (tbs fun x =>
                   { blockLock := x.blockLock, frameLock := x.frameLock, elig := x.elig, goodwin := 15, watchRun := x.watchRun,
                     badsof := x.badsof, losses := x.losses, hist := x.hist }).tb1 =
             true ∧
           25003 ≤ 25003 ∧
             25003 ≤ 25013 ∧
               25003 ≤ 25013 ∧
                 25013 ≤ 25013 ∧
                   (tbs fun x =>
                             { blockLock := x.blockLock, frameLock := x.frameLock, elig := x.elig, goodwin := 15, watchRun := x.watchRun,
                               badsof := x.badsof, losses := x.losses, hist := x.hist }).clocks.src =
                       0 ∧
                     (tbs fun x =>
                               { blockLock := x.blockLock, frameLock := x.frameLock, elig := x.elig, goodwin := 15, watchRun := x.watchRun,
                                 badsof := x.badsof, losses := x.losses, hist := x.hist }).tb0.elig =
                         true ∧
                       (tbs fun x =>
                                 { blockLock := x.blockLock, frameLock := x.frameLock, elig := x.elig, goodwin := 15, watchRun := x.watchRun,
                                   badsof := x.badsof, losses := x.losses, hist := x.hist }).tb1.elig =
                           true ∧
                         (tbs fun x =>
                                 { blockLock := x.blockLock, frameLock := x.frameLock, elig := x.elig, goodwin := 15, watchRun := x.watchRun,
                                   badsof := x.badsof, losses := x.losses, hist := x.hist }).clocks.losc =
                           true)
    ∧ (monitorRuns
           (tbs fun x =>
             { blockLock := x.blockLock, frameLock := x.frameLock, elig := x.elig, goodwin := 15, watchRun := x.watchRun, badsof := x.badsof,
               losses := x.losses, hist := x.hist }) =
         true ∧
       tbValid
             (tbs fun x =>
                 { blockLock := x.blockLock, frameLock := x.frameLock, elig := x.elig, goodwin := 15, watchRun := x.watchRun,
                   badsof := x.badsof, losses := x.losses, hist := x.hist }).tb0 =
           true ∧
         tbValid
               (tbs fun x =>
                   { blockLock := x.blockLock, frameLock := x.frameLock, elig := x.elig, goodwin := 15, watchRun := x.watchRun,
                     badsof := x.badsof, losses := x.losses, hist := x.hist }).tb1 =
             true ∧
           25003 ≤ 25003 ∧
             25003 ≤ 25013 ∧
               (25014 < 25003 ∨ 25013 < 25014) ∧
                 (tbs fun x =>
                           { blockLock := x.blockLock, frameLock := x.frameLock, elig := x.elig, goodwin := 15, watchRun := x.watchRun,
                             badsof := x.badsof, losses := x.losses, hist := x.hist }).clocks.src =
                     0 ∧
                   (tbs fun x =>
                             { blockLock := x.blockLock, frameLock := x.frameLock, elig := x.elig, goodwin := 15, watchRun := x.watchRun,
                               badsof := x.badsof, losses := x.losses, hist := x.hist }).clocks.inUse =
                       TbIn.tb0 ∧
                     (tbs fun x =>
                               { blockLock := x.blockLock, frameLock := x.frameLock, elig := x.elig, goodwin := 15, watchRun := x.watchRun,
                                 badsof := x.badsof, losses := x.losses, hist := x.hist }).tb0.elig =
                         true ∧
                       (tbs fun x =>
                                 { blockLock := x.blockLock, frameLock := x.frameLock, elig := x.elig, goodwin := 15, watchRun := x.watchRun,
                                   badsof := x.badsof, losses := x.losses, hist := x.hist }).clocks.losc =
                           true ∧
                         (tbs fun x =>
                                 { blockLock := x.blockLock, frameLock := x.frameLock, elig := x.elig, goodwin := 15, watchRun := x.watchRun,
                                   badsof := x.badsof, losses := x.losses, hist := x.hist }).clocks.loscWatch =
                           true)
    ∧ (monitorRuns
           (tbs fun x =>
             { blockLock := x.blockLock, frameLock := x.frameLock, elig := x.elig, goodwin := 16, watchRun := x.watchRun, badsof := x.badsof,
               losses := x.losses, hist := x.hist }) =
         true ∧
       (368639 < 368640 ∨ 450560 < 368639) ∧
         368640 ≤ 450560 ∧
           450560 ≤ 450560 ∧
             368640 ≤ 368640 ∧
               368640 ≤ 450560 ∧
                 (tbs fun x =>
                           { blockLock := x.blockLock, frameLock := x.frameLock, elig := x.elig, goodwin := 16, watchRun := x.watchRun,
                             badsof := x.badsof, losses := x.losses, hist := x.hist }).clocks.src =
                     0 ∧
                   (tbs fun x =>
                             { blockLock := x.blockLock, frameLock := x.frameLock, elig := x.elig, goodwin := 16, watchRun := x.watchRun,
                               badsof := x.badsof, losses := x.losses, hist := x.hist }).clocks.inUse =
                       TbIn.tb0 ∧
                     (tbs fun x =>
                               { blockLock := x.blockLock, frameLock := x.frameLock, elig := x.elig, goodwin := 16, watchRun := x.watchRun,
                                 badsof := x.badsof, losses := x.losses, hist := x.hist }).tb0.elig =
                         true ∧
                       (tbs fun x =>
                               { blockLock := x.blockLock, frameLock := x.frameLock, elig := x.elig, goodwin := 16, watchRun := x.watchRun,
                                 badsof := x.badsof, losses := x.losses, hist := x.hist }).clocks.losc =
                         true)
    ∧ (monitorRuns ClockMonitor_3_s = true ∧
       (tbOf ClockMonitor_3_s ClockMonitor_3_s.clocks.inUse).elig = true ∧
         -1000 ≤ ClockMonitor_3_s.clocks.auto.toInt ∧ ClockMonitor_3_s.clocks.auto.toInt ≤ 1000)
    ∧ (monitorRuns ClockMonitor_4_s = true ∧
       ClockMonitor_4_s.clocks.relock = some 25 ∧
         refRuns ClockMonitor_4_s = true ∧
           NothingWaits ClockMonitor_4_s ∧
             ClockMonitor_4_s.power.gateWait = GateWait.idle ∧
               ClockMonitor_4_s.modes.boxing = false ∧ ClockMonitor_4_s.modes.recovering = false)
    ∧ (monitorRuns ClockMonitor_5_s = true ∧
       ClockMonitor_5_s.clocks.src = 1 ∧ avail ClockMonitor_5_s (mgmtBase + 458760) = Avail.served ∧ ClockMonitor_5_s.errs.block = false)
    ∧ (monitorRuns hosted = true ∧ hosted.clocks.src ≠ 1 ∧ avail hosted (mgmtBase + 458760) = Avail.served) := by
  repeat' apply And.intro
  all_goals
    first
    | decide +kernel
    | exact plain_of (by decide +kernel)
    | exact ready_of (by decide +kernel)
    | exact nothing_of (by decide +kernel)
    | exact alive_of (by decide +kernel)
    | exact event_of (by decide +kernel)
    | exact warm_of (by decide +kernel)
    | exact stays_of (by decide +kernel)
    | rfl
    | exact trivial
    | exact upto_of (by decide +kernel)
    | exact upto2_of (by decide +kernel)
    | exact listed_of (by decide +kernel)
    | exact ⟨15, by decide +kernel, by decide +kernel, by decide +kernel⟩
    | exact held_of (by decide +kernel)
    | exact halves_of (by decide +kernel)
    | exact fun n h => nomatch h

/-- A witness of the premises of `Obligations.MemoryPortsAndDomains`, clause by clause. -/
theorem meets_MemoryPortsAndDomains :
    (let x := mpOf hosted (31#5).toNat;
     woscRuns hosted = true ∧ x.st = PortSt.off ∧ hosted.power.on.getLsbD (mpDomain (31#5).toNat) = true)
    ∧ (let x :=
       mpOf
         (port fun x =>
           { st := PortSt.training, retrain := x.retrain, pg := x.pg, cause := x.cause, repaired := x.repaired, retrains := x.retrains,
             poisonRd := x.poisonRd, retries := x.retries })
         (31#5).toNat;
     x.st = PortSt.training ∧
       refRuns
             (port fun x =>
               { st := PortSt.training, retrain := x.retrain, pg := x.pg, cause := x.cause, repaired := x.repaired, retrains := x.retrains,
                 poisonRd := x.poisonRd, retries := x.retries }) =
           true ∧
         (port fun x =>
                       { st := PortSt.training, retrain := x.retrain, pg := x.pg, cause := x.cause, repaired := x.repaired,
                         retrains := x.retrains, poisonRd := x.poisonRd, retries := x.retries }).power.on.getLsbD
               (mpDomain (31#5).toNat) =
             true ∧
           x.retrain = false)
    ∧ (let x := mpOf MemoryPortsAndDomains_0_1_1_s (31#5).toNat;
     x.st = PortSt.training ∧
       refRuns MemoryPortsAndDomains_0_1_1_s = true ∧
         MemoryPortsAndDomains_0_1_1_s.power.on.getLsbD (mpDomain (31#5).toNat) = true ∧
           x.retrain = true ∧ NothingWaits MemoryPortsAndDomains_0_1_1_s)
    ∧ (let x :=
       mpOf
         (port fun x =>
           { st := PortSt.training, retrain := x.retrain, pg := x.pg, cause := x.cause, repaired := x.repaired, retrains := x.retrains,
             poisonRd := x.poisonRd, retries := x.retries })
         (31#5).toNat;
     x.st = PortSt.training ∧
       x.retrain = false ∧
         refRuns
               (port fun x =>
                 { st := PortSt.training, retrain := x.retrain, pg := x.pg, cause := x.cause, repaired := x.repaired, retrains := x.retrains,
                   poisonRd := x.poisonRd, retries := x.retries }) =
             true ∧
           1 ≤ (6#4).toNat ∧ (6#4).toNat ≤ 6)
    ∧ (let x := mpOf MemoryPortsAndDomains_0_1_1_s (31#5).toNat;
     x.st = PortSt.training ∧ x.retrain = true ∧ refRuns MemoryPortsAndDomains_0_1_1_s = true ∧ NothingWaits MemoryPortsAndDomains_0_1_1_s)
    ∧ (let x := mpOf MemoryPortsAndDomains_0_4_s (31#5).toNat;
     x.st = PortSt.up)
    ∧ (let x := mpOf MemoryPortsAndDomains_0_5_s (31#5).toNat;
     woscRuns MemoryPortsAndDomains_0_5_s = true ∧ x.pg = true ∧ x.st = PortSt.up ∧ MemoryPortsAndDomains_0_5_s.clocks.held = [])
    ∧ ((35#6).toNat < 36 ∧ hosted.power.on.getLsbD (35#6).toNat = true ∧ hosted.su.off = false)
    ∧ ((34#6).toNat < 36 ∧ hosted.power.on.getLsbD (34#6).toNat = true ∧ hosted.su.off = false)
    ∧ ((16#6).toNat < 36 ∧ hosted.power.on.getLsbD (16#6).toNat = true ∧ hosted.su.off = false)
    ∧ ((0#6).toNat < 36 ∧ hosted.power.on.getLsbD (0#6).toNat = true ∧ hosted.su.off = false)
    ∧ (1649267441663 < stackEnd)
    ∧ (31 < 32 ∧ 51539607551 < 48 * 2 ^ 30) := by
  repeat' apply And.intro
  all_goals
    first
    | decide +kernel
    | exact plain_of (by decide +kernel)
    | exact ready_of (by decide +kernel)
    | exact nothing_of (by decide +kernel)
    | exact alive_of (by decide +kernel)
    | exact event_of (by decide +kernel)
    | exact warm_of (by decide +kernel)
    | exact stays_of (by decide +kernel)
    | rfl
    | exact trivial
    | exact upto_of (by decide +kernel)
    | exact upto2_of (by decide +kernel)
    | exact listed_of (by decide +kernel)
    | exact ⟨15, by decide +kernel, by decide +kernel, by decide +kernel⟩
    | exact held_of (by decide +kernel)
    | exact halves_of (by decide +kernel)
    | exact fun n h => nomatch h

/-- A witness of the premises of `Obligations.BoxcarsLimits`, clause by clause. -/
theorem meets_BoxcarsLimits :
    (refRuns (box id) = true ∧ (box id).modes.boxing = true ∧ clocksRun (box id) = true)
    ∧ (refRuns BoxcarsLimits_1_s = true ∧
       BoxcarsLimits_1_s.modes.boxing = true ∧
         clocksRun BoxcarsLimits_1_s = true ∧
           BitVec.toNat BoxcarsLimits_1_s.modes.wearBase * 1000000 + BoxcarsLimits_1_s.modes.usedUs ≤ 7200000000000 ∧
             5 * (7200000000000 - (BitVec.toNat BoxcarsLimits_1_s.modes.wearBase * 1000000 + BoxcarsLimits_1_s.modes.usedUs)) <
               BoxcarsLimits_1_s.modes.thermal)
    ∧ (refRuns (box id) = true ∧ (23#5).toNat < 24 ∧ 400 < (effTemp (box id) (23#5).toNat 401#16).toInt ∧ ctRuns (box id) = true)
    ∧ (refRuns (box id) = true ∧
       (List.replicate 24 379).length = 24 ∧
         (∀ (k : Nat) (t : BitVec 16), (List.replicate 24 379)[k]? = some t → (effTemp (box id) k t).toInt < 380) ∧ ctRuns (box id) = true)
    ∧ (refRuns BoxcarsLimits_4_s = true ∧
       BoxcarsLimits_4_s.modes.recovering = true ∧
         BoxcarsLimits_4_s.modes.boxing = false ∧ clocksRun BoxcarsLimits_4_s = true ∧ BoxcarsLimits_4_s.modes.thermal ≤ 100000000) := by
  repeat' apply And.intro
  all_goals
    first
    | decide +kernel
    | exact plain_of (by decide +kernel)
    | exact ready_of (by decide +kernel)
    | exact nothing_of (by decide +kernel)
    | exact alive_of (by decide +kernel)
    | exact event_of (by decide +kernel)
    | exact warm_of (by decide +kernel)
    | exact stays_of (by decide +kernel)
    | rfl
    | exact trivial
    | exact upto_of (by decide +kernel)
    | exact upto2_of (by decide +kernel)
    | exact listed_of (by decide +kernel)
    | exact ⟨15, by decide +kernel, by decide +kernel, by decide +kernel⟩
    | exact held_of (by decide +kernel)
    | exact halves_of (by decide +kernel)
    | exact fun n h => nomatch h

/-- A witness of the premises of `Obligations.ErrorsHandled`, clause by clause. -/
theorem meets_ErrorsHandled :
    ((sErr ErrClass.request).errs.block = false ∧
       ctRuns (sErr ErrClass.request) = true ∧
         (sErr ErrClass.request).errs.handling = none ∧
           nextEntry (sErr ErrClass.request) = some (errEnt ErrClass.request) ∧
             (∀ (g : ErrEntry), g ∈ (sErr ErrClass.request).errs.log → g.lseq = (errEnt ErrClass.request).lseq → g = errEnt ErrClass.request) ∧
               (∀ (h : Half), (half (sErr ErrClass.request) h).run = none) ∧
                 (errEnt ErrClass.request).cls = ErrClass.request ∧
                   (errEnt ErrClass.request).job = none ∧
                     (errEnt ErrClass.request).reqs = [] ∧
                       (∀ (x : Nat × Slot), x ∈ (sErr ErrClass.request).slots → x.snd.w.blocked = false) ∧
                         ∀ (h : Half),
                           (half (sErr ErrClass.request) h).jobs = [] ∧
                             (half (sErr ErrClass.request) h).replayJobs = [] ∧ (half (sErr ErrClass.request) h).maskJobs = [])
    ∧ ((sErrReq 0 true).errs.block = false ∧
       ctRuns (sErrReq 0 true) = true ∧
         (sErrReq 0 true).errs.handling = none ∧
           nextEntry (sErrReq 0 true) = some (errReq 1) ∧
             (∀ (g : ErrEntry), g ∈ (sErrReq 0 true).errs.log → g.lseq = (errReq 1).lseq → g = errReq 1) ∧
               (∀ (h : Half), (half (sErrReq 0 true) h).run = none) ∧
                 (errReq 1).cls = ErrClass.request ∧
                   (errReq 1).job = none ∧
                     (errReq 1).src ≠ 7 ∧
                       (errReq 1).reqs = [(0, (slotOf (sErrReq 0 true) 0).r.sgen)] ∧
                         slotLive (slotOf (sErrReq 0 true) 0).r.st = true ∧
                           (∀ (x : Nat × Slot), x ∈ (sErrReq 0 true).slots → x.snd.w.blocked = false) ∧
                             (∀ (h : Half),
                                 (half (sErrReq 0 true) h).jobs = [] ∧
                                   (half (sErrReq 0 true) h).replayJobs = [] ∧ (half (sErrReq 0 true) h).maskJobs = []) ∧
                               (slotOf (sErrReq 0 true) 0).r.errs = 0 ∧
                                 (slotOf (sErrReq 0 true) 0).w.ran = [] ∧
                                   (sErrReq 0 true).group.plan = none ∧ imageOf (sErrReq 0 true) (slotOf (sErrReq 0 true) 0).w.image = none)
    ∧ ((sErrReq 1 false).errs.block = false ∧
       ctRuns (sErrReq 1 false) = true ∧
         (sErrReq 1 false).errs.handling = none ∧
           nextEntry (sErrReq 1 false) = some (errReq 1) ∧
             (∀ (g : ErrEntry), g ∈ (sErrReq 1 false).errs.log → g.lseq = (errReq 1).lseq → g = errReq 1) ∧
               (∀ (h : Half), (half (sErrReq 1 false) h).run = none) ∧
                 (errReq 1).cls = ErrClass.request ∧
                   (errReq 1).job = none ∧
                     (errReq 1).src ≠ 7 ∧
                       (errReq 1).reqs = [(0, (slotOf (sErrReq 1 false) 0).r.sgen)] ∧
                         slotLive (slotOf (sErrReq 1 false) 0).r.st = true ∧
                           (∀ (x : Nat × Slot), x ∈ (sErrReq 1 false).slots → x.snd.w.blocked = false) ∧
                             (∀ (h : Half),
                                 (half (sErrReq 1 false) h).jobs = [] ∧
                                   (half (sErrReq 1 false) h).replayJobs = [] ∧ (half (sErrReq 1 false) h).maskJobs = []) ∧
                               (slotOf (sErrReq 1 false) 0).r.errs ≠ 0)
    ∧ ((sErr ErrClass.tenant).errs.block = false ∧
       ctRuns (sErr ErrClass.tenant) = true ∧
         (sErr ErrClass.tenant).errs.handling = none ∧
           nextEntry (sErr ErrClass.tenant) = some (errEnt ErrClass.tenant) ∧
             (∀ (g : ErrEntry), g ∈ (sErr ErrClass.tenant).errs.log → g.lseq = (errEnt ErrClass.tenant).lseq → g = errEnt ErrClass.tenant) ∧
               (∀ (h : Half), (half (sErr ErrClass.tenant) h).run = none) ∧
                 (errEnt ErrClass.tenant).cls = ErrClass.tenant ∧
                   (errEnt ErrClass.tenant).job = none ∧
                     ∀ (x : Nat × Slot),
                       x ∈ (sErr ErrClass.tenant).slots → slotLive x.snd.r.st = true → x.snd.r.tenant ≠ (errEnt ErrClass.tenant).tenant)
    ∧ (ErrorsHandled_1_s.errs.block = false ∧ ctRuns ErrorsHandled_1_s = true ∧ ErrorsHandled_1_s.errs.handling = some 7#32) := by
  repeat' apply And.intro
  all_goals
    first
    | decide +kernel
    | exact plain_of (by decide +kernel)
    | exact ready_of (by decide +kernel)
    | exact nothing_of (by decide +kernel)
    | exact alive_of (by decide +kernel)
    | exact event_of (by decide +kernel)
    | exact warm_of (by decide +kernel)
    | exact stays_of (by decide +kernel)
    | rfl
    | exact trivial
    | exact upto_of (by decide +kernel)
    | exact upto2_of (by decide +kernel)
    | exact listed_of (by decide +kernel)
    | exact ⟨15, by decide +kernel, by decide +kernel, by decide +kernel⟩
    | exact held_of (by decide +kernel)
    | exact halves_of (by decide +kernel)
    | exact fun n h => nomatch h

/-- A witness of the premises of `Obligations.PauseImages`, clause by clause. -/
theorem meets_PauseImages :
    (windowOpen (drained id) = true ∧
       let k := (0#16).toNat;
       pauseDrained (drained id) k = true)
    ∧ (windowOpen (imgOwned (drained id)) = true ∧
       let k := (0#16).toNat;
       pauseDrained (imgOwned (drained id)) k = true)
    ∧ (windowOpen big70 = true ∧
       let k := (0#16).toNat;
       pauseDrained big70 k = true)
    ∧ (windowOpen owned = true ∧
       let k := (0#16).toNat;
       let x := slotOf owned k;
       x.r.st = SlotSt.paused ∧ x.r.sub = 1 ∧ x.w.pause.chain = [] ∧ x.w.pause.ioWait = true)
    ∧ (windowOpen PauseImages_2_s = true ∧
       let k := (0#16).toNat;
       let x := slotOf PauseImages_2_s k;
       x.w.pause.chain = [0, 1] ∧ x.r.st = SlotSt.paused ∧ x.r.sub = 1)
    ∧ (windowOpen fetching = true ∧
       let k := (0#16).toNat;
       let x := slotOf fetching k;
       x.w.pause.fetch = true ∧ slotLive x.r.st = true ∧ fetchImage fetching k = none ∧ x.w.fillFrom ≠ some (k, x.r.sgen))
    ∧ (windowOpen refetch = true ∧
       let k := (0#16).toNat;
       let x := slotOf refetch k;
       x.w.pause.fetch = true ∧
         slotLive x.r.st = true ∧ fetchImage refetch k = some ((fetchImage refetch (0#16).toNat).getD []) ∧ x.w.maskPos = []) := by
  repeat' apply And.intro
  all_goals
    first
    | exact some_of (o := fetchImage _ _) (by decide +kernel)
    | decide +kernel
    | exact plain_of (by decide +kernel)
    | exact ready_of (by decide +kernel)
    | exact nothing_of (by decide +kernel)
    | exact alive_of (by decide +kernel)
    | exact event_of (by decide +kernel)
    | exact warm_of (by decide +kernel)
    | exact stays_of (by decide +kernel)
    | rfl
    | exact trivial
    | exact upto_of (by decide +kernel)
    | exact upto2_of (by decide +kernel)
    | exact listed_of (by decide +kernel)
    | exact ⟨15, by decide +kernel, by decide +kernel, by decide +kernel⟩
    | exact held_of (by decide +kernel)
    | exact halves_of (by decide +kernel)
    | exact fun n h => nomatch h

/-- A witness of the premises of `Obligations.RegisterWrites`, clause by clause. -/
theorem meets_RegisterWrites :
    (avail hosted (BitVec.toNat (ra 68719476736)) = Avail.access ∨ avail hosted (BitVec.toNat (ra 68719476736)) = Avail.notReady)
    ∧ (avail sHeldR (BitVec.toNat (ra 196616)) = Avail.held)
    ∧ (servedAt hosted (ra 196616) RegBlock.turns 8)
    ∧ (servedAt hosted (ra 8) RegBlock.ident 8)
    ∧ (servedAt sSeat (ra 135168) (RegBlock.req Half.B) 0)
    ∧ (servedAt hosted (ra 135176) (RegBlock.req Half.B) 8)
    ∧ (servedAt sSeat (ra 131080) (RegBlock.req Half.A) 8)
    ∧ (servedAt hosted (ra 196616) RegBlock.turns 8)
    ∧ (servedAt hosted (ra 196632) RegBlock.turns 24)
    ∧ (servedAt hosted (ra 196632) RegBlock.turns 24)
    ∧ (servedAt hosted (ra 196640) RegBlock.turns 32)
    ∧ (servedAt hosted (ra 196648) RegBlock.turns 40)
    ∧ (servedAt hosted (ra 196656) RegBlock.turns 48)
    ∧ (servedAt sSeat (ra 196688) RegBlock.turns 80)
    ∧ (servedAt hosted (ra 196664) RegBlock.turns 56 ∧ fld (18446744069414584329#64) 2 2 ≠ 3 ∧ fld (18446744069414584329#64) 0 2 < 2)
    ∧ (servedAt hosted (ra 196664) RegBlock.turns 56 ∧ (fld (18446744069414584333#64) 2 2 = 3 ∨ 2 ≤ fld (18446744069414584333#64) 0 2))
    ∧ (servedAt sSeat (ra 262144) RegBlock.window 0)
    ∧ (servedAt sSeat (ra 262152) RegBlock.window 8)
    ∧ (servedAt hosted (ra 262160) RegBlock.window 16)
    ∧ (servedAt sSeat (ra 262160) RegBlock.window 16)
    ∧ (servedAt hosted (ra 262168) RegBlock.window 24)
    ∧ (servedAt sSeat (ra 262176) RegBlock.window 32)
    ∧ (servedAt sSeat (ra 262176) RegBlock.window 32)
    ∧ (servedAt hosted (ra 262184) RegBlock.window 40)
    ∧ (3 < 4 ∧ servedAt hosted (ra 262424) RegBlock.window (256 + 8 * 3))
    ∧ (31 < 32 ∧ servedAt hosted (ra 328184) RegBlock.ports (256 + 8 * 31))
    ∧ (servedAt hosted (ra 393232) RegBlock.group 16)
    ∧ (7 < 8 ∧ servedAt RegisterWrites_23_s (ra 393336) RegBlock.group (64 + 8 * 7))
    ∧ (servedAt sSeat (ra 393344) RegBlock.group 128)
    ∧ (servedAt sSeat (ra 393352) RegBlock.group 136)
    ∧ (servedAt hosted (ra 393360) RegBlock.group 144)
    ∧ (servedAt hosted (ra 393368) RegBlock.group 152)
    ∧ (servedAt hosted (ra 393480) RegBlock.group 264)
    ∧ (servedAt hosted (ra 458752) RegBlock.clocks 0)
    ∧ (servedAt hosted (ra 458776) RegBlock.clocks 24)
    ∧ (servedAt hosted (ra 458784) RegBlock.clocks 32)
    ∧ (servedAt hosted (ra 458792) RegBlock.clocks 40)
    ∧ (servedAt hosted (ra 458800) RegBlock.clocks 48)
    ∧ (servedAt hosted (ra 458816) RegBlock.clocks 64)
    ∧ (servedAt RegisterWrites_35_s (ra 458840) RegBlock.clocks 88)
    ∧ (servedAt sSeat (ra 459016) RegBlock.clocks 264)
    ∧ (servedAt hosted (ra 524288) RegBlock.errs 0)
    ∧ (servedAt hosted (ra 524304) RegBlock.errs 16)
    ∧ (servedAt hosted (ra 524312) RegBlock.errs 24)
    ∧ (servedAt hosted (ra 589848) RegBlock.startup 24)
    ∧ (servedAt hosted (ra 589864) RegBlock.startup 40)
    ∧ (servedAt hosted (ra 589888) RegBlock.startup 64)
    ∧ (servedAt RegisterWrites_43_s (ra (4294967296 + 32 + 4096)) (RegBlock.tile 1) 32)
    ∧ (servedAt hosted (ra (4294967296 + 48 + 4096)) (RegBlock.tile 1) 48)
    ∧ (servedAt hosted (ra (4294967296 + 128 + 4096)) (RegBlock.tile 1) 128)
    ∧ (servedAt RegisterWrites_46_s (ra 524296) RegBlock.errs 8)
    ∧ (servedAt RegisterWrites_47_s (ra (4294967296 + 24 + 4096)) (RegBlock.tile 1) 24) := by
  repeat' apply And.intro
  all_goals
    first
    | decide +kernel
    | exact plain_of (by decide +kernel)
    | exact ready_of (by decide +kernel)
    | exact nothing_of (by decide +kernel)
    | exact alive_of (by decide +kernel)
    | exact event_of (by decide +kernel)
    | exact warm_of (by decide +kernel)
    | exact stays_of (by decide +kernel)
    | rfl
    | exact trivial
    | exact upto_of (by decide +kernel)
    | exact upto2_of (by decide +kernel)
    | exact listed_of (by decide +kernel)
    | exact ⟨15, by decide +kernel, by decide +kernel, by decide +kernel⟩
    | exact held_of (by decide +kernel)
    | exact halves_of (by decide +kernel)
    | exact fun n h => nomatch h


/-- The state a step can reach, where it does not stop. -/
def goes (o : Host.Outcome State Fault Refusal) : Bool :=
  match o with
  | .next _ => true
  | _ => false

theorem next_of {o : Host.Outcome State Fault Refusal} (h : goes o = true) : ∃ s, o = .next s := by
  cases o with
  | next s => exact ⟨s, rfl⟩
  | fault f => cases h
  | refused r => cases h

/-- A witness of the premises of `Obligations.StepsKeepMemoryCanonical`: memory that holds bytes, and a step that moves them. -/
theorem meets_StepsKeepMemoryCanonical :
    CanonicalMemory { sLoad with pending := [.load 0 wLoad] } ∧ ∃ s, step { sLoad with pending := [.load 0 wLoad] } = .next s :=
  ⟨(by decide +kernel : Memory.wf sLoad.mem), next_of (by decide +kernel)⟩

/-- A witness of the premise of `Obligations.StepsKeepFuses`: the end of the fuse load. -/
theorem meets_StepsKeepFuses : ∃ s, step { off .fuse with pending := [.startupPhaseEnd] } = .next s := next_of (by decide +kernel)

/-- Witnesses of the premises of `Obligations.QueueAndTime`. -/
theorem meets_QueueAndTime : (∃ s, exec .turnStall hosted = .next s) ∧ hosted.pending = [] := ⟨next_of (by decide +kernel), rfl⟩

/-- A slot of whose drained pause the image is to be written. -/
def drainedOwned : State :=
  modSlot (imgOwned (drained id)) 0 fun y =>
    { y with r := { y.r with sub := 1 }, w := { y.w with pause := { y.w.pause with ioWait := false, chain := [] } } }

/-- The premises inside `Obligations.PauseImages`: the buffers that an image takes, as the slot drains and as they return. -/
theorem meets_PauseImages_written :
    (pauseDrained (imgOwned (drained id)) 0 = true ∧ 64 < imgSize drainedOwned
      ∧ (chunks (max 1 (imgSize drainedOwned - 64)) (pauseImage drainedOwned 0)).length ≤ (imgFree drainedOwned).length
      ∧ ∀ b, alive drainedOwned (winAddr drainedOwned (imgOffset drainedOwned b)) (imgSize drainedOwned))
    ∧ (64 < imgSize owned ∧ (chunks (max 1 (imgSize owned - 64)) (pauseImage owned 0)).length ≤ (imgFree owned).length
      ∧ ∀ b, alive owned (winAddr owned (imgOffset owned b)) (imgSize owned)) :=
  ⟨⟨by decide +kernel, by decide +kernel, by decide +kernel, fun _ => alive_of (by decide +kernel)⟩,
    by decide +kernel, by decide +kernel, fun _ => alive_of (by decide +kernel)⟩

/-- A written image of two buffers. -/
def chained : State :=
  imgOwned (drained fun s => { r := { s.r with sub := 1 }, w := { s.w with steady := true, pause := { s.w.pause with chain := [0, 1] } } })

/-- The premises inside `Obligations.PauseImages` about the first buffer's owner word. -/
theorem meets_PauseImages_owner :
    alive chained (winAddr chained (imgOffset chained 0) + 56) 8 ∧ (half chained .A).evDropped = 0
      ∧ bytesApart (winAddr chained (imgOffset chained 0) + 56) 8 (winAddr chained (eventOff chained .A)) 64
      ∧ entriesFor (max (slotOf chained 0).r.head (slotOf chained 0).w.runTo) ≤ 8 :=
  ⟨alive_of (by decide +kernel), by decide +kernel, by unfold bytesApart; decide +kernel, by decide +kernel⟩

/-- A slot of one position whose pause image is written, its page then overwritten, and that fetches the image. -/
def refetch1 : State :=
  let one (s : Slot) : Slot := { r := { s.r with sub := 1, commit := 1, head := 1 }, w := { s.w with pause := { s.w.pause with ioWait := true } } }
  { (modSlot (drained one) 0 fun x =>
      { r := { x.r with st := .ready, sub := 1 }
        w := { x.w with pause := { x.w.pause with fetch := true, imgOff := 0x200000, commit := 1, chain := [], oseq := 0, toksum := 0 } } }) with
    mem := memWrite (after (exec (.imageBufferReturned 0) (imgOwned (drained one)))).mem 0x1010000 [(9, false)] }

set_option maxRecDepth 100000 in
/-- The premises inside `Obligations.PauseImages` about a fetched image's positions. -/
theorem meets_PauseImages_filled :
    (windowOpen refetch1 = true ∧ (slotOf refetch1 0).w.pause.fetch = true ∧ slotLive (slotOf refetch1 0).r.st = true
      ∧ (fetchImage refetch1 0).isSome = true ∧ (slotOf refetch1 0).w.maskPos = [])
    ∧ fillTargets refetch1 0 = [(slotPages refetch1 0 (entriesFor 1), 1)] ∧ (slotPages refetch1 0 (entriesFor 1)).Nodup
      ∧ 0 ∉ slotPages refetch1 0 (entriesFor 1) ∧ (half refetch1 .A).evDropped = 0 ∧ memDead refetch1.mem (posAddr refetch1 0 0 + 1023) = false
      ∧ bytesApart (posAddr refetch1 0 0 + 1023) 1 (winAddr refetch1 (eventOff refetch1 .A)) 64 :=
  ⟨⟨by decide +kernel, by decide +kernel, by decide +kernel, by decide +kernel, by decide +kernel⟩, by decide +kernel, by decide +kernel,
    by decide +kernel, by decide +kernel, by decide +kernel, by unfold bytesApart; decide +kernel⟩

/-- The premises inside `Obligations.WindowReturnsAct`: a bulletin whose slot is the block's, or not, an event's entry, a mask set's entry. -/
theorem meets_WindowReturnsAct_slots :
    (ownedByBlock sBullO (bullOff sBullO .B (half sBullO .B).bullSeq) = true ∧ (half sBullO .B).bullWait = [] ∧ sBullO.modes.boxing = false
      ∧ ∀ a n, alive sBullO a n)
    ∧ (ownedByBlock sBull (bullOff sBull .B (half sBull .B).bullSeq) = false ∧ (half sBull .B).bullWait = [] ∧ sBull.modes.boxing = false)
    ∧ (ownedByBlock sBull1 (bullOff sBull1 .B bull1.seq) = true ∧ ∀ a n, alive sBull1 a n)
    ∧ (∀ a n, alive sEv a n)
    ∧ (sEvM.halfA.evDropped = 0 ∧ (∀ a n, alive sEvM a n)
      ∧ bytesApart (winAddr sEvM (msetEntry sEvM 65535)) 64 (winAddr sEvM (eventOff sEvM .A)) 64) :=
  ⟨⟨by decide +kernel, by decide +kernel, by decide +kernel, fun _ _ => alive_of (by decide +kernel)⟩,
    ⟨by decide +kernel, by decide +kernel, by decide +kernel⟩, ⟨by decide +kernel, fun _ _ => alive_of (by decide +kernel)⟩,
    fun _ _ => alive_of (by decide +kernel), by decide +kernel, fun _ _ => alive_of (by decide +kernel), by unfold bytesApart; decide +kernel⟩

/-- A NAK in an IN slot of half A, with an OUT slot of its own that reads BLOCK. -/
def nakOut : State := outOwned (item 4 0 0 false sKept)

/-- The premises inside `Obligations.ExchangeItemsHandled`: the item sent again finds an OUT slot at once. -/
theorem meets_ExchangeItemsHandled_placed :
    tileHalf (readItem nakOut inA).stile.toNat = .A ∧ (half nakOut .A).outQueue = []
      ∧ freeOut (setOwner (countPoison nakOut (winAddr nakOut inA) (64 + (readItem nakOut inA).body.length)) inA 1) .A = some 3
      ∧ ∀ a n, alive nakOut a n :=
  ⟨by decide +kernel, by decide +kernel, by decide +kernel, fun _ _ => alive_of (by decide +kernel)⟩

/-! Terms that the checks of WellFormed refuse. -/

/-- R40: group 12 of a half is no tile group. -/
theorem test_wf_row : (Instr.nop 384 0).wf = false := by decide

/-- R40: a group has indices 0 to 23. -/
theorem test_wf_column : (Instr.kernelEnd 24).wf = false := by decide

theorem test_wf_last_tile : (Instr.kernelEnd 887).wf = true := by decide

/-- R392: domains 0 to 35. -/
theorem test_wf_domain : (Instr.closeClock 36).wf = false := by decide

/-- R316: LEN has 12 bits. -/
theorem test_wf_payload : (Instr.mwr 0 0 0 (List.replicate 4096 0)).wf = false := by decide +kernel

/-- R16: registers are 8 bytes wide. -/
theorem test_wf_register : (Instr.registerWrite 0xfe0000030004 0).wf = false := by decide

/-- R43: sensors 0 to 23. -/
theorem test_wf_sensor : (Instr.boxcarsHot 24 0).wf = false := by decide

theorem test_wf_sensors : (Instr.hotClear (List.replicate 23 0)).wf = false := by decide

/-! Reset. -/

theorem test_reset_canonical : CanonicalMemory State.reset := (by decide : Memory.wf State.reset.mem)

/-- Nothing runs before the block has power: an instruction command leaves the reset state as it is. -/
theorem test_reset_idle : (after (exec (.li 0 wLi) State.reset)).tiles = [] := by decide +kernel

/-- R40: an ID of no tile. -/
theorem test_no_such_tile : exec (.nop 1023 0) State.reset = .fault (.noSuchTile 1023) := rfl

/-! Number formats, with the values of the examples in spec/05_codes_and_quantisation.md. -/

/-- R140: N4 values 3 and 10 make the byte 0xa3. -/
theorem test_pack_n4 : packCodes 0 [(0x3, false), (0xa, false)] = [(0xa3, false)] := by decide +kernel

/-- R140: N6 values 1, 2, 3 and 0x3f make the bytes 0x81, 0x30 and 0xfc. -/
theorem test_pack_n6 : packCodes 1 [(1, false), (2, false), (3, false), (0x3f, false)] = [(0x81, false), (0x30, false), (0xfc, false)] := by
  decide +kernel

/-- R146: 1025.0 converts to 1024. -/
theorem test_kf16_tie : kf16OfF32 0x44802000 = 0x5200 := by decide +kernel

/-- R146: the rounded magnitude saturates at 0x7dff. -/
theorem test_kf16_saturates : kf16OfF32 0xff7fffff = 0xfdff := by decide +kernel

/-- R148: 0.3125 as N4 with z = 8 and e = -3 is 10, the even neighbour. -/
theorem test_quantise_even : quantise 4 8 (-3) 0x3ea00000 = { code := 10, clip := false, half := false } := by decide +kernel

/-- R148: 7.96875 as N8 with z = 128 and e = -4 saturates at 255 and is half-clipped. -/
theorem test_quantise_half : quantise 8 128 (-4) 0x40ff0000 = { code := 255, clip := false, half := true } := by decide +kernel

/-- R152: 2.71875 requantises to 159. -/
theorem test_requantise : requantise 8 8 23170 19 128 0x402e0000 = { code := 159, clip := false, half := false } := by decide +kernel

/-- R152: -0.02734375 requantises to 124: -3.5 goes to its even neighbour. -/
theorem test_requantise_tie : requantise 8 8 1 1 128 0xbce00000 = { code := 124, clip := false, half := false } := by decide +kernel

/-- R147: 1 + 2 ^ (-24) is a tie and rounds to 1; infinity less infinity is the canonical NaN. -/
theorem test_add_tie : f32Add 0x3f800000 0x33800000 = 0x3f800000 := by decide +kernel

theorem test_add_nan : f32Add 0x7f800000 0xff800000 = 0x7fc00000 := by decide +kernel

/-! Check codes. -/

/-- R333: CRC-32C of the digits 1 to 9. -/
theorem test_crc32c : crc32c [0x31, 0x32, 0x33, 0x34, 0x35, 0x36, 0x37, 0x38, 0x39] = 0xe3069283 := by decide +kernel

/-! Instructions, with words of the example in spec/04_oczin_isa.md. -/

def sSetaEx : State := at1 .sq 0xc90014000000f000 (regsA [(1, 0x124000)])

/-- R108: SETA a1, PART 1, IMM 0xf000 over 0x00124000. -/
theorem test_seta_part1 : ((eng (tileOf (after (exec (.seta 0 0xc90014000000f000) sSetaEx)) 0) .sq).flight.map (·.pend))
    = [.regs [] [(1, areg 0xf00000124000)] false] := by decide +kernel

def sLoadEx : State := setTile (bytesAt 0xf00000124005 [0x77] ready) 0 (regsA [(1, 0xf00000124000), (2, 0x40000)] (tileAt .ld 1 0x0201120000400100))

/-- R115: LOAD RA 1, RS 2, LEN 0 copies 64 bytes from the staging store to scratch offset 0x40000. -/
theorem test_load_copies : memByte (after (exec (.load 0 0x0201120000400100) sLoadEx)).mem 0xf80000040005 = 0x77 := by decide +kernel

/-- R94: the completion writes s31. -/
theorem test_li_completes :
    sGet (tileOf (after (exec (.instructionComplete 0 .sq 0) (after (exec (.li 0 wLi) sLi)))) 0) 31 = reg 77 := by decide +kernel

/-- R79: and adds its signal to credit counter 1. -/
theorem test_li_signals :
    credit (tileOf (after (exec (.instructionComplete 0 .sq 0) (after (exec (.li 0 wLi) sLi)))) 0) 1 = 1 := by decide +kernel

/-- R106: sums wrap. -/
theorem test_alu_wraps : aluFn 0 0xffffffff 1 = 0 := by decide +kernel

/-- R106: the arithmetic shift keeps the sign and uses the low 5 bits of the count. -/
theorem test_alu_shift : aluFn 7 0x80000001 35 = 0xf0000000 := by decide +kernel

/-- R121: ZERO clears scratch. -/
theorem test_zero_clears : memByte (after (exec (.zero 0 wZero) sZero)).mem (scratchBase 0 + 0x80 + 5) = 0 := by decide +kernel

def wWalkEx : W64 := 0x6230345208008080

/-- The ensemble and the code rows of the example in spec/07_tree_ensembles.md. -/
def sWalkEx : State :=
  let m := wordsAt (sc0 + 0x1000) [0x4000000c00020002, 0x80000000bf000000, 0x0004000c00020002, 0x800000003e800000, 0x800000003fe00000,
    0x0008000400020002, 0x80000000c0000000, 0x800000003e000000] (wordsAt (sc0 + 0x2000) [0x500000000, 8] ready)
  setTile (wordsAt (sc0 + 0x3000) [3 + 3 * 2 ^ 16 + 77 * 2 ^ 32, 0, 0, 0, 0, 0, 0, 0, 1 * 2 ^ 16] m) 0
    { regsA [(3, 0x1000), (4, 0x2000), (5, 0x3000)] (tileAt .tr 1 wWalkEx) with credits := [(3, 1)] }

/-- R199: the two rows sum to 1.875 and -1.75. -/
theorem test_twalk_sums :
    (bankGet (tileOf (after (exec (.twalk 0 wWalkEx) sWalkEx)) 0) 0).take 3 = [reg 0x3ff00000, reg 0xbfe00000, reg 0] := by decide +kernel

/-! Requests, errors, clocks and start-up. -/

/-- R258: a TAKEBACK to 100 moves HEAD. -/
theorem test_takeback_head : (slotOf (after (exec (.takeback mTake) (asked mTake (withPages (toksS pagesR))))) 0).r.head = 100 := by
  decide +kernel

/-- R255, R259: RESIGN ends the request. -/
theorem test_resign_ends : (slotOf (after (exec (.resign mResign) (asked mResign (withPages (toksS pagesR))))) 0).r.st = .resigned := by
  decide +kernel

/-- R435: the phase after FUSE is CLOCK. -/
theorem test_fuse_phase : (after (exec .startupPhaseEnd (off .fuse))).su.phase = .clock := by decide +kernel

/-- R441: the firmware image that the key hash and the signature vouch for is authentic. -/
theorem test_firmware_authentic : (after (exec .fwAuthComplete fwReady)).su.phase = .sealWait := by decide +kernel

/-- R281, R377: a start-of-frame word that marks turn 6 opens it. -/
theorem test_mark_moves : (after (exec (.turnMark .tb0 (sofW 6)) sMark)).turns.cur = 6 := by decide +kernel

end Sys2Proof.Tests
end

section
/-! SUPPORT. Issue, case by case: what the check of R90 answers, register writes of SQ, a fault at issue, and a store past the stacks. -/

namespace Sys2Proof.Machine

/-- R90: a body whose operand bits are in order runs as it is where its own word was clean. -/
theorem checked_ok {used : Nat} {b : Body} {n : Env} {i : Nat} {w : W64} {tl : Tile} (h : operandsOk w used) (hp : n.pz = false) :
    checked used b n i w tl = b n i w tl := by
  simp only [checked, h, if_true, hp]
  rfl

/-- R90: a body that faults with 0x11 by itself answers the same where reserved bits are set. -/
theorem checked_illegal {used : Nat} {b : Body} {n : Env} {i : Nat} {w : W64} {tl : Tile} (hb : b n i w tl = iresFault n tl 0x11) :
    checked used b n i w tl = iresFault n tl 0x11 := by
  unfold checked
  split
  · simp only [hb]
    cases n.pz <;> rfl
  · rfl

/-- R71: the word of a plain instruction was delivered clean. -/
theorem envOf_pz {s : State} {t : BitVec 10} {e : Eng} {w : W64} {tl : Tile} (h : Plain s t e w tl) :
    (envOf s t.toNat (eng tl e)).pz = false := h.clean

@[simp] theorem sqLane_paid (tl : Tile) (w : W64) (v : W32) (pz : Bool) : sqLane (paid tl w) v pz = sqLane tl v pz := by
  simp only [sqLane, tainted_paid]

@[simp] theorem sqALane_paid (tl : Tile) (w : W64) (v : W48) (pz : Bool) : sqALane (paid tl w) v pz = sqALane tl v pz := by
  simp only [sqALane, tainted_paid]

theorem fault_paid (tl : Tile) (w : W64) : (paid tl w).fault = tl.fault := by unfold paid; split <;> rfl

/-- R88: an instruction of one engine fits the engine that its opcode names. -/
theorem fits_of_opcode {t : BitVec 10} {w : W64} {op : Nat} {b : Body} {e : Eng} (hop : wOpcode w = op) (he : engOf (op / 32) = some e) :
    EngineInstr.fits { tile := t, word := w, every := false, op := op, body := b } e :=
  ⟨by rw [hop]; exact he, hop⟩

/-- R94: a plain SQ instruction that leaves only register writes for its completion issues, and nothing else follows. -/
theorem exec_sqRegs {i : Instr} {s : State} {t : BitVec 10} {w : W64} {tl : Tile} {op used : Nat} {b : Body}
    {p : List (BitVec 5 × Lane)} {a : List (BitVec 4 × ALane)}
    (hi : engineInstr i = some { tile := t, word := w, every := false, op := op, body := checked used b })
    (he : engOf (op / 32) = some .sq) (hop : wOpcode w = op) (h : Plain s t .sq w tl) (hs : staysIn .sq w (eng tl .sq) none)
    (ho : operandsOk w used)
    (hb : b (envOf s t.toNat (eng tl .sq)) (iterOf (eng tl .sq)) w (paid tl w)
      = iresRegs (envOf s t.toNat (eng tl .sq)) (paid tl w) p a) :
    exec i s = .next (issuedWith s t .sq w tl (paid tl w) s.mem (.regs p a false)) := by
  refine exec_done hi (fits_of_opcode hop he) h.toReady (paid tl w) (.regs p a false) none none ?_ trivial (eng_paid ..) rfl hs
  exact (checked_ok ho (envOf_pz h)).trans hb

/-- R82: an instruction that faults as it issues records its fault, and it alone. -/
theorem issueWord_fault {s : State} {t : BitVec 10} {e : Eng} {w : W64} {tl : Tile} (h : Ready s t e w tl) {b : Body} {code : Nat}
    (hr : answerOf s t e w tl b = iresFault (envOf s t.toNat (eng tl e)) (paid tl w) code) :
    issueWord s t.toNat e w b tl = tileFault (setTile s t.toNat (paid tl w)) t.toNat code 0 (engNum e) (eng tl e).pos := by
  have hroom := h.room
  have hcredit : (waits w && decide ((credit tl (waitCtr w)).toNat ≤ servedFirst tl e (waitCtr w))) = false := by
    cases hw : waits w
    · rfl
    · simpa using h.credit hw
  simp only [answerOf] at hr
  unfold issueWord
  simp only [hr, hroom, hcredit, Bool.not_true, Bool.false_eq_true, or_self, if_false]
  rfl

/-- Stopping every tile of a map keeps their fault records and starts none. -/
theorem smGet_stopped (m : SMap Tile) (d : Tile) (k : Nat) :
    (smGet d (m.map fun p => (p.1, { p.2 with stopped := true })) k).fault = (smGet d m k).fault
      ∧ ((smGet d m k).stopped = true → (smGet d (m.map fun p => (p.1, { p.2 with stopped := true })) k).stopped = true) := by
  induction m with
  | nil => exact ⟨rfl, id⟩
  | cons p m ih =>
    simp only [List.map_cons, smGet]
    split
    · exact ⟨rfl, fun _ => rfl⟩
    · exact ih

/-- R407: a detection changes no tile's fault record and starts no stopped tile. -/
theorem DetectFrame.tile_fault {s s' : State} (h : DetectFrame s s') (t : Nat) :
    (tileOf s' t).fault = (tileOf s t).fault ∧ ((tileOf s t).stopped = true → (tileOf s' t).stopped = true) := by
  unfold tileOf
  rcases h.tiles with e | e <;> rw [e]
  · exact ⟨rfl, id⟩
  · exact smGet_stopped ..

theorem recordFault_stopped (tl : Tile) (code q n idx : Nat) : (recordFault tl code q n idx).stopped = true := by
  unfold recordFault; split <;> rfl

/-- R82, R407: past the fault's record, a tile's fault changes only what its report can. -/
theorem tileFault_frame (s : State) (t code q n idx : Nat) :
    DetectFrame (setTile s t (recordFault (tileOf s t) code q n idx)) (tileFault s t code q n idx) := by
  unfold tileFault
  by_cases hw : (tileOf s t).stopped = true
  · simp only [hw, if_true]
    exact (EventFrame.refl _).detect
  · simp only [hw]
    exact detect_frame ..

/-- R82, R87: a tile's fault stops it and stands in its record, whether or not the fault is reported. -/
theorem tileFault_tile (s : State) (t code q n idx : Nat) :
    (tileOf (tileFault s t code q n idx) t).stopped = true
      ∧ (tileOf (tileFault s t code q n idx) t).fault = (recordFault (tileOf s t) code q n idx).fault := by
  obtain ⟨hfault, hstop⟩ := (tileFault_frame s t code q n idx).tile_fault t
  rw [tileOf_setTile_same] at hfault hstop
  exact ⟨hstop (recordFault_stopped ..), hfault⟩

/-- R87: the record of a tile's first fault names its code and its engine. -/
theorem recordFault_first {tl : Tile} {code n : Nat} (q idx : Nat) (hv : bit tl.fault 63 = false) (hc : code < 256) (hn : n < 8) :
    bit (recordFault tl code q n idx).fault 63 = true ∧ fld (recordFault tl code q n idx).fault 48 8 = code
      ∧ fld (recordFault tl code q n idx).fault 40 3 = n := by
  unfold recordFault
  simp only [hv, Bool.false_eq_true, if_false]
  generalize (if code = 1 ∨ code = 2 then q else 0) = q'
  generalize (if n = 7 then 0 else idx) = k
  simp only [bit, fld, mk64, put, BitVec.toNat_ofNat, Nat.shiftLeft_eq, Nat.shiftRight_eq_div_pow, beq_iff_eq]
  omega

/-- R82, R87: a ready instruction whose work faults at issue stops its tile, and the fault stands in a TILE_FAULT that held none. -/
theorem exec_fault {i : Instr} {e : Eng} {s : State} {t : BitVec 10} {w : W64} {tl : Tile} {op code : Nat} {b : Body}
    (hi : engineInstr i = some { tile := t, word := w, every := false, op := op, body := b }) (he : engOf (op / 32) = some e)
    (hop : wOpcode w = op) (h : Ready s t e w tl)
    (hb : b (envOf s t.toNat (eng tl e)) (iterOf (eng tl e)) w (paid tl w) = iresFault (envOf s t.toNat (eng tl e)) (paid tl w) code)
    (hv : bit tl.fault 63 = false) (hc : code < 256) :
    ∃ s', exec i s = .next s' ∧ (tileOf s' t.toNat).stopped = true ∧ bit (tileOf s' t.toNat).fault 63 = true
      ∧ fld (tileOf s' t.toNat).fault 48 8 = code ∧ fld (tileOf s' t.toNat).fault 40 3 = engNum e := by
  refine ⟨_, exec_ready hi (fits_of_opcode hop he) h, ?_⟩
  rw [issueWord_fault h hb]
  obtain ⟨hstop, hfault⟩ := tileFault_tile (setTile s t.toNat (paid tl w)) t.toNat code 0 (engNum e) (eng tl e).pos
  rw [tileOf_setTile_same] at hfault
  rw [hfault]
  exact ⟨hstop, recordFault_first _ _ (by rw [fault_paid]; exact hv) hc (by cases e <;> decide)⟩

/-- R346: accesses past the stacks meet no port that retrains. -/
theorem portWaits_offStack {s : State} {l : List (Nat × Nat)} (h : ∀ p ∈ l, stackEnd ≤ p.1) : l.any (portWaits s) = false := by
  rw [List.any_eq_false]
  intro p hp
  simp only [portWaits, Nat.not_lt.mpr (h p hp), decide_false, Bool.false_and, Bool.false_eq_true, not_false_eq_true]

/-- R372: accesses past the stacks move no stack bytes. -/
theorem addBytes_offStack {s : State} {t : Nat} {l : List (Nat × Nat)} (h : ∀ p ∈ l, stackEnd ≤ p.1) : addBytes s t l = s := by
  have hnone : l.filter (fun r => r.1 < stackEnd) = [] := by
    rw [List.filter_eq_nil_iff]
    intro p hp
    simp only [Nat.not_lt.mpr (h p hp), decide_false, Bool.false_eq_true, not_false_eq_true]
  simp only [addBytes, hnone, List.map_nil, List.sum_nil, if_true]

/-- A ready instruction of an engine other than SQ that only writes memory past the stacks issues, and nothing else follows. -/
theorem exec_storesOffStack {i : Instr} {e : Eng} {s : State} {t : BitVec 10} {w : W64} {tl : Tile} {op : Nat} {b : Body} {m : Mem}
    {l : List (Nat × Nat)} (hi : engineInstr i = some { tile := t, word := w, every := false, op := op, body := b })
    (he : engOf (op / 32) = some e) (hsq : e ≠ .sq) (hop : wOpcode w = op) (h : Ready s t e w tl)
    (hb : b (envOf s t.toNat (eng tl e)) (iterOf (eng tl e)) w (paid tl w)
      = { iresDone (envOf s t.toNat (eng tl e)) (paid tl w) with mem := m, touch := l })
    (hl : ∀ p ∈ l, stackEnd ≤ p.1) :
    exec i s = .next (issuedWith s t e w tl (paid tl w) m .none) := by
  rw [exec_ready hi (fits_of_opcode hop he) h, issueWord_next h _ _ hb.symm rfl (portWaits_offStack hl) rfl,
    runOut_stays fun c => absurd c hsq]
  have hread : singlesOf s.mem [] = [] := rfl
  simp only [afterIssue, iresDone, hread, List.foldl_nil, addOverruns, addUe, addBytes_offStack hl, sendIssued, eng_paid]
  rfl

end Sys2Proof.Machine
end

section
/-! SUPPORT. Memory past the stacks: its poison units, and what a write of clean whole words to it leaves. -/

namespace Sys2Proof.Machine

theorem smGet_putPoison_other {m : Mem} {a : Nat} {l : List PByte} {p : SMap Bool} {bs : List Nat} {b : Nat} (h : b ∉ bs) :
    smGet false (putPoison m a l p bs) b = smGet false p b := by
  induction bs generalizing p with
  | nil => rfl
  | cons c bs ih =>
    obtain ⟨hc, hbs⟩ := List.ne_and_not_mem_of_not_mem_cons h
    unfold putPoison
    rw [ih hbs]
    split
    · rfl
    · exact smGet_smSet_other _ _ _ _ _ hc

theorem smGet_putPoison_mem {m : Mem} {a : Nat} {l : List PByte} {p : SMap Bool} {bs : List Nat} {b : Nat} (h : b ∈ bs)
    (hd : memDead m b = false) : smGet false (putPoison m a l p bs) b = unitPz m a l b := by
  induction bs generalizing p with
  | nil => exact absurd h List.not_mem_nil
  | cons c bs ih =>
    unfold putPoison
    by_cases hb : b ∈ bs
    · exact ih hb
    · obtain rfl := (List.mem_cons.mp h).resolve_right hb
      rw [smGet_putPoison_other hb, hd]
      simp only [Bool.false_eq_true, if_false, smGet_smSet_same]

/-- A write leaves the poison of every byte outside the units it touches. -/
theorem memPz_memWrite_other {m : Mem} {a : Nat} {l : List PByte} {x : Nat} (h : unitBase x ∉ unitsOf a l.length) :
    memPz (memWrite m a l) x = memPz m x := by
  simp only [memPz, memDead_memWrite]
  rw [show (memWrite m a l).poison = putPoison m a l m.poison (unitsOf a l.length) from rfl, smGet_putPoison_other h]

/-- A byte whose unit a write touches is poisoned as the unit is, unless a port has FAILED (R346). -/
theorem memPz_memWrite_mem {m : Mem} {a : Nat} {l : List PByte} {x : Nat} (h : unitBase x ∈ unitsOf a l.length)
    (hx : memDead m x = false) (hd : memDead m (unitBase x) = false) :
    memPz (memWrite m a l) x = unitPz m a l (unitBase x) := by
  simp only [memPz, memDead_memWrite, hx, Bool.false_or]
  exact smGet_putPoison_mem h hd

/-- Nothing past the stacks lies behind a memory port (R341, R346). -/
theorem memDead_offStack (m : Mem) {a : Nat} (h : stackEnd ≤ a) : memDead m a = false := by
  simp only [memDead, Nat.not_lt.mpr h, decide_false, Bool.false_and]

theorem unitSize_offStack {a : Nat} (h : stackEnd ≤ a) : unitSize a = 8 := if_neg (Nat.not_lt.mpr h)

theorem unitBase_offStack {a : Nat} (h : stackEnd ≤ a) : unitBase a = a / 8 * 8 := by
  rw [unitBase, unitSize_offStack h]

/-- A poison unit starts no later than each of its bytes. -/
theorem unitBase_le (a : Nat) : unitBase a ≤ a := Nat.div_mul_le_self ..

/-- The units of an aligned range past the stacks are the 64-bit words in it (R465). -/
theorem mem_unitsOf_aligned {a n b : Nat} (hs : stackEnd ≤ a) (ha : a % 8 = 0) (hn : n % 8 = 0) :
    b ∈ unitsOf a n ↔ b % 8 = 0 ∧ a ≤ b ∧ b + 8 ≤ a + n := by
  unfold unitsOf
  split
  · simp only [List.not_mem_nil, false_iff]
    omega
  · simp only [tab, unitSize_offStack hs, List.mem_map, List.mem_range]
    constructor
    · rintro ⟨i, hi, rfl⟩
      omega
    · rintro ⟨h8, hlo, hhi⟩
      exact ⟨b / 8 - a / 8, by omega, by omega⟩

/-- The units of an aligned range past the stacks that hold byte `x`: those of its own bytes. -/
theorem unitBase_mem_unitsOf_aligned {a n x : Nat} (hs : stackEnd ≤ a) (ha : a % 8 = 0) (hn : n % 8 = 0) :
    unitBase x ∈ unitsOf a n ↔ a ≤ x ∧ x < a + n := by
  rw [mem_unitsOf_aligned hs ha hn]
  by_cases hx : stackEnd ≤ x
  · rw [unitBase_offStack hx]
    omega
  · have := unitBase_le x
    omega

/-- R63: a store of whole words past the stacks reads none to merge. -/
theorem mergedUnits_aligned {a n : Nat} (hs : stackEnd ≤ a) (ha : a % 8 = 0) (hn : n % 8 = 0) : mergedUnits a n = [] := by
  rw [mergedUnits, if_neg (Nat.not_lt.mpr hs), List.filter_eq_nil_iff]
  intro b hb
  obtain ⟨-, hlo, hhi⟩ := (mem_unitsOf_aligned hs ha hn).mp hb
  simp only [Bool.or_eq_true, decide_eq_true_eq]
  omega

/-- No part of a run of clean bytes is poisoned. -/
theorem any_replicate_clean (n i j : Nat) (x : Byte) : (((List.replicate n (x, false)).drop i).take j).any (·.2) = false := by
  simp only [List.drop_replicate, List.take_replicate, List.any_replicate, ite_self]

/-- R407: a store of clean bytes poisons nothing. -/
theorem storedBad_clean (a n : Nat) (x : Byte) : storedBad a (List.replicate n (x, false)) = [] := by
  unfold storedBad
  split
  · rfl
  · rw [List.filter_eq_nil_iff]
    intro b _
    rw [any_replicate_clean]
    exact Bool.false_ne_true

/-- A store of clean whole words past the stacks answers the memory written and the range it touched, and nothing else. -/
theorem iresStore_clean {r : IRes} {a n : Nat} (x : Byte) (hs : stackEnd ≤ a) (ha : a % 8 = 0) (hn : n % 8 = 0) :
    iresStore r a (List.replicate n (x, false))
      = { r with mem := memWrite r.mem a (List.replicate n (x, false)), touch := r.touch ++ [(a, n)] } := by
  simp only [iresStore, iresMerge, List.length_replicate, mergedUnits_aligned hs ha hn, storedBad_clean, List.append_nil]

/-- R63, R465: clean bytes written over whole words past the stacks read back, and the words hold no poison. -/
theorem memWrite_clean_same {m : Mem} {a n j : Nat} (x : Byte) (hs : stackEnd ≤ a) (ha : a % 8 = 0) (hn : n % 8 = 0) (hj : j < n) :
    memByte (memWrite m a (List.replicate n (x, false))) (a + j) = x
      ∧ memPz (memWrite m a (List.replicate n (x, false))) (a + j) = false := by
  have hx : stackEnd ≤ a + j := by omega
  have hmem : unitBase (a + j) ∈ unitsOf a n := (unitBase_mem_unitsOf_aligned hs ha hn).mpr ⟨by omega, by omega⟩
  obtain ⟨-, hlo, hhi⟩ := (mem_unitsOf_aligned hs ha hn).mp hmem
  have hunit : stackEnd ≤ unitBase (a + j) := Nat.le_trans hs hlo
  constructor
  · rw [memByte_memWrite_same _ _ _ _ (by rw [List.length_replicate]; exact hj) (memDead_offStack m hx), List.getElem_replicate]
  · rw [memPz_memWrite_mem (by rw [List.length_replicate]; exact hmem) (memDead_offStack m hx) (memDead_offStack m hunit), unitPz,
      any_replicate_clean, unitSize_offStack hunit, List.length_replicate]
    simp only [hlo, hhi, decide_true, Bool.and_self, Bool.not_true, Bool.and_false, Bool.or_self]

/-- Whole words written past the stacks leave the data and the poison of every other byte. -/
theorem memWrite_aligned_other {m : Mem} {a x : Nat} {l : List PByte} (hs : stackEnd ≤ a) (ha : a % 8 = 0) (hn : l.length % 8 = 0)
    (h : x < a ∨ a + l.length ≤ x) : memByte (memWrite m a l) x = memByte m x ∧ memPz (memWrite m a l) x = memPz m x := by
  refine ⟨memByte_memWrite_other m a l x h, memPz_memWrite_other ?_⟩
  rw [unitBase_mem_unitsOf_aligned hs ha hn]
  omega

/-- R41, R341: scratch lies past the stacks. -/
theorem stackEnd_le_scratch (t off : Nat) : stackEnd ≤ scratchBase t + off := by
  simp only [stackEnd, scratchBase, tileWindows]
  omega

/-- R41: an aligned scratch offset names a whole word of block memory. -/
theorem scratch_aligned (t : Nat) {off : Nat} (h : off % 64 = 0) : (scratchBase t + off) % 8 = 0 := by
  simp only [scratchBase, tileWindows, windowSize]
  omega

end Sys2Proof.Machine
end

section
/-! The SQ register instructions: R106 and R108. -/

namespace Sys2Proof.Machine

/-- The table of FN of R106, in arithmetic. -/
def aluTable (fn : Nat) (x y : W32) : W32 :=
  let n := y.toNat % 32
  if fn = 0 then x + y
  else if fn = 1 then x - y
  else if fn = 2 then x &&& y
  else if fn = 3 then x ||| y
  else if fn = 4 then x ^^^ y
  else if fn = 5 then BitVec.ofNat 32 (x.toNat * 2 ^ n)
  else if fn = 6 then BitVec.ofNat 32 (x.toNat / 2 ^ n)
  else if fn = 7 then BitVec.ofInt 32 (x.toInt / (2 ^ n : Nat))
  else if fn = 8 then if x.toInt ≤ y.toInt then x else y
  else if fn = 9 then if y.toInt ≤ x.toInt then x else y
  else if fn = 10 then if x.toNat ≤ y.toNat then x else y
  else if fn = 11 then if y.toNat ≤ x.toNat then x else y
  else if fn = 12 then x * y
  else if fn = 13 then if x.toInt < y.toInt then 1 else 0
  else if fn = 14 then if x.toNat < y.toNat then 1 else 0
  else if x = y then 1 else 0

/-- The lesser of two words by a key that tells them apart is the same by `<` and by `≤`. -/
theorem ite_lt_eq_ite_le (k : W32 → Int) (hk : ∀ x y, k x = k y → x = y) (x y : W32) :
    (if k x < k y then x else y) = if k x ≤ k y then x else y := by
  rcases Int.lt_trichotomy (k x) (k y) with h | h | h
  · rw [if_pos h, if_pos (Int.le_of_lt h)]
  · rw [hk x y h, ite_self, ite_self]
  · rw [if_neg (Int.not_lt.mpr (Int.le_of_lt h)), if_neg (Int.not_le.mpr h)]

/-- R106: the model's function is the one of the table, FN by FN. -/
theorem aluFn_eq_aluTable (fn : Nat) (x y : W32) : aluFn fn x y = aluTable fn x y := by
  match fn with
  | 0 | 1 | 2 | 3 | 4 | 12 => rfl
  | 5 =>
    show x <<< (y.toNat % 32) = BitVec.ofNat 32 (x.toNat * 2 ^ (y.toNat % 32))
    rw [← Nat.shiftLeft_eq]
    rfl
  | 6 =>
    show x >>> (y.toNat % 32) = BitVec.ofNat 32 (x.toNat / 2 ^ (y.toNat % 32))
    rw [← Nat.shiftRight_eq_div_pow, ← BitVec.toNat_ushiftRight, BitVec.ofNat_toNat, BitVec.setWidth_eq]
  | 7 =>
    show x.sshiftRight (y.toNat % 32) = BitVec.ofInt 32 (x.toInt / (2 ^ (y.toNat % 32) : Nat))
    rw [← Int.shiftRight_eq_div_pow]
    rfl
  | 8 =>
    show (if x.slt y then x else y) = if x.toInt ≤ y.toInt then x else y
    simp only [BitVec.slt_iff_toInt_lt]
    exact ite_lt_eq_ite_le _ (fun _ _ => BitVec.eq_of_toInt_eq) x y
  | 9 =>
    show (if x.slt y then y else x) = if y.toInt ≤ x.toInt then x else y
    simp only [BitVec.slt_iff_toInt_lt, ← Int.not_lt, ite_not]
  | 10 =>
    show (if x.ult y then x else y) = if x.toNat ≤ y.toNat then x else y
    simp only [BitVec.ult_iff_lt, BitVec.lt_def, ← Int.ofNat_lt, ← Int.ofNat_le]
    exact ite_lt_eq_ite_le (fun v => (v.toNat : Int)) (fun _ _ h => BitVec.eq_of_toNat_eq (Int.ofNat.inj h)) x y
  | 11 =>
    show (if x.ult y then y else x) = if y.toNat ≤ x.toNat then x else y
    simp only [BitVec.ult_iff_lt, BitVec.lt_def, ← Nat.not_lt, ite_not]
  | 13 =>
    show (if x.slt y then (1 : W32) else 0) = if x.toInt < y.toInt then 1 else 0
    simp only [BitVec.slt_iff_toInt_lt]
  | 14 =>
    show (if x.ult y then (1 : W32) else 0) = if x.toNat < y.toNat then 1 else 0
    simp only [BitVec.ult_iff_lt, BitVec.lt_def]
  | 15 => rfl
  | n + 16 => simp [aluFn, aluTable]

/-- Settles O7: the three bodies leave one register write, and FN's function is the one of R106's table. -/
theorem aluComputes : Obligations.AluComputes := by
  unfold Obligations.AluComputes
  intro s t w tl hp hs out sv f x y
  have hfn (fn : Nat) (a b : W32) : f fn a b = aluFn fn a b := (aluFn_eq_aluTable fn a b).symm
  refine ⟨fun hop ho => ?_, fun hop ho => ?_, fun hop ho => ?_⟩
  · refine exec_sqRegs (i := .li t w) rfl rfl hop hp hs ho ?_
    simp only [sqLane_paid]
    rfl
  · rw [hfn]
    refine exec_sqRegs (i := .alu t w) rfl rfl hop hp hs ho ?_
    simp only [sqLane_paid, sGet_paid]
    rfl
  · rw [hfn]
    refine exec_sqRegs (i := .alui t w) rfl rfl hop hp hs ho ?_
    simp only [sqLane_paid, sGet_paid]
    rfl

/-- R108: a sum modulo 2⁴⁸ with a signed addend. -/
theorem add_ofInt (x : W48) (d : Int) : x + BitVec.ofInt 48 d = BitVec.ofInt 48 (x.toNat + d) := by
  rw [BitVec.ofInt_add, BitVec.ofInt_natCast, BitVec.ofNat_toNat, BitVec.setWidth_eq]

/-- R108: SETA of a PART it does not have, or of a high part of more than 16 bits, is an illegal operand. -/
theorem bodySeta_illegal (n : Env) (i : Nat) (w : W64) (tl : Tile) (h : 2 ≤ fld w 42 2 ∨ (fld w 42 2 = 1 ∧ fld w 16 16 ≠ 0)) :
    bodySeta n i w tl = iresFault n tl 0x11 := by
  have h0 : ¬ fld w 42 2 = 0 := by omega
  have h1 : ¬ (fld w 42 2 = 1 ∧ fld w 16 16 = 0) := by omega
  exact checked_illegal (by simp only [h0, h1, if_false])

/-- Settles O8: each body leaves one register write, and SETA of an illegal PART faults at issue. -/
theorem aRegistersCompute : Obligations.ARegistersCompute := by
  unfold Obligations.ARegistersCompute
  intro s t w tl hp out sv av b d c
  refine ⟨fun hs => ⟨fun hop ho h0 => ?_, fun hop ho h1 hi => ?_, fun hop ho => ?_, fun hop ho => ?_, fun hop ho => ?_⟩,
    fun hop hv hbad => ?_⟩
  · refine exec_sqRegs (i := .seta t w) rfl rfl hop hp hs ho ?_
    simp only [h0, if_true, sqALane_paid]
    rfl
  · refine exec_sqRegs (i := .seta t w) rfl rfl hop hp hs ho ?_
    simp only [h1, hi, Nat.one_ne_zero, and_self, if_true, if_false, sqALane_paid, aGet_paid]
    rfl
  · refine exec_sqRegs (i := .adda t w) rfl rfl hop hp hs ho ?_
    simp only [add_ofInt, sqALane_paid, aGet_paid]
    rfl
  · refine exec_sqRegs (i := .addas t w) rfl rfl hop hp hs ho ?_
    simp only [add_ofInt, sqALane_paid, aGet_paid, sGet_paid]
    rfl
  · refine exec_sqRegs (i := .aread t w) rfl rfl hop hp hs ho ?_
    simp only [sqLane_paid, aGet_paid]
    rfl
  · exact exec_fault (i := .seta t w) rfl rfl hop hp.toReady (bodySeta_illegal _ _ _ _ hbad) hv (by decide)

end Sys2Proof.Machine
end

section
/-! The LD instruction ZERO: R121. -/

namespace Sys2Proof.Machine

/-- R121: where its checks hold, ZERO is a store of clean zeros over its words of scratch. -/
theorem bodyZero_clears {v : Env} {i : Nat} {w : W64} {tl : Tile} (ho : operandsOk w (mask 47 34)) (hv : v.pz = false)
    (hpz : (aGet tl (aReg w 44)).pz = false) (halign : (aGet tl (aReg w 44)).bits.toNat % 64 = 0)
    (hfit : (aGet tl (aReg w 44)).bits.toNat + (fld w 34 10 + 1) * 64 ≤ scratchSize) :
    bodyZero v i w tl =
      { iresDone v tl with
        mem := memWrite v.mem (scratchBase v.tile + (aGet tl (aReg w 44)).bits.toNat) (List.replicate ((fld w 34 10 + 1) * 64) (0, false))
        touch := [(scratchBase v.tile + (aGet tl (aReg w 44)).bits.toNat, (fld w 34 10 + 1) * 64)] } := by
  have hin : inScratch (aGet tl (aReg w 44)).bits.toNat ((fld w 34 10 + 1) * 64) = true := decide_eq_true hfit
  refine (checked_ok ho hv).trans ?_
  simp only [halign, hin, hv, hpz, ne_eq, not_true_eq_false, Bool.not_true, Bool.false_eq_true, if_false, Bool.or_self]
  exact iresStore_clean 0 (stackEnd_le_scratch ..) (scratch_aligned _ halign) (by omega)

theorem bodyZero_unaligned {v : Env} {i : Nat} {w : W64} {tl : Tile} (ho : operandsOk w (mask 47 34)) (hv : v.pz = false)
    (hodd : (aGet tl (aReg w 44)).bits.toNat % 64 ≠ 0) : bodyZero v i w tl = iresFault v tl 0x12 :=
  (checked_ok ho hv).trans (if_pos hodd)

/-- Settles O12: ZERO stores clean zeros over whole words of scratch, and faults at issue where its offset is not aligned. -/
theorem zeroClearsScratch : Obligations.ZeroClearsScratch := by
  unfold Obligations.ZeroClearsScratch
  intro s t w tl hp hop ho rs n own
  have hrs : aGet (paid tl w) (aReg w 44) = rs := aGet_paid ..
  refine ⟨fun halign hfit hclean => ?_, fun hodd hv => ?_⟩
  · have hs : stackEnd ≤ own := stackEnd_le_scratch ..
    have ha : own % 8 = 0 := scratch_aligned _ halign
    have hn : n % 8 = 0 := by omega
    refine ⟨memWrite s.mem own (List.replicate n (0, false)), ?_, fun j hj => memWrite_clean_same 0 hs ha hn hj, fun a hout => ?_⟩
    · have hbody := bodyZero_clears (v := envOf s t.toNat (eng tl .ld)) (i := iterOf (eng tl .ld)) (tl := paid tl w) ho (envOf_pz hp)
        (by rw [hrs]; exact hclean) (by rw [hrs]; exact halign) (by rw [hrs]; exact hfit)
      rw [hrs] at hbody
      exact exec_storesOffStack (i := .zero t w) rfl rfl (by decide) hop hp.toReady hbody (List.forall_mem_singleton.mpr hs)
    · have hlen : (List.replicate n ((0, false) : PByte)).length = n := List.length_replicate
      exact memWrite_aligned_other hs ha (by rw [hlen]; exact hn) (by rw [hlen]; exact hout)
  · obtain ⟨s', hx, hstop, hvalid, hcode, -⟩ := exec_fault (i := .zero t w) rfl rfl hop hp.toReady
      (bodyZero_unaligned ho (envOf_pz hp) (by rw [hrs]; exact hodd)) hv (by decide)
    exact ⟨s', hx, hstop, hvalid, hcode⟩

end Sys2Proof.Machine
end

section
/-! SUPPORT. What every step keeps, said once per function of the model: the commands that wait, the factory fuses (R57), and the memory's
canonical form; and time does not turn back (log 2). -/

namespace Sys2Proof.Machine

/-- The commands that wait and the factory fuses stand, time does not turn back, and memory in canonical form stays so. -/
structure KeptParts (q q' : List Instr) (n n' : Nat) (f f' : Fuse) (m m' : Mem) : Prop where
  pending : q' = q
  now : n ≤ n'
  fuse : { f' with valid := f.valid } = f
  wf : Memory.wf m → Memory.wf m'

/-- State `s` was reached from `s₀` by what keeps the queue, the fuses, time's order and the memory's form. It speaks of these four fields
alone: an update of any other field is invisible to it. -/
abbrev Keeps (s₀ s : State) : Prop := KeptParts s₀.pending s.pending s₀.now s.now s₀.fuse s.fuse s₀.mem s.mem

variable {s₀ s a b : State}

theorem Keeps.refl (s : State) : Keeps s s := ⟨rfl, Nat.le_refl _, rfl, id⟩

theorem Keeps.trans (h : Keeps s₀ s) (k : Keeps s a) : Keeps s₀ a :=
  ⟨k.pending.trans h.pending, Nat.le_trans h.now k.now,
    calc
      { a.fuse with valid := s₀.fuse.valid } = { ({ a.fuse with valid := s.fuse.valid } : Fuse) with valid := s₀.fuse.valid } := rfl
      _ = { s.fuse with valid := s₀.fuse.valid } := by rw [k.fuse]
      _ = s₀.fuse := h.fuse,
    fun w => k.wf (h.wf w)⟩

theorem Keeps.ite {c : Prop} {d : Decidable c} (h : Keeps s₀ a) (k : Keeps s₀ b) : Keeps s₀ (if c then a else b) := by
  split <;> assumption

theorem Keeps.foldl {α : Type} {f : State → α → State} {l : List α} (hf : ∀ s x, Keeps s₀ s → Keeps s₀ (f s x)) (k : Keeps s₀ s) :
    Keeps s₀ (l.foldl f s) := by
  induction l generalizing s with
  | nil => exact k
  | cons x l ih => exact ih (hf s x k)

/-- The fields that `Keeps` does not speak of may change at will. -/
theorem Keeps.upd {tiles slots images bseqs bwaits taken replies halfA halfB turns modes tb0 tb1 clocks pins power cal ports hosts win
    group errs su sent} (k : Keeps s₀ s) :
    Keeps s₀ { s with
      tiles := tiles, slots := slots, images := images, bseqs := bseqs, bwaits := bwaits, taken := taken, replies := replies,
      halfA := halfA, halfB := halfB, turns := turns, modes := modes, tb0 := tb0, tb1 := tb1, clocks := clocks, pins := pins,
      power := power, cal := cal, ports := ports, hosts := hosts, win := win, group := group, errs := errs, su := su, sent := sent } := k

/-- New memory, canonical where the old one is, whatever the fields that `Keeps` does not speak of. -/
theorem Keeps.mem {tiles slots images bseqs bwaits taken replies halfA halfB turns modes tb0 tb1 clocks pins power cal ports hosts win
    group errs su sent} {m : Mem}
    (k : Keeps s₀ s) (h : Memory.wf s.mem → Memory.wf m) :
    Keeps s₀ { s with
      mem := m, tiles := tiles, slots := slots, images := images, bseqs := bseqs, bwaits := bwaits, taken := taken, replies := replies,
      halfA := halfA, halfB := halfB, turns := turns, modes := modes, tb0 := tb0, tb1 := tb1, clocks := clocks, pins := pins,
      power := power, cal := cal, ports := ports, hosts := hosts, win := win, group := group, errs := errs, su := su, sent := sent } :=
  ⟨k.pending, k.now, k.fuse, fun w => h (k.wf w)⟩

end Sys2Proof.Machine
end

section
/-! SUPPORT. What the functions of Machine/Ops.lean keep. -/

namespace Sys2Proof.Machine

theorem setHalf_keeps {s₀ s : State} {h x} (k : Keeps s₀ s) : Keeps s₀ (setHalf s h x) := by
  unfold setHalf
  split
  · exact k
  · exact k

theorem setTile_keeps {s₀ s : State} {t x} (k : Keeps s₀ s) : Keeps s₀ (setTile s t x) := k

theorem setSlot_keeps {s₀ s : State} {n x} (k : Keeps s₀ s) : Keeps s₀ (setSlot s n x) := k

theorem modSlot_keeps {s₀ s : State} {n f} (k : Keeps s₀ s) : Keeps s₀ (modSlot s n f) := setSlot_keeps k

theorem modHalf_keeps {s₀ s : State} {h f} (k : Keeps s₀ s) : Keeps s₀ (modHalf s h f) := setHalf_keeps k

theorem setHp_keeps {s₀ s : State} {p x} (k : Keeps s₀ s) : Keeps s₀ (setHp s p x) := k

theorem setTb_keeps {s₀ s : State} {i x} (k : Keeps s₀ s) : Keeps s₀ (setTb s i x) := by
  unfold setTb
  split
  · exact k
  · exact k

theorem setImage_keeps {s₀ s : State} {n x} (k : Keeps s₀ s) : Keeps s₀ (setImage s n x) := k

theorem noteQuiet_keeps {s₀ s : State} (k : Keeps s₀ s) : Keeps s₀ (noteQuiet s) := .ite k k

theorem winPut_keeps {s₀ s : State} {off ws} (k : Keeps s₀ s) : Keeps s₀ (winPut s off ws) := .mem k fun w => memPutWords_wf _ _ _ w

theorem setOwner_keeps {s₀ s : State} {off o} (k : Keeps s₀ s) : Keeps s₀ (setOwner s off o) := winPut_keeps k

theorem putSlotWords_keeps {s₀ s : State} {off ws o} (k : Keeps s₀ s) : Keeps s₀ (putSlotWords s off ws o) := setOwner_keeps (winPut_keeps k)

theorem sendPacket_keeps {s₀ s : State} {p} (k : Keeps s₀ s) : Keeps s₀ (sendPacket s p) := k

theorem sendNotice_keeps {s₀ s : State} {n} (k : Keeps s₀ s) : Keeps s₀ (sendNotice s n) := by
  unfold sendNotice
  split
  · exact k
  · exact sendPacket_keeps k

theorem publishNotice_keeps {s₀ s : State} {key last} (k : Keeps s₀ s) : Keeps s₀ (publishNotice s key last) :=
  .ite (sendNotice_keeps k) (.ite k (sendNotice_keeps k))

theorem addPoisonRd_keeps {s₀ s : State} {a} (k : Keeps s₀ s) : Keeps s₀ (addPoisonRd s a) := .ite k k

theorem countPoison_keeps {s₀ s : State} {a n} (k : Keeps s₀ s) : Keeps s₀ (countPoison s a n) := .foldl (fun _ _ k => addPoisonRd_keeps k) k

theorem writeEvent_keeps {s₀ s : State} {h e} (k : Keeps s₀ s) : Keeps s₀ (writeEvent s h e) :=
  publishNotice_keeps (modHalf_keeps (putSlotWords_keeps k))

theorem flushLost_keeps {s₀ s : State} {h} (k : Keeps s₀ s) : Keeps s₀ (flushLost s h) := .ite k (modHalf_keeps (writeEvent_keeps k))

theorem dropEvent_keeps {s₀ s : State} {h} (k : Keeps s₀ s) : Keeps s₀ (dropEvent s h) := .upd (modHalf_keeps k)

theorem sendEvent_keeps {s₀ s : State} {e} (k : Keeps s₀ s) : Keeps s₀ (sendEvent s e) :=
  .ite k (.ite k (.ite k (.ite (writeEvent_keeps (flushLost_keeps k)) (dropEvent_keeps (flushLost_keeps k)))))

theorem sendHalfEvent_keeps {s₀ s : State} {h code extra} (k : Keeps s₀ s) : Keeps s₀ (sendHalfEvent s h code extra) := sendEvent_keeps k

theorem sendSlotEvent_keeps {s₀ s : State} {n code extra} (k : Keeps s₀ s) : Keeps s₀ (sendSlotEvent s n code extra) := sendEvent_keeps k

theorem sendBlockEvent_keeps {s₀ s : State} {code extra} (k : Keeps s₀ s) : Keeps s₀ (sendBlockEvent s code extra) := sendHalfEvent_keeps k

end Sys2Proof.Machine
end

section
/-! SUPPORT. What the functions of Machine/Errors.lean keep. -/

namespace Sys2Proof.Machine

theorem ownFrame_keeps {s₀ s : State} {f} (k : Keeps s₀ s) : Keeps s₀ (ownFrame s f) := .ite k k

theorem raiseNmi_keeps {s₀ s : State} {c} (k : Keeps s₀ s) : Keeps s₀ (raiseNmi s c) := ownFrame_keeps k

theorem modEntry_keeps {s₀ s : State} {l f} (k : Keeps s₀ s) : Keeps s₀ (modEntry s l f) := k

theorem appendEntry_keeps {s₀ s : State} {e} (k : Keeps s₀ s) : Keeps s₀ (appendEntry s e) := .ite k k

theorem errorLogged_keeps {s₀ s : State} {e} (k : Keeps s₀ s) : Keeps s₀ (errorLogged s e) := .ite k (sendEvent_keeps k)

theorem stopElapsed_keeps {s₀ s : State} (k : Keeps s₀ s) : Keeps s₀ (stopElapsed s) := .ite k k

theorem blockStop_keeps {s₀ s : State} {d} (k : Keeps s₀ s) : Keeps s₀ (blockStop s d) := by
  unfold blockStop
  split
  · exact k
  · refine raiseNmi_keeps ?_
    refine .upd ?_
    refine stopElapsed_keeps ?_
    refine appendEntry_keeps ?_
    split
    · exact k
    · exact modEntry_keeps k

theorem setStep_keeps {s₀ s : State} {l k'} (k : Keeps s₀ s) : Keeps s₀ (setStep s l k') := modEntry_keeps k

theorem supersede_keeps {s₀ s : State} {p} (k : Keeps s₀ s) : Keeps s₀ (supersede s p) := .foldl (fun _ _ k => setStep_keeps k) k

theorem detect_keeps {s₀ s : State} {d} (k : Keeps s₀ s) : Keeps s₀ (detect s d) := by
  unfold detect
  split
  · exact k
  · split
    · exact blockStop_keeps k
    · split
      · exact modEntry_keeps k
      · exact .ite (blockStop_keeps k) (.ite (appendEntry_keeps k) (.ite (blockStop_keeps k)
          (errorLogged_keeps (supersede_keeps (appendEntry_keeps k)))))

end Sys2Proof.Machine
end

section
/-! SUPPORT. What the functions of Machine/Pages.lean keep. -/

namespace Sys2Proof.Machine

theorem setPageRef_keeps {s₀ s : State} {h k' n} (k : Keeps s₀ s) : Keeps s₀ (setPageRef s h k' n) := modHalf_keeps k

theorem addRef_keeps {s₀ s : State} {h k'} (k : Keeps s₀ s) : Keeps s₀ (addRef s h k') := .ite k (setPageRef_keeps k)

theorem dropRef_keeps {s₀ s : State} {h k'} (k : Keeps s₀ s) : Keeps s₀ (dropRef s h k') := .ite k (setPageRef_keeps k)

theorem dropRefs_keeps {s₀ s : State} {h ks} (k : Keeps s₀ s) : Keeps s₀ (dropRefs s h ks) := .foldl (fun _ _ k => dropRef_keeps k) k

theorem setSlotPage_keeps {s₀ s : State} {n i k'} (k : Keeps s₀ s) : Keeps s₀ (setSlotPage s n i k') :=
  .ite (modSlot_keeps k) (.mem k fun w => memWrite_wf _ _ _ w)

theorem takeExt_keeps {s₀ s : State} {n m} (k : Keeps s₀ s) : Keeps s₀ (takeExt s n m) :=
  .ite k (.mem (modSlot_keeps (addRef_keeps k)) fun w => memWrite_wf _ _ _ w)

theorem takeEntry_keeps {s₀ s : State} {n i} (k : Keeps s₀ s) : Keeps s₀ (takeEntry s n i) :=
  .ite (setSlotPage_keeps (.ite (dropRef_keeps (addRef_keeps k)) (.mem (countPoison_keeps
    (dropRef_keeps (addRef_keeps k))) fun w => memWrite_wf _ _ _ w))) k

theorem takePages_keeps {s₀ s : State} {n p q} (k : Keeps s₀ s) : Keeps s₀ (takePages s n p q) :=
  .ite k (.foldl (fun _ _ k => takeEntry_keeps k) (takeExt_keeps k))

theorem releaseFrom_keeps {s₀ s : State} {n i m} (k : Keeps s₀ s) : Keeps s₀ (releaseFrom s n i m) :=
  modSlot_keeps (.foldl (fun _ _ k => setSlotPage_keeps k) k)

theorem releaseAll_keeps {s₀ s : State} {n m} (k : Keeps s₀ s) : Keeps s₀ (releaseAll s n m) := modSlot_keeps (releaseFrom_keeps k)

end Sys2Proof.Machine
end

section
/-! SUPPORT. What the functions of Machine/Publish.lean keep. -/

namespace Sys2Proof.Machine

theorem handBack_keeps {s₀ s : State} {l stuck} (k : Keeps s₀ s) : Keeps s₀ (handBack l stuck s) := by
  induction l generalizing stuck s with
  | nil => exact k
  | cons r rs ih =>
    unfold handBack
    split
    · split
      · exact ih (.upd k)
      · exact ih (setOwner_keeps (winPut_keeps k))
    · exact ih (.upd k)

theorem answer_keeps {s₀ s : State} {m status p slot sgen} (k : Keeps s₀ s) : Keeps s₀ (answer s m status p slot sgen) := handBack_keeps k

theorem answerSlot_keeps {s₀ s : State} {m status p} (k : Keeps s₀ s) : Keeps s₀ (answerSlot s m status p) := answer_keeps k

theorem stampCell_keeps {s₀ s : State} {n p due turn} (k : Keeps s₀ s) : Keeps s₀ (stampCell s n p due turn) :=
  .mem k fun w => memPutWords_wf _ _ _ w

theorem dueCell_keeps {s₀ s : State} {due turn n p} (k : Keeps s₀ s) : Keeps s₀ (dueCell due turn n s p) := .mem k fun w => memPutWord_wf _ _ _ w

theorem stampDue_keeps {s₀ s : State} {n} (k : Keeps s₀ s) : Keeps s₀ (stampDue s n) :=
  .ite k (.ite (dueCell_keeps (.foldl (fun _ _ k => dueCell_keeps k) k)) (.foldl (fun _ _ k => dueCell_keeps k) k))

theorem excuseReady_keeps {s₀ s : State} {n} (k : Keeps s₀ s) : Keeps s₀ (excuseReady s n) := modSlot_keeps k

theorem countLate_keeps {s₀ s : State} {n v} (k : Keeps s₀ s) : Keeps s₀ (countLate s n v) := .ite k (.ite k (.ite k (sendBlockEvent_keeps k)))

theorem setDeadline_keeps {s₀ s : State} {n} (k : Keeps s₀ s) : Keeps s₀ (setDeadline s n) := modSlot_keeps k

theorem commitTo_keeps {s₀ s : State} {n c} (k : Keeps s₀ s) : Keeps s₀ (commitTo s n c) := modSlot_keeps k

theorem dropRows_keeps {s₀ s : State} {n} (k : Keeps s₀ s) : Keeps s₀ (dropRows s n) := modHalf_keeps k

theorem endHeld_keeps {s₀ s : State} {ms} (k : Keeps s₀ s) : Keeps s₀ (endHeld ms s) := by
  induction ms generalizing s with
  | nil => exact k
  | cons m ms ih => exact ih (answerSlot_keeps k)

theorem endSlot_keeps {s₀ s : State} {n st t} (k : Keeps s₀ s) : Keeps s₀ (endSlot s n st t) :=
  endHeld_keeps (modSlot_keeps (releaseAll_keeps (modHalf_keeps (dropRows_keeps k))))

theorem recordDone_keeps {s₀ s : State} {n v} (k : Keeps s₀ s) : Keeps s₀ (recordDone s n v) := by
  unfold recordDone
  extract_lets s1 w s2
  have k1 : Keeps s₀ s1 := modSlot_keeps k
  have k2 : Keeps s₀ s2 := .ite (modSlot_keeps (commitTo_keeps k1)) (modSlot_keeps k1)
  exact .ite (modSlot_keeps k1) (setDeadline_keeps (.ite (endSlot_keeps k2) k2))

theorem refuseCell_keeps {s₀ s : State} {n p src} (k : Keeps s₀ s) : Keeps s₀ (refuseCell s n p src) :=
  modSlot_keeps (detect_keeps (countPoison_keeps k))

theorem publishRing_keeps {s₀ s : State} {n v} (k : Keeps s₀ s) : Keeps s₀ (publishRing s n v) :=
  .ite (publishNotice_keeps (recordDone_keeps (countLate_keeps (putSlotWords_keeps k))))
    (.ite (excuseReady_keeps k) (sendSlotEvent_keeps (modSlot_keeps (excuseReady_keeps k))))

theorem publishStep_keeps {s₀ s : State} {n} (k : Keeps s₀ s) : Keeps s₀ (publishStep s n).1 := by
  unfold publishStep
  split
  · exact k
  · split
    · exact k
    · exact publishRing_keeps k
    · split
      · exact refuseCell_keeps k
      · split
        · exact refuseCell_keeps k
        · split
          · exact publishRing_keeps (stampCell_keeps k)
          · exact publishRing_keeps k

theorem publishLoop_keeps {s₀ s : State} {fuel n} (k : Keeps s₀ s) : Keeps s₀ (publishLoop fuel s n) := by
  induction fuel generalizing s with
  | zero => exact k
  | succ fuel ih => exact .ite (ih (publishStep_keeps k)) (publishStep_keeps k)

theorem publishSlot_keeps {s₀ s : State} {n} (k : Keeps s₀ s) : Keeps s₀ (publishSlot s n) := publishLoop_keeps k

theorem voidFill_keeps {s₀ s : State} {n} (k : Keeps s₀ s) : Keeps s₀ (voidFill s n) :=
  .foldl (fun _ _ k => .upd (publishSlot_keeps (endSlot_keeps k))) (modHalf_keeps k)

theorem endRequest_keeps {s₀ s : State} {n st reason} (k : Keeps s₀ s) : Keeps s₀ (endRequest s n st reason) :=
  .ite (voidFill_keeps (publishSlot_keeps (endSlot_keeps k))) (publishSlot_keeps (endSlot_keeps k))

theorem failRequest_keeps {s₀ s : State} {n reason} (k : Keeps s₀ s) : Keeps s₀ (failRequest s n reason) := .upd (endRequest_keeps k)

theorem writeBulletin_keeps {s₀ s : State} {h b} (k : Keeps s₀ s) : Keeps s₀ (writeBulletin s h b) :=
  publishNotice_keeps (putSlotWords_keeps (.mem k fun w => memWrite_wf _ _ _ w))

theorem drainBulletins_keeps {s₀ s : State} {bs h} (k : Keeps s₀ s) : Keeps s₀ (drainBulletins bs s h) := by
  induction bs generalizing s with
  | nil => exact modHalf_keeps k
  | cons b bs ih => exact .ite (ih (writeBulletin_keeps k)) (modHalf_keeps k)

theorem closeBulletin_keeps {s₀ s : State} {h recs pz} (k : Keeps s₀ s) : Keeps s₀ (closeBulletin s h recs pz) := by
  unfold closeBulletin
  dsimp only
  split
  · exact drainBulletins_keeps (modHalf_keeps k)
  · exact .ite (sendHalfEvent_keeps (drainBulletins_keeps (modHalf_keeps k))) (drainBulletins_keeps (modHalf_keeps k))

theorem closeOpen_keeps {s₀ s : State} {h} (k : Keeps s₀ s) : Keeps s₀ (closeOpen s h) := .ite k (closeBulletin_keeps (modHalf_keeps k))

theorem appendMask_keeps {s₀ s : State} {h rec_} (k : Keeps s₀ s) : Keeps s₀ (appendMask s h rec_) :=
  .ite (modHalf_keeps k) (closeOpen_keeps (modHalf_keeps k))

theorem publishMask_keeps {s₀ s : State} {n p a} (k : Keeps s₀ s) : Keeps s₀ (publishMask s n p a) :=
  .ite (detect_keeps (modHalf_keeps (closeBulletin_keeps (closeOpen_keeps (countPoison_keeps k))))) (appendMask_keeps k)

theorem publishMasks_keeps {s₀ s : State} {fuel n} (k : Keeps s₀ s) : Keeps s₀ (publishMasks fuel s n) := by
  induction fuel generalizing s with
  | zero => exact k
  | succ fuel ih =>
    unfold publishMasks
    split
    · exact k
    · exact .ite k (.ite (ih (publishMask_keeps (modSlot_keeps k))) k)

theorem drainMasks_keeps {s₀ s : State} {n} (k : Keeps s₀ s) : Keeps s₀ (drainMasks s n) := publishMasks_keeps k

theorem closeBuffer_keeps {s₀ s : State} {t turn b last} (k : Keeps s₀ s) : Keeps s₀ (closeBuffer s t turn b last) :=
  publishNotice_keeps (.upd (putSlotWords_keeps k))

theorem batchRecord_keeps {s₀ s : State} {n v turn b} (k : Keeps s₀ s) : Keeps s₀ (batchRecord s n v turn b).1 := by
  unfold batchRecord
  extract_lets +onlyGivenNames t closed s0 b1 s1 off s2
  have k0 : Keeps s₀ s0 := .ite (closeBuffer_keeps k) k
  have k1 : Keeps s₀ s1 := .ite (countPoison_keeps k0) k0
  split
  · exact recordDone_keeps (countLate_keeps (winPut_keeps k1))
  · split
    · exact excuseReady_keeps k1
    · exact sendSlotEvent_keeps (modSlot_keeps (excuseReady_keeps k1))

theorem batchSlot_keeps {s₀ s : State} {fuel l turn b} (k : Keeps s₀ s) : Keeps s₀ (batchSlot fuel s l turn b).1 := by
  induction fuel generalizing s b with
  | zero => exact k
  | succ fuel ih =>
    unfold batchSlot
    extract_lets n
    split
    · exact k
    · split
      · exact k
      · split
        · exact excuseReady_keeps k
        · split
          · extract_lets r
            have hr : Keeps s₀ r.1 := batchRecord_keeps k
            split
            · exact hr
            · exact ih hr
          · split
            · exact refuseCell_keeps k
            · split
              · exact refuseCell_keeps k
              · extract_lets r
                have hr : Keeps s₀ r.1 := batchRecord_keeps (.ite (stampCell_keeps k) k)
                split
                · exact hr
                · exact ih hr

theorem batchSlots_keeps {s₀ s : State} {ls turn b} (k : Keeps s₀ s) : Keeps s₀ (batchSlots ls s turn b).1 := by
  induction ls generalizing s b with
  | nil => exact k
  | cons l ls ih => exact ih (batchSlot_keeps k)

theorem checkReady_keeps {s₀ s : State} {n} (k : Keeps s₀ s) : Keeps s₀ (checkReady s n) := by
  unfold checkReady
  dsimp only
  split
  · exact k
  · split
    · exact k
    · exact refuseCell_keeps k

theorem batchJoin_keeps {s₀ s : State} {h t turn last} (k : Keeps s₀ s) : Keeps s₀ (batchJoin s h t turn last) := .ite k k

theorem excuseWaits_keeps {s₀ s : State} {t} (k : Keeps s₀ s) : Keeps s₀ (excuseWaits s t) := by
  refine .foldl (fun s l k => ?_) k
  split
  · exact k
  · exact .ite (excuseReady_keeps k) k

theorem drainBatches_keeps {s₀ s : State} {fuel t} (k : Keeps s₀ s) : Keeps s₀ (drainBatches fuel s t) := by
  induction fuel generalizing s with
  | zero => exact k
  | succ fuel ih =>
    unfold drainBatches
    split
    · exact k
    · refine .ite k (.ite (excuseWaits_keeps (.upd (batchSlots_keeps k))) (ih (.upd ?_)))
      exact .ite (batchSlots_keeps k) (closeBuffer_keeps (batchSlots_keeps k))

theorem drainTenant_keeps {s₀ s : State} {t} (k : Keeps s₀ s) : Keeps s₀ (drainTenant s t) := drainBatches_keeps k

end Sys2Proof.Machine
end

section
/-! SUPPORT. What the functions of Machine/Exchange.lean keep. -/

namespace Sys2Proof.Machine

theorem drainOut_keeps {s₀ s : State} {is h} (k : Keeps s₀ s) : Keeps s₀ (drainOut is s h) := by
  induction is generalizing s with
  | nil => exact modHalf_keeps k
  | cons i is ih =>
    unfold drainOut
    split
    · exact ih (modHalf_keeps (putSlotWords_keeps (.mem k fun w => memWrite_wf _ _ _ w)))
    · exact .ite (modHalf_keeps k) (sendHalfEvent_keeps (modHalf_keeps k))

theorem pushOut_keeps {s₀ s : State} {h i} (k : Keeps s₀ s) : Keeps s₀ (pushOut s h i) := drainOut_keeps k

theorem countStage_keeps {s₀ s : State} {n} (k : Keeps s₀ s) : Keeps s₀ (countStage s n) := k

theorem kickSends_keeps {s₀ s : State} {ks done h} (k : Keeps s₀ s) : Keeps s₀ (kickSends ks done s h) := by
  induction ks generalizing s done with
  | nil => exact modHalf_keeps k
  | cons d ks ih => exact .ite (ih (pushOut_keeps (countStage_keeps k))) (ih k)

theorem kick_keeps {s₀ s : State} {h} (k : Keeps s₀ s) : Keeps s₀ (kick s h) := kickSends_keeps k

theorem acceptSend_keeps {s₀ s : State} {t c xid} (k : Keeps s₀ s) : Keeps s₀ (acceptSend s t c xid) := setTile_keeps k

theorem issueSend_keeps {s₀ s : State} {t c coded width table ws xid} (k : Keeps s₀ s) : Keeps s₀ (issueSend s t c coded width table ws xid) :=
  .ite (acceptSend_keeps k) (kick_keeps (modHalf_keeps k))

theorem countStale_keeps {s₀ s : State} (k : Keeps s₀ s) : Keeps s₀ (countStale s) := k

theorem takeAck_keeps {s₀ s : State} {h i} (k : Keeps s₀ s) : Keeps s₀ (takeAck s h i) := by
  unfold takeAck
  dsimp only
  split
  · exact countStale_keeps k
  · split
    · exact k
    · exact kick_keeps (acceptSend_keeps (modHalf_keeps k))

theorem takeNak_keeps {s₀ s : State} {h i} (k : Keeps s₀ s) : Keeps s₀ (takeNak s h i) := by
  unfold takeNak
  dsimp only
  split
  · exact countStale_keeps k
  · split
    · exact k
    · exact pushOut_keeps (countStage_keeps (.upd (modHalf_keeps k)))

theorem ackAgain_keeps {s₀ s : State} {h i l} (k : Keeps s₀ s) : Keeps s₀ (ackAgain s h i l) := pushOut_keeps k

theorem logAck_keeps {s₀ s : State} {h i ws pz} (k : Keeps s₀ s) : Keeps s₀ (logAck s h i ws pz) := pushOut_keeps (modHalf_keeps k)

theorem sendNak_keeps {s₀ s : State} {h i reason} (k : Keeps s₀ s) : Keeps s₀ (sendNak s h i reason) := pushOut_keeps (modHalf_keeps k)

theorem countPoisoned_keeps {s₀ s : State} {h i} (k : Keeps s₀ s) : Keeps s₀ (countPoisoned s h i) := detect_keeps k

theorem settle_keeps {s₀ s : State} {h i ws bad} (k : Keeps s₀ s) : Keeps s₀ (settle s h i ws bad) := by
  unfold settle
  split
  · exact logAck_keeps k
  · exact .ite (sendNak_keeps k) (logAck_keeps (countPoisoned_keeps k))

theorem dropPair_keeps {s₀ s : State} {h p} (k : Keeps s₀ s) : Keeps s₀ (dropPair s h p) := modHalf_keeps k

theorem settlePair_keeps {s₀ s : State} {h d c} (k : Keeps s₀ s) : Keeps s₀ (settlePair s h d c) := settle_keeps (settle_keeps k)

theorem releasePair_keeps {s₀ s : State} {h i} (k : Keeps s₀ s) : Keeps s₀ (releasePair s h i) := by
  unfold releasePair
  split
  · exact k
  · exact .ite (logAck_keeps (dropPair_keeps k)) k

theorem takeData_keeps {s₀ s : State} {h i} (k : Keeps s₀ s) : Keeps s₀ (takeData s h i) := by
  unfold takeData
  split
  · exact countStale_keeps k
  · split
    · exact ackAgain_keeps k
    · split
      · exact releasePair_keeps (settle_keeps k)
      · extract_lets +onlyGivenNames b
        split
        · exact releasePair_keeps (settle_keeps k)
        · extract_lets +onlyGivenNames d
          split
          · exact settlePair_keeps (dropPair_keeps k)
          · exact .ite (logAck_keeps k) (modHalf_keeps k)

theorem takeScale_keeps {s₀ s : State} {h i} (k : Keeps s₀ s) : Keeps s₀ (takeScale s h i) := by
  unfold takeScale
  split
  · exact countStale_keeps k
  · split
    · exact ackAgain_keeps k
    · split
      · exact releasePair_keeps (settle_keeps k)
      · split
        · exact logAck_keeps k
        · split
          · exact settlePair_keeps (dropPair_keeps k)
          · exact modHalf_keeps k

theorem takeIn_keeps {s₀ s s' : State} {h : Half} {n off : Nat} {i : Item} (hi : takeIn s h n = some (off, i, s')) (k : Keeps s₀ s) :
    Keeps s₀ s' := by
  unfold takeIn at hi
  dsimp only at hi
  split at hi
  · cases hi
    exact setOwner_keeps (countPoison_keeps k)
  · cases hi

theorem countBad_keeps {s₀ s : State} (k : Keeps s₀ s) : Keeps s₀ (countBad s) := k

theorem arriveItem_keeps {s₀ s : State} {h n kind f} (hf : ∀ {s i}, Keeps s₀ s → Keeps s₀ (f s h i)) (k : Keeps s₀ s) :
    Keeps s₀ (arriveItem s h n kind f) := by
  unfold arriveItem
  split
  · exact k
  · next hi =>
    have k' := takeIn_keeps hi k
    exact .ite (.ite (countBad_keeps k') k) (.ite (hf k') k)

theorem setLocal_keeps {s₀ s : State} {src dst c l} (k : Keeps s₀ s) : Keeps s₀ (setLocal s src dst c l) := k

theorem recvPacket_keeps {s₀ s s' : State} {t c n xid turn p} (hp : recvPacket s t c n xid turn = some (p, s')) (k : Keeps s₀ s) :
    Keeps s₀ s' := by
  unfold recvPacket at hp
  split at hp
  · cases hp
    exact k
  · split at hp
    · split at hp
      · cases hp
      · cases hp
        exact setLocal_keeps k
    · obtain ⟨l, -, hl⟩ := Option.map_eq_some_iff.mp hp
      cases hl
      exact countStage_keeps (modHalf_keeps k)

end Sys2Proof.Machine
end

section
/-! SUPPORT. What the functions of Machine/TileRun.lean keep. -/

namespace Sys2Proof.Machine

theorem tileFault_keeps {s₀ s : State} {t code queue engine idx} (k : Keeps s₀ s) : Keeps s₀ (tileFault s t code queue engine idx) :=
  .ite (setTile_keeps k) (detect_keeps (setTile_keeps k))

theorem addUe_keeps {s₀ s : State} {l} (k : Keeps s₀ s) : Keeps s₀ (addUe s l) := .foldl (fun _ _ k => .ite k (setTile_keeps k)) k

theorem readPoison_keeps {s₀ s : State} {t a} (k : Keeps s₀ s) : Keeps s₀ (readPoison s t a) := by
  unfold readPoison
  dsimp only
  split
  · exact detect_keeps (addPoisonRd_keeps k)
  · split
    · exact addPoisonRd_keeps k
    · exact .ite (addPoisonRd_keeps k) (detect_keeps (addPoisonRd_keeps k))

theorem wrotePoison_keeps {s₀ s : State} {t a} (k : Keeps s₀ s) : Keeps s₀ (wrotePoison s t a) := by
  unfold wrotePoison
  split
  · exact k
  · exact .ite k (detect_keeps k)

theorem addBytes_keeps {s₀ s : State} {t l} (k : Keeps s₀ s) : Keeps s₀ (addBytes s t l) := .ite k (modHalf_keeps k)

theorem addOverruns_keeps {s₀ s : State} {t e idx qs} (k : Keeps s₀ s) : Keeps s₀ (addOverruns s t e idx qs) :=
  .foldl (fun _ _ k => tileFault_keeps k) k

theorem runOut_keeps {s₀ s : State} {t e w'} (k : Keeps s₀ s) : Keeps s₀ (runOut s t e w') := .ite (tileFault_keeps k) k

theorem sendIssued_keeps {s₀ s : State} {t p} (k : Keeps s₀ s) : Keeps s₀ (sendIssued s t p) := by
  unfold sendIssued
  split
  · exact .ite k (issueSend_keeps k)
  · exact k

theorem correctUnit_keeps {s₀ s : State} {b} (k : Keeps s₀ s) : Keeps s₀ (correctUnit s b) := by
  have k1 : Keeps s₀ { s with mem := { s.mem with single := smErase s.mem.single b } } :=
    .mem k fun w => ⟨w.1, w.2.1, smErase_wf false _ b w.2.2⟩
  unfold correctUnit
  dsimp only
  split
  · exact setTile_keeps k1
  · exact .upd k1
  · exact k1

theorem correctReads_keeps {s₀ s : State} {rs} (k : Keeps s₀ s) : Keeps s₀ (correctReads s rs) := .foldl (fun _ _ k => correctUnit_keeps k) k

theorem afterIssue_keeps {s₀ s : State} {t e idx r} (k : Keeps s₀ s) : Keeps s₀ (afterIssue s t e idx r) :=
  addOverruns_keeps (sendIssued_keeps (.foldl (fun _ _ k => wrotePoison_keeps k)
    (.foldl (fun _ _ k => readPoison_keeps k) (addBytes_keeps (addUe_keeps k)))))

/-- The body of an instruction keeps the memory's form. -/
def BodyKeepsForm (body : Body) : Prop := ∀ n i w tl, Memory.wf n.mem → Memory.wf (body n i w tl).mem

theorem issueWord_keeps {s₀ s : State} {t e w' body tl} (hb : BodyKeepsForm body) (k : Keeps s₀ s) :
    Keeps s₀ (issueWord s t e w' body tl) := by
  unfold issueWord
  extract_lets +onlyGivenNames x
  split
  · exact k
  · extract_lets +onlyGivenNames r
    have hm : Memory.wf s.mem → Memory.wf r.mem := hb (envOf s t x) (iterOf x) w' (paid tl w')
    split
    · exact k
    · extract_lets +onlyGivenNames ce
      split
      · exact tileFault_keeps (.foldl (fun _ _ k => readPoison_keeps k)
          (addUe_keeps (.foldl (fun _ _ k => correctUnit_keeps k) (.mem (setTile_keeps k) hm))))
      · exact .ite (tileFault_keeps (setTile_keeps k))
          (runOut_keeps (afterIssue_keeps (.foldl (fun _ _ k => correctUnit_keeps k) (.mem (setTile_keeps k) hm))))

theorem issueAt_keeps {s₀ s : State} {t e w' body} (hb : BodyKeepsForm body) (k : Keeps s₀ s) : Keeps s₀ (issueAt s t e w' body) := by
  unfold issueAt
  dsimp only
  split
  · exact k
  · split
    · exact k
    · split
      · exact k
      · split
        · exact tileFault_keeps (setTile_keeps k)
        · exact issueWord_keeps hb k

theorem signal_keeps {s₀ s : State} {t e} (k : Keeps s₀ s) : Keeps s₀ (signal s t e) := by
  unfold signal
  dsimp only
  split
  · exact setTile_keeps k
  · exact tileFault_keeps (setTile_keeps k)

theorem finish_keeps {s₀ s : State} {t e k'} (k : Keeps s₀ s) : Keeps s₀ (finish s t e k') := signal_keeps (setTile_keeps k)

theorem noteWait_keeps {s₀ s : State} {t f c} (k : Keeps s₀ s) : Keeps s₀ (noteWait s t f c) := .ite k (modHalf_keeps k)

theorem recvCommit_keeps {s₀ s : State} {t k' idx n p} (k : Keeps s₀ s) : Keeps s₀ (recvCommit s t k' idx n p) :=
  .ite (signal_keeps (tileFault_keeps (setTile_keeps k))) (finish_keeps (addOverruns_keeps (setTile_keeps k)))

theorem completeAt_keeps {s₀ s : State} {t e k'} (k : Keeps s₀ s) : Keeps s₀ (completeAt s t e k') := by
  unfold completeAt
  dsimp only
  split
  · exact k
  · split
    · exact k
    · split
      · exact finish_keeps k
      · exact finish_keeps (setTile_keeps k)
      · exact finish_keeps (addOverruns_keeps (setTile_keeps k))
      · exact finish_keeps (addOverruns_keeps (setTile_keeps k))
      · exact .ite (.ite (finish_keeps k) (.ite (finish_keeps (setLocal_keeps k)) k)) (.ite (finish_keeps k) k)
      · split
        · exact k
        · split
          · exact k
          · next hp => exact recvCommit_keeps (noteWait_keeps (recvPacket_keeps hp k))
      · exact signal_keeps (tileFault_keeps (setTile_keeps k))
      · exact k

theorem loaderFill_keeps {s₀ s : State} {t e} (k : Keeps s₀ s) : Keeps s₀ (loaderFill s t e) :=
  .ite k (.ite (detect_keeps (detect_keeps (correctReads_keeps (setTile_keeps k)))) (correctReads_keeps (setTile_keeps k)))

theorem dropTransfers_keeps {s₀ s : State} {t} (k : Keeps s₀ s) : Keeps s₀ (dropTransfers s t) := modHalf_keeps k

theorem dispatchTile_keeps {s₀ s : State} {t desc args turn job mset again} (k : Keeps s₀ s) :
    Keeps s₀ (dispatchTile s t desc args turn job mset again) := by
  unfold dispatchTile
  extract_lets +onlyGivenNames tl w0 kid xids first kept here _ stream _ tl1 tl2 s1 _ d s2
  have k1 : Keeps s₀ s1 := correctReads_keeps (setTile_keeps k)
  have k2 : Keeps s₀ s2 := .ite (detect_keeps (detect_keeps k1)) k1
  exact .ite (tileFault_keeps k2) k2

end Sys2Proof.Machine
end

section
/-! SUPPORT. What the functions of Machine/ClockOps.lean keep. -/

namespace Sys2Proof.Machine

theorem latchVf_keeps {s₀ s : State} (k : Keeps s₀ s) : Keeps s₀ (latchVf s) := k

theorem startRelock_keeps {s₀ s : State} (k : Keeps s₀ s) : Keeps s₀ (startRelock s) := latchVf_keeps k

theorem modeRelock_keeps {s₀ s : State} (k : Keeps s₀ s) : Keeps s₀ (modeRelock s) := latchVf_keeps (.ite k k)

theorem clockEvent_keeps {s₀ s : State} {code extra} (k : Keeps s₀ s) : Keeps s₀ (clockEvent s code extra) := sendBlockEvent_keeps k

theorem flushEvs_keeps {s₀ s : State} (k : Keeps s₀ s) : Keeps s₀ (flushEvs s) := .foldl (fun _ _ k => sendEvent_keeps k) k

theorem chosenNow_keeps {s₀ s : State} (k : Keeps s₀ s) : Keeps s₀ (chosenNow s) := k

theorem leaveBoxcars_keeps {s₀ s : State} (k : Keeps s₀ s) : Keeps s₀ (leaveBoxcars s) := .ite (chosenNow_keeps (modeRelock_keeps k)) k

theorem settlePower_keeps {s₀ s : State} (k : Keeps s₀ s) : Keeps s₀ (settlePower s) :=
  .ite (sendBlockEvent_keeps (leaveBoxcars_keeps k)) (.ite (sendBlockEvent_keeps (leaveBoxcars_keeps k)) (.ite k k))

theorem measure_keeps {s₀ s : State} (k : Keeps s₀ s) : Keeps s₀ (measure s) := k

/-- Time goes on by `n`, and the queue, the fuses and the memory's form stand. -/
theorem elapse_keeps_from {s : State} {n : Nat} : Keeps { s with now := s.now + n } (elapse s n) := by
  unfold elapse
  extract_lets +onlyGivenNames _ _ _ s1
  have k1 : Keeps { s with now := s.now + n } s1 := .upd (.refl _)
  exact settlePower_keeps (.ite k1 (measure_keeps k1))

theorem elapse_keeps {s₀ s : State} {n} (k : Keeps s₀ s) : Keeps s₀ (elapse s n) :=
  have k' : Keeps s₀ { s with now := s.now + n } := ⟨k.pending, Nat.le_add_right_of_le k.now, k.fuse, k.wf⟩
  k'.trans elapse_keeps_from

theorem elapseTo_keeps {s₀ s : State} {t} (k : Keeps s₀ s) : Keeps s₀ (elapseTo s t) := elapse_keeps k

theorem portRetrain_keeps {s₀ s : State} {p} (k : Keeps s₀ s) : Keeps s₀ (portRetrain s p) := .ite k (sendHalfEvent_keeps k)

theorem portFail_keeps {s₀ s : State} {p cause} (k : Keeps s₀ s) : Keeps s₀ (portFail s p cause) := by
  unfold portFail
  extract_lets +onlyGivenNames x wasUp _ s1
  have k1 : Keeps s₀ s1 := .mem k fun w => w
  exact .ite (detect_keeps (sendHalfEvent_keeps k1)) k1

theorem hostDown_keeps {s₀ s : State} {p} (k : Keeps s₀ s) : Keeps s₀ (hostDown s p) := .ite k (sendHalfEvent_keeps (setHp_keeps k))

theorem enterHold_keeps {s₀ s : State} (k : Keeps s₀ s) : Keeps s₀ (enterHold s) :=
  detect_keeps (raiseNmi_keeps (.foldl (fun _ _ k => hostDown_keeps k) (.foldl (fun _ _ k => portRetrain_keeps k) k)))

theorem fallBack_keeps {s₀ s : State} {cause} (k : Keeps s₀ s) : Keeps s₀ (fallBack s cause) :=
  detect_keeps (clockEvent_keeps (raiseNmi_keeps (startRelock_keeps k)))

theorem takeInput_keeps {s₀ s : State} {i} (k : Keeps s₀ s) : Keeps s₀ (takeInput s i) := .ite k k

theorem useInput_keeps {s₀ s : State} {i} (k : Keeps s₀ s) : Keeps s₀ (useInput s i) := .upd (takeInput_keeps k)

theorem switchInput_keeps {s₀ s : State} {i} (k : Keeps s₀ s) : Keeps s₀ (switchInput s i) :=
  clockEvent_keeps (startRelock_keeps (useInput_keeps k))

theorem switchMarks_keeps {s₀ s : State} {i} (k : Keeps s₀ s) : Keeps s₀ (switchMarks s i) :=
  clockEvent_keeps (startRelock_keeps (takeInput_keeps k))

theorem forceReturn_keeps {s₀ s : State} (k : Keeps s₀ s) : Keeps s₀ (forceReturn s) := startRelock_keeps (.upd (useInput_keeps k))

theorem returnClock_keeps {s₀ s : State} (k : Keeps s₀ s) : Keeps s₀ (returnClock s) := clockEvent_keeps (forceReturn_keeps k)

theorem leaveHold_keeps {s₀ s : State} (k : Keeps s₀ s) : Keeps s₀ (leaveHold s) := clockEvent_keeps (startRelock_keeps (useInput_keeps k))

theorem clockCheck_keeps {s₀ s : State} {cause} (k : Keeps s₀ s) : Keeps s₀ (clockCheck s cause) :=
  .ite (.ite k (.ite (switchInput_keeps k) (.ite (fallBack_keeps k) (enterHold_keeps k))))
    (.ite (.ite (.ite (raiseNmi_keeps (forceReturn_keeps k)) (enterHold_keeps k)) (.ite (switchMarks_keeps k) k))
      (.ite (.ite (leaveHold_keeps k) k) k))

theorem clockAtStart_keeps {s₀ s : State} (k : Keeps s₀ s) : Keeps s₀ (clockAtStart s) :=
  .ite (returnClock_keeps (chosenNow_keeps k)) (.ite (switchInput_keeps (chosenNow_keeps k)) (.ite (switchMarks_keeps (chosenNow_keeps k)) k))

end Sys2Proof.Machine
end

section
/-! SUPPORT. What the functions of Machine/TileCmds.lean keep. -/

namespace Sys2Proof.Machine

theorem reachIllegal_keeps {s₀ s : State} {t e w'} (k : Keeps s₀ s) : Keeps s₀ (reachIllegal s t e w') := by
  unfold reachIllegal
  dsimp only
  split
  · exact k
  · split
    · exact k
    · exact .ite k (tileFault_keeps (setTile_keeps k))

end Sys2Proof.Machine
end

section
/-! SUPPORT. What the functions of Machine/Admission.lean keep. -/

namespace Sys2Proof.Machine

theorem queueMask_keeps {s₀ s : State} {h j} (k : Keeps s₀ s) : Keeps s₀ (queueMask s h j) := modHalf_keeps k

theorem addMaskJob_keeps {s₀ s : State} {n p q} (k : Keeps s₀ s) : Keeps s₀ (addMaskJob s n p q) := by
  unfold addMaskJob
  dsimp only
  split
  · exact k
  · split
    · exact .ite (queueMask_keeps (.ite (queueMask_keeps (modHalf_keeps k)) (modHalf_keeps k)))
        (.ite (queueMask_keeps (modHalf_keeps k)) (modHalf_keeps k))
    · exact k

theorem addBackJob_keeps {s₀ s : State} {n p} (k : Keeps s₀ s) : Keeps s₀ (addBackJob s n p) := by
  unfold addBackJob
  dsimp only
  split
  · exact queueMask_keeps k
  · exact k

end Sys2Proof.Machine
end

section
/-! SUPPORT. What the functions of Machine/Messages.lean keep. -/

namespace Sys2Proof.Machine

theorem countToks_keeps {s₀ s : State} {off n bad} (k : Keeps s₀ s) : Keeps s₀ (countToks s off n bad) := .ite (countPoison_keeps k) k

theorem dropTaken_keeps {s₀ s : State} (k : Keeps s₀ s) : Keeps s₀ (dropTaken s) := k

theorem countEpoch_keeps {s₀ s : State} {m} (k : Keeps s₀ s) : Keeps s₀ (countEpoch s m) := .ite k k

theorem decide1_keeps {s₀ s : State} {m bad f} (hf : ∀ {s}, Keeps s₀ s → Keeps s₀ (f s)) (k : Keeps s₀ s) :
    Keeps s₀ (decide1 s m bad f) := by
  unfold decide1
  split
  · exact answerSlot_keeps k
  · exact hf k

theorem trimJobs_keeps {s₀ s : State} {n p} (k : Keeps s₀ s) : Keeps s₀ (trimJobs s n p) := modHalf_keeps k

theorem takeBack_keeps {s₀ s0 : State} {n dst} (k : Keeps s₀ s0) : Keeps s₀ (takeBack s0 n dst) :=
  .ite k (drainMasks_keeps (addBackJob_keeps (modSlot_keeps (releaseFrom_keeps (trimJobs_keeps (drainMasks_keeps k))))))

theorem applyTokens_keeps {s₀ s : State} {m turn} (k : Keeps s₀ s) : Keeps s₀ (applyTokens s m turn) := by
  unfold applyTokens
  extract_lets +onlyGivenNames n' n c old toks s1 s2
  have k1 : Keeps s₀ s1 := takePages_keeps k
  have k2 : Keeps s₀ s2 := modSlot_keeps k1
  exact addMaskJob_keeps (stampDue_keeps (setDeadline_keeps (commitTo_keeps k2)))

theorem lateTokens_keeps {s₀ s : State} {m turn n} (k : Keeps s₀ s) : Keeps s₀ (lateTokens s m turn n) := .ite k (sendBlockEvent_keeps k)

theorem excuseHeld_keeps {s₀ s : State} {k' p q} (k : Keeps s₀ s) : Keeps s₀ (excuseHeld s k' p q) := .ite k (modSlot_keeps k)

theorem decideTokens_keeps {s₀ s : State} {m turn} (k : Keeps s₀ s) : Keeps s₀ (decideTokens s m turn) :=
  decide1_keeps (fun k => publishSlot_keeps (lateTokens_keeps (answerSlot_keeps (applyTokens_keeps (countEpoch_keeps k))))) (countToks_keeps k)

theorem decideHeld_keeps {s₀ s : State} {m turn} (k : Keeps s₀ s) : Keeps s₀ (decideHeld s m turn) :=
  decide1_keeps (fun k => publishSlot_keeps (lateTokens_keeps (answerSlot_keeps (applyTokens_keeps (excuseHeld_keeps (countEpoch_keeps k))))))
    (countToks_keeps k)

theorem decideTakeback_keeps {s₀ s : State} {m} (k : Keeps s₀ s) : Keeps s₀ (decideTakeback s m) :=
  decide1_keeps (fun k => answerSlot_keeps (takeBack_keeps (countEpoch_keeps k))) k

theorem applyHeld_keeps {s₀ s : State} {ms r} (k : Keeps s₀ s) : Keeps s₀ (applyHeld ms s r) := by
  induction ms generalizing s with
  | nil => exact k
  | cons m ms ih =>
    refine ih ?_
    split
    · exact answerSlot_keeps k
    · exact .ite (decideHeld_keeps k) (decideTakeback_keeps k)

theorem afterRebuild_keeps {s₀ s : State} {n} (k : Keeps s₀ s) : Keeps s₀ (afterRebuild s n) :=
  .ite k (applyHeld_keeps (drainMasks_keeps (modSlot_keeps k)))

theorem publish_keeps {s₀ s : State} {n} (k : Keeps s₀ s) : Keeps s₀ (publish s n) := afterRebuild_keeps (drainMasks_keeps (publishSlot_keeps k))

theorem afterBatches_keeps {s₀ s : State} (k : Keeps s₀ s) : Keeps s₀ (afterBatches s) :=
  .foldl (fun _ _ k => afterRebuild_keeps (drainMasks_keeps k)) k

theorem onTokens_keeps {s₀ s : State} {m} (k : Keeps s₀ s) : Keeps s₀ (onTokens s m) := by
  unfold onTokens
  dsimp only
  split
  · exact answerSlot_keeps k
  · split
    · exact answerSlot_keeps k
    · exact .ite (modSlot_keeps k) (.ite (publish_keeps (decideTokens_keeps k)) (answerSlot_keeps k))

theorem onTakeback_keeps {s₀ s : State} {m} (k : Keeps s₀ s) : Keeps s₀ (onTakeback s m) := by
  unfold onTakeback
  dsimp only
  split
  · exact answerSlot_keeps k
  · split
    · exact answerSlot_keeps k
    · exact .ite (modSlot_keeps k) (.ite (decideTakeback_keeps k) (answerSlot_keeps k))

theorem onResign_keeps {s₀ s : State} {m} (k : Keeps s₀ s) : Keeps s₀ (onResign s m) := by
  unfold onResign
  split
  · exact answerSlot_keeps k
  · split
    · exact answerSlot_keeps k
    · exact answerSlot_keeps (endRequest_keeps (countEpoch_keeps k))

theorem onPause_keeps {s₀ s : State} {m} (k : Keeps s₀ s) : Keeps s₀ (onPause s m) := by
  unfold onPause
  dsimp only
  split
  · exact answerSlot_keeps k
  · split
    · exact answerSlot_keeps k
    · exact .ite (answerSlot_keeps k) (answerSlot_keeps (modSlot_keeps (takeBack_keeps (countEpoch_keeps k))))

theorem dropHandle_keeps {s₀ s : State} {h i x} (k : Keeps s₀ s) : Keeps s₀ (dropHandle s h i x) := modHalf_keeps k

theorem handleExt_keeps {s₀ s : State} {h pages} (k : Keeps s₀ s) : Keeps s₀ (handleExt s h pages).1 := by
  unfold handleExt
  split
  · exact k
  · exact .mem (addRef_keeps k) fun w => memWrite_wf _ _ _ w

theorem makeHandle_keeps {s₀ s : State} {k' i len v ttl} (k : Keeps s₀ s) : Keeps s₀ (makeHandle s k' i len v ttl) :=
  .ite (takeEntry_keeps (modHalf_keeps (handleExt_keeps (.foldl (fun _ _ k => addRef_keeps k) k))))
    (modHalf_keeps (handleExt_keeps (.foldl (fun _ _ k => addRef_keeps k) k)))

theorem onMark_keeps {s₀ s : State} {m} (k : Keeps s₀ s) : Keeps s₀ (onMark s m) := by
  unfold onMark
  dsimp only
  split
  · exact answerSlot_keeps k
  · split
    · exact answerSlot_keeps k
    · split
      · exact answerSlot_keeps k
      · split
        · exact answerSlot_keeps k
        · split
          · exact answerSlot_keeps k
          · split
            · exact answerSlot_keeps k
            · exact .ite (answerSlot_keeps k) (answerSlot_keeps (makeHandle_keeps (countEpoch_keeps k)))

theorem onDrop_keeps {s₀ s : State} {m} (k : Keeps s₀ s) : Keeps s₀ (onDrop s m) := by
  unfold onDrop
  split
  · exact answer_keeps k
  · split
    · exact answer_keeps k
    · exact answer_keeps (dropHandle_keeps k)

theorem admitSlot_keeps {s₀ s : State} {m n img i hd p pl} (k : Keeps s₀ s) : Keeps s₀ (admitSlot s m n img i hd p pl) :=
  .foldl (fun _ _ k => setSlotPage_keeps k) (.ite (modSlot_keeps (.foldl (fun _ _ k => addRef_keeps k) k))
    (takeExt_keeps (modSlot_keeps (.foldl (fun _ _ k => addRef_keeps k) k))))

theorem onAdmit_keeps {s₀ s : State} {m} (k : Keeps s₀ s) : Keeps s₀ (onAdmit s m) := by
  unfold onAdmit
  extract_lets +onlyGivenNames t plen no
  have hno : ∀ st, Keeps s₀ (no st) := fun st => answer_keeps k
  split
  · exact hno _
  · split
    · exact hno _
    · split
      · exact hno _
      · split
        · exact hno _
        · extract_lets +onlyGivenNames hd h len early ring s2 no2
          have k2 : Keeps s₀ s2 := .ite (countPoison_keeps k) k
          have hno2 : ∀ st, Keeps s₀ (no2 st) := fun st => answer_keeps k2
          clear_value early
          split
          · exact hno2 _
          · split
            · extract_lets +onlyGivenNames s3
              exact answer_keeps (.ite (countPoison_keeps (countPoison_keeps k2)) (countPoison_keeps k2))
            · split
              · exact hno2 _
              · extract_lets +onlyGivenNames s3
                split
                · exact hno2 _
                · split
                  · exact hno2 _
                  · extract_lets +onlyGivenNames s4 s5
                    exact answer_keeps (addMaskJob_keeps (setDeadline_keeps (takePages_keeps (admitSlot_keeps k2))))

theorem openRun_keeps {s₀ s : State} {k' n p pl toks} (k : Keeps s₀ s) : Keeps s₀ (openRun s k' n p pl toks) := modSlot_keeps k

theorem onResume_keeps {s₀ s : State} {m} (k : Keeps s₀ s) : Keeps s₀ (onResume s m) := by
  unfold onResume
  dsimp only
  split
  · exact answerSlot_keeps k
  · split
    · exact answerSlot_keeps k
    · split
      · exact answerSlot_keeps k
      · split
        · exact answerSlot_keeps (countToks_keeps k)
        · split
          · exact answerSlot_keeps k
          · exact answerSlot_keeps (addMaskJob_keeps (setDeadline_keeps (modSlot_keeps (openRun_keeps (takePages_keeps (countEpoch_keeps k))))))

theorem enterLost_keeps {s₀ s : State} {n quiet} (k : Keeps s₀ s) : Keeps s₀ (enterLost s n quiet) := by
  unfold enterLost
  extract_lets x c s1 s2 s3
  have k2 : Keeps s₀ s2 := modSlot_keeps (releaseAll_keeps (modHalf_keeps (dropRows_keeps k)))
  have k3 : Keeps s₀ s3 := .ite (voidFill_keeps k2) k2
  exact .ite k3 (sendSlotEvent_keeps k3)

theorem onResumeLoss_keeps {s₀ s : State} {m} (k : Keeps s₀ s) : Keeps s₀ (onResumeLoss s m) := by
  unfold onResumeLoss
  dsimp only
  split
  · exact answerSlot_keeps k
  · split
    · exact answerSlot_keeps k
    · exact .ite (answerSlot_keeps (enterLost_keeps (countEpoch_keeps k))) (answerSlot_keeps k)

theorem countEntries_keeps {s₀ s : State} {n i p q} (k : Keeps s₀ s) : Keeps s₀ (countEntries s n i p q) :=
  .foldl (fun _ _ k => .foldl (fun _ _ k => .ite k (countPoison_keeps k)) k) k

theorem onResumeRebuild_keeps {s₀ s : State} {m} (k : Keeps s₀ s) : Keeps s₀ (onResumeRebuild s m) := by
  unfold onResumeRebuild
  dsimp only
  split
  · exact answerSlot_keeps k
  · split
    · exact answerSlot_keeps k
    · split
      · exact answerSlot_keeps k
      · split
        · exact answerSlot_keeps (countToks_keeps k)
        · split
          · exact answerSlot_keeps (addMaskJob_keeps (setDeadline_keeps (modSlot_keeps (takePages_keeps (countEpoch_keeps k)))))
          · exact answerSlot_keeps k

theorem decideMsg_keeps {s₀ s : State} {m} (k : Keeps s₀ s) : Keeps s₀ (decideMsg s m) := by
  unfold decideMsg
  split
  · exact onAdmit_keeps k
  · exact onTokens_keeps k
  · exact onTakeback_keeps k
  · exact onResign_keeps k
  · exact onPause_keeps k
  · exact .ite (onResume_keeps k) (.ite (onResumeLoss_keeps k) (onResumeRebuild_keeps k))
  · exact .ite (onDrop_keeps k) (onMark_keeps k)
  · exact k

theorem decideTaken_keeps {s₀ s : State} (k : Keeps s₀ s) : Keeps s₀ (decideTaken s) := .ite (.foldl (fun _ _ k => decideMsg_keeps k) k) k

theorem onMessage_keeps {s₀ s : State} {m kind f} (hf : ∀ {s m}, Keeps s₀ s → Keeps s₀ (f s m)) (k : Keeps s₀ s) :
    Keeps s₀ (onMessage s m kind f) :=
  .ite (hf (dropTaken_keeps k)) k

end Sys2Proof.Machine
end

section
/-! SUPPORT. What the functions of Machine/MaskSets.lean keep. -/

namespace Sys2Proof.Machine

theorem retireMset_keeps {s₀ s : State} {n i} (k : Keeps s₀ s) : Keeps s₀ (retireMset s n i) :=
  sendBlockEvent_keeps (setImage_keeps (winPut_keeps k))

theorem freeImage_keeps {s₀ s : State} {n i} (k : Keeps s₀ s) : Keeps s₀ (freeImage s n i) :=
  .ite k (.ite (setImage_keeps k) (.ite (retireMset_keeps k) (setImage_keeps k)))

theorem freeImages_keeps {s₀ s : State} (k : Keeps s₀ s) : Keeps s₀ (freeImages s) := .foldl (fun _ _ k => freeImage_keeps k) k

theorem msetReturned_keeps {s₀ s : State} {k'} (k : Keeps s₀ s) : Keeps s₀ (msetReturned s k') := by
  unfold msetReturned
  split
  · exact k
  · split
    · exact k
    · exact retireMset_keeps k

end Sys2Proof.Machine
end

section
/-! SUPPORT. What the functions of Machine/Sequencer.lean keep. -/

namespace Sys2Proof.Machine

theorem expireSlot_keeps {s₀ s : State} {n} (k : Keeps s₀ s) : Keeps s₀ (expireSlot s n) :=
  .ite (.ite (endRequest_keeps (enterLost_keeps k)) (enterLost_keeps k)) k

theorem expireHandle_keeps {s₀ s : State} {h i} (k : Keeps s₀ s) : Keeps s₀ (expireHandle s h i) := by
  unfold expireHandle
  split
  · exact k
  · exact .ite (sendHalfEvent_keeps (dropHandle_keeps k)) k

theorem expireAll_keeps {s₀ s : State} (k : Keeps s₀ s) : Keeps s₀ (expireAll s) :=
  .foldl (fun _ _ k => expireHandle_keeps k) (.foldl (fun _ _ k => expireHandle_keeps k) (.foldl (fun _ _ k => expireSlot_keeps k) k))

theorem giveScale_keeps {s₀ s : State} {n sc} (k : Keeps s₀ s) : Keeps s₀ (giveScale s n sc) := .upd (modHalf_keeps k)

theorem doubleSlot_keeps {s₀ s : State} {n} (k : Keeps s₀ s) : Keeps s₀ (doubleSlot s n) := by
  unfold doubleSlot
  dsimp only
  split
  · exact k
  · exact giveScale_keeps (modSlot_keeps (.ite (countEntries_keeps k) k))

theorem dropUnused_keeps {s₀ s : State} {h} (k : Keeps s₀ s) : Keeps s₀ (dropUnused s h) :=
  modHalf_keeps (dropRefs_keeps (.foldl (fun _ _ k => modSlot_keeps (dropRefs_keeps k)) k))

theorem freeSlotNow_keeps {s₀ s : State} {n} (k : Keeps s₀ s) : Keeps s₀ (freeSlotNow s n) := .ite (setSlot_keeps k) k

theorem addMeter_keeps {s₀ s : State} {c k' n} (k : Keeps s₀ s) : Keeps s₀ (addMeter s c k' n) := k

theorem meterKernels_keeps {s₀ s : State} {h} (k : Keeps s₀ s) : Keeps s₀ (meterKernels s h) :=
  modHalf_keeps (.foldl (fun _ _ k => addMeter_keeps k) k)

theorem meterSlots_keeps {s₀ s : State} {h} (k : Keeps s₀ s) : Keeps s₀ (meterSlots s h) := by
  unfold meterSlots
  refine .foldl (fun _ _ k => ?_) k
  split
  · exact k
  · exact addMeter_keeps k

theorem retireOld_keeps {s₀ s : State} (k : Keeps s₀ s) : Keeps s₀ (retireOld s) := by
  unfold retireOld
  split
  · exact k
  · exact .ite k (sendBlockEvent_keeps k)

theorem drainCodes_keeps {s₀ s : State} {turn} (k : Keeps s₀ s) : Keeps s₀ (drainCodes s turn) := k

theorem closeBatches_keeps {s₀ s : State} {h t} (k : Keeps s₀ s) : Keeps s₀ (closeBatches s h t) := by
  unfold closeBatches
  extract_lets last ts s1
  have k1 : Keeps s₀ s1 := .foldl (fun _ _ k => batchJoin_keeps k) k
  exact .ite (afterBatches_keeps (.foldl (fun _ _ k => drainTenant_keeps k) k1)) k1

theorem closeTurn_keeps {s₀ s : State} {h t} (k : Keeps s₀ s) : Keeps s₀ (closeTurn s h t) := by
  unfold closeTurn
  extract_lets +onlyGivenNames s1 mine s2 s3 s4 s5
  have k2 : Keeps s₀ s2 := dropUnused_keeps (.foldl (fun _ _ k => doubleSlot_keeps k) (closeBatches_keeps k))
  have k3 : Keeps s₀ s3 := .foldl (fun _ _ k => freeSlotNow_keeps k) k2
  have k5 : Keeps s₀ s5 := drainCodes_keeps (retireOld_keeps (meterSlots_keeps (meterKernels_keeps k3)))
  exact freeImages_keeps (.upd k5)

theorem takeOver_keeps {s₀ s : State} {t} (k : Keeps s₀ s) : Keeps s₀ (takeOver s t) := by
  unfold takeOver
  split
  · exact k
  · exact .ite k k

theorem freshSeqs_keeps {s₀ s : State} {h t} (k : Keeps s₀ s) : Keeps s₀ (freshSeqs s h t) := by
  unfold freshSeqs
  split
  · exact k
  · exact .ite (modHalf_keeps k) k

theorem activate_keeps {s₀ s : State} {t g turn} (k : Keeps s₀ s) : Keeps s₀ (activate s t g turn) := sendBlockEvent_keeps k

theorem planActs_keeps {s₀ s : State} {t} (k : Keeps s₀ s) : Keeps s₀ (planActs s t) := .foldl (fun _ _ k => activate_keeps k) k

theorem serveImages_keeps {s₀ s : State} (k : Keeps s₀ s) : Keeps s₀ (serveImages s) := k

theorem changeBase_keeps {s₀ s : State} {t} (k : Keeps s₀ s) : Keeps s₀ (changeBase s t) :=
  .ite k (sendBlockEvent_keeps (.ite k (chosenNow_keeps (modeRelock_keeps k))))

theorem chooseBox_keeps {s₀ s : State} {h t} (k : Keeps s₀ s) : Keeps s₀ (chooseBox s h t) := .ite k (chosenNow_keeps (modeRelock_keeps k))

theorem catchUp_keeps {s₀ s : State} {h t} (k : Keeps s₀ s) : Keeps s₀ (catchUp s h t) :=
  .ite (sendBlockEvent_keeps (modHalf_keeps k)) (.ite (sendBlockEvent_keeps (modHalf_keeps k)) (modHalf_keeps k))

theorem checkHalf_keeps {s₀ s : State} {h} (k : Keeps s₀ s) : Keeps s₀ (checkHalf s h) := .foldl (fun _ _ k => checkReady_keeps k) k

theorem closePlanLess_keeps {s₀ s : State} {h t} (k : Keeps s₀ s) : Keeps s₀ (closePlanLess s h t) :=
  .ite (.ite k (checkHalf_keeps k)) (.foldl (fun _ _ k => closeTurn_keeps (modHalf_keeps k)) (.ite k (checkHalf_keeps k)))

theorem beginPlan_keeps {s₀ s : State} {h t marked} (k : Keeps s₀ s) : Keeps s₀ (beginPlan s h t marked) :=
  chooseBox_keeps (changeBase_keeps (clockAtStart_keeps (catchUp_keeps (.upd
    (modHalf_keeps (serveImages_keeps (planActs_keeps (freshSeqs_keeps (takeOver_keeps (closePlanLess_keeps k))))))))))

theorem rebuildEnd_keeps {s₀ s : State} {n r} (k : Keeps s₀ s) : Keeps s₀ (rebuildEnd s n r) := by
  unfold rebuildEnd
  dsimp only
  split
  · exact k
  · exact .ite k (.ite (failRequest_keeps k) (publish_keeps (stampDue_keeps
      (setDeadline_keeps (commitTo_keeps (modSlot_keeps (sendSlotEvent_keeps k)))))))

theorem waitEnd_keeps {s₀ s : State} {h t} (k : Keeps s₀ s) : Keeps s₀ (waitEnd s h t) := by
  unfold waitEnd
  dsimp only
  split
  · exact .upd (modHalf_keeps k)
  · exact .upd (modHalf_keeps k)

theorem settlePlans_keeps {s₀ s : State} {fuel h} (k : Keeps s₀ s) : Keeps s₀ (settlePlans fuel s h) := by
  induction fuel generalizing s with
  | zero => exact k
  | succ fuel ih =>
    unfold settlePlans
    split
    · exact k
    · extract_lets +onlyGivenNames s0 s1
      have k0 : Keeps s₀ s0 := closePlanLess_keeps k
      have k1 : Keeps s₀ s1 := .ite (checkHalf_keeps (.foldl (fun _ _ k => rebuildEnd_keeps k) k0)) k0
      split
      · exact k1
      · extract_lets +onlyGivenNames s3
        have k3 : Keeps s₀ s3 := closeTurn_keeps (modHalf_keeps (waitEnd_keeps k1))
        split
        · exact k3
        · exact .ite k3 (ih (beginPlan_keeps (modHalf_keeps k3)))

theorem settleHalf_keeps {s₀ s : State} {h} (k : Keeps s₀ s) : Keeps s₀ (settleHalf s h) := settlePlans_keeps k

theorem markHalf_keeps {s₀ s : State} {h t marked} (k : Keeps s₀ s) : Keeps s₀ (markHalf s h t marked) := by
  unfold markHalf
  split
  · exact k
  · extract_lets +onlyGivenNames s1
    have k1 : Keeps s₀ s1 := modHalf_keeps k
    split
    · exact settleHalf_keeps (beginPlan_keeps (modHalf_keeps k1))
    · exact k1

theorem addPlanLess_keeps {s₀ s : State} {l} (k : Keeps s₀ s) : Keeps s₀ (addPlanLess s l) := k

theorem acceptMark_keeps {s₀ s : State} {t at_ skipped} (k : Keeps s₀ s) : Keeps s₀ (acceptMark s t at_ skipped) :=
  markHalf_keeps (markHalf_keeps (expireAll_keeps (.ite (sendBlockEvent_keeps (.ite (sendBlockEvent_keeps k) k))
    (.ite (sendBlockEvent_keeps k) k))))

theorem takeMark_keeps {s₀ s : State} {t at_} (k : Keeps s₀ s) : Keeps s₀ (takeMark s t at_) :=
  .ite (acceptMark_keeps k) (.ite k (.ite (.upd (addPlanLess_keeps k)) (.ite (acceptMark_keeps k)
    (acceptMark_keeps (.upd (addPlanLess_keeps k))))))

theorem takeMarks_keeps {s₀ s : State} {ps} (k : Keeps s₀ s) : Keeps s₀ (takeMarks ps s) := by
  induction ps generalizing s with
  | nil => exact k
  | cons p ps ih => exact ih (takeMark_keeps k)

theorem flushMarks_keeps {s₀ s : State} (k : Keeps s₀ s) : Keeps s₀ (flushMarks s) := .ite k (.ite (takeMarks_keeps k) k)

theorem sofArrives_keeps {s₀ s : State} {i p} (k : Keeps s₀ s) : Keeps s₀ (sofArrives s i p) :=
  .ite (.upd (setTb_keeps k)) (.ite (flushMarks_keeps (.upd (.upd (.upd (setTb_keeps k))))) (.upd (.upd (setTb_keeps k))))

theorem stallNow_keeps {s₀ s : State} (k : Keeps s₀ s) : Keeps s₀ (stallNow s) := sendBlockEvent_keeps k

end Sys2Proof.Machine
end

section
/-! SUPPORT. What the functions of Machine/Kernels.lean keep. -/

namespace Sys2Proof.Machine

theorem enterPos_keeps {s₀ s0 : State} {i n p} (k : Keeps s₀ s0) : Keeps s₀ (enterPos i n s0 p) :=
  .foldl (fun _ _ k => .ite k (.mem k fun w => memPutWord_wf _ _ _ w)) (.mem k fun w => memWrite_wf _ _ _ w)

theorem enterPositions_keeps {s₀ s : State} {i n q} (k : Keeps s₀ s) : Keeps s₀ (enterPositions s i n q) :=
  modSlot_keeps (.foldl (fun _ _ k => enterPos_keeps k) k)

theorem cutSlotTo_keeps {s₀ s : State} {i t l n} (k : Keeps s₀ s) : Keeps s₀ (cutSlotTo i t l s n) :=
  .ite k (modSlot_keeps (enterPositions_keeps k))

theorem countExcess_keeps {s₀ s : State} {t turn} (k : Keeps s₀ s) : Keeps s₀ (countExcess s t turn) := .ite k (sendBlockEvent_keeps k)

theorem formBatch_keeps {s₀ s : State} {h t n i} (k : Keeps s₀ s) : Keeps s₀ (formBatch s h t n i).1 :=
  modHalf_keeps (.ite (countExcess_keeps (.foldl (fun _ _ k => cutSlotTo_keeps k) k)) (.foldl (fun _ _ k => cutSlotTo_keeps k) k))

theorem formBatches_keeps {s₀ s : State} {h t l} (k : Keeps s₀ s) : Keeps s₀ (formBatches h t l s).1 := by
  induction l generalizing s with
  | nil => exact k
  | cons p l ih => exact ih (formBatch_keeps k)

theorem cutTenant_keeps {s₀ s : State} {h p t} (k : Keeps s₀ s) : Keeps s₀ (cutTenant s h p t) := modHalf_keeps (formBatches_keeps k)

theorem ownPages_keeps {s₀ s : State} {r} (k : Keeps s₀ s) : Keeps s₀ (ownPages s r) := .ite (takePages_keeps k) k

theorem clearCounts_keeps {s₀ s : State} {i n p} (k : Keeps s₀ s) : Keeps s₀ (clearCounts i n s p) :=
  .foldl (fun _ _ k => .ite k (.ite (countPoison_keeps k) (.mem k fun w => memPutWord_wf _ _ _ w))) k

theorem clearPositions_keeps {s₀ s : State} {i n p q} (k : Keeps s₀ s) : Keeps s₀ (clearPositions s i n p q) :=
  .foldl (fun _ _ k => clearCounts_keeps k) k

theorem beginCounts_keeps {s₀ s : State} {i num r} (k : Keeps s₀ s) : Keeps s₀ (beginCounts i num s r) :=
  .ite k (enterPositions_keeps (clearPositions_keeps k))

theorem startJob_keeps {s₀ s : State} {j i desc} (k : Keeps s₀ s) : Keeps s₀ (startJob s j i desc) := by
  unfold startJob
  extract_lets +onlyGivenNames j1 s0 s1
  have k0 : Keeps s₀ s0 := .foldl (fun _ _ k => ownPages_keeps k) k
  have k1 : Keeps s₀ s1 := .ite (.foldl (fun _ _ k => beginCounts_keeps k) k0) k0
  exact dispatchTile_keeps (modHalf_keeps k1)

theorem dispatchPlan_keeps {s₀ s : State} {fuel h} (k : Keeps s₀ s) : Keeps s₀ (dispatchPlan fuel s h) := by
  induction fuel generalizing s with
  | zero => exact k
  | succ fuel ih =>
    unfold dispatchPlan
    split
    · exact k
    · split
      · exact modHalf_keeps k
      · exact .ite k (.ite (ih (decideTaken_keeps k)) (ih (cutTenant_keeps k)))
      · split
        · exact k
        · extract_lets +onlyGivenNames s1
          have k1 : Keeps s₀ s1 := modHalf_keeps k
          split
          · extract_lets +onlyGivenNames j
            split
            · exact startJob_keeps k1
            · exact ih k1
          · exact ih k1

theorem dispatchMask_keeps {s₀ s : State} {h} (k : Keeps s₀ s) : Keeps s₀ (dispatchMask s h) := by
  unfold dispatchMask
  split
  · split
    · exact k
    · extract_lets +onlyGivenNames c
      split
      · exact k
      · exact startJob_keeps (modHalf_keeps k)
  · exact k

theorem dispatchReplay_keeps {s₀ s : State} {h} (k : Keeps s₀ s) : Keeps s₀ (dispatchReplay s h) := by
  unfold dispatchReplay
  split
  · exact k
  · split
    · exact k
    · split
      · exact startJob_keeps (modHalf_keeps k)
      · exact modHalf_keeps k

theorem kernelDispatch_keeps {s₀ s : State} {h l} (k : Keeps s₀ s) : Keeps s₀ (kernelDispatch s h l) := by
  unfold kernelDispatch
  split
  · exact k
  · split
    · exact .ite k (settleHalf_keeps (dispatchPlan_keeps k))
    · exact dispatchMask_keeps k
    · exact settleHalf_keeps (dispatchReplay_keeps k)

theorem meterJob_keeps {s₀ s : State} {j} (k : Keeps s₀ s) : Keeps s₀ (meterJob s j) := by
  unfold meterJob
  split
  · exact k
  · exact modHalf_keeps k

theorem rowComputed_keeps {s₀ s : State} {r} (k : Keeps s₀ s) : Keeps s₀ (rowComputed s r) :=
  .ite k (publish_keeps (stampDue_keeps (modSlot_keeps k)))

theorem rowMasked_keeps {s₀ s : State} {r} (k : Keeps s₀ s) : Keeps s₀ (rowMasked s r) := .ite k (drainMasks_keeps (modSlot_keeps k))

theorem clearNamed_keeps {s₀ s : State} {n p} (k : Keeps s₀ s) : Keeps s₀ (clearNamed n s p) := modHalf_keeps k

theorem rowMaskedAgain_keeps {s₀ s : State} {r} (k : Keeps s₀ s) : Keeps s₀ (rowMaskedAgain s r) :=
  .ite k (.foldl (fun _ _ k => .ite (publishMask_keeps (clearNamed_keeps k)) k) (rowMasked_keeps (.foldl (fun _ _ k => clearNamed_keeps k) k)))

theorem checkSnap_keeps {s₀ s : State} {j c} (k : Keeps s₀ s) : Keeps s₀ (checkSnap j s c) :=
  .ite k (.ite (.mem k fun w => memPutWords_wf _ _ _ w) (detect_keeps k))

theorem unblock_keeps {s₀ s : State} {h} (k : Keeps s₀ s) : Keeps s₀ (unblock s h) := .foldl (fun _ _ k => publish_keeps (modSlot_keeps k)) k

theorem entryReplayed_keeps {s₀ s : State} {l} (k : Keeps s₀ s) : Keeps s₀ (entryReplayed s l) := by
  unfold entryReplayed
  dsimp only
  split
  · exact k
  · exact .ite k (unblock_keeps (.ite (.upd (modEntry_keeps (modEntry_keeps k))) (modEntry_keeps (modEntry_keeps k))))

theorem replayEnd_keeps {s₀ s : State} {j} (k : Keeps s₀ s) : Keeps s₀ (replayEnd s j) := by
  unfold replayEnd
  dsimp only
  split
  · exact .ite (.foldl (fun _ _ k => rowComputed_keeps (modSlot_keeps k)) (.foldl (fun _ _ k => checkSnap_keeps k) k)) k
  · exact entryReplayed_keeps (.ite (.foldl (fun _ _ k => rowComputed_keeps (modSlot_keeps k)) (.foldl (fun _ _ k => checkSnap_keeps k) k)) k)

theorem verdictRows_keeps {s₀ s : State} {j} (k : Keeps s₀ s) : Keeps s₀ (verdictRows s j) := .ite (.foldl (fun _ _ k => rowComputed_keeps k) k) k

theorem resumeCounts_keeps {s₀ s : State} {t} (k : Keeps s₀ s) : Keeps s₀ (resumeCounts s t) := by
  unfold resumeCounts
  dsimp only
  split
  · exact k
  · exact setTile_keeps k

theorem dropReplay_keeps {s₀ s : State} {j} (k : Keeps s₀ s) : Keeps s₀ (dropReplay s j) := modHalf_keeps k

theorem noteRan_keeps {s₀ s : State} {j r} (k : Keeps s₀ s) : Keeps s₀ (noteRan j s r) := .ite (modSlot_keeps k) k

theorem flushTile_keeps {s₀ s : State} {t} (k : Keeps s₀ s) : Keeps s₀ (flushTile s t) := dropTransfers_keeps (setTile_keeps k)

theorem jobEnded_keeps {s₀ s : State} {j} (k : Keeps s₀ s) : Keeps s₀ (jobEnded s j) := by
  unfold jobEnded
  extract_lets +onlyGivenNames s0 s1 s2
  have k0 : Keeps s₀ s0 := modHalf_keeps k
  have k1 : Keeps s₀ s1 :=
    resumeCounts_keeps (meterJob_keeps (.ite (flushTile_keeps k0) (.foldl (fun _ _ k => noteRan_keeps k) k0)))
  have k2 : Keeps s₀ s2 := by
    refine .ite ?_ ?_
    · split
      · exact k1
      · exact entryReplayed_keeps (dropReplay_keeps k1)
    · split
      · exact verdictRows_keeps k1
      · split
        · exact .foldl (fun _ _ k => rowMasked_keeps k) k1
        · exact entryReplayed_keeps (.foldl (fun _ _ k => rowMaskedAgain_keeps k) k1)
      · exact replayEnd_keeps k1
  exact noteQuiet_keeps (freeImages_keeps (settleHalf_keeps k2))

theorem kernelEnd_keeps {s₀ s : State} {t} (k : Keeps s₀ s) : Keeps s₀ (kernelEnd s t) := by
  unfold kernelEnd
  dsimp only
  split
  · exact k
  · exact .ite (.ite (jobEnded_keeps k) k) (.ite k (.ite (tileFault_keeps (setTile_keeps k)) (jobEnded_keeps (setTile_keeps k))))

end Sys2Proof.Machine
end

section
/-! SUPPORT. What the functions of Machine/Recovery.lean keep. -/

namespace Sys2Proof.Machine

theorem attribReq_keeps {s₀ s : State} {l q} (k : Keeps s₀ s) : Keeps s₀ (attribReq l s q) :=
  .ite k (.ite (modSlot_keeps (modEntry_keeps k)) (modEntry_keeps (failRequest_keeps (modEntry_keeps k))))

theorem abandonJob_keeps {s₀ s : State} {h num} (k : Keeps s₀ s) : Keeps s₀ (abandonJob s h num) := by
  unfold abandonJob
  split
  · exact k
  · exact modHalf_keeps k

theorem addReplay_keeps {s₀ s : State} {l r} (k : Keeps s₀ s) : Keeps s₀ (addReplay l s r) :=
  .ite (modHalf_keeps k) (modHalf_keeps (modSlot_keeps k))

theorem handleRequest_keeps {s₀ s : State} {e} (k : Keeps s₀ s) : Keeps s₀ (handleRequest s e) :=
  entryReplayed_keeps (.foldl (fun _ _ k => addReplay_keeps k) (setStep_keeps
    (.upd (setStep_keeps (abandonJob_keeps (.foldl (fun _ _ k => attribReq_keeps k) (setStep_keeps k)))))))

theorem failAll_keeps {s₀ s : State} {l ns} (k : Keeps s₀ s) : Keeps s₀ (failAll l s ns) :=
  .foldl (fun _ _ k => modEntry_keeps (failRequest_keeps k)) k

theorem dropTenant_keeps {s₀ s : State} {t h} (k : Keeps s₀ s) : Keeps s₀ (dropTenant t s h) := by
  unfold dropTenant
  refine .foldl (fun _ _ k => ?_) k
  split
  · exact k
  · exact .ite (sendHalfEvent_keeps (dropHandle_keeps k)) k

theorem closeImages_keeps {s₀ s : State} {t} (k : Keeps s₀ s) : Keeps s₀ (closeImages s t) := k

theorem handleTenant_keeps {s₀ s : State} {e} (k : Keeps s₀ s) : Keeps s₀ (handleTenant s e) :=
  setStep_keeps (freeImages_keeps (closeImages_keeps (dropTenant_keeps (dropTenant_keeps
    (failAll_keeps (abandonJob_keeps (supersede_keeps k)))))))

theorem stopHalf_keeps {s₀ s : State} {e} (k : Keeps s₀ s) : Keeps s₀ (stopHalf s e) := by
  unfold stopHalf
  dsimp only
  refine settleHalf_keeps ?_
  refine setStep_keeps ?_
  refine .foldl (fun _ _ k => ?_) (failAll_keeps (modHalf_keeps (supersede_keeps k)))
  split
  · exact k
  · exact dropHandle_keeps k

theorem handleHalf_keeps {s₀ s : State} {e} (k : Keeps s₀ s) : Keeps s₀ (handleHalf s e) := .ite (blockStop_keeps k) (stopHalf_keeps k)

theorem closeHandled_keeps {s₀ s : State} (k : Keeps s₀ s) : Keeps s₀ (closeHandled s) := by
  unfold closeHandled
  split
  · exact k
  · exact entryReplayed_keeps k

theorem handleOne_keeps {s₀ s : State} (k : Keeps s₀ s) : Keeps s₀ (handleOne s) := by
  unfold handleOne
  dsimp only
  split
  · exact closeHandled_keeps k
  · split
    · exact closeHandled_keeps k
    · split
      · exact handleRequest_keeps (closeHandled_keeps k)
      · exact handleTenant_keeps (closeHandled_keeps k)
      · exact handleHalf_keeps (closeHandled_keeps k)
      · exact closeHandled_keeps k

theorem handleNext_keeps {s₀ s : State} (k : Keeps s₀ s) : Keeps s₀ (handleNext s) :=
  .ite k (settleHalf_keeps (settleHalf_keeps (handleOne_keeps k)))

end Sys2Proof.Machine
end

section
/-! SUPPORT. What the functions of Machine/Gates.lean keep. -/

namespace Sys2Proof.Machine

theorem loseTile_keeps {s₀ s : State} {t} (k : Keeps s₀ s) : Keeps s₀ (loseTile s t) := .mem (setTile_keeps k) fun w => clearRange_wf _ _ _ w

theorem losePort_keeps {s₀ s : State} {p} (k : Keeps s₀ s) : Keeps s₀ (losePort s p) := by
  unfold losePort
  extract_lets +onlyGivenNames x _ s1
  have k1 : Keeps s₀ s1 := .mem k fun w => w
  exact .ite k1 (.upd k1)

theorem loseHalf_keeps {s₀ s : State} {h} (k : Keeps s₀ s) : Keeps s₀ (loseHalf s h) :=
  noteQuiet_keeps (.mem (setTb_keeps (setHalf_keeps k)) fun w => clearRange_wf _ _ _ w)

theorem loseDomain_keeps {s₀ s : State} {d} (k : Keeps s₀ s) : Keeps s₀ (loseDomain s d) :=
  .ite (.foldl (fun _ _ k => loseTile_keeps k) k) (.ite (.foldl (fun _ _ k => losePort_keeps k) k)
    (.ite (loseHalf_keeps k) (.foldl (fun _ _ k => hostDown_keeps k) k)))

theorem domainOff_keeps {s₀ s : State} {d} (k : Keeps s₀ s) : Keeps s₀ (domainOff s d) :=
  .ite (clockCheck_keeps (.upd (loseDomain_keeps k))) (.upd (loseDomain_keeps k))

theorem startTraining_keeps {s₀ s : State} {p} (k : Keeps s₀ s) : Keeps s₀ (startTraining s p) := .ite k k

theorem latchGroup_keeps {s₀ s : State} {d} (k : Keeps s₀ s) : Keeps s₀ (latchGroup s d) := .ite k k

theorem latchDeskew_keeps {s₀ s : State} {n} (k : Keeps s₀ s) : Keeps s₀ (latchDeskew s n) := k

theorem domainOn_keeps {s₀ s : State} {d} (k : Keeps s₀ s) : Keeps s₀ (domainOn s d) :=
  .ite (.foldl (fun _ _ k => startTraining_keeps k) (latchGroup_keeps k)) (latchGroup_keeps k)

theorem gateEnd_keeps {s₀ s : State} {res w'} (k : Keeps s₀ s) : Keeps s₀ (gateEnd s res w') := k

theorem runGate_keeps {s₀ s : State} {op d} (k : Keeps s₀ s) : Keeps s₀ (runGate s op d) :=
  .ite (.ite (gateEnd_keeps k) (gateEnd_keeps k)) (.ite (gateEnd_keeps (.ite k k))
    (.ite (.ite (gateEnd_keeps k) (gateEnd_keeps (domainOff_keeps k))) (.ite (gateEnd_keeps k) (gateEnd_keeps k))))

theorem gateCmd_keeps {s₀ s : State} {op d} (k : Keeps s₀ s) : Keeps s₀ (gateCmd s op d) :=
  .ite k (.ite (gateEnd_keeps k) (.ite (gateEnd_keeps k) (runGate_keeps k)))

theorem resumeGate_keeps {s₀ s : State} (k : Keeps s₀ s) : Keeps s₀ (resumeGate s) := .ite (runGate_keeps k) k

theorem handshakeDone_keeps {s₀ s : State} {cycles} (k : Keeps s₀ s) : Keeps s₀ (handshakeDone s cycles) := by
  unfold handshakeDone
  dsimp only
  split
  · exact .ite (gateEnd_keeps (.ite (domainOff_keeps k) k)) k
  · exact k

theorem handshakeTimeout_keeps {s₀ s : State} (k : Keeps s₀ s) : Keeps s₀ (handshakeTimeout s) := by
  unfold handshakeTimeout
  split
  · exact .ite (gateEnd_keeps k) k
  · exact k

theorem railDone_keeps {s₀ s : State} {good} (k : Keeps s₀ s) : Keeps s₀ (railDone s good) := by
  unfold railDone
  split
  · exact .ite k (.ite (gateEnd_keeps (domainOn_keeps k)) (gateEnd_keeps k))
  · exact k

end Sys2Proof.Machine
end

section
/-! SUPPORT. What the functions of Machine/Seal.lean keep. -/

namespace Sys2Proof.Machine

theorem countDir_keeps {s₀ s : State} (k : Keeps s₀ s) : Keeps s₀ (countDir s) := .ite (countPoison_keeps k) k

theorem sealBlock_keeps {s₀ s : State} (k : Keeps s₀ s) : Keeps s₀ (sealBlock s) := by
  unfold sealBlock
  split
  · exact k
  · split
    · exact .upd (countDir_keeps k)
    · exact .upd (stopElapsed_keeps (countDir_keeps k))

theorem beginShutdown_keeps {s₀ s : State} (k : Keeps s₀ s) : Keeps s₀ (beginShutdown s) := .ite (noteQuiet_keeps k) k

theorem fwLoadWrite_keeps {s₀ s : State} {d} (k : Keeps s₀ s) : Keeps s₀ (fwLoadWrite s d) := .ite k (.upd (countPoison_keeps k))

theorem unloadTenant_keeps {s₀ s : State} {t} (k : Keeps s₀ s) : Keeps s₀ (unloadTenant s t) := freeImages_keeps (closeImages_keeps k)

theorem stwCommand_keeps {s₀ s : State} {op t} (k : Keeps s₀ s) : Keeps s₀ (stwCommand s op t) :=
  .ite k (.ite k (.ite (.upd (unloadTenant_keeps k)) (.ite k k)))

end Sys2Proof.Machine
end

section
/-! SUPPORT. What the functions of Machine/RegWrite.lean keep. -/

namespace Sys2Proof.Machine

theorem selectSlot_keeps {s₀ s : State} {h d} (k : Keeps s₀ s) : Keeps s₀ (selectSlot s h d) := .ite k (modHalf_keeps k)

theorem writeReq_keeps {s₀ s : State} {h off d} (k : Keeps s₀ s) : Keeps s₀ (writeReq s h off d) :=
  .ite (.ite k (modHalf_keeps k)) (.ite (.ite k (modHalf_keeps k)) (.ite (selectSlot_keeps k) k))

theorem writeMode_keeps {s₀ s : State} {d} (k : Keeps s₀ s) : Keeps s₀ (writeMode s d) := .ite k k

theorem writeTurns_keeps {s₀ s : State} {off d} (k : Keeps s₀ s) : Keeps s₀ (writeTurns s off d) :=
  .ite k (.ite (.ite k k) (.ite k (.ite k (.ite k (.ite (writeMode_keeps k) (.ite (.ite k k) k))))))

theorem writeHpClk_keeps {s₀ s : State} {d} (k : Keeps s₀ s) : Keeps s₀ (writeHpClk s d) := .ite k k

theorem writeWindow_keeps {s₀ s : State} {off d} (k : Keeps s₀ s) : Keeps s₀ (writeWindow s off d) := by
  unfold writeWindow
  dsimp only
  split
  · exact .ite k k
  · split
    · exact .ite k k
    · split
      · exact .ite k k
      · split
        · exact k
        · split
          · exact writeHpClk_keeps k
          · split
            · exact k
            · split
              · exact k
              · exact setHp_keeps k

theorem writePorts_keeps {s₀ s : State} {off d} (k : Keeps s₀ s) : Keeps s₀ (writePorts s off d) := by
  unfold writePorts
  split
  · exact k
  · exact k

theorem routeLoadWrite_keeps {s₀ s : State} {d} (k : Keeps s₀ s) : Keeps s₀ (routeLoadWrite s d) := .ite k k

theorem countRoute_keeps {s₀ s : State} {off} (k : Keeps s₀ s) : Keeps s₀ (countRoute s off) := .ite (countPoison_keeps k) k

theorem routeLoaded_keeps {s₀ s : State} (k : Keeps s₀ s) : Keeps s₀ (routeLoaded s) := by
  unfold routeLoaded
  split
  · exact k
  · split
    · exact k
    · split
      · exact k
      · split
        · exact .upd (countRoute_keeps k)
        · exact .ite (sendBlockEvent_keeps k) k

theorem codeResult_keeps {s₀ s : State} {d op res} (k : Keeps s₀ s) : Keeps s₀ (codeResult s d op res) := .upd k

theorem codeLoadWrite_keeps {s₀ s : State} {d} (k : Keeps s₀ s) : Keeps s₀ (codeLoadWrite s d) :=
  .ite k (.ite (codeResult_keeps k) (.ite (codeResult_keeps k) (.ite (codeResult_keeps k)
    (.ite (codeResult_keeps (countPoison_keeps k)) (codeResult_keeps k)))))

theorem codeActWrite_keeps {s₀ s : State} {d} (k : Keeps s₀ s) : Keeps s₀ (codeActWrite s d) :=
  .ite k (.ite (codeResult_keeps k) (codeResult_keeps k))

theorem selectMeter_keeps {s₀ s : State} {d} (k : Keeps s₀ s) : Keeps s₀ (selectMeter s d) := k

theorem writeGroup_keeps {s₀ s : State} {off d} (k : Keeps s₀ s) : Keeps s₀ (writeGroup s off d) := by
  unfold writeGroup
  extract_lets +onlyGivenNames g
  refine .ite (.ite k k) (.ite (.ite k k) (.ite (.ite k k) (.ite k (.ite k (.ite (routeLoadWrite_keeps k) (.ite k
    (.ite (codeLoadWrite_keeps k) (.ite (codeActWrite_keeps k) (.ite k (.ite (selectMeter_keeps k) ?_))))))))))
  split
  · exact k
  · exact .upd k

theorem writeClkCtl_keeps {s₀ s : State} {now manual} (k : Keeps s₀ s) : Keeps s₀ (writeClkCtl s now manual) := k

theorem writeCal_keeps {s₀ s : State} {f} (k : Keeps s₀ s) : Keeps s₀ (writeCal s f) := .ite k k

theorem writeClocks_keeps {s₀ s : State} {off d} (k : Keeps s₀ s) : Keeps s₀ (writeClocks s off d) := by
  unfold writeClocks
  extract_lets +onlyGivenNames c
  refine .ite k (.ite (writeClkCtl_keeps k) (.ite k (.ite k (.ite k (.ite k (.ite k (.ite k (.ite (gateCmd_keeps k)
    (.ite (writeCal_keeps k) ?_)))))))))
  split
  · exact writeCal_keeps k
  · exact writeCal_keeps k
  · exact writeCal_keeps k
  · exact k

theorem selectError_keeps {s₀ s : State} {d} (k : Keeps s₀ s) : Keeps s₀ (selectError s d) := k

theorem writeErrs_keeps {s₀ s : State} {off d} (k : Keeps s₀ s) : Keeps s₀ (writeErrs s off d) :=
  .ite k (.ite k (.ite k (.ite k (.ite (selectError_keeps k) k))))

theorem writeStartup_keeps {s₀ s : State} {off d} (k : Keeps s₀ s) : Keeps s₀ (writeStartup s off d) :=
  .ite (.ite (beginShutdown_keeps (.ite (sealBlock_keeps k) k)) (.ite (sealBlock_keeps k) k))
    (.ite (fwLoadWrite_keeps k) (.ite k (.ite k (.ite k (.ite (stwCommand_keeps k) k)))))

theorem writeTile_keeps {s₀ s : State} {t off d} (k : Keeps s₀ s) : Keeps s₀ (writeTile s t off d) := by
  unfold writeTile
  dsimp only
  split
  · exact setTile_keeps k
  · split
    · exact setTile_keeps k
    · split
      · exact .ite k (setTile_keeps k)
      · split
        · exact setTile_keeps k
        · split
          · exact setTile_keeps k
          · split
            · exact k
            · exact setTile_keeps k

theorem regWrite_keeps {s₀ s : State} {b off d} (k : Keeps s₀ s) : Keeps s₀ (regWrite s b off d) := by
  unfold regWrite
  split
  · exact k
  · exact writeReq_keeps k
  · exact writeTurns_keeps k
  · exact writeWindow_keeps k
  · exact writePorts_keeps k
  · exact writeGroup_keeps k
  · exact writeClocks_keeps k
  · exact writeErrs_keeps k
  · exact writeStartup_keeps k
  · exact writeTile_keeps k

theorem holdCmd_keeps {s₀ s : State} {i} (k : Keeps s₀ s) : Keeps s₀ (holdCmd s i) := k

theorem mgmtWrite_keeps {s₀ s : State} {a d} (k : Keeps s₀ s) : Keeps s₀ (mgmtWrite s a d) := by
  unfold mgmtWrite
  split
  · exact regWrite_keeps k
  · exact holdCmd_keeps k
  · exact k

theorem gateWrite_keeps {s₀ s : State} {op d} (k : Keeps s₀ s) : Keeps s₀ (gateWrite s op d) := .ite (gateCmd_keeps k) (mgmtWrite_keeps k)

end Sys2Proof.Machine
end

section
/-! SUPPORT. What the functions of Machine/PauseImage.lean keep. -/

namespace Sys2Proof.Machine

theorem writeBuffer_keeps {s₀ s : State} {n k' next part d o} (k : Keeps s₀ s) : Keeps s₀ (writeBuffer s n k' next part d o) :=
  putSlotWords_keeps (.mem k fun w => memWrite_wf _ _ _ w)

theorem countImage_keeps {s₀ s : State} {n} (k : Keeps s₀ s) : Keeps s₀ (countImage s n) :=
  .foldl (fun _ _ k => countPoison_keeps k) (countPoison_keeps k)

theorem writeChain_keeps {s₀ s : State} {ds ks part n} (k : Keeps s₀ s) : Keeps s₀ (writeChain ds ks part s n) := by
  induction ds generalizing s ks part with
  | nil => exact k
  | cons d ds ih =>
    cases ks with
    | nil => exact k
    | cons b ks => exact ih (writeBuffer_keeps k)

theorem tryImage_keeps {s₀ s : State} {n} (k : Keeps s₀ s) : Keeps s₀ (tryImage s n) :=
  .ite (.ite k (sendSlotEvent_keeps (modSlot_keeps k))) (.upd (modSlot_keeps (writeChain_keeps (countImage_keeps k))))

theorem beginTransfer_keeps {s₀ s : State} {n} (k : Keeps s₀ s) : Keeps s₀ (beginTransfer s n) := .ite k (tryImage_keeps (modSlot_keeps k))

theorem resumeTransfer_keeps {s₀ s : State} {n} (k : Keeps s₀ s) : Keeps s₀ (resumeTransfer s n) := .ite (tryImage_keeps k) k

theorem endTransfer_keeps {s₀ s : State} {n} (k : Keeps s₀ s) : Keeps s₀ (endTransfer s n) := by
  unfold endTransfer
  dsimp only
  split
  · exact k
  · exact .ite k (modSlot_keeps (releaseAll_keeps (sendSlotEvent_keeps (setOwner_keeps k))))

theorem placePos_keeps {s₀ s : State} {h ts q} (k : Keeps s₀ s) : Keeps s₀ (placePos h ts s q) :=
  .foldl (fun _ _ k => .mem k fun w => memWrite_wf _ _ _ w) k

theorem placeImage_keeps {s₀ s : State} {n raw} (k : Keeps s₀ s) : Keeps s₀ (placeImage s n raw) :=
  .upd (modHalf_keeps (.foldl (fun _ _ k => placePos_keeps k) k))

theorem countChain_keeps {s₀ s : State} {fuel off} (k : Keeps s₀ s) : Keeps s₀ (countChain fuel s off) := by
  induction fuel generalizing s off with
  | zero => exact k
  | succ fuel ih =>
    have k1 := countPoison_keeps k (a := winAddr s off) (n := 64)
    exact .ite k1 (.ite (countPoison_keeps k1) (ih (countPoison_keeps k1)))

theorem endFetch_keeps {s₀ s : State} {n} (k : Keeps s₀ s) : Keeps s₀ (endFetch s n) := by
  unfold endFetch
  dsimp only
  split
  · exact k
  · split
    · exact enterLost_keeps (countChain_keeps k)
    · exact drainMasks_keeps (sendSlotEvent_keeps (modSlot_keeps (placeImage_keeps (countChain_keeps k))))

end Sys2Proof.Machine
end

section
/-! SUPPORT. What the functions of Machine/Packets.lean keep. -/

namespace Sys2Proof.Machine

theorem portApply_keeps {s₀ s : State} {p i shut f} (hf : ∀ {s turn}, Keeps s₀ s → Keeps s₀ (f s turn)) (k : Keeps s₀ s) :
    Keeps s₀ (portApply s p i shut f) :=
  .ite (.upd k) (.ite (.upd k) (hf k))

theorem onPort_keeps {s₀ s : State} {p i shut f} (hf : ∀ {s turn}, Keeps s₀ s → Keeps s₀ (f s turn)) (k : Keeps s₀ s) :
    Keeps s₀ (onPort s p i shut f) :=
  .ite k (portApply_keeps hf k)

theorem badPacket_keeps {s₀ s : State} {p} (k : Keeps s₀ s) : Keeps s₀ (badPacket s p) := setHp_keeps k

theorem badWrite_keeps {s₀ s : State} {p} (k : Keeps s₀ s) : Keeps s₀ (badWrite s p) := setHp_keeps k

theorem applyWrite_keeps {s₀ s : State} {p w0 w1 data} (k : Keeps s₀ s) : Keeps s₀ (applyWrite s p w0 w1 data) :=
  .ite (.ite (mgmtWrite_keeps k) (badWrite_keeps k)) (.ite k (.ite (badWrite_keeps k) (winPut_keeps k)))

theorem mwr_keeps {s₀ s : State} {p w0 w1 data} (k : Keeps s₀ s) : Keeps s₀ (mwr s p w0 w1 data) :=
  .ite k (.ite (badPacket_keeps k) (.ite k (applyWrite_keeps k)))

theorem complete_keeps {s₀ s : State} {p w0 data} (k : Keeps s₀ s) : Keeps s₀ (complete s p w0 data) := .ite k (sendPacket_keeps k)

theorem countReads_keeps {s₀ s : State} {off n} (k : Keeps s₀ s) : Keeps s₀ (countReads s off n) := countPoison_keeps k

theorem applyRead_keeps {s₀ s : State} {p w0 w1} (k : Keeps s₀ s) : Keeps s₀ (applyRead s p w0 w1) := by
  unfold applyRead
  dsimp only
  split
  · split
    · split
      · exact complete_keeps k
      · exact complete_keeps k
    · exact complete_keeps k
  · exact .ite (complete_keeps k) (complete_keeps (countReads_keeps k))

theorem mrd_keeps {s₀ s : State} {p w0 w1} (k : Keeps s₀ s) : Keeps s₀ (mrd s p w0 w1) := .ite k (.ite (badPacket_keeps k) (applyRead_keeps k))

theorem nextCi_keeps {s₀ s : State} {r} (k : Keeps s₀ s) : Keeps s₀ (nextCi s r) := k

theorem poisonEntry_keeps {s₀ s : State} {r k'} (k : Keeps s₀ s) : Keeps s₀ (poisonEntry s r k') :=
  nextCi_keeps (detect_keeps (sendBlockEvent_keeps (.upd (setOwner_keeps k))))

theorem takeEntryMsg_keeps {s₀ s : State} {r k' turn} (k : Keeps s₀ s) : Keeps s₀ (takeEntryMsg s r k' turn) :=
  .ite (.upd (nextCi_keeps k)) (answerSlot_keeps (nextCi_keeps k))

theorem takeEntries_keeps {s₀ s : State} {n r turn} (k : Keeps s₀ s) : Keeps s₀ (takeEntries n s r turn) := by
  induction n generalizing s with
  | zero => exact k
  | succ n ih => exact .ite (ih (poisonEntry_keeps (countPoison_keeps k))) (.ite (ih (takeEntryMsg_keeps k)) (.upd k))

theorem ringBell_keeps {s₀ s : State} {r pi turn} (k : Keeps s₀ s) : Keeps s₀ (ringBell s r pi turn) :=
  .ite k (.ite k (.ite (takeEntries_keeps k) k))

theorem doorbell_keeps {s₀ s : State} {p w0 w1 turn} (k : Keeps s₀ s) : Keeps s₀ (doorbell s p w0 w1 turn) :=
  .ite k (.ite (badPacket_keeps k) (.ite k (.ite k (ringBell_keeps k))))

theorem ringBells_keeps {s₀ s : State} (k : Keeps s₀ s) : Keeps s₀ (ringBells s) := .foldl (fun _ _ k => ringBell_keeps k) k

theorem entryReturned_keeps {s₀ s : State} {key} (k : Keeps s₀ s) : Keeps s₀ (entryReturned s key) := by
  unfold entryReturned
  split
  · exact k
  · split
    · exact publish_keeps k
    · exact afterBatches_keeps (drainTenant_keeps k)

theorem bulletinTimeout_keeps {s₀ s : State} {h} (k : Keeps s₀ s) : Keeps s₀ (bulletinTimeout s h) := .ite (closeOpen_keeps (elapseTo_keeps k)) k

theorem bulletinReturned_keeps {s₀ s : State} {h} (k : Keeps s₀ s) : Keeps s₀ (bulletinReturned s h) := .ite (drainBulletins_keeps k) k

theorem noticeEnd_keeps {s₀ s : State} {key} (k : Keeps s₀ s) : Keeps s₀ (noticeEnd s key) := by
  unfold noticeEnd
  split
  · exact k
  · split
    · exact k
    · exact .ite (sendNotice_keeps k) k

end Sys2Proof.Machine
end

section
/-! SUPPORT. What the functions of Machine/Arrivals.lean keep. -/

namespace Sys2Proof.Machine

theorem badItem_keeps {s₀ s : State} {h n} (k : Keeps s₀ s) : Keeps s₀ (badItem s h n) := by
  unfold badItem
  split
  · exact k
  · next hi => exact .ite k (countBad_keeps (takeIn_keeps hi k))

theorem markAbsent_keeps {s₀ s : State} {a} (k : Keeps s₀ s) : Keeps s₀ (markAbsent s a) := k

theorem exchangeTimeout_keeps {s₀ s : State} {t k'} (k : Keeps s₀ s) : Keeps s₀ (exchangeTimeout s t k') := by
  unfold exchangeTimeout
  dsimp only
  split
  · exact k
  · split
    · exact .ite k (recvCommit_keeps (detect_keeps (noteWait_keeps (sendBlockEvent_keeps (markAbsent_keeps k)))))
    · exact k

end Sys2Proof.Machine
end

section
/-! SUPPORT. What the functions of Machine/MChain.lean keep. -/

namespace Sys2Proof.Machine

theorem mcSend_keeps {s₀ s : State} (k : Keeps s₀ s) : Keeps s₀ (mcSend s) := by
  unfold mcSend
  split
  · exact k
  · split
    · exact k
    · exact k

theorem mcPass_keeps {s₀ s : State} {f} (k : Keeps s₀ s) : Keeps s₀ (mcPass s f) := k

theorem mcArrive_keeps {s₀ s : State} {f g} (hg : ∀ {s}, Keeps s₀ s → Keeps s₀ (g s)) (k : Keeps s₀ s) : Keeps s₀ (mcArrive s f g) :=
  .ite k (.ite (hg (mcSend_keeps k)) (.upd (mcSend_keeps k)))

theorem seat_keeps {s₀ s : State} {f} (k : Keeps s₀ s) : Keeps s₀ (seat s f) := .ite (mcPass_keeps k) (.ite (mcPass_keeps k) (mcPass_keeps k))

theorem respond_keeps {s₀ s : State} {f status d} (k : Keeps s₀ s) : Keeps s₀ (respond s f status d) := ownFrame_keeps k

theorem mcRead_keeps {s₀ s : State} {f} (k : Keeps s₀ s) : Keeps s₀ (mcRead s f) := by
  unfold mcRead
  split
  · exact respond_keeps k
  · exact respond_keeps k
  · exact holdCmd_keeps k
  · exact respond_keeps k

theorem mcWrite_keeps {s₀ s : State} {f} (k : Keeps s₀ s) : Keeps s₀ (mcWrite s f) := by
  unfold mcWrite
  dsimp only
  split
  · exact holdCmd_keeps k
  · exact .ite (respond_keeps k) (respond_keeps (regWrite_keeps k))
  · exact respond_keeps k
  · exact respond_keeps k

end Sys2Proof.Machine
end

section
/-! SUPPORT. What the functions of Machine/Monitor.lean keep. -/

namespace Sys2Proof.Machine

theorem gainElig_keeps {s₀ s : State} {i} (k : Keeps s₀ s) : Keeps s₀ (gainElig s i) := .ite (setTb_keeps k) k

theorem gainLosc_keeps {s₀ s : State} (k : Keeps s₀ s) : Keeps s₀ (gainLosc s) := .ite k k

theorem loseLock_keeps {s₀ s : State} {i block} (k : Keeps s₀ s) : Keeps s₀ (loseLock s i block) := clockCheck_keeps (setTb_keeps k)

theorem windowInput_keeps {s₀ s : State} {i c} (k : Keeps s₀ s) : Keeps s₀ (windowInput s i c) :=
  .ite (setTb_keeps k) (.ite (setTb_keeps k) (setTb_keeps k))

theorem windowCheck_keeps {s₀ s : State} {c0 c1} (k : Keeps s₀ s) : Keeps s₀ (windowCheck s c0 c1) :=
  .ite k (clockCheck_keeps (gainElig_keeps (gainElig_keeps (gainLosc_keeps (windowInput_keeps (windowInput_keeps k))))))

theorem watchInput_keeps {s₀ s : State} {i c} (k : Keeps s₀ s) : Keeps s₀ (watchInput s i c) := .ite (setTb_keeps k) (setTb_keeps k)

theorem watchLosc_keeps {s₀ s : State} {c} (k : Keeps s₀ s) : Keeps s₀ (watchLosc s c) := .ite k k

theorem watchCheck_keeps {s₀ s : State} {c r0 r1} (k : Keeps s₀ s) : Keeps s₀ (watchCheck s c r0 r1) := by
  unfold watchCheck
  extract_lets s1 s2
  have k1 : Keeps s₀ s1 := gainLosc_keeps (watchInput_keeps (watchInput_keeps (watchLosc_keeps k)))
  have k2 : Keeps s₀ s2 := .ite (gainElig_keeps k1) k1
  exact .ite k (clockCheck_keeps (.ite (gainElig_keeps k2) k2))

theorem trimUpdate_keeps {s₀ s : State} {e} (k : Keeps s₀ s) : Keeps s₀ (trimUpdate s e) := .ite k (.ite (clockEvent_keeps k) k)

theorem sofFault_keeps {s₀ s : State} {i atPos p} (k : Keeps s₀ s) : Keeps s₀ (sofFault s i atPos p) := .ite (setTb_keeps k) k

theorem replayHeld_keeps {s₀ s : State} {i} (k : Keeps s₀ s) : Keeps s₀ (replayHeld s i) := by
  unfold replayHeld
  split
  · exact mgmtWrite_keeps k
  · exact portApply_keeps mwr_keeps k
  · exact portApply_keeps mrd_keeps k
  · exact portApply_keeps doorbell_keeps k
  · exact portApply_keeps badPacket_keeps k
  · exact mcRead_keeps k
  · exact mcWrite_keeps k
  · exact k

theorem releaseHeld_keeps {s₀ s : State} (k : Keeps s₀ s) : Keeps s₀ (releaseHeld s) := .foldl (fun _ _ k => replayHeld_keeps k) k

theorem resumeBells_keeps {s₀ s : State} (k : Keeps s₀ s) : Keeps s₀ (resumeBells s) := .ite k (ringBells_keeps k)

theorem resumeWork_keeps {s₀ s : State} (k : Keeps s₀ s) : Keeps s₀ (resumeWork s) := by
  unfold resumeWork
  extract_lets s0 s1 s2 s3
  have k1 : Keeps s₀ s1 := .foldl (fun _ _ k => .ite k (drainOut_keeps k)) (handBack_keeps k)
  have k2 : Keeps s₀ s2 := bulletinReturned_keeps (bulletinReturned_keeps k1)
  have k3 : Keeps s₀ s3 := .foldl (fun _ _ k => publish_keeps k) k2
  exact freeImages_keeps (afterBatches_keeps (.foldl (fun _ _ k => drainTenant_keeps k) k3))

theorem restart_keeps {s₀ s : State} (k : Keeps s₀ s) : Keeps s₀ (restart s) :=
  resumeGate_keeps (releaseHeld_keeps (resumeBells_keeps (resumeWork_keeps (flushMarks_keeps (flushEvs_keeps k)))))

theorem relockEnd_keeps {s₀ s : State} (k : Keeps s₀ s) : Keeps s₀ (relockEnd s) := by
  unfold relockEnd
  split
  · exact k
  · exact .ite (restart_keeps (elapseTo_keeps k)) k

theorem tickBulletin_keeps {s₀ s : State} {h} (k : Keeps s₀ s) : Keeps s₀ (tickBulletin s h) := .ite (bulletinTimeout_keeps k) k

theorem upsetSingle_keeps {s₀ s : State} {b} (k : Keeps s₀ s) : Keeps s₀ (upsetSingle s b) :=
  .ite (.mem k fun w => ⟨w.1, w.2.1, smSet_wf false _ b true w.2.2⟩) k

theorem upsetDouble_keeps {s₀ s : State} {b x} (k : Keeps s₀ s) : Keeps s₀ (upsetDouble s b x) := .ite (.mem k fun w => memWrite_wf _ _ _ w) k

theorem upsetQueue_keeps {s₀ s : State} {n} (k : Keeps s₀ s) : Keeps s₀ (upsetQueue s n) := .ite (setTile_keeps k) k

theorem upsetStore_keeps {s₀ s : State} {n double} (k : Keeps s₀ s) : Keeps s₀ (upsetStore s n double) := .ite (modHalf_keeps k) (modHalf_keeps k)

theorem upsetControl_keeps {s₀ s : State} {firmware} (k : Keeps s₀ s) : Keeps s₀ (upsetControl s firmware) := by
  unfold upsetControl
  split
  · exact blockStop_keeps k
  · exact .ite k (detect_keeps k)

theorem upset_keeps {s₀ s : State} (k : Keeps s₀ s) : Keeps s₀ (upset s) := by
  unfold upset
  dsimp only
  split
  · exact k
  · split
    · exact upsetSingle_keeps k
    · exact upsetDouble_keeps k
    · exact upsetQueue_keeps k
    · exact k
    · exact upsetControl_keeps k
    · exact upsetControl_keeps k
    · exact upsetStore_keeps k
    · exact upsetStore_keeps k
    · exact k

/-- What a microsecond does past the passing of the time itself. -/
theorem tick_keeps_elapsed {s₀ s : State} (k : Keeps s₀ (elapse s 1)) : Keeps s₀ (tick s) := by
  unfold tick
  extract_lets s1 s2 s3 s4 s5
  have k1 : Keeps s₀ s1 := upset_keeps k
  have k2 : Keeps s₀ s2 := .ite (relockEnd_keeps k1) k1
  have k3 : Keeps s₀ s3 := .ite (releaseHeld_keeps k2) k2
  have k4 : Keeps s₀ s4 := tickBulletin_keeps (tickBulletin_keeps k3)
  have k5 : Keeps s₀ s5 := .ite (stallNow_keeps k4) k4
  exact .ite (mcSend_keeps k5) k5

theorem tick_keeps {s₀ s : State} (k : Keeps s₀ s) : Keeps s₀ (tick s) := tick_keeps_elapsed (elapse_keeps k)

end Sys2Proof.Machine
end

section
/-! SUPPORT. What the functions of Machine/Pins.lean keep. -/

namespace Sys2Proof.Machine

theorem haltEnds_keeps {s₀ s : State} (k : Keeps s₀ s) : Keeps s₀ (haltEnds s) := resumeBells_keeps k

theorem haltAssert_keeps {s₀ s : State} (k : Keeps s₀ s) : Keeps s₀ (haltAssert s) := k

theorem haltRelease_keeps {s₀ s : State} (k : Keeps s₀ s) : Keeps s₀ (haltRelease s) := .ite (haltEnds_keeps k) k

theorem haltStuck_keeps {s₀ s : State} (k : Keeps s₀ s) : Keeps s₀ (haltStuck s) := .ite (haltEnds_keeps (sendBlockEvent_keeps k)) k

theorem haltRearmed_keeps {s₀ s : State} (k : Keeps s₀ s) : Keeps s₀ (haltRearmed s) := .ite (sendBlockEvent_keeps k) k

theorem filteredPulse_keeps {s₀ s : State} {p} (k : Keeps s₀ s) : Keeps s₀ (filteredPulse s p) := by
  unfold filteredPulse
  dsimp only
  split
  · exact k
  · split
    · exact k
    · exact k
    · exact k

theorem domainFault_keeps {s₀ s : State} {d} (k : Keeps s₀ s) : Keeps s₀ (domainFault s d) := by
  unfold domainFault
  extract_lets +onlyGivenNames h s1 s2
  have k2 : Keeps s₀ s2 := loseDomain_keeps (sendHalfEvent_keeps k)
  exact .ite k (.ite (clockCheck_keeps (detect_keeps (.upd k2))) (detect_keeps (.upd k2)))

theorem pgRise_keeps {s₀ s : State} {p} (k : Keeps s₀ s) : Keeps s₀ (pgRise s p) := .ite (startTraining_keeps k) k

theorem resumeStacks_keeps {s₀ s : State} (k : Keeps s₀ s) : Keeps s₀ (resumeStacks s) := .ite (releaseHeld_keeps k) k

theorem loseStack_wf {m : Mem} (p : Nat) (w : Memory.wf m) : Memory.wf (loseStack m p) :=
  ⟨smFilter_wf _ _ _ w.1, smFilter_wf _ _ _ w.2.1, smFilter_wf _ _ _ w.2.2⟩

theorem pgFall_keeps {s₀ s : State} {p} (k : Keeps s₀ s) : Keeps s₀ (pgFall s p) := by
  unfold pgFall
  split
  · exact k
  · extract_lets +onlyGivenNames _ s1 x
    have k1 : Keeps s₀ s1 := .mem k (loseStack_wf p)
    exact .ite (resumeStacks_keeps (portFail_keeps k1)) (.ite (.upd k1) k1)

theorem portUp_keeps {s₀ s : State} {p repaired again} (k : Keeps s₀ s) : Keeps s₀ (portUp s p repaired again) := by
  unfold portUp
  extract_lets +onlyGivenNames x
  split
  · extract_lets +onlyGivenNames _ s1
    have k1 : Keeps s₀ s1 := .mem k fun w => w
    cases again
    · exact latchDeskew_keeps k1
    · exact resumeStacks_keeps (latchDeskew_keeps k1)
  · exact k

theorem portTimeout_keeps {s₀ s : State} {p cause again} (k : Keeps s₀ s) : Keeps s₀ (portTimeout s p cause again) := by
  unfold portTimeout
  extract_lets +onlyGivenNames x
  split
  · cases again
    · exact portFail_keeps k
    · exact resumeStacks_keeps (portFail_keeps k)
  · exact k

theorem flitReplay_keeps {s₀ s : State} {mem p} (k : Keeps s₀ s) : Keeps s₀ (flitReplay s mem p) := .ite (.ite k k) (.ite (setHp_keeps k) k)

theorem hostUp_keeps {s₀ s : State} {p repaired} (k : Keeps s₀ s) : Keeps s₀ (hostUp s p repaired) :=
  .ite k (sendHalfEvent_keeps (latchDeskew_keeps (setHp_keeps k)))

theorem boxHot_keeps {s₀ s : State} {sensor temp} (k : Keeps s₀ s) : Keeps s₀ (boxHot s sensor temp) :=
  .ite k (.ite (sendBlockEvent_keeps (leaveBoxcars_keeps k)) k)

theorem hotClear_keeps {s₀ s : State} {temps} (k : Keeps s₀ s) : Keeps s₀ (hotClear s temps) := .ite k k

theorem boxSpent_keeps {s₀ s : State} (k : Keeps s₀ s) : Keeps s₀ (boxSpent s) := .ite (elapse_keeps k) k

theorem boxWorn_keeps {s₀ s : State} (k : Keeps s₀ s) : Keeps s₀ (boxWorn s) := .ite (elapse_keeps k) k

theorem thermalRecovered_keeps {s₀ s : State} (k : Keeps s₀ s) : Keeps s₀ (thermalRecovered s) := .ite (elapse_keeps k) k

end Sys2Proof.Machine
end

section
/-! SUPPORT. What the functions of Machine/Startup.lean keep. -/

namespace Sys2Proof.Machine

theorem freshBlock_keeps {s₀ s : State} {on phase} (k : Keeps s₀ s) : Keeps s₀ (freshBlock s on phase) :=
  ⟨k.pending, k.now, k.fuse, fun w => stacksOnly_wf _ (k.wf w)⟩

theorem beginFuse_keeps {s₀ s : State} (k : Keeps s₀ s) : Keeps s₀ (beginFuse s) := ⟨k.pending, k.now, k.fuse, k.wf⟩

theorem resetFall_keeps {s₀ s : State} (k : Keeps s₀ s) : Keeps s₀ (resetFall s) := .ite k (.ite k (freshBlock_keeps k))

theorem resetRise_keeps {s₀ s : State} (k : Keeps s₀ s) : Keeps s₀ (resetRise s) := .ite k (.ite (beginFuse_keeps k) k)

theorem powerLost_keeps {s₀ s : State} (k : Keeps s₀ s) : Keeps s₀ (powerLost s) := .ite k (.upd (freshBlock_keeps k))

theorem powerRise_keeps {s₀ s : State} (k : Keeps s₀ s) : Keeps s₀ (powerRise s) := .ite k (.upd (freshBlock_keeps k))

theorem powerFall_keeps {s₀ s : State} (k : Keeps s₀ s) : Keeps s₀ (powerFall s) := .ite (powerLost_keeps k) k

theorem startClock_keeps {s₀ s : State} (k : Keeps s₀ s) : Keeps s₀ (startClock s) := clockCheck_keeps k

theorem startDomains_keeps {s₀ s : State} (k : Keeps s₀ s) : Keeps s₀ (startDomains s) := .upd (.foldl (fun _ _ k => domainOn_keeps k) k)

theorem selfTested_keeps {s₀ s : State} (k : Keeps s₀ s) : Keeps s₀ (selfTested s) := .mem k (stacksOnly_wf s.mem)

theorem phaseEnd_keeps {s₀ s : State} (k : Keeps s₀ s) : Keeps s₀ (phaseEnd s) := by
  unfold phaseEnd
  extract_lets +onlyGivenNames go
  split
  · exact k
  · split
    · exact .ite (beginFuse_keeps (.upd k)) (.upd k)
    · exact .ite (beginFuse_keeps k) k
    · exact .ite ⟨k.pending, k.now, k.fuse, k.wf⟩ k
    · exact .ite (startClock_keeps k) k
    · exact .ite (startDomains_keeps k) k
    · exact .ite (.upd k) k
    · exact selfTested_keeps k
    all_goals exact k

theorem stopWith_keeps {s₀ s : State} {c} (k : Keeps s₀ s) : Keeps s₀ (stopWith s c) := .upd (stopElapsed_keeps k)

theorem phaseTimeout_keeps {s₀ s : State} {cause} (k : Keeps s₀ s) : Keeps s₀ (phaseTimeout s cause) := by
  unfold phaseTimeout
  dsimp only
  split
  · exact k
  · split
    · exact .ite (stopWith_keeps k) k
    · exact .ite (stopWith_keeps k) k
    · exact .ite (stopWith_keeps k) k
    · exact .ite (stopWith_keeps k) k
    · exact .ite (.upd (stopWith_keeps k)) k
    · exact k
    · exact .ite k k
    · exact k
    · exact k
    · exact k
    · exact k
    · exact k
    · exact k
    · exact k

theorem shutdownDone_keeps {s₀ s : State} (k : Keeps s₀ s) : Keeps s₀ (shutdownDone s) := .ite k k

end Sys2Proof.Machine
end

section
/-! SUPPORT. What the functions of Machine/FwAuth.lean keep. -/

namespace Sys2Proof.Machine

theorem fwAuth_keeps {s₀ s : State} (k : Keeps s₀ s) : Keeps s₀ (fwAuth s) := by
  unfold fwAuth
  split
  · exact k
  · split
    · exact k
    · exact k

end Sys2Proof.Machine
end

section
/-! SUPPORT. What the functions of Machine/Steward.lean keep. -/

namespace Sys2Proof.Machine

theorem copyBytes_wf {m : Mem} {dst src n : Nat} (w : Memory.wf m) : Memory.wf (copyBytes m dst src n) := memWrite_wf _ _ _ w

theorem offerSet_keeps {s₀ s : State} {g m i} (k : Keeps s₀ s) : Keeps s₀ (offerSet s g m i) :=
  sendBlockEvent_keeps (putSlotWords_keeps (.mem k fun w => copyBytes_wf (copyBytes_wf w)))

theorem stwDecide_keeps {s₀ s : State} {res off img} (k : Keeps s₀ s) : Keeps s₀ (stwDecide s res off img) := k

theorem foldl_wf {α : Type} {f : Mem → α → Mem} {l : List α} {m : Mem} (hf : ∀ m x, Memory.wf m → Memory.wf (f m x)) (w : Memory.wf m) :
    Memory.wf (l.foldl f m) := by
  induction l generalizing m with
  | nil => exact w
  | cons x l ih => exact ih (hf m x w)

theorem acceptImage_keeps {s₀ s : State} {g m i} (k : Keeps s₀ s) : Keeps s₀ (acceptImage s g m i) := by
  unfold acceptImage
  extract_lets +onlyGivenNames mem1 n s1
  have hm : Memory.wf s.mem → Memory.wf mem1 := fun w => foldl_wf (fun _ _ w => copyBytes_wf w) (copyBytes_wf w)
  have k1 : Keeps s₀ s1 := .ite k (offerSet_keeps (.mem k hm))
  exact stwDecide_keeps (setImage_keeps (.ite (.mem k hm) k1))

theorem loadImage_keeps {s₀ s : State} {t m} (k : Keeps s₀ s) : Keeps s₀ (loadImage s t m) := by
  unfold loadImage
  dsimp only
  split
  · exact stwDecide_keeps k
  · split
    · exact stwDecide_keeps k
    · split
      · exact stwDecide_keeps (countPoison_keeps k)
      · split
        · exact stwDecide_keeps k
        · exact stwDecide_keeps k
        · split
          · exact acceptImage_keeps k
          · split
            · exact acceptImage_keeps k
            · exact stwDecide_keeps k

theorem stwWrite_keeps {s₀ s : State} {op t} (k : Keeps s₀ s) : Keeps s₀ (stwWrite s op t) := mgmtWrite_keeps k

theorem stwBegin_keeps {s₀ s : State} {op t} (k : Keeps s₀ s) : Keeps s₀ (stwBegin s op t) := .ite (stwWrite_keeps k) k

theorem loadProgram_keeps {s₀ s : State} {t m} (k : Keeps s₀ s) : Keeps s₀ (loadProgram s t m) :=
  .ite (loadImage_keeps (stwBegin_keeps k)) (stwBegin_keeps k)

theorem loadPlanDef_keeps {s₀ s : State} {p} (k : Keeps s₀ s) : Keeps s₀ (loadPlanDef s p) := by
  unfold loadPlanDef
  dsimp only
  split
  · split
    · exact stwBegin_keeps k
    · split
      · exact stwDecide_keeps (stwBegin_keeps k)
      · exact stwDecide_keeps (.upd (stwBegin_keeps k))
  · exact stwBegin_keeps k

theorem stwDone_keeps {s₀ s : State} (k : Keeps s₀ s) : Keeps s₀ (stwDone s) := by
  unfold stwDone
  split
  · split
    · exact k
    · extract_lets +onlyGivenNames _ s1
      have k1 : Keeps s₀ s1 := .upd k
      split
      · exact k1
      · split
        · exact k1
        · exact setImage_keeps k1
  · exact k

end Sys2Proof.Machine
end

section
/-! SUPPORT. What the bodies of the engine instructions do to memory: most change none of it, and the stores keep its form. -/

namespace Sys2Proof.Machine

/-- An answer leaves memory as its environment has it. -/
def MemStays (n : Env) (r : IRes) : Prop := r.mem = n.mem

/-- The body of an instruction changes no byte of memory. -/
def BodyStays (body : Body) : Prop := ∀ n i w tl, MemStays n (body n i w tl)

theorem BodyStays.form {body : Body} (h : BodyStays body) : BodyKeepsForm body := fun n i w tl hw => by rwa [show (body n i w tl).mem = n.mem from h n i w tl]

theorem checked_stays {used : Nat} {b : Body} (h : BodyStays b) : BodyStays (checked used b) := by
  intro n i w tl
  unfold checked
  split
  · exact h n i w tl
  · rfl

theorem checked_form {used : Nat} {b : Body} (h : BodyKeepsForm b) : BodyKeepsForm (checked used b) := by
  intro n i w tl hw
  unfold checked
  split
  · exact h n i w tl hw
  · exact hw

@[simp] theorem iresGread_mem (e : Env) (r : IRes) (a n : Nat) : (iresGread e r a n).mem = r.mem := by unfold iresGread; split <;> rfl

@[simp] theorem iresMerge_mem (m : Mem) (r : IRes) (a n : Nat) : (iresMerge m r a n).mem = r.mem := by unfold iresMerge; dsimp only; split <;> rfl

@[simp] theorem iresStore_mem (r : IRes) (a : Nat) (l : List PByte) : (iresStore r a l).mem = memWrite r.mem a l := rfl

theorem iresGreads_mem (e : Env) (n : Nat) (as : List Nat) (r : IRes) : (as.foldl (fun r a => iresGread e r a n) r).mem = r.mem := by
  induction as generalizing r with
  | nil => rfl
  | cons a as ih => exact (ih _).trans (iresGread_mem e r a n)

theorem ldCopy_form (store : Bool) : BodyKeepsForm (ldCopy store) := by
  refine checked_form fun n i w tl hw => ?_
  dsimp only
  split
  · exact hw
  · split
    · exact hw
    · split
      · split
        · exact hw
        · exact memWrite_wf _ _ _ (by rwa [iresGread_mem])
      · exact memWrite_wf _ _ _ (by rwa [iresGread_mem])

theorem bodyLdq_stays : BodyStays bodyLdq := by
  refine checked_stays fun n i w tl => ?_
  dsimp only
  split
  · rfl
  · split
    · rfl
    · split
      · rfl
      · exact iresGread_mem ..

theorem bodyQst_form : BodyKeepsForm bodyQst := by
  refine checked_form fun n i w tl hw => ?_
  dsimp only
  split
  · exact hw
  · split
    · exact hw
    · split
      · exact hw
      · split
        · exact hw
        · split
          · exact hw
          · exact memWrite_wf _ _ _ hw

theorem bodyGather_form : BodyKeepsForm bodyGather := by
  refine checked_form fun n i w tl hw => ?_
  extract_lets ra rc ri rs m rb es rows ixs gs r0 r1 pz
  have h1 : r1.mem = n.mem := iresGreads_mem ..
  split
  · exact hw
  · split
    · exact hw
    · split
      · exact hw
      · split
        · exact hw
        · exact memWrite_wf _ _ _ (by rwa [h1])

theorem bodyEbag_form : BodyKeepsForm bodyEbag := by
  refine checked_form fun n i w tl hw => ?_
  extract_lets ra rc ri ro rs bags dim fmt hash rb es rows z x off good spans span r0 long r1 sel r2 apz
  have h2 : r2.mem = n.mem := iresGreads_mem ..
  split
  · exact hw
  · split
    · exact hw
    · split
      · exact hw
      · split
        · exact hw
        · split
          · exact hw
          · split
            · exact hw
            · split
              · exact hw
              · split
                · exact hw
                · exact memWrite_wf _ _ _ (by rwa [h2])

theorem bodyZero_form : BodyKeepsForm bodyZero := by
  refine checked_form fun n i w tl hw => ?_
  dsimp only
  split
  · exact hw
  · split
    · exact hw
    · exact memWrite_wf _ _ _ hw

theorem bodyVst_form : BodyKeepsForm bodyVst := by
  refine checked_form fun n i w tl hw => ?_
  dsimp only
  split
  · exact hw
  · split
    · exact hw
    · exact memWrite_wf _ _ _ hw

theorem encodeRow_form {tag : Bool} {base tab row : Nat} {raw : Nat → RawVal} {n f : Nat} {st : TfeSt} (h : Memory.wf st.mem) :
    Memory.wf (encodeRow tag base tab row raw n f st).mem := by
  induction n generalizing f st with
  | zero => exact h
  | succ n ih =>
    unfold encodeRow
    split
    · exact h
    · dsimp only
      split
      · exact h
      · exact ih (memWrite_wf _ _ _ h)

theorem tfeRows_form {tag : Bool} {base tab rs rd rstr cstr nf : Nat} {src : Bool} {n r : Nat} {tl : Tile} {st : TfeSt} (h : Memory.wf st.mem) :
    Memory.wf (tfeRows tag base tab rs rd rstr cstr nf src n r tl st).2.mem := by
  induction n generalizing r tl st with
  | zero => exact h
  | succ n ih =>
    unfold tfeRows
    split
    · exact h
    · dsimp only
      split
      · split
        · exact h
        · exact ih (encodeRow_form h)
      · exact ih (encodeRow_form h)

theorem bodyTfe_form : BodyKeepsForm bodyTfe := by
  intro n i w tl hw
  unfold bodyTfe
  dsimp only
  split
  · exact hw
  · split
    · exact hw
    · split
      · exact hw
      · split
        · exact tfeRows_form hw
        · exact tfeRows_form hw

theorem emitEvents_mem (elim row aut pos : Nat) (evs : List (Nat × Bool)) (st : ASt) : (emitEvents elim row aut pos evs st).mem = st.mem := by
  induction evs generalizing st with
  | nil => rfl
  | cons ev evs ih =>
    unfold emitEvents
    split
    · exact ih _
    · exact ih _

theorem endToken_form {a : ARun} {j : Nat} {c : ACtx} {t : ATok} {st : ASt} (h : Memory.wf st.mem) : Memory.wf (endToken a j c t st).mem := by
  unfold endToken
  dsimp only
  split
  · split
    · exact h
    · exact h
  · split
    · split
      · exact memWrite_wf _ _ _ h
      · exact memWrite_wf _ _ _ (memWrite_wf _ _ _ h)
    · exact memWrite_wf _ _ _ h

theorem rowSymbols_form {a : ARun} {n k j : Nat} {c : ACtx} {t : ATok} {st : ASt} (h : Memory.wf st.mem) :
    Memory.wf (rowSymbols a n k j c t st).mem := by
  induction n generalizing k j c t st with
  | zero => exact h
  | succ n ih =>
    unfold rowSymbols
    split
    · exact h
    · extract_lets +onlyGivenNames y z st0
      split
      · exact h
      · extract_lets +onlyGivenNames s _ _ st1
        have h1 : Memory.wf st1.mem := by
          show Memory.wf (emitEvents ..).mem
          rw [emitEvents_mem]
          exact h
        split
        · exact h1
        · split
          · exact ih (endToken_form h1)
          · exact ih h1

theorem rowRun_form {a : ARun} {st : ASt} (h : Memory.wf st.mem) : Memory.wf (rowRun a st).mem := by
  unfold rowRun
  dsimp only
  split
  · exact rowSymbols_form h
  · split
    · split
      · exact rowSymbols_form h
      · exact h
    · exact rowSymbols_form h

theorem astepRow_form {a : ARun} {src : Bool} {st : ASt} (h : Memory.wf st.mem) : Memory.wf (astepRow a src st).mem := by
  unfold astepRow
  dsimp only
  split
  · exact h
  · split
    · exact h
    · split
      · split
        · split
          · exact h
          · exact h
        · split
          · exact h
          · exact rowRun_form h
      · exact rowRun_form h

theorem astepRows_form {a : ARun} {src : Bool} {es : List ARow} {r : Nat} {st : ASt} (h : Memory.wf st.mem) :
    Memory.wf (astepRows a src es r st).mem := by
  induction es generalizing r st with
  | nil => exact h
  | cons e es ih =>
    unfold astepRows
    split
    · exact h
    · exact ih (astepRow_form h)

theorem bodyAstep_form : BodyKeepsForm bodyAstep := by
  refine checked_form fun n i w tl hw => ?_
  dsimp only
  split
  · exact hw
  · split
    · exact hw
    · split
      · exact hw
      · split
        · exact hw
        · split
          · exact astepRows_form hw
          · exact astepRows_form hw

end Sys2Proof.Machine
end

section
/-! SUPPORT. The bodies of the engine instructions that change no byte of memory. -/

namespace Sys2Proof.Machine

theorem bodyNop_stays : BodyStays bodyNop := checked_stays fun _ _ _ _ => rfl

theorem bodyRepeat_stays : BodyStays bodyRepeat := checked_stays fun _ _ _ _ => rfl

theorem bodyLi_stays : BodyStays bodyLi := checked_stays fun _ _ _ _ => rfl

theorem bodyAlu_stays : BodyStays bodyAlu := checked_stays fun _ _ _ _ => rfl

theorem bodyAlui_stays : BodyStays bodyAlui := checked_stays fun _ _ _ _ => rfl

theorem bodyJmp_stays : BodyStays bodyJmp := checked_stays fun _ _ _ _ => rfl

theorem bodyAdda_stays : BodyStays bodyAdda := checked_stays fun _ _ _ _ => rfl

theorem bodyAddas_stays : BodyStays bodyAddas := checked_stays fun _ _ _ _ => rfl

theorem bodyAread_stays : BodyStays bodyAread := checked_stays fun _ _ _ _ => rfl

theorem bodyKarg_stays : BodyStays bodyKarg := checked_stays fun _ _ _ _ => rfl

theorem bodyQwr_stays : BodyStays bodyQwr := checked_stays fun _ _ _ _ => rfl

theorem bodyTrap_stays : BodyStays bodyTrap := checked_stays fun _ _ _ _ => rfl

theorem bodyMzero_stays : BodyStays bodyMzero := checked_stays fun _ _ _ _ => rfl

theorem bodyKenter_stays : BodyStays bodyKenter := by
  refine checked_stays fun n i w tl => ?_
  repeat' split
  all_goals rfl

theorem bodyKend_stays : BodyStays bodyKend := by
  refine checked_stays fun n i w tl => ?_
  dsimp only
  repeat' split
  all_goals rfl

theorem bodyBr_stays : BodyStays bodyBr := by
  refine checked_stays fun n i w tl => ?_
  dsimp only
  repeat' split
  all_goals rfl

theorem bodySeta_stays : BodyStays bodySeta := by
  refine checked_stays fun n i w tl => ?_
  dsimp only
  repeat' split
  all_goals rfl

theorem bodyCredit_stays : BodyStays bodyCredit := by
  refine checked_stays fun n i w tl => ?_
  dsimp only
  repeat' split
  all_goals rfl

theorem bodyQrd_stays : BodyStays bodyQrd := by
  refine checked_stays fun n i w tl => ?_
  dsimp only
  repeat' split
  all_goals rfl

theorem bodyQstat_stays : BodyStays bodyQstat := by
  refine checked_stays fun n i w tl => ?_
  repeat' split
  all_goals rfl

theorem bodyMmw_stays : BodyStays bodyMmw := by
  refine checked_stays fun n i w tl => ?_
  dsimp only
  repeat' split
  all_goals rfl

theorem bodyMxout_stays : BodyStays bodyMxout := by
  refine checked_stays fun n i w tl => ?_
  dsimp only
  repeat' split
  all_goals rfl

theorem bodyVld_stays : BodyStays bodyVld := by
  refine checked_stays fun n i w tl => ?_
  dsimp only
  repeat' split
  all_goals rfl

theorem bodyVpop_stays : BodyStays bodyVpop := by
  refine checked_stays fun n i w tl => ?_
  dsimp only
  repeat' split
  all_goals rfl

theorem bodyVpush_stays : BodyStays bodyVpush := by
  refine checked_stays fun n i w tl => ?_
  dsimp only
  repeat' split
  all_goals rfl

theorem bodyVscl_stays : BodyStays bodyVscl := by
  refine checked_stays fun n i w tl => ?_
  dsimp only
  repeat' split
  all_goals rfl

theorem bodyVop_stays : BodyStays bodyVop := by
  refine checked_stays fun n i w tl => ?_
  repeat' split
  all_goals rfl

theorem bodyVopi_stays : BodyStays bodyVopi := by
  refine checked_stays fun n i w tl => ?_
  dsimp only
  repeat' split
  all_goals rfl

theorem bodyVred_stays : BodyStays bodyVred := by
  refine checked_stays fun n i w tl => ?_
  dsimp only
  repeat' split
  all_goals rfl

theorem bodyVrot_stays : BodyStays bodyVrot := by
  refine checked_stays fun n i w tl => ?_
  dsimp only
  repeat' split
  all_goals rfl

theorem bodyVpick_stays : BodyStays bodyVpick := by
  refine checked_stays fun n i w tl => ?_
  extract_lets +onlyGivenNames off
  split
  · rfl
  · split
    · rfl
    · extract_lets +onlyGivenNames bs
      split
      · rfl
      · cases sideList (bs.map (·.1)) with
        | none => rfl
        | some ch => rfl

theorem bodyVside_stays : BodyStays bodyVside := by
  refine checked_stays fun n i w tl => ?_
  extract_lets +onlyGivenNames off
  split
  · rfl
  · extract_lets +onlyGivenNames bs d rd
    split
    · rfl
    · cases sideList (bs.map (·.1)) with
      | none => rfl
      | some ch => exact iteInduction (fun _ => rfl) fun _ => rfl

theorem bodyVqz_stays : BodyStays bodyVqz := by
  refine checked_stays fun n i w tl => ?_
  dsimp only
  repeat' split
  all_goals rfl

theorem bodyVqnt_stays : BodyStays bodyVqnt := by
  refine checked_stays fun n i w tl => ?_
  dsimp only
  repeat' split
  all_goals rfl

theorem bodyVqs_stays : BodyStays bodyVqs := by
  refine checked_stays fun n i w tl => ?_
  dsimp only
  repeat' split
  all_goals rfl

theorem bodyVpack_stays : BodyStays bodyVpack := by
  refine checked_stays fun n i w tl => ?_
  dsimp only
  repeat' split
  all_goals rfl

theorem bodyVunpk_stays : BodyStays bodyVunpk := by
  refine checked_stays fun n i w tl => ?_
  dsimp only
  repeat' split
  all_goals rfl

theorem bodyTwalk_stays : BodyStays bodyTwalk := by
  refine checked_stays fun n i w tl => ?_
  dsimp only
  repeat' split
  all_goals rfl

theorem bodyTout_stays : BodyStays bodyTout := by
  refine checked_stays fun n i w tl => ?_
  dsimp only
  repeat' split
  all_goals rfl

theorem bodySend_stays : BodyStays bodySend := by
  refine checked_stays fun n i w tl => ?_
  dsimp only
  repeat' split
  all_goals rfl

theorem bodyRecv_stays : BodyStays bodyRecv := by
  refine checked_stays fun n i w tl => ?_
  dsimp only
  repeat' split
  all_goals rfl

end Sys2Proof.Machine
end

section
/-! SUPPORT. What every command keeps: one arm per constructor of `Instr`. -/

namespace Sys2Proof.Machine

/-- The answer to a command that runs on `s`: where it names a tile that is not there it stops with that fault, else it goes on to a state that
keeps what `Keeps` says. -/
def AnswersKeeping (tile : Option (BitVec 10)) (s : State) (o : Host.Outcome State Fault Refusal) : Prop :=
  (∃ t, tile = some t ∧ tileNamed t.toNat = false ∧ o = .fault (.noSuchTile t))
    ∨ ((∀ t, tile = some t → tileNamed t.toNat = true) ∧ ∃ s', o = .next s' ∧ Keeps s s')

theorem AnswersKeeping.next {s s' : State} (k : Keeps s s') : AnswersKeeping none s (.next s') :=
  .inr ⟨fun _ h => (nomatch h), s', rfl, k⟩

theorem AnswersKeeping.tile {t : BitVec 10} {s s' : State} (k : Keeps s s') : AnswersKeeping (some t) s (onTile t s s') := by
  unfold onTile
  cases h : tileNamed t.toNat
  · exact .inl ⟨t, rfl, h, rfl⟩
  · exact .inr ⟨fun _ e => by cases e; exact h, s', rfl, k⟩

/-- R88, R90: an instruction of one engine, where its body keeps memory canonical. -/
theorem issueOp_keeps (op : Nat) {b : Body} {t : BitVec 10} {w : W64} {s : State} (hb : BodyKeepsForm b) :
    AnswersKeeping (some t) s (issueOp op b t w s) := by
  refine .tile ?_
  split
  · exact .refl s
  · exact .ite (issueAt_keeps hb (.refl s)) (.refl s)

/-- R91, R100: an instruction of every engine, where its body keeps memory canonical. -/
theorem issueAny_keeps {op : Nat} {b : Body} {t : BitVec 10} {w : W64} {s : State} (hb : BodyKeepsForm b) :
    AnswersKeeping (some t) s (issueAny op b t w s) := by
  refine .tile ?_
  split
  · exact .refl s
  · exact .ite (issueAt_keeps hb (.refl s)) (.refl s)

/-- R419: the timeout of a recovery step stops the block at most. -/
theorem execRecoveryStepTimeout_keeps (s : State) : AnswersKeeping none s (execRecoveryStepTimeout s) := by
  refine .next ?_
  split
  · exact .refl s
  · exact .ite (blockStop_keeps (.refl s)) (.refl s)

/-- Every command stops only where it names a tile that is not there, and else keeps the queue, the fuses, time's order and the memory's form. -/
theorem exec_answers (i : Instr) (s : State) : AnswersKeeping (namedTile i) s (exec i s) :=
  match i with
  | .nop _ _ => issueAny_keeps bodyNop_stays.form
  | .repeat_ _ _ => issueAny_keeps bodyRepeat_stays.form
  | .kenter _ _ => issueOp_keeps 0xc2 bodyKenter_stays.form
  | .kend _ _ => issueOp_keeps 0xc3 bodyKend_stays.form
  | .li _ _ => issueOp_keeps 0xc4 bodyLi_stays.form
  | .alu _ _ => issueOp_keeps 0xc5 bodyAlu_stays.form
  | .alui _ _ => issueOp_keeps 0xc6 bodyAlui_stays.form
  | .br _ _ => issueOp_keeps 0xc7 bodyBr_stays.form
  | .jmp _ _ => issueOp_keeps 0xc8 bodyJmp_stays.form
  | .seta _ _ => issueOp_keeps 0xc9 bodySeta_stays.form
  | .adda _ _ => issueOp_keeps 0xca bodyAdda_stays.form
  | .addas _ _ => issueOp_keeps 0xcb bodyAddas_stays.form
  | .aread _ _ => issueOp_keeps 0xcc bodyAread_stays.form
  | .karg _ _ => issueOp_keeps 0xcd bodyKarg_stays.form
  | .credit _ _ => issueOp_keeps 0xce bodyCredit_stays.form
  | .qrd _ _ => issueOp_keeps 0xcf bodyQrd_stays.form
  | .qwr _ _ => issueOp_keeps 0xd0 bodyQwr_stays.form
  | .qstat _ _ => issueOp_keeps 0xd1 bodyQstat_stays.form
  | .trap _ _ => issueOp_keeps 0xd2 bodyTrap_stays.form
  | .load _ _ => issueOp_keeps 0x02 (ldCopy_form _)
  | .store _ _ => issueOp_keeps 0x03 (ldCopy_form _)
  | .ldq _ _ => issueOp_keeps 0x04 bodyLdq_stays.form
  | .qst _ _ => issueOp_keeps 0x05 bodyQst_form
  | .gather _ _ => issueOp_keeps 0x06 bodyGather_form
  | .ebag _ _ => issueOp_keeps 0x07 bodyEbag_form
  | .zero _ _ => issueOp_keeps 0x08 bodyZero_form
  | .send _ _ => issueOp_keeps 0xa2 bodySend_stays.form
  | .recv _ _ => issueOp_keeps 0xa3 bodyRecv_stays.form
  | .mmw _ _ => issueOp_keeps 0x22 bodyMmw_stays.form
  | .mxout _ _ => issueOp_keeps 0x23 bodyMxout_stays.form
  | .mzero _ _ => issueOp_keeps 0x24 bodyMzero_stays.form
  | .vld _ _ => issueOp_keeps 0x42 bodyVld_stays.form
  | .vst _ _ => issueOp_keeps 0x43 bodyVst_form
  | .vpop _ _ => issueOp_keeps 0x44 bodyVpop_stays.form
  | .vpush _ _ => issueOp_keeps 0x45 bodyVpush_stays.form
  | .vscl _ _ => issueOp_keeps 0x46 bodyVscl_stays.form
  | .vop _ _ => issueOp_keeps 0x47 bodyVop_stays.form
  | .vopi _ _ => issueOp_keeps 0x48 bodyVopi_stays.form
  | .vred _ _ => issueOp_keeps 0x49 bodyVred_stays.form
  | .vrot _ _ => issueOp_keeps 0x4a bodyVrot_stays.form
  | .vpick _ _ => issueOp_keeps 0x4b bodyVpick_stays.form
  | .vside _ _ => issueOp_keeps 0x4c bodyVside_stays.form
  | .vqz _ _ => issueOp_keeps 0x4d bodyVqz_stays.form
  | .vqnt _ _ => issueOp_keeps 0x4e bodyVqnt_stays.form
  | .vqs _ _ => issueOp_keeps 0x4f bodyVqs_stays.form
  | .vpack _ _ => issueOp_keeps 0x50 bodyVpack_stays.form
  | .vunpk _ _ => issueOp_keeps 0x51 bodyVunpk_stays.form
  | .tfe _ _ => issueOp_keeps 0x63 bodyTfe_form
  | .twalk _ _ => issueOp_keeps 0x62 bodyTwalk_stays.form
  | .tout _ _ => issueOp_keeps 0x64 bodyTout_stays.form
  | .astep _ _ => issueOp_keeps 0x82 bodyAstep_form
  | .instructionComplete _ _ _ => .tile (.ite (completeAt_keeps (.refl s)) (.refl s))
  | .creditStall _ => .tile (.ite (tileFault_keeps (.refl s)) (.refl s))
  | .kernelDispatch _ _ => .next (kernelDispatch_keeps (.refl s))
  | .streamLoaderFill _ _ => .tile (loaderFill_keeps (.refl s))
  | .kernelEnd _ => .tile (kernelEnd_keeps (.refl s))
  | .turnMark _ _ => .next (.ite (sofArrives_keeps (.refl s)) (.refl s))
  | .turnStall => .next (.ite (stallNow_keeps (elapseTo_keeps (.refl s))) (.refl s))
  | .pauseExpiry _ => .next (.ite (expireSlot_keeps (.refl s)) (.refl s))
  | .handleExpiry _ _ => .next (.ite (expireHandle_keeps (.refl s)) (.refl s))
  | .mwr _ _ _ _ => .next (onPort_keeps mwr_keeps (.refl s))
  | .mrd _ _ _ => .next (onPort_keeps mrd_keeps (.refl s))
  | .doorbell _ _ _ => .next (onPort_keeps doorbell_keeps (.refl s))
  | .admitReq _ => .next (onMessage_keeps onAdmit_keeps (.refl s))
  | .tokens _ => .next (onMessage_keeps onTokens_keeps (.refl s))
  | .takeback _ => .next (onMessage_keeps onTakeback_keeps (.refl s))
  | .resign _ => .next (onMessage_keeps onResign_keeps (.refl s))
  | .pause _ => .next (onMessage_keeps onPause_keeps (.refl s))
  | .resume _ => .next (onMessage_keeps onResume_keeps (.refl s))
  | .resumeLoss _ => .next (onMessage_keeps onResumeLoss_keeps (.refl s))
  | .resumeRebuild _ => .next (onMessage_keeps onResumeRebuild_keeps (.refl s))
  | .prefixRefMark _ => .next (onMessage_keeps onMark_keeps (.refl s))
  | .prefixRefDrop _ => .next (onMessage_keeps onDrop_keeps (.refl s))
  | .pauseDrained _ => .next (beginTransfer_keeps (.refl s))
  | .pauseTransferDone _ => .next (endTransfer_keeps (.refl s))
  | .imageFetchDone _ => .next (endFetch_keeps (.refl s))
  | .verdictEntryReturned _ => .next (entryReturned_keeps (.refl s))
  | .bulletinTimeout _ => .next (bulletinTimeout_keeps (.refl s))
  | .bulletinSlotReturned _ => .next (bulletinReturned_keeps (.refl s))
  | .eventEntryReturned _ => .next (.ite (flushLost_keeps (.refl s)) (.refl s))
  | .imageBufferReturned _ => .next (resumeTransfer_keeps (.refl s))
  | .masksetEntryReturned _ => .next (msetReturned_keeps (.refl s))
  | .noticeInterval _ => .next (noticeEnd_keeps (.refl s))
  | .mcSeat _ => .next (.ite (mcArrive_keeps seat_keeps (.refl s)) (.refl s))
  | .mcRd _ => .next (.ite (mcArrive_keeps mcRead_keeps (.refl s)) (.refl s))
  | .mcWr _ => .next (.ite (mcArrive_keeps mcWrite_keeps (.refl s)) (.refl s))
  | .mcForward _ => .next (.ite (.refl s) (mcArrive_keeps mcPass_keeps (.refl s)))
  | .registerWrite _ _ => .next (mgmtWrite_keeps (.refl s))
  | .tileFlush _ _ => .next (mgmtWrite_keeps (.refl s))
  | .reqSlotSel _ _ => .next (mgmtWrite_keeps (.refl s))
  | .errLogSel _ => .next (mgmtWrite_keeps (.refl s))
  | .meterSel _ => .next (mgmtWrite_keeps (.refl s))
  | .codeSel _ => .next (mgmtWrite_keeps (.refl s))
  | .routeLoad _ => .next (mgmtWrite_keeps (.refl s))
  | .routeLoadComplete => .next (routeLoaded_keeps (.refl s))
  | .codeLoad _ => .next (mgmtWrite_keeps (.refl s))
  | .codeAct _ => .next (mgmtWrite_keeps (.refl s))
  | .closeClock _ => .next (gateWrite_keeps (.refl s))
  | .openClock _ => .next (gateWrite_keeps (.refl s))
  | .powerOff _ => .next (gateWrite_keeps (.refl s))
  | .powerOn _ => .next (gateWrite_keeps (.refl s))
  | .gateHandshakeDone _ => .next (handshakeDone_keeps (.refl s))
  | .gateTimeout => .next (handshakeTimeout_keeps (.refl s))
  | .railGood => .next (railDone_keeps (.refl s))
  | .railTimeout => .next (railDone_keeps (.refl s))
  | .clkReturnNow => .next (mgmtWrite_keeps (.refl s))
  | .fwLoad _ => .next (mgmtWrite_keeps (.refl s))
  | .fwAuthComplete => .next (fwAuth_keeps (.refl s))
  | .seal => .next (mgmtWrite_keeps (.refl s))
  | .shutdown => .next (mgmtWrite_keeps (.refl s))
  | .shutdownComplete => .next (shutdownDone_keeps (.refl s))
  | .loadProgram _ _ => .next (loadProgram_keeps (.refl s))
  | .unloadProgram _ => .next (stwWrite_keeps (.refl s))
  | .loadPlan _ => .next (loadPlanDef_keeps (.refl s))
  | .stewardCommandDone => .next (stwDone_keeps (.refl s))
  | .xchDataItem _ _ => .next (arriveItem_keeps takeData_keeps (.refl s))
  | .xchScaleItem _ _ => .next (arriveItem_keeps takeScale_keeps (.refl s))
  | .xchAckItem _ _ => .next (arriveItem_keeps takeAck_keeps (.refl s))
  | .xchNakItem _ _ => .next (arriveItem_keeps takeNak_keeps (.refl s))
  | .outSlotReturned _ => .next (.ite (.refl s) (drainOut_keeps (.refl s)))
  | .exchangeTimeout _ _ => .tile (exchangeTimeout_keeps (.refl s))
  | .resetNFall => .next (resetFall_keeps (.refl s))
  | .resetNRise => .next (resetRise_keeps (.refl s))
  | .pwrOkRise => .next (powerRise_keeps (.refl s))
  | .pwrOkFall => .next (powerFall_keeps (.refl s))
  | .vinOutOfRange => .next (powerLost_keeps (.refl s))
  | .haltReqAssert => .next (haltAssert_keeps (.refl s))
  | .haltReqRelease => .next (haltRelease_keeps (.refl s))
  | .haltStuck => .next (haltStuck_keeps (.refl s))
  | .haltRearmed => .next (haltRearmed_keeps (.refl s))
  | .blockLockAcquired _ => .next (.ite (setTb_keeps (.refl s)) (.refl s))
  | .blockLockLost _ => .next (.ite (loseLock_keeps (.refl s)) (.refl s))
  | .frameLockAcquired _ => .next (.ite (clockCheck_keeps (gainElig_keeps (setTb_keeps (.refl s)))) (.refl s))
  | .frameLockLost _ => .next (.ite (loseLock_keeps (.refl s)) (.refl s))
  | .windowCheck _ _ => .next (windowCheck_keeps (.refl s))
  | .watchCheck _ _ _ => .next (watchCheck_keeps (.refl s))
  | .trimUpdate _ => .next (trimUpdate_keeps (.refl s))
  | .relockEnd => .next (relockEnd_keeps (.refl s))
  | .stkPgRise _ => .next (pgRise_keeps (.refl s))
  | .mpTrained _ _ => .next (portUp_keeps (.refl s))
  | .mpTrainTimeout _ _ => .next (.ite (portTimeout_keeps (.refl s)) (.refl s))
  | .stkPgFall _ => .next (pgFall_keeps (.refl s))
  | .memPortRetrain _ => .next (portRetrain_keeps (.refl s))
  | .mpRetrained _ _ => .next (portUp_keeps (.refl s))
  | .mpRetrainTimeout _ => .next (portTimeout_keeps (.refl s))
  | .linkFlitReplay _ _ => .next (flitReplay_keeps (.refl s))
  | .hostPortDown _ => .next (hostDown_keeps (.refl s))
  | .hostPortUp _ _ => .next (hostUp_keeps (.refl s))
  | .domainFault _ => .next (domainFault_keeps (.refl s))
  | .boxcarsSpent => .next (boxSpent_keeps (.refl s))
  | .boxcarsWorn => .next (boxWorn_keeps (.refl s))
  | .boxcarsHot _ _ => .next (boxHot_keeps (.refl s))
  | .hotClear _ => .next (hotClear_keeps (.refl s))
  | .thermalRecovered => .next (thermalRecovered_keeps (.refl s))
  | .errorEntryHandle => .next (handleNext_keeps (.refl s))
  | .recoveryStepTimeout => execRecoveryStepTimeout_keeps s
  | .startupPhaseEnd => .next (phaseEnd_keeps (.refl s))
  | .startupTimeout _ => .next (phaseTimeout_keeps (.refl s))
  | .illegalOpcode _ _ _ => .tile (reachIllegal_keeps (.refl s))
  | .badpkt _ _ => .next (onPort_keeps (fun k => .ite k (badPacket_keeps k)) (.refl s))
  | .baditem _ _ => .next (badItem_keeps (.refl s))
  | .startOfFrameFault _ _ _ => .next (sofFault_keeps (.refl s))
  | .filteredPulse _ => .next (filteredPulse_keeps (.refl s))

theorem exec_keeps {i : Instr} {s s' : State} (h : exec i s = .next s') : Keeps s s' := by
  rcases exec_answers i s with ⟨t, -, -, ht⟩ | ⟨-, s'', hs, k⟩
  · exact nomatch ht.symm.trans h
  · cases hs.symm.trans h
    exact k

/-- A step takes the front command out of the queue, if there is one, and keeps the rest, the fuses, time's order and the memory's form. -/
theorem step_keeps {s s' : State} (h : step s = .next s') : Keeps { s with pending := s.pending.tail } s' := by
  unfold step at h
  split at h
  · next hp =>
    cases h
    have k : Keeps s (tick s) := tick_keeps (.refl s)
    exact ⟨by rw [hp]; exact k.pending.trans hp, k.now, k.fuse, k.wf⟩
  · next hp =>
    have k := exec_keeps h
    exact ⟨by rw [hp]; exact k.pending, k.now, k.fuse, k.wf⟩

end Sys2Proof.Machine
end

section
/-! SUPPORT. The invariants of every step. -/

namespace Sys2Proof.Machine

/-- Settles O1. -/
theorem stepRunsFront : Obligations.StepRunsFront := by
  intro c cs s h
  unfold step
  rw [h]

/-- Settles O2: each command answers a next state, on a tile only where its ID names one. -/
theorem onlyUnnamedTilesStop : Obligations.OnlyUnnamedTilesStop := by
  intro i s
  rcases exec_answers i s with h | ⟨ht, s', hs, -⟩
  · exact .inl h
  · exact .inr ⟨ht, s', hs⟩

/-- Settles O58: every function of the model that writes memory writes it in canonical form. -/
theorem stepsKeepMemoryCanonical : Obligations.StepsKeepMemoryCanonical := fun _ _ hm h => (step_keeps h).wf hm

/-- Settles O59: no function of the model writes a fuse but its valid bit. -/
theorem stepsKeepFuses : Obligations.StepsKeepFuses := fun _ _ h => (step_keeps h).fuse

/-- Settles O60: no command touches the queue or turns time back, and a microsecond passes where none waits. -/
theorem queueAndTime : Obligations.QueueAndTime := by
  refine ⟨fun i s s' h => ⟨(exec_keeps h).pending, (exec_keeps h).now⟩, fun s hp => ?_⟩
  have k : Keeps { s with now := s.now + 1 } (tick s) := tick_keeps_elapsed elapse_keeps_from
  refine ⟨tick s, ?_, k.pending.trans hp, k.now⟩
  unfold step
  rw [hp]

end Sys2Proof.Machine
end

section
/-! SUPPORT. What follows the issue of an engine instruction, and what a fault leaves in its tile. -/

namespace Sys2Proof.Machine

/-- R82, R87: tile `t` is stopped, and TILE_FAULT names the fault: its code, its queue where it is a queue fault, its engine and its position. -/
def FaultStands (s : State) (t code q n idx : Nat) : Prop :=
  (tileOf s t).stopped = true ∧ bit (tileOf s t).fault 63 = true ∧ fld (tileOf s t).fault 48 8 = code ∧ fld (tileOf s t).fault 40 3 = n
    ∧ fld (tileOf s t).fault 0 32 = (if n = 7 then 0 else idx) % 2 ^ 32
    ∧ fld (tileOf s t).fault 32 5 = (if code = 1 ∨ code = 2 then q else 0)

/-- R87: the fields that the record of a tile's first fault holds past its code and engine. -/
theorem recordFault_first_place {tl : Tile} {code q n : Nat} (idx : Nat) (hv : bit tl.fault 63 = false) (hq : q < 32) :
    fld (recordFault tl code q n idx).fault 0 32 = (if n = 7 then 0 else idx) % 2 ^ 32
      ∧ fld (recordFault tl code q n idx).fault 32 5 = (if code = 1 ∨ code = 2 then q else 0) := by
  unfold recordFault
  simp only [hv, Bool.false_eq_true, if_false]
  have hq' : (if code = 1 ∨ code = 2 then q else 0) < 32 := by split <;> omega
  generalize (if code = 1 ∨ code = 2 then q else 0) = q' at hq' ⊢
  generalize (if n = 7 then 0 else idx) = k
  simp only [fld, mk64, put, BitVec.toNat_ofNat, Nat.shiftLeft_eq, Nat.shiftRight_eq_div_pow]
  omega

theorem tileFault_stands {s : State} {t code q n : Nat} (idx : Nat) (hv : bit (tileOf s t).fault 63 = false) (hc : code < 256) (hn : n < 8)
    (hq : q < 32) : FaultStands (tileFault s t code q n idx) t code q n idx := by
  obtain ⟨hstop, hfault⟩ := tileFault_tile s t code q n idx
  obtain ⟨hvalid, hcode, heng⟩ := recordFault_first q idx hv hc hn
  obtain ⟨hidx, hqueue⟩ := recordFault_first_place idx hv hq
  unfold FaultStands
  rw [hfault]
  exact ⟨hstop, hvalid, hcode, heng, hidx, hqueue⟩

/-- R63: a correction counts in CE of its tile, and changes no other field of a tile. -/
theorem tileOf_correctUnit (s : State) (b t : Nat) : tileOf (correctUnit s b) t = { tileOf s t with ce := (tileOf (correctUnit s b) t).ce } := by
  unfold correctUnit
  dsimp only
  split
  case h_1 u _ =>
    by_cases h : t = u
    · subst h
      rw [tileOf_setTile_same]
      rfl
    · rw [tileOf_setTile_other _ _ _ _ h]
      rfl
  all_goals rfl

theorem tileOf_correctUnits (bs : List Nat) (s : State) (t : Nat) :
    tileOf (bs.foldl correctUnit s) t = { tileOf s t with ce := (tileOf (bs.foldl correctUnit s) t).ce } := by
  induction bs generalizing s with
  | nil => rfl
  | cons b bs ih =>
    rw [List.foldl_cons, ih, tileOf_correctUnit s b]

/-- R63: the count of poisoned words read changes UE of the tiles, and no other field of a tile. -/
theorem tileOf_addUe (l : List (Nat × Nat)) (s : State) (t : Nat) : tileOf (addUe s l) t = { tileOf s t with ue := (tileOf (addUe s l) t).ue } := by
  unfold addUe
  induction l generalizing s with
  | nil => rfl
  | cons p l ih =>
    rw [List.foldl_cons, ih]
    split
    · rfl
    · by_cases h : t = p.1
      · subst h
        rw [tileOf_setTile_same]
      · rw [tileOf_setTile_other _ _ _ _ h]

theorem eng_correctUnits (bs : List Nat) (s : State) (t : Nat) (e : Eng) : eng (tileOf (bs.foldl correctUnit s) t) e = eng (tileOf s t) e := by
  rw [tileOf_correctUnits]
  rfl

/-- R106 to R233: a command of an engine's instruction runs it on its tile, where the ID names one. -/
theorem exec_issueAt {i : Instr} {c : EngineInstr} {e : Eng} {s : State} (hi : engineInstr i = some c) (hf : c.fits e)
    (hn : tileNamed c.tile.toNat = true) : exec i s = .next (issueAt s c.tile.toNat e c.word c.body) := by
  obtain ⟨heng, hop⟩ := hf
  cases i <;> simp only [engineInstr, reduceCtorEq, Option.some.injEq] at hi <;> subst hi <;>
    simp only [if_true, Bool.false_eq_true, if_false] at hop heng hn ⊢
  case nop | repeat_ => simp only [exec, execNop, execRepeat, issueAny, onTile, hn, heng, hop, if_true]
  all_goals
    have heng' := heng
    rw [hop] at heng'
    simp only [exec, execKenter, execKend, execLi, execAlu, execAlui, execBr, execJmp, execSeta, execAdda, execAddas, execAread, execKarg,
      execCredit, execQrd, execQwr, execQstat, execTrap, execLoad, execStore, execLdq, execQst, execGather, execEbag, execZero, execSend,
      execRecv, execMmw, execMxout, execMzero, execVld, execVst, execVpop, execVpush, execVscl, execVop, execVopi, execVred, execVrot,
      execVpick, execVside, execVqz, execVqnt, execVqs, execVpack, execVunpk, execTfe, execTwalk, execTout, execAstep, issueOp, onTile, hn,
      heng', hop, if_true]

theorem issued_tile (s : State) (t : BitVec 10) (e : Eng) (w : W64) (idx : Nat) (x : EngState) (tl : Tile) (m : Mem) (p : Pend) (sig : Nat × Nat)
    (j : Option Int) :
    tileOf (issued s t e w idx x tl m p sig j) t.toNat
      = readOn (setEng tl e { advance x w j with
          flight := x.flight ++ [{ idx := idx, sig := sig.1, n := sig.2, done := false, unit := unitOf e w, since := s.now, pend := p }] }) e :=
  tileOf_setTile_same ..

/-- What stands of the front end past an issue: where it goes on, and its stream's length. -/
theorem eng_issued (s : State) (t : BitVec 10) (e : Eng) (w : W64) (idx : Nat) (x : EngState) (tl : Tile) (m : Mem) (p : Pend) (sig : Nat × Nat)
    (j : Option Int) :
    (eng (tileOf (issued s t e w idx x tl m p sig j) t.toNat) e).pos = (advance x w j).pos
      ∧ (eng (tileOf (issued s t e w idx x tl m p sig j) t.toNat) e).loops = (advance x w j).loops
      ∧ (eng (tileOf (issued s t e w idx x tl m p sig j) t.toNat) e).length = (advance x w j).length := by
  rw [issued_tile, eng_readOn_pos, eng_readOn_loops, eng_readOn_length, eng_setEng_same]
  exact ⟨rfl, rfl, rfl⟩

theorem pullTo_fault (tl : Tile) (e : Eng) (n : Nat) : (pullTo tl e n).fault = tl.fault := rfl

theorem readOn_fault (tl : Tile) (e : Eng) : (readOn tl e).fault = tl.fault := by
  unfold readOn
  dsimp only
  split <;> rfl

theorem advance_length (x : EngState) (w : W64) (j : Option Int) : (advance x w j).length = x.length := by
  unfold advance
  split <;> rfl

/-- What follows a quiet answer's work: the bytes it moved are counted, and nothing else (R372). -/
theorem afterIssue_quiet {r : IRes} (h : Quiet r) (s : State) (t : Nat) (e : Eng) (idx : Nat) : afterIssue s t e idx r = addBytes s t r.touch := by
  obtain ⟨hover, hread, hwrote, hue, hpend⟩ := h
  simp only [afterIssue, hover, hread, hwrote, List.foldl_nil, addOverruns, addUe_nil hue, sendIssued_quiet hpend]

/-- R82: an instruction that faults as it issues counts what it read and records its fault in the tile it leaves. -/
theorem issueWord_faults {s : State} {t : BitVec 10} {e : Eng} {w : W64} {tl : Tile} (h : Ready s t e w tl) {b : Body} {r : IRes} {code q : Nat}
    (hr : r = answerOf s t e w tl b) (hf : r.fault = some (code, q)) (hread : r.readBad = []) (ht : r.touch.any (portWaits s) = false) :
    ∃ s1, issueWord s t.toNat e w b tl = tileFault s1 t.toNat code q (engNum e) (eng tl e).pos
      ∧ (tileOf s1 t.toNat).fault = r.tile.fault := by
  have hroom := h.room
  have hcredit : (waits w && decide ((credit tl (waitCtr w)).toNat ≤ servedFirst tl e (waitCtr w))) = false := by
    cases hw : waits w
    · rfl
    · simpa using h.credit hw
  refine ⟨addUe ((singlesOf s.mem r.reads).foldl correctUnit { setTile s t.toNat r.tile with mem := r.mem }) r.ue, ?_, ?_⟩
  · unfold issueWord
    simp only [answerOf] at hr
    simp only [← hr, hroom, hcredit, ht, hf, hread, Bool.not_true, Bool.false_eq_true, or_self, if_false, List.foldl_nil]
  · rw [tileOf_addUe, tileOf_correctUnits]
    show (tileOf (setTile s t.toNat r.tile) t.toNat).fault = r.tile.fault
    rw [tileOf_setTile_same]

/-- R102, R104, R107: the structure rules have two faults. -/
theorem reachFault_code {e : Eng} {x : EngState} {w : W64} {code : Nat} (h : reachFault e x w = some code) : code = 0x14 ∨ code = 0x15 := by
  unfold reachFault at h
  grind

/-- R102: a word that breaks a structure rule where its engine reaches it stops the tile. -/
theorem issueAt_breaks {s : State} {t : Nat} {e : Eng} {w : W64} {tl : Tile} {code : Nat} (b : Body) (hruns : tileRuns s t = true)
    (hkernel : (tileOf s t).kernel = true) (hgoing : (tileOf s t).stopped = false) (hfetch : fetchWord (tileOf s t) e = some (w, tl))
    (hreach : reachFault e (eng tl e) w = some code) :
    issueAt s t e w b = tileFault (setTile s t tl) t code 0 (engNum e) (eng tl e).pos := by
  unfold issueAt
  simp only [hruns, hkernel, hgoing, hfetch, hreach, Bool.not_true, Bool.false_eq_true, or_self, if_false, ne_eq, not_true_eq_false]

/-- R107: an instruction with a target outside the stream does its work and then stops the tile. -/
theorem issueWord_badTarget {s : State} {t : BitVec 10} {e : Eng} {w : W64} {tl : Tile} (h : Ready s t e w tl) {b : Body} {r : IRes}
    (hr : r = answerOf s t e w tl b) (hf : r.fault = none) (ht : r.touch = []) (hb : badTarget (eng tl e) r.jump = true) :
    issueWord s t.toNat e w b tl = tileFault (setTile s t.toNat r.tile) t.toNat 0x14 0 (engNum e) (eng tl e).pos := by
  have hroom := h.room
  have hcredit : (waits w && decide ((credit tl (waitCtr w)).toNat ≤ servedFirst tl e (waitCtr w))) = false := by
    cases hw : waits w
    · rfl
    · simpa using h.credit hw
  unfold issueWord
  simp only [answerOf] at hr
  simp only [← hr, hroom, hcredit, ht, hf, hb, List.any_nil, Bool.not_true, Bool.false_eq_true, or_self, if_false, if_true]

/-- R105: a quiet SQ instruction other than KEND that is its stream's last stops the tile. -/
theorem issueWord_runsOut {s : State} {t : BitVec 10} {w : W64} {tl : Tile} (h : Ready s t .sq w tl) {b : Body} {r : IRes}
    (hr : r = answerOf s t .sq w tl b) (hf : r.fault = none) (hq : Quiet r) (ht : r.touch = []) (hb : badTarget (eng tl .sq) r.jump = false)
    (hw : wOpcode w ≠ 0xc3) (hend : (eng r.tile .sq).length ≤ (advance (eng r.tile .sq) w r.jump).pos) :
    ∃ s1, issueWord s t.toNat .sq w b tl = tileFault s1 t.toNat 0x14 0 6 (eng r.tile .sq).length ∧ (tileOf s1 t.toNat).fault = r.tile.fault := by
  rw [issueWord_next h b r hr hf (by rw [ht]; rfl) hb, afterIssue_quiet hq, ht, addBytes_nil]
  obtain ⟨hpos, -, hlen⟩ := eng_issued s t .sq w (eng tl .sq).pos (eng r.tile .sq) r.tile r.mem r.pend (r.sigCtr.getD (wSig w, 1)) r.jump
  generalize hi : issued s t .sq w (eng tl .sq).pos (eng r.tile .sq) r.tile r.mem r.pend (r.sigCtr.getD (wSig w, 1)) r.jump = si at hpos hlen
  have hlen' : (eng (tileOf si t.toNat) .sq).length = (eng r.tile .sq).length := hlen.trans (advance_length ..)
  refine ⟨(singlesOf s.mem r.reads).foldl correctUnit si, ?_, ?_⟩
  · unfold runOut
    simp only [eng_correctUnits, hpos, hlen', hw, hend, ne_eq, not_false_eq_true, and_self, if_true]
  · rw [tileOf_correctUnits]
    show (tileOf si t.toNat).fault = r.tile.fault
    rw [← hi, issued_tile, readOn_fault]
    rfl

end Sys2Proof.Machine
end

section
/-! SUPPORT. Engine instructions that issue, wait, and stop their tile. -/

namespace Sys2Proof.Machine

/-- Settles O3: what the instruction read is corrected, its bytes are counted, and no other part of what follows an issue has work. -/
theorem engineInstructionsIssue : Obligations.EngineInstructionsIssue := by
  intro i c e s tl hi hf h r hr hfault hq ht hb hs
  rw [exec_ready hi hf h, issueWord_next h _ r hr hfault ht hb, afterIssue_quiet hq]
  refine congrArg _ (runOut_stays fun he hw => ?_)
  subst he
  obtain ⟨hpos, -, hlen⟩ := eng_issued s c.tile .sq c.word (eng tl .sq).pos (eng r.tile .sq) r.tile r.mem r.pend
    (r.sigCtr.getD (wSig c.word, 1)) r.jump
  rw [addBytes_tile, eng_correctUnits, hpos, hlen, advance_length]
  exact hs rfl hw

/-- Settles O4: the fault is recorded before anything of the instruction's work, which a fault at issue has none of. -/
theorem issueFaultStopsTile : Obligations.IssueFaultStopsTile := by
  intro i c e s tl code q hi hf h r hr hfault hread ht hv hc hq
  obtain ⟨s1, hword, hold⟩ := issueWord_faults h hr hfault hread ht
  have hn : engNum e < 7 := by cases e <;> decide
  rw [← hold] at hv
  obtain ⟨hstop, hvalid, hcode, heng, hidx, hqueue⟩ := tileFault_stands (n := engNum e) (eng tl e).pos hv hc (by omega) hq
  rw [if_neg (by omega)] at hidx
  exact ⟨_, (exec_ready hi hf h).trans (congrArg _ hword), hstop, hvalid, hcode, heng, hidx, hqueue⟩

/-- R88: one instruction has an opcode. -/
theorem body_of_opcode {i : Instr} {c : EngineInstr} {e : Eng} (hi : engineInstr i = some c) (hf : c.fits e) :
    (wOpcode c.word = 0xc7 → c.body = bodyBr) ∧ (wOpcode c.word = 0xc8 → c.body = bodyJmp) := by
  obtain ⟨-, hop⟩ := hf
  cases i <;> simp only [engineInstr, reduceCtorEq, Option.some.injEq] at hi <;> subst hi <;>
    simp only [if_true, Bool.false_eq_true, if_false] at hop
  case br => exact ⟨fun _ => rfl, fun h => absurd (hop.symm.trans h) (by decide)⟩
  case jmp => exact ⟨fun h => absurd (hop.symm.trans h) (by decide), fun _ => rfl⟩
  case nop | repeat_ => exact ⟨fun h => absurd (hop.symm.trans (congrArg (· % 32) h)) (by decide), fun h => absurd (hop.symm.trans (congrArg (· % 32) h)) (by decide)⟩
  all_goals exact ⟨fun h => absurd (hop.symm.trans h) (by decide), fun h => absurd (hop.symm.trans h) (by decide)⟩

/-- R107: JMP, and BR with its condition met, leave the target to the front end and change no tile. -/
theorem answerOf_jump {s : State} {t : BitVec 10} {tl : Tile} {c : EngineInstr} {i : Instr} (hi : engineInstr i = some c) (hf : c.fits .sq)
    (h : (wOpcode c.word = 0xc8 ∧ operandsOk c.word (mask 15 0))
      ∨ (wOpcode c.word = 0xc7 ∧ operandsOk c.word (mask 47 35 + mask 15 0) ∧ fld c.word 45 3 ≤ 5
        ∧ brCond (fld c.word 45 3) (sGet tl (sReg c.word 40)).bits (sGet tl (sReg c.word 35)).bits = true)) :
    (answerOf s t .sq c.word tl c.body).fault = none ∧ (answerOf s t .sq c.word tl c.body).touch = []
      ∧ (answerOf s t .sq c.word tl c.body).jump = some (sext (fld c.word 0 16) 16)
      ∧ (answerOf s t .sq c.word tl c.body).tile = paid tl c.word := by
  unfold answerOf
  rcases h with ⟨hop, hok⟩ | ⟨hop, hok, hcond, hmet⟩
  · simp only [(body_of_opcode hi hf).2 hop, bodyJmp, checked, hok, if_true]
    exact ⟨rfl, rfl, rfl, rfl⟩
  · simp only [(body_of_opcode hi hf).1 hop, bodyBr, checked, hok, if_true, Nat.not_lt.mpr hcond, if_false, sGet_paid, hmet]
    exact ⟨rfl, rfl, rfl, rfl⟩

/-- Settles O5: a word that breaks a rule stops the tile before its work, an end of the stream and a bad target after it. -/
theorem structureFaultStopsTile : Obligations.StructureFaultStopsTile := by
  intro i c e s tl hi hf hv
  refine ⟨fun code hn hruns hkernel hgoing hfetch hreach => ?_, fun r he h hw hr hfault hq ht hb hv' hend => ?_, ?_⟩
  · have hcode := reachFault_code hreach
    have hold : bit (tileOf (setTile s c.tile.toNat tl) c.tile.toNat).fault 63 = false := by rwa [tileOf_setTile_same]
    have hn7 : engNum e < 7 := by cases e <;> decide
    obtain ⟨hstop, hvalid, hc, -, hidx, -⟩ := tileFault_stands (q := 0) (n := engNum e) (eng tl e).pos hold (show code < 256 by omega) (by omega)
      (by omega)
    rw [if_neg (by omega)] at hidx
    exact ⟨_, (exec_issueAt hi hf hn).trans (congrArg _ (issueAt_breaks _ hruns hkernel hgoing hfetch hreach)), hstop, hvalid, hc, hcode, hidx⟩
  · subst he
    obtain ⟨s1, hword, hold⟩ := issueWord_runsOut h hr hfault hq ht hb hw hend
    rw [← hold] at hv'
    obtain ⟨hstop, hvalid, hc, -, hidx, -⟩ := tileFault_stands (code := 0x14) (q := 0) (n := 6) (eng r.tile .sq).length hv' (by omega) (by omega)
      (by omega)
    exact ⟨_, (exec_ready hi hf h).trans (congrArg _ hword), hstop, hvalid, hc, hidx⟩
  · intro w x y target he h hop htarget
    subst he
    obtain ⟨hfault, ht, hj, htl⟩ := answerOf_jump (s := s) (t := c.tile) hi hf hop
    have hb : badTarget (eng tl .sq) (answerOf s c.tile .sq w tl c.body).jump = true := by
      rw [hj]
      unfold badTarget
      simpa using htarget
    have hold : bit (tileOf (setTile s c.tile.toNat (answerOf s c.tile .sq w tl c.body).tile) c.tile.toNat).fault 63 = false := by
      rw [tileOf_setTile_same, htl, fault_paid]
      exact hv
    obtain ⟨hstop, hvalid, hc, heng, hidx, -⟩ := tileFault_stands (code := 0x14) (q := 0) (n := engNum .sq) (eng tl .sq).pos hold (by omega) (by decide)
      (by omega)
    exact ⟨_, (exec_ready hi hf h).trans (congrArg _ (issueWord_badTarget h rfl hfault ht hb)), hstop, hvalid, hc, heng, hidx⟩

/-- Settles O6: an instruction without its credit leaves the block as it finds it. -/
theorem creditWaitHoldsIssue : Obligations.CreditWaitHoldsIssue := by
  intro i c e s tl hi hf hn hfetch hreach hw hcredit
  rw [exec_issueAt hi hf hn]
  have hword : issueWord s c.tile.toNat e c.word c.body tl = s := by
    unfold issueWord
    simp only [hw, hcredit, decide_true, Bool.and_true, or_true, if_true]
  unfold issueAt
  simp only [hfetch, hreach, hword, ne_eq, not_true_eq_false, ite_self]

end Sys2Proof.Machine
end

section
/-! SUPPORT. SQ's control instructions: what each answers, and where its stream goes on. -/

namespace Sys2Proof.Machine

/-- A plain instruction whose body only leaves `p`, `sg` and `j`, issues with them. -/
theorem exec_plainDone {i : Instr} {s : State} {t : BitVec 10} {w : W64} {tl : Tile} {e : Eng} {every : Bool} {op used : Nat} {b : Body}
    {p : Pend} {sg : Option (Nat × Nat)} {j : Option Int}
    (hi : engineInstr i = some { tile := t, word := w, every := every, op := op, body := checked used b })
    (hf : EngineInstr.fits { tile := t, word := w, every := every, op := op, body := checked used b } e) (h : Plain s t e w tl)
    (hp : match p with | .send c _ _ _ _ _ _ => c.isLocal = true | _ => True) (ho : operandsOk w used)
    (hb : b (envOf s t.toNat (eng tl e)) (iterOf (eng tl e)) w (paid tl w)
      = { iresDone (envOf s t.toNat (eng tl e)) (paid tl w) with pend := p, sigCtr := sg, jump := j }) (ht : badTarget (eng tl e) j = false)
    (hs : staysIn e w (eng tl e) j) :
    exec i s = .next (issued s t e w (eng tl e).pos (eng tl e) (paid tl w) s.mem p (sg.getD (wSig w, 1)) j) :=
  exec_done hi hf h.toReady (paid tl w) p sg j ((checked_ok ho (envOf_pz h)).trans hb) (by cases p <;> exact hp) (eng_paid ..) ht hs

/-- R91, R100: an instruction that every engine has fits the engine that its opcode names. -/
theorem fits_every {t : BitVec 10} {w : W64} {op : Nat} {b : Body} {e : Eng} (hop : wOpcode w = 32 * engNum e + op) (h : op < 32) :
    EngineInstr.fits { tile := t, word := w, every := true, op := op, body := b } e := by
  have hdiv : wOpcode w / 32 = engNum e := by omega
  have hmod : wOpcode w % 32 = op := by omega
  refine ⟨?_, hmod⟩
  show engOf (wOpcode w / 32) = some e
  rw [hdiv]
  cases e <;> rfl

section
variable {s : State} {t : BitVec 10} {w : W64} {tl : Tile} {e : Eng}

/-- R91. -/
theorem exec_nop (h : Plain s t e w tl) (hop : wOpcode w = 32 * engNum e) (ho : operandsOk w 0) (hs : staysIn e w (eng tl e) none) :
    exec (.nop t w) s = .next (issued s t e w (eng tl e).pos (eng tl e) (paid tl w) s.mem .none (wSig w, 1) none) :=
  exec_plainDone (p := .none) (sg := none) (j := none) rfl (fits_every (op := 0) hop (by omega)) h trivial ho rfl rfl hs

/-- R100. -/
theorem exec_repeat (h : Plain s t e w tl) (hop : wOpcode w = 32 * engNum e + 1) (ho : operandsOk w (mask 47 40 + mask 15 0))
    (hs : staysIn e w (eng tl e) none) :
    exec (.repeat_ t w) s = .next (issued s t e w (eng tl e).pos (eng tl e) (paid tl w) s.mem .none (wSig w, 1) none) :=
  exec_plainDone (p := .none) (sg := none) (j := none) rfl (fits_every hop (by omega)) h trivial ho rfl rfl hs

/-- R104. -/
theorem exec_kenter (h : Plain s t .sq w tl) (hop : wOpcode w = 0xc2) (ho : operandsOk w (mask 15 0)) (hw : wWait w = 0)
    (hk : fld w 0 16 = tl.kernelId.toNat) (hs : staysIn .sq w (eng tl .sq) none) :
    exec (.kenter t w) s = .next (issued s t .sq w (eng tl .sq).pos (eng tl .sq) (paid tl w) s.mem .none (wSig w, 1) none) := by
  refine exec_plainDone (p := .none) (sg := none) (j := none) rfl (fits_of_opcode hop rfl) h trivial ho ?_ rfl hs
  rw [if_pos ⟨hw, by rw [kid_paid]; exact hk⟩]
  rfl

/-- R105. -/
theorem exec_kend (h : Plain s t .sq w tl) (hop : wOpcode w = 0xc3) (ho : operandsOk w 0) (hw : wSig w = 0) :
    exec (.kend t w) s = .next (issued s t .sq w (eng tl .sq).pos (eng tl .sq) (paid tl w) s.mem .kend (0, 1) none) := by
  have he := exec_plainDone (i := .kend t w) (p := .kend) (sg := none) (j := none) rfl (fits_of_opcode hop rfl) h trivial ho
    (by rw [if_pos hw]; rfl) rfl (fun _ c => absurd hop c)
  rw [he, hw]
  rfl

/-- R107: the target of a branch lies in the stream. -/
theorem target_stays {x : EngState} {d : Int} (h0 : 0 ≤ (x.pos : Int) + d) (h1 : (x.pos : Int) + d < x.length) :
    badTarget x (some d) = false ∧ (advance x w (some d)).pos < x.length := by
  refine ⟨?_, ?_⟩
  · simp only [badTarget, Bool.or_eq_false_iff, decide_eq_false_iff_not]
    omega
  · show ((x.pos : Int) + d).toNat < x.length
    omega

/-- R107: BR with its condition met. -/
theorem exec_br_taken (h : Plain s t .sq w tl) (hop : wOpcode w = 0xc7) (ho : operandsOk w (mask 47 35 + mask 15 0)) (hc : fld w 45 3 ≤ 5)
    (hmet : brCond (fld w 45 3) (sGet tl (sReg w 40)).bits (sGet tl (sReg w 35)).bits = true)
    (h0 : 0 ≤ ((eng tl .sq).pos : Int) + sext (fld w 0 16) 16) (h1 : ((eng tl .sq).pos : Int) + sext (fld w 0 16) 16 < (eng tl .sq).length) :
    exec (.br t w) s = .next (issued s t .sq w (eng tl .sq).pos (eng tl .sq) (paid tl w) s.mem .none (wSig w, 1) (some (sext (fld w 0 16) 16))) := by
  refine exec_plainDone (p := .none) (sg := none) (j := some (sext (fld w 0 16) 16)) rfl (fits_of_opcode hop rfl) h trivial ho ?_
    (target_stays (w := w) h0 h1).1 fun _ _ => (target_stays h0 h1).2
  rw [if_neg (Nat.not_lt.mpr hc), sGet_paid, sGet_paid, if_pos hmet]
  rfl

/-- R107: BR with its condition not met. -/
theorem exec_br_untaken (h : Plain s t .sq w tl) (hop : wOpcode w = 0xc7) (ho : operandsOk w (mask 47 35 + mask 15 0)) (hc : fld w 45 3 ≤ 5)
    (hmet : brCond (fld w 45 3) (sGet tl (sReg w 40)).bits (sGet tl (sReg w 35)).bits = false) (hs : staysIn .sq w (eng tl .sq) none) :
    exec (.br t w) s = .next (issued s t .sq w (eng tl .sq).pos (eng tl .sq) (paid tl w) s.mem .none (wSig w, 1) none) := by
  refine exec_plainDone (p := .none) (sg := none) (j := none) rfl (fits_of_opcode hop rfl) h trivial ho ?_ rfl hs
  rw [if_neg (Nat.not_lt.mpr hc), sGet_paid, sGet_paid, if_neg (by rw [hmet]; exact Bool.false_ne_true)]
  rfl

/-- R107. -/
theorem exec_jmp (h : Plain s t .sq w tl) (hop : wOpcode w = 0xc8) (ho : operandsOk w (mask 15 0))
    (h0 : 0 ≤ ((eng tl .sq).pos : Int) + sext (fld w 0 16) 16) (h1 : ((eng tl .sq).pos : Int) + sext (fld w 0 16) 16 < (eng tl .sq).length) :
    exec (.jmp t w) s = .next (issued s t .sq w (eng tl .sq).pos (eng tl .sq) (paid tl w) s.mem .none (wSig w, 1) (some (sext (fld w 0 16) 16))) :=
  exec_plainDone (p := .none) (sg := none) (j := some (sext (fld w 0 16) 16)) rfl (fits_of_opcode hop rfl) h trivial ho rfl
    (target_stays (w := w) h0 h1).1 fun _ _ => (target_stays h0 h1).2

/-- R110. -/
theorem exec_credit (h : Plain s t .sq w tl) (hop : wOpcode w = 0xce) (ho : operandsOk w (mask 47 44 + mask 7 0)) (hk : fld w 44 4 ≠ 0)
    (hn : fld w 0 8 ≠ 0) (hw : wSig w = 0) (hs : staysIn .sq w (eng tl .sq) none) :
    exec (.credit t w) s = .next (issued s t .sq w (eng tl .sq).pos (eng tl .sq) (paid tl w) s.mem .none (fld w 44 4, fld w 0 8) none) := by
  refine exec_plainDone (p := .none) (sg := some (fld w 44 4, fld w 0 8)) (j := none) rfl (fits_of_opcode hop rfl) h trivial ho ?_ rfl hs
  rw [if_neg (by simp only [hk, hn, hw, ne_eq, not_true_eq_false, or_self, not_false_eq_true])]
  rfl

/-- R107: SQ reaches a branch or jump outside any body. -/
theorem noLoops_of_reach {x : EngState} (h : reachFault .sq x w = none) (hop : wOpcode w % 32 = 7 ∨ wOpcode w % 32 = 8) : x.loops = [] := by
  refine Classical.byContradiction fun hne => ?_
  have hl : (!x.loops.isEmpty) = true := by simpa using hne
  unfold reachFault at h
  simp only [hop, hl, and_self, if_true] at h
  split at h <;> cases h

/-- R100: an instruction other than REPEAT goes on to the next word, or round the bodies that end there. -/
theorem advance_next {x : EngState} (hop : wOpcode w % 32 ≠ 1) :
    (advance x w none).pos = (closeLoops (x.pos + 1) x.loops).1 ∧ (advance x w none).loops = (closeLoops (x.pos + 1) x.loops).2 := by
  unfold advance
  simp only [hop, if_false]
  exact ⟨trivial, trivial⟩

/-- R100: where the stream goes on, and in which bodies, after an instruction that has issued. -/
theorem goes_of_issued {i : Instr} {s : State} {t : BitVec 10} {w : W64} {e : Eng} {idx : Nat} {x : EngState} {tl : Tile} {m : Mem} {p : Pend}
    {sig : Nat × Nat} {j : Option Int} {pos : Nat} {ls : List Loop} (h : exec i s = .next (issued s t e w idx x tl m p sig j))
    (hp : (advance x w j).pos = pos) (hl : (advance x w j).loops = ls) :
    ∃ s', exec i s = .next s' ∧ (eng (tileOf s' t.toNat) e).pos = pos ∧ (eng (tileOf s' t.toNat) e).loops = ls := by
  obtain ⟨hpos, hloops, -⟩ := eng_issued s t e w idx x tl m p sig j
  exact ⟨_, h, hpos.trans hp, hloops.trans hl⟩

/-- R100: where NOP goes on, by the bodies that end at it. -/
theorem nop_goes (h : Plain s t e w tl) (hop : wOpcode w = 32 * engNum e) (ho : operandsOk w 0) (hs : staysIn e w (eng tl e) none)
    {pos : Nat} {ls : List Loop} (hc : closeLoops ((eng tl e).pos + 1) (eng tl e).loops = (pos, ls)) :
    ∃ s', exec (.nop t w) s = .next s' ∧ (eng (tileOf s' t.toNat) e).pos = pos ∧ (eng (tileOf s' t.toNat) e).loops = ls := by
  obtain ⟨hpos, hloops⟩ := advance_next (x := eng tl e) (show wOpcode w % 32 ≠ 1 by omega)
  rw [hc] at hpos hloops
  exact goes_of_issued (exec_nop h hop ho hs) hpos hloops

end

/-- Settles O9: each instruction's body in turn; where its stream goes on follows from its front end alone. -/
theorem sqControlIssues : Obligations.SqControlIssues := by
  intro s t w tl e h at_ x y target
  refine ⟨exec_nop h, exec_repeat h, ?_, ?_, ?_, ⟨?_, ?_, ?_, ?_⟩, ?_, ?_, ?_⟩
  · rintro rfl
    exact exec_kenter h
  · rintro rfl
    exact exec_kend h
  · rintro rfl
    exact exec_br_taken h
  · rintro rfl hop ho hc h0 h1 hnext
    have hl : (eng tl .sq).loops = [] := noLoops_of_reach h.reach (by omega)
    cases hmet : brCond (fld w 45 3) x.bits y.bits with
    | true => exact goes_of_issued (exec_br_taken h hop ho hc hmet h0 h1) rfl hl
    | false =>
      obtain ⟨hpos, hloops⟩ := advance_next (x := eng tl .sq) (show wOpcode w % 32 ≠ 1 by omega)
      rw [hl] at hpos hloops
      exact goes_of_issued (exec_br_untaken h hop ho hc hmet fun _ _ => Nat.lt_of_le_of_lt (Nat.le_of_eq hpos) hnext) hpos hloops
  · rintro rfl hop ho h0 h1
    have hl : (eng tl .sq).loops = [] := noLoops_of_reach h.reach (by omega)
    exact goes_of_issued (exec_jmp h hop ho h0 h1) rfl hl
  · intro hop ho hs
    refine goes_of_issued (exec_repeat h hop ho hs) ?_ ?_
    · unfold advance
      simp only [show wOpcode w % 32 = 1 by omega, if_true, closeLoops]
      rw [if_pos (by omega)]
    · unfold advance
      simp only [show wOpcode w % 32 = 1 by omega, if_true, closeLoops]
      rw [if_pos (by omega)]
  · intro hop ho hs
    refine ⟨fun hl => ?_, fun l ls' hl hp => ?_, fun l ls' hl hp hleft => ?_, fun l hl hp hleft => ?_, fun l o hl hp hleft ho' => ?_,
      fun l o hl hp hleft ho' hleft' => ?_⟩
    all_goals
      refine nop_goes h hop ho hs ?_
      rw [hl]
    · rfl
    · simp only [closeLoops, ne_eq, hp.symm, not_false_eq_true, if_true]
    · simp only [closeLoops, ne_eq, hp, not_true_eq_false, if_false, hleft]
    · simp only [closeLoops, ne_eq, hp, not_true_eq_false, if_false, hleft, if_true]
    · simp only [closeLoops, ne_eq, hp, not_true_eq_false, if_false, hleft, if_true, ho'.symm, not_false_eq_true]
    · simp only [closeLoops, ne_eq, hp, not_true_eq_false, if_false, hleft, if_true, ho', hleft']
  · rintro rfl
    exact exec_br_untaken h
  · rintro rfl
    exact exec_jmp h
  · rintro rfl
    exact exec_credit h

end Sys2Proof.Machine
end

section
/-! SUPPORT. SQ's reads of arguments and queues. -/

namespace Sys2Proof.Machine

theorem eng_setQ (tl : Tile) (n : Nat) (q : Queue) (e : Eng) : eng (setQ tl n q) e = eng tl e := rfl

/-- Settles O10: KARG and QSTAT leave register writes; QRD takes its word and then leaves them; QWR leaves its word. -/
theorem sqReadsAndQueueWords : Obligations.SqReadsAndQueueWords := by
  intro s t w tl h hs out sv
  refine ⟨fun hop ho => ?_, fun hop ho hq => ?_, fun i q hop ho hq => ?_, fun hop ho => ?_⟩
  · refine exec_sqRegs rfl rfl hop h hs ho ?_
    rw [args_paid, sqLane_paid]
    rfl
  · refine exec_sqRegs rfl rfl hop h hs ho ?_
    rw [if_neg (Nat.not_lt.mpr hq), tileQ_paid]
    simp only [hiLo, sqLane_paid]
    rfl
  · have hb : bodyQrd (envOf s t.toNat (eng tl .sq)) (iterOf (eng tl .sq)) w (paid tl w)
        = { iresDone (envOf s t.toNat (eng tl .sq)) (setQ (paid tl w) qAuSq q) with
            pend := .regs (hiLo (paid tl w) w ((i.words.headD { lanes := [], pz := false }).lanes.headD 0)
              (i.words.headD { lanes := [], pz := false }).pz) [] (i.words.headD { lanes := [], pz := false }).pz } := by
      refine (checked_ok ho (envOf_pz h)).trans ?_
      simp only [tileQ_paid, hq]
      rfl
    refine (exec_done (i := .qrd t w) (p := .regs _ _ _) (sg := none) (j := none) rfl (fits_of_opcode hop rfl) h.toReady
      (setQ (paid tl w) qAuSq q) hb trivial ((eng_setQ ..).trans (eng_paid ..)) rfl hs).trans ?_
    simp only [hiLo, sqLane_paid]
    rfl
  · refine (exec_plainDone (p := .push _) (sg := none) (j := none) rfl (fits_of_opcode hop rfl) h trivial ho ?_ rfl hs).trans rfl
    rw [sGet_paid, sGet_paid]
    rfl

end Sys2Proof.Machine
end

section
/-! SUPPORT. A tile's registers, and what completions and the stream loader do to a tile. -/

namespace Sys2Proof.Machine

/-- The registers of SQ: its s- and a-registers, and whether it is poisoned (R92, R111). -/
def sqRegs (tl : Tile) : SMap Lane × SMap ALane × Bool := (tl.s, tl.a, tl.tainted)

theorem sGet_of_sqRegs {tl tl' : Tile} (h : sqRegs tl' = sqRegs tl) (r : BitVec 5) : sGet tl' r = sGet tl r := by
  have hs : tl'.s = tl.s := congrArg (·.1) h
  unfold sGet
  rw [hs]

theorem aGet_of_sqRegs {tl tl' : Tile} (h : sqRegs tl' = sqRegs tl) (r : BitVec 4) : aGet tl' r = aGet tl r := by
  have ha : tl'.a = tl.a := congrArg (·.2.1) h
  unfold aGet
  rw [ha]

theorem tainted_of_sqRegs {tl tl' : Tile} (h : sqRegs tl' = sqRegs tl) : tl'.tainted = tl.tainted := congrArg (·.2.2) h

/-- Stopping every tile of a map changes nothing else of a tile. -/
theorem smGet_allStopped (m : SMap Tile) (d : Tile) (k : Nat) :
    ∃ b, smGet d (m.map fun p => (p.1, { p.2 with stopped := true })) k = { smGet d m k with stopped := b } := by
  induction m with
  | nil => exact ⟨d.stopped, rfl⟩
  | cons p m ih =>
    simp only [List.map_cons, smGet]
    split
    · exact ⟨true, rfl⟩
    · exact ih

/-- R407: a detection changes of a tile at most that it is stopped. -/
theorem DetectFrame.tileOf_eq {s s' : State} (h : DetectFrame s s') (t : Nat) : ∃ b, tileOf s' t = { tileOf s t with stopped := b } := by
  unfold tileOf
  rcases h.tiles with e | e <;> rw [e]
  · exact ⟨_, rfl⟩
  · exact smGet_allStopped ..

/-- R82: a fault changes of its tile at most its record and that it is stopped. -/
theorem tileOf_tileFault (s : State) (t code q n idx : Nat) :
    ∃ b f, tileOf (tileFault s t code q n idx) t = { tileOf s t with stopped := b, fault := f } := by
  obtain ⟨b, hb⟩ := (tileFault_frame s t code q n idx).tileOf_eq t
  rw [tileOf_setTile_same] at hb
  refine ⟨b, (recordFault (tileOf s t) code q n idx).fault, hb.trans ?_⟩
  unfold recordFault
  split <;> rfl

theorem sqRegs_tileFault (s : State) (t code q n idx : Nat) : sqRegs (tileOf (tileFault s t code q n idx) t) = sqRegs (tileOf s t) := by
  obtain ⟨b, f, h⟩ := tileOf_tileFault s t code q n idx
  rw [h]
  rfl

theorem sqRegs_addSig (tl : Tile) (f : InFlight) : sqRegs (addSig tl f) = sqRegs tl := by
  unfold addSig
  dsimp only
  split
  · rfl
  · split <;> rfl

theorem sqRegs_addSigs (fs : List InFlight) (tl : Tile) : sqRegs (fs.foldl addSig tl) = sqRegs tl := by
  induction fs generalizing tl with
  | nil => rfl
  | cons f fs ih => exact (ih _).trans (sqRegs_addSig ..)

/-- R79: signals change no register. -/
theorem sqRegs_signal (s : State) (t : Nat) (e : Eng) : sqRegs (tileOf (signal s t e) t) = sqRegs (tileOf s t) := by
  unfold signal
  extract_lets tl r tl1 _ s1
  have h1 : sqRegs (tileOf s1 t) = sqRegs tl := by
    show sqRegs (tileOf (setTile s t _) t) = _
    rw [tileOf_setTile_same]
    exact sqRegs_addSigs ..
  split
  · exact h1
  · exact (sqRegs_tileFault ..).trans h1

theorem sqRegs_finish (s : State) (t : Nat) (e : Eng) (k : Nat) : sqRegs (tileOf (finish s t e k) t) = sqRegs (tileOf s t) := by
  refine (sqRegs_signal ..).trans ?_
  rw [tileOf_setTile_same]
  rfl

/-- R92: of the writes to s-registers, each named once, each leaves its value, s0 aside. -/
theorem sGet_sSets_mem {l : List (BitVec 5 × Lane)} (h : (l.map (·.1)).Nodup) {p : BitVec 5 × Lane} (hp : p ∈ l) (tl : Tile) :
    sGet (l.foldl (fun t p => sSet t p.1 p.2) tl) p.1 = if p.1 = 0 then Lane.zero else p.2 := by
  induction l generalizing tl with
  | nil => exact absurd hp List.not_mem_nil
  | cons q l ih =>
    obtain ⟨hq, hl⟩ := List.nodup_cons.mp h
    rcases List.mem_cons.mp hp with rfl | hp
    · have hother : ∀ tl', sGet (l.foldl (fun t p => sSet t p.1 p.2) tl') p.1 = sGet tl' p.1 := by
        clear ih h hp hl
        induction l with
        | nil => exact fun _ => rfl
        | cons r l ih =>
          intro tl'
          obtain ⟨hr, hl⟩ := List.ne_and_not_mem_of_not_mem_cons hq
          exact (ih hl _).trans (sGet_sSet_other _ _ _ _ hr)
      exact (hother _).trans (sGet_sSet_same ..)
    · exact ih hl hp _

theorem sGet_sSets_other {l : List (BitVec 5 × Lane)} {r : BitVec 5} (h : r ∉ l.map (·.1)) (tl : Tile) :
    sGet (l.foldl (fun t p => sSet t p.1 p.2) tl) r = sGet tl r := by
  induction l generalizing tl with
  | nil => rfl
  | cons q l ih =>
    obtain ⟨hq, hl⟩ := List.ne_and_not_mem_of_not_mem_cons h
    exact (ih hl _).trans (sGet_sSet_other _ _ _ _ hq)

theorem aGet_aSets_other {l : List (BitVec 4 × ALane)} {r : BitVec 4} (h : r ∉ l.map (·.1)) (tl : Tile) :
    aGet (l.foldl (fun t p => aSet t p.1 p.2) tl) r = aGet tl r := by
  induction l generalizing tl with
  | nil => rfl
  | cons q l ih =>
    obtain ⟨hq, hl⟩ := List.ne_and_not_mem_of_not_mem_cons h
    exact (ih hl _).trans (aGet_aSet_other _ _ _ _ hq)

/-- R92: of the writes to a-registers, each named once, each leaves its value. -/
theorem aGet_aSets_mem {l : List (BitVec 4 × ALane)} (h : (l.map (·.1)).Nodup) {p : BitVec 4 × ALane} (hp : p ∈ l) (tl : Tile) :
    aGet (l.foldl (fun t p => aSet t p.1 p.2) tl) p.1 = p.2 := by
  induction l generalizing tl with
  | nil => exact absurd hp List.not_mem_nil
  | cons q l ih =>
    obtain ⟨hq, hl⟩ := List.nodup_cons.mp h
    rcases List.mem_cons.mp hp with rfl | hp
    · exact (aGet_aSets_other hq _).trans (aGet_aSet_same ..)
    · exact ih hl hp _

/-- Writes to s-registers change no a-register and no poison of SQ, and writes to a-registers no s-register. -/
theorem sSets_frame (l : List (BitVec 5 × Lane)) (tl : Tile) :
    (l.foldl (fun t p => sSet t p.1 p.2) tl).a = tl.a ∧ (l.foldl (fun t p => sSet t p.1 p.2) tl).tainted = tl.tainted := by
  induction l generalizing tl with
  | nil => exact ⟨rfl, rfl⟩
  | cons q l ih =>
    have hq : (sSet tl q.1 q.2).a = tl.a ∧ (sSet tl q.1 q.2).tainted = tl.tainted := by
      unfold sSet
      split <;> exact ⟨rfl, rfl⟩
    exact ⟨(ih _).1.trans hq.1, (ih _).2.trans hq.2⟩

theorem aSets_frame (l : List (BitVec 4 × ALane)) (tl : Tile) :
    (l.foldl (fun t p => aSet t p.1 p.2) tl).s = tl.s ∧ (l.foldl (fun t p => aSet t p.1 p.2) tl).tainted = tl.tainted := by
  induction l generalizing tl with
  | nil => exact ⟨rfl, rfl⟩
  | cons q l ih => exact ih _

/-- R92, R94, R111: what the registers read after a completion's writes. -/
theorem sGet_writeRegs (tl : Tile) (rs : List (BitVec 5 × Lane)) (ra : List (BitVec 4 × ALane)) (z : Bool) (r : BitVec 5) :
    sGet (writeRegs tl rs ra z) r = sGet (rs.foldl (fun t p => sSet t p.1 p.2) tl) r := by
  unfold sGet
  rw [show (writeRegs tl rs ra z).s = _ from (aSets_frame ra _).1]

theorem aGet_writeRegs (tl : Tile) (rs : List (BitVec 5 × Lane)) (ra : List (BitVec 4 × ALane)) (z : Bool) (r : BitVec 4) :
    aGet (writeRegs tl rs ra z) r = aGet (ra.foldl (fun t p => aSet t p.1 p.2) (rs.foldl (fun t p => sSet t p.1 p.2) tl)) r := rfl

theorem tainted_writeRegs (tl : Tile) (rs : List (BitVec 5 × Lane)) (ra : List (BitVec 4 × ALane)) (z : Bool) :
    (writeRegs tl rs ra z).tainted = (tl.tainted || z) := by
  show ((ra.foldl (fun t p => aSet t p.1 p.2) (rs.foldl (fun t p => sSet t p.1 p.2) tl)).tainted || z) = _
  rw [(aSets_frame ..).2, (sSets_frame ..).2]

/-- R79: the completion of an instruction in flight that writes registers, or of one with nothing else to do. -/
theorem exec_completeRegs {s : State} {t : BitVec 10} {e : Eng} {k : Nat} {f : InFlight} {rs : List (BitVec 5 × Lane)}
    {ra : List (BitVec 4 × ALane)} {z : Bool} (hn : tileNamed t.toNat = true) (hr : domainRuns s (tileDomain t.toNat) = true)
    (hk : (eng (tileOf s t.toNat) e).flight[k]? = some f) (hd : f.done = false) (hp : f.pend = .regs rs ra z) :
    exec (.instructionComplete t e k) s = .next (finish (setTile s t.toNat (writeRegs (tileOf s t.toNat) rs ra z)) t.toNat e k) := by
  simp only [exec, execInstructionComplete, onTile, hn, hr, if_true, completeAt, hk, hd, hp, Bool.false_eq_true, if_false]

theorem exec_completeNone {s : State} {t : BitVec 10} {e : Eng} {k : Nat} {f : InFlight} (hn : tileNamed t.toNat = true)
    (hr : domainRuns s (tileDomain t.toNat) = true) (hk : (eng (tileOf s t.toNat) e).flight[k]? = some f) (hd : f.done = false)
    (hp : f.pend = .none) : exec (.instructionComplete t e k) s = .next (finish s t.toNat e k) := by
  simp only [exec, execInstructionComplete, onTile, hn, hr, if_true, completeAt, hk, hd, hp, Bool.false_eq_true, if_false]

theorem smInsert_smInsert {α : Type} (m : SMap α) (k : Nat) (v w : α) : smInsert (smInsert m k v) k w = smInsert m k w := by
  induction m with
  | nil => simp [smInsert]
  | cons p m ih =>
    obtain ⟨i, x⟩ := p
    by_cases hi : i = k
    · simp [smInsert, hi]
    · by_cases hk : k < i
      · simp [smInsert, hi, hk]
      · simp [smInsert, hi, hk, ih]

theorem smErase_smInsert {α : Type} (m : SMap α) (k : Nat) (v : α) : smErase (smInsert m k v) k = smErase m k := by
  induction m with
  | nil => simp [smInsert, smErase]
  | cons p m ih =>
    obtain ⟨i, x⟩ := p
    by_cases hi : i = k
    · simp [smInsert, smErase, hi]
    · by_cases hk : k < i
      · simp [smInsert, smErase, hi, hk]
      · simp [smInsert, smErase, hi, hk, ih]

/-- The second of two writes to a place stands, where the first is no default. -/
theorem smSet_smSet {α : Type} [DecidableEq α] {d v : α} (m : SMap α) (k : Nat) (w : α) (h : v ≠ d) :
    smSet d (smSet d m k v) k w = smSet d m k w := by
  unfold smSet
  rw [if_neg h]
  split
  · exact smErase_smInsert m k v
  · exact smInsert_smInsert m k v w

/-- A map that lists a value that is no default is not empty. -/
theorem smSet_ne_nil {α : Type} [DecidableEq α] {d v : α} (m : SMap α) (k : Nat) (h : v ≠ d) : smSet d m k v ≠ [] := by
  intro he
  have hget := smGet_smSet_same d m k v
  rw [he] at hget
  exact h hget.symm

theorem setEng_setEng {tl : Tile} {e : Eng} {x : EngState} (y : EngState) (h : x ≠ EngState.idle) : setEng (setEng tl e x) e y = setEng tl e y := by
  unfold setEng
  exact congrArg (fun m => { tl with engs := m }) (smSet_smSet tl.engs (engNum e) y h)

theorem setTile_setTile {s : State} {t : Nat} {x : Tile} (y : Tile) (h : x ≠ Tile.idle) : setTile (setTile s t x) t y = setTile s t y := by
  unfold setTile
  exact congrArg (fun m => { s with tiles := m }) (smSet_smSet s.tiles t y h)

/-- R79: with one instruction in flight, done, its signal is due. -/
theorem dueSigs_single {f : InFlight} (h : f.done = true) : dueSigs [f] false = ([f], []) := by
  simp [dueSigs, h]

/-- R80: no counter overflows where the one signal due fits. -/
theorem overflowAt_single {tl : Tile} {f : InFlight} (h : f.sig ≠ 0 → (credit tl f.sig).toNat + f.n ≤ 255) : overflowAt tl [f] = none := by
  have hnone : ((List.range 16).drop 1).find? (fun c =>
      decide (255 < (credit tl c).toNat + ((([f] : List InFlight).filter fun g => g.sig == c).map (·.n)).sum)) = none := by
    rw [List.find?_eq_none]
    intro c hc
    have hc0 : c ≠ 0 := by
      rintro rfl
      exact absurd hc (by decide)
    have hlt := (credit tl c).isLt
    by_cases hs : f.sig = c
    · subst hs
      have := h hc0
      simpa using this
    · have : ([f].filter fun g => g.sig == c) = [] := by simp [hs]
      simp only [this, List.map_nil, List.sum_nil, decide_eq_true_eq, Nat.not_lt]
      omega
  unfold overflowAt
  simp only [hnone, Option.bind_none]

/-- R79, R80: a signal that fits its counter is added to it, and counter 0 stands for none. -/
theorem addSig_fits {tl : Tile} {f : InFlight} (h : f.sig ≠ 0 → (credit tl f.sig).toNat + f.n ≤ 255) :
    addSig tl f = if f.sig = 0 then tl else setCredit tl f.sig (BitVec.ofNat 8 ((credit tl f.sig).toNat + f.n)) := by
  unfold addSig
  dsimp only
  split
  · rfl
  · next h0 => rw [if_pos (h h0)]

/-- R79: the one instruction in flight completes: its signal is added, and the flight is empty. -/
theorem finish_single {s : State} {t : Nat} {e : Eng} {f : InFlight} (hf : (eng (tileOf s t) e).flight = [f])
    (h : f.sig ≠ 0 → (credit (tileOf s t) f.sig).toNat + f.n ≤ 255) :
    finish s t e 0 = setTile s t (setEng
      (if f.sig = 0 then tileOf s t else setCredit (tileOf s t) f.sig (BitVec.ofNat 8 ((credit (tileOf s t) f.sig).toNat + f.n))) e
      { eng (tileOf s t) e with flight := [] }) := by
  obtain ⟨x, hx⟩ : ∃ x : EngState, x = { eng (tileOf s t) e with flight := [{ f with done := true }] } := ⟨_, rfl⟩
  have hflight : x.flight = [{ f with done := true }] := by rw [hx]
  have hne : x ≠ EngState.idle := fun he => List.cons_ne_nil _ _ (hflight.symm.trans (congrArg EngState.flight he))
  have hrest : { x with flight := [] } = { eng (tileOf s t) e with flight := [] } := by rw [hx]
  have hmod : modFlight (tileOf s t) e 0 (fun f => { f with done := true }) = setEng (tileOf s t) e x := by
    unfold modFlight
    rw [hf, hx]
    rfl
  have htile : setEng (tileOf s t) e x ≠ Tile.idle := fun he => smSet_ne_nil _ _ hne (congrArg Tile.engs he)
  have hover : overflowAt (setEng (tileOf s t) e x) [{ f with done := true }] = none := overflowAt_single h
  have hsig : addSig (setEng (tileOf s t) e x) { f with done := true } = setEng
      (if f.sig = 0 then tileOf s t else setCredit (tileOf s t) f.sig (BitVec.ofNat 8 ((credit (tileOf s t) f.sig).toNat + f.n))) e x := by
    rw [addSig_fits (tl := setEng (tileOf s t) e x) (f := { f with done := true }) h]
    split <;> rfl
  unfold finish signal
  rw [hmod]
  simp only [tileOf_setTile_same, eng_setEng_same, hflight, dueSigs_single, List.foldl_cons, List.foldl_nil, hover, hsig]
  rw [setTile_setTile _ htile, setEng_setEng _ hne, hrest]

/-- Settles O21. -/
theorem fetchAndCompletion : Obligations.FetchAndCompletion := by
  refine ⟨fun s t k f rs ra z hn hr hk hd hp hrs hra => ⟨_, exec_completeRegs hn hr hk hd hp, ?_⟩, ?_, ?_⟩
  · have hregs := sqRegs_finish (setTile s t.toNat (writeRegs (tileOf s t.toNat) rs ra z)) t.toNat .sq k
    rw [tileOf_setTile_same] at hregs
    refine ⟨fun p hm => ?_, fun r hm => ?_, fun p hm => ?_, fun r hm => ?_, ?_⟩
    · rw [sGet_of_sqRegs hregs, sGet_writeRegs, sGet_sSets_mem hrs hm]
    · rw [sGet_of_sqRegs hregs, sGet_writeRegs, sGet_sSets_other hm]
    · rw [aGet_of_sqRegs hregs, aGet_writeRegs, aGet_aSets_mem hra hm]
    · rw [aGet_of_sqRegs hregs, aGet_writeRegs, aGet_aSets_other hm]
      unfold aGet
      rw [(sSets_frame ..).1]
    · rw [tainted_of_sqRegs hregs, tainted_writeRegs]
  · intro s t e f hn hr hf hd hp hfit tl
    rw [exec_completeNone (f := f) hn hr (by rw [hf]; rfl) hd hp, finish_single hf hfit]
  · intro s t e hn hr hkernel tl x hsent hlevel hpz hsingle
    have hk : tl.kernel = true := by
      show (readOn (tileOf s t.toNat) e).kernel = true
      unfold readOn
      dsimp only
      split
      · exact hkernel
      · exact hkernel
    have hread : singlesOf s.mem [(x.start + 8 * x.sent, 8)] = [] := by
      simp only [singlesOf, List.flatMap_cons, List.flatMap_nil, hsingle, List.append_nil, List.eraseDups_nil]
    have hfill : loaderFill s t.toNat e = setTile s t.toNat (readOn (setEng (setQ tl (engNum e)
        (qPutWord (engNum e) (tileQ tl (engNum e)) { lanes := [memWord s.mem (x.start + 8 * x.sent)], pz := false }).1) e
        { x with sent := x.sent + 1 }) e) := by
      have hno : ¬((!tileRuns s t.toNat) = true ∨ (!tl.kernel) = true ∨ x.length ≤ x.sent ∨ 256 ≤ qLevel (engNum e) (tileQ tl (engNum e))) := by
        rw [hr, hk]
        simp only [Bool.not_true, Bool.false_eq_true, false_or]
        omega
      unfold loaderFill
      rw [if_neg hno]
      simp only [show memAnyPz s.mem ((eng (readOn (tileOf s t.toNat) e) e).start + 8 * (eng (readOn (tileOf s t.toNat) e) e).sent) 8 = false from hpz,
        Bool.false_eq_true, if_false]
      unfold correctReads
      exact (congrArg (List.foldl correctUnit _) hread).trans rfl
    simp only [exec, execStreamLoaderFill, onTile, hn, if_true, hfill]

end Sys2Proof.Machine
end

section
/-! SUPPORT. A tile that stops by itself. -/

namespace Sys2Proof.Machine

theorem fetchWord_fault {tl tl' : Tile} {e : Eng} {w : W64} (h : fetchWord tl e = some (w, tl')) : tl'.fault = tl.fault := by
  unfold fetchWord at h
  dsimp only at h
  split at h
  · cases h
  · obtain ⟨w', -, hw⟩ := Option.map_eq_some_iff.mp h
    cases hw
    rfl

/-- R89: a word that the engine reaches and does not execute. -/
theorem reachIllegal_faults {s : State} {t : Nat} {e : Eng} {w : W64} {tl : Tile} (hruns : tileRuns s t = true)
    (hkernel : (tileOf s t).kernel = true) (hgoing : (tileOf s t).stopped = false) (hw : wordLegal e w = false)
    (hfetch : fetchWord (tileOf s t) e = some (w, tl)) :
    reachIllegal s t e w = tileFault (setTile s t tl) t 0x10 0 (engNum e) (eng tl e).pos := by
  unfold reachIllegal
  simp only [hruns, hkernel, hgoing, hw, hfetch, Bool.not_true, Bool.false_eq_true, or_self, if_false, ne_eq, not_true_eq_false]

/-- Settles O22: each of the three is one fault of the tile. -/
theorem tileEventsFault : Obligations.TileEventsFault := by
  intro s t hn hruns hkernel hgoing hv
  refine ⟨fun e w tl hw hfetch => ?_, fun hstall => ?_, fun w tl h hop ho hv' => ?_⟩
  · have hold : bit (tileOf (setTile s t.toNat tl) t.toNat).fault 63 = false := by rwa [tileOf_setTile_same, fetchWord_fault hfetch]
    have hn7 : engNum e < 7 := by cases e <;> decide
    obtain ⟨hstop, hvalid, hc, heng, hidx, -⟩ := tileFault_stands (code := 0x10) (q := 0) (n := engNum e) (eng tl e).pos hold (by omega) (by omega)
      (by omega)
    rw [if_neg (by omega)] at hidx
    refine ⟨_, ?_, hstop, hvalid, hc, heng, hidx⟩
    simp only [exec, execIllegalOpcode, onTile, hn, if_true, reachIllegal_faults hruns hkernel hgoing hw hfetch]
  · obtain ⟨hstop, hvalid, hc, heng, -, -⟩ := tileFault_stands (s := s) (t := t.toNat) (code := 0x04) (q := 0) (n := 7) 0 hv (by omega) (by omega)
      (by omega)
    refine ⟨_, ?_, hstop, hvalid, hc, heng⟩
    simp only [exec, execCreditStall, onTile, hn, hruns, hstall, and_self, if_true]
  · have hb : bodyTrap (envOf s t.toNat (eng tl .sq)) (iterOf (eng tl .sq)) w (paid tl w)
        = iresFault (envOf s t.toNat (eng tl .sq)) (paid tl w) 0x18 := by
      simp only [bodyTrap, checked, ho, if_true]
      cases (envOf s t.toNat (eng tl .sq)).pz <;> rfl
    exact exec_fault rfl rfl hop h hb hv' (by omega)

end Sys2Proof.Machine
end

section
/-! SUPPORT. The items of an exchange that a half keeps, and SEND and RECV at issue. -/

namespace Sys2Proof.Machine

/-- The tiles, the request slots and the half's kept packets stand. -/
structure ItemFrame (h : Half) (s s' : State) : Prop where
  tiles : s'.tiles = s.tiles
  slots : s'.slots = s.slots
  kept : (half s' h).kept = (half s h).kept

theorem ItemFrame.refl (h : Half) (s : State) : ItemFrame h s s := ⟨rfl, rfl, rfl⟩

theorem ItemFrame.trans {h : Half} {a b c : State} (k : ItemFrame h a b) (l : ItemFrame h b c) : ItemFrame h a c :=
  ⟨l.tiles.trans k.tiles, l.slots.trans k.slots, l.kept.trans k.kept⟩

/-- R333: an event changes of a half its count and its drops. -/
theorem EventFrame.half_eq {s s' : State} (f : EventFrame s s') (h : Half) :
    half s' h = { half s h with eseq := (half s' h).eseq, evDropped := (half s' h).evDropped } := by
  cases h
  · exact f.halfA
  · exact f.halfB

theorem EventFrame.items {s s' : State} (f : EventFrame s s') (h : Half) : ItemFrame h s s' :=
  ⟨f.tiles, f.slots, by rw [f.half_eq h]⟩

/-- An update of a half that leaves its kept packets. -/
theorem modHalf_items {s : State} {h : Half} {f : HalfState → HalfState} (hf : ∀ x, (f x).kept = x.kept) : ItemFrame h s (modHalf s h f) := by
  cases h
  · exact ⟨rfl, rfl, hf _⟩
  · exact ⟨rfl, rfl, hf _⟩

/-- R354: items that go out, or wait for an OUT slot, leave the tiles, the slots and the kept packets. -/
theorem drainOut_items (is : List Item) (s : State) (h : Half) : ItemFrame h s (drainOut is s h) := by
  induction is generalizing s with
  | nil => exact modHalf_items fun _ => rfl
  | cons i is ih =>
    unfold drainOut
    split
    · next k _ =>
      extract_lets +onlyGivenNames off s1 s2
      have h1 : ItemFrame h s s1 := ⟨rfl, rfl, by cases h <;> rfl⟩
      have h2 : ItemFrame h s1 s2 := (putSlotWords_frame ..).items h
      refine (h1.trans h2).trans (ItemFrame.trans ?_ (ih _))
      exact modHalf_items fun _ => rfl
    · extract_lets +onlyGivenNames s1
      have h1 : ItemFrame h s s1 := modHalf_items fun _ => rfl
      split
      · exact h1
      · exact h1.trans ((sendHalfEvent_frame ..).items h)

/-- A kept packet as the exchange goes on with it: whether it waits, its code table's generation and its correctable reads may change. -/
def sameKept (k d : Kept) : Prop := d = { k with waiting := d.waiting, gen := d.gen, ce := d.ce }

/-- R355: every kept packet stays kept when those that may go are sent. -/
theorem kickSends_kept (ks done : List Kept) (s : State) (h : Half) :
    (kickSends ks done s h).tiles = s.tiles ∧ (kickSends ks done s h).slots = s.slots
      ∧ ∀ k, (k ∈ done → ∃ d ∈ (half (kickSends ks done s h) h).kept, sameKept k d)
        ∧ (k ∈ ks → ∃ d ∈ (half (kickSends ks done s h) h).kept, sameKept k d) := by
  induction ks generalizing done s with
  | nil =>
    refine ⟨by cases h <;> rfl, by cases h <;> rfl, fun k => ⟨fun hk => ⟨k, ?_, rfl⟩, fun hk => absurd hk List.not_mem_nil⟩⟩
    cases h <;> exact hk
  | cons c ks ih =>
    unfold kickSends
    split
    · extract_lets +onlyGivenNames i
      obtain ⟨htiles, hslots, hkept⟩ := ih (done ++ [{ c with waiting := false, gen := i.2, ce := 0 }]) (pushOut (countStage s c.ce) h i.1)
      have hframe : ItemFrame h (countStage s c.ce) (pushOut (countStage s c.ce) h i.1) := drainOut_items ..
      refine ⟨htiles.trans hframe.tiles, hslots.trans hframe.slots, fun k => ⟨fun hk => (hkept k).1 (List.mem_append_left _ hk), fun hk => ?_⟩⟩
      rcases List.mem_cons.mp hk with rfl | hk
      · obtain ⟨d, hd, hsame⟩ := (hkept { k with waiting := false, gen := i.2, ce := 0 }).1 (List.mem_append_right _ (List.mem_singleton.mpr rfl))
        exact ⟨d, hd, hsame⟩
      · exact (hkept k).2 hk
    · obtain ⟨htiles, hslots, hkept⟩ := ih (done ++ [c]) s
      refine ⟨htiles, hslots, fun k => ⟨fun hk => (hkept k).1 (List.mem_append_left _ hk), fun hk => ?_⟩⟩
      rcases List.mem_cons.mp hk with rfl | hk
      · exact (hkept k).1 (List.mem_append_right _ (List.mem_singleton.mpr rfl))
      · exact (hkept k).2 hk

/-- R354, R355: the packet of a SEND to another member is kept as its tile's, with its channel, number and words. -/
theorem issueSend_keeps_packet {s : State} {t : Nat} {c : Chan} {coded : Bool} {width table : Nat} {ws : List QWord} {xid : Nat}
    (h : isAbsent s c.block = false) :
    (issueSend s t c coded width table ws xid).tiles = s.tiles ∧ (issueSend s t c coded width table ws xid).slots = s.slots
      ∧ ∃ k ∈ (half (issueSend s t c coded width table ws xid) (tileHalf t)).kept,
        k.tile = BitVec.ofNat 10 t ∧ k.chan = c ∧ k.xid = xid ∧ k.words = ws ∧ k.coded = coded ∧ k.replay = 0 := by
  unfold issueSend
  rw [if_neg (by rw [h]; exact Bool.false_ne_true)]
  extract_lets hf key turn seq n old k same
  generalize hs1 : modHalf s hf _ = s1
  have hmem : k ∈ (half s1 hf).kept := by
    rw [← hs1]
    cases hf
    all_goals exact List.mem_append_right _ (List.mem_singleton.mpr rfl)
  obtain ⟨htiles, hslots, hkept⟩ := kickSends_kept (half s1 hf).kept [] s1 hf
  obtain ⟨d, hd, hsame⟩ := (hkept k).2 hmem
  have htiles1 : s1.tiles = s.tiles := by rw [← hs1]; cases hf <;> rfl
  have hslots1 : s1.slots = s.slots := by rw [← hs1]; cases hf <;> rfl
  refine ⟨htiles.trans htiles1, hslots.trans hslots1, d, hd, ?_⟩
  rw [hsame]
  exact ⟨rfl, rfl, rfl, rfl, rfl, rfl⟩

/-- R354: the tile that has counted the next item of a stream. -/
def xidCounted (tl : Tile) (c : Chan) (send : Bool) : Tile :=
  { tl with xids := smSet 0 tl.xids (chanKey c send) (smGet 0 tl.xids (chanKey c send) + 1) }

theorem xids_paid (tl : Tile) (w : W64) : (paid tl w).xids = tl.xids := by unfold paid; split <;> rfl

theorem turn_paid (tl : Tile) (w : W64) : (paid tl w).turn = tl.turn := by unfold paid; split <;> rfl

/-- R354: the stream of an item that an instruction's tile has paid for, and taken a packet for. -/
theorem xidCounted_paid (tl : Tile) (w : W64) (c : Chan) (send : Bool) :
    xidCounted (paid tl w) c send = { paid tl w with xids := smSet 0 tl.xids (chanKey c send) (smGet 0 tl.xids (chanKey c send) + 1) } := by
  rw [← xids_paid tl w]
  rfl

theorem xidCounted_setQ_paid (tl : Tile) (w : W64) (n : Nat) (q : Queue) (c : Chan) (send : Bool) :
    xidCounted (setQ (paid tl w) n q) c send
      = { setQ (paid tl w) n q with xids := smSet 0 tl.xids (chanKey c send) (smGet 0 tl.xids (chanKey c send) + 1) } := by
  rw [← xids_paid tl w]
  rfl

/-- R124: a local channel names no block. -/
theorem chanOf_block {w : W64} {sc : Nat} (h : bit w 17 = true → fld w 32 16 = 0) : ((chanOf w sc).isLocal && (chanOf w sc).block != 0) = false := by
  cases hl : bit w 17 with
  | false => exact Bool.and_eq_false_iff.mpr (.inl hl)
  | true =>
    have hb : (chanOf w sc).block = 0 := congrArg (BitVec.ofNat 16) (h hl)
    rw [hb]
    exact Bool.and_false _

/-- R125: what SEND answers with a packet in VX_XF that it may send. -/
theorem bodySend_sends {n : Env} {i : Nat} {w : W64} {tl : Tile} {p : QItem} {q : Queue} (ho : operandsOk w (mask 47 1)) (hz : n.pz = false)
    (hw : fld w 14 2 ≠ 3) (hc : bit w 16 = false) (hl : bit w 17 = true → fld w 32 16 = 0) (ht : fld w 2 12 = 0)
    (hto : sendTo n (chanOf w 1) = true) (hq : qTake (tileQ tl qVxXf) = some (p, q)) :
    bodySend n i w tl = { iresDone n (xidCounted (setQ tl qVxXf q) (chanOf w 1) true) with
      pend := .send (chanOf w 1) false (fld w 14 2) 0 p.words (smGet 0 tl.xids (chanKey (chanOf w 1) true)) 0 } := by
  refine (checked_ok ho hz).trans ?_
  simp only [hc, hw, chanOf_block hl, ht, hto, hq, Bool.false_and, Bool.false_eq_true, or_self, if_false, Bool.not_true, Bool.not_false,
    bne_self_eq_false, Bool.and_false]
  rfl

/-- R126: what RECV answers. -/
theorem bodyRecv_waits {n : Env} {i : Nat} {w : W64} {tl : Tile} (ho : operandsOk w (mask 47 9)) (hz : n.pz = false) (hw : fld w 14 2 ≠ 3)
    (hn : fld w 10 4 ≠ 0) (hl : bit w 17 = true → fld w 32 16 = 0) :
    bodyRecv n i w tl = { iresDone n (xidCounted tl (chanOf w 9) false) with
      pend := .recv (chanOf w 9) (bit w 16) (fld w 14 2) (fld w 10 4) (smGet 0 tl.xids (chanKey (chanOf w 9) false)) tl.turn } := by
  refine (checked_ok ho hz).trans ?_
  simp only [hw, hn, chanOf_block hl, Bool.false_eq_true, or_self, if_false]
  rfl

/-- R125: a destination in the block that a SEND reaches. -/
theorem sendTo_local {n : Env} {w : W64} (hl : bit w 17 = true) (hn : tileNamed (fld w 22 10) = true) (he : n.enabled (fld w 22 10) = true) :
    sendTo n (chanOf w 1) = true := by
  have hlt : fld w 22 10 < 2 ^ 10 := Nat.mod_lt _ (by decide)
  have htile : (chanOf w 1).tile.toNat = fld w 22 10 := (BitVec.toNat_ofNat ..).trans (Nat.mod_eq_of_lt hlt)
  unfold sendTo
  rw [if_pos (show (chanOf w 1).isLocal = true from hl), htile, hn]
  exact (Bool.true_and _).trans he

/-- R125: another member that a SEND reaches. -/
theorem sendTo_member {n : Env} {w : W64} (hl : bit w 17 = false) (hself : fld w 32 16 ≠ n.ownAddr) (hm : n.member (fld w 32 16) = true) :
    sendTo n (chanOf w 1) = true := by
  have hlt : fld w 32 16 < 2 ^ 16 := Nat.mod_lt _ (by decide)
  have hblock : (chanOf w 1).block.toNat = fld w 32 16 := (BitVec.toNat_ofNat ..).trans (Nat.mod_eq_of_lt hlt)
  unfold sendTo
  rw [if_neg (show ¬(chanOf w 1).isLocal = true from fun c => Bool.false_ne_true (hl.symm.trans c)), hblock]
  exact Bool.and_eq_true_iff.mpr ⟨bne_iff_ne.mpr hself, hm⟩

/-- R125: an instruction that only changes its tile and leaves a packet to send: the exchange takes it over once it has issued. -/
theorem exec_sends {i : Instr} {c : EngineInstr} {e : Eng} {s : State} {tl tl' : Tile} {p : Pend} (hi : engineInstr i = some c) (hf : c.fits e)
    (h : Ready s c.tile e c.word tl) (hsq : e ≠ .sq)
    (ha : answerOf s c.tile e c.word tl c.body = { iresDone (envOf s c.tile.toNat (eng tl e)) tl' with pend := p }) (he : eng tl' e = eng tl e) :
    exec i s = .next (sendIssued (issuedWith s c.tile e c.word tl tl' s.mem p) c.tile.toNat p) := by
  rw [exec_ready hi hf h, issueWord_next h _ _ ha.symm rfl rfl rfl, runOut_stays fun x => absurd x hsq]
  have hread : singlesOf s.mem [] = [] := rfl
  simp only [afterIssue, iresDone, hread, List.foldl_nil, addOverruns, addUe, addBytes_nil, he]
  rfl

/-- Settles O20: the packet and the item's number are taken as the instruction issues; a half keeps another member's packet. -/
theorem xfItemsPend : Obligations.XfItemsPend := by
  intro s t w tl h
  have hz := envOf_pz h
  refine ⟨fun p q hop ho hw hc hl hb ht hn he hq => ?_, fun p q hop ho hw hc hl ht hself hmem habs hq => ?_, fun hop ho hw hn hl => ?_⟩
  · have hbody := bodySend_sends (i := iterOf (eng tl .xf)) (tl := paid tl w) ho hz hw hc (fun _ => hb) ht (sendTo_local hl hn he)
      (by rw [tileQ_paid]; exact hq)
    rw [xids_paid] at hbody
    have hexec := exec_done (i := .send t w) rfl (fits_of_opcode hop rfl) h.toReady _ _ none none hbody hl (eng_paid ..) rfl
      fun c => nomatch c
    rw [xidCounted_setQ_paid] at hexec
    exact hexec
  · have hbody := bodySend_sends (i := iterOf (eng tl .xf)) (tl := paid tl w) ho hz hw hc (fun c => nomatch hl.symm.trans c) ht
      (sendTo_member hl hself hmem) (by rw [tileQ_paid]; exact hq)
    rw [xids_paid] at hbody
    have hexec := exec_sends (i := .send t w) rfl (fits_of_opcode hop rfl) h.toReady (by decide) hbody (eng_paid ..)
    have hlocal : ¬(chanOf w 1).isLocal = true := fun c => Bool.false_ne_true (hl.symm.trans c)
    have hsend : ∀ s1 xid, sendIssued s1 t.toNat (.send (chanOf w 1) false (fld w 14 2) 0 p.words xid 0)
        = issueSend s1 t.toNat (chanOf w 1) false (fld w 14 2) 0 p.words xid := fun _ _ => if_neg hlocal
    rw [xidCounted_setQ_paid, hsend] at hexec
    refine ⟨_, hexec, ?_⟩
    obtain ⟨htiles, hslots, k, hk, htile, hchan, hxid, hwords, hcoded, hreplay⟩ := issueSend_keeps_packet (s := issuedWith s t .xf w tl
      { setQ (paid tl w) qVxXf q with
        xids := smSet 0 tl.xids (chanKey (chanOf w 1) true) (smGet 0 tl.xids (chanKey (chanOf w 1) true) + 1) } s.mem
      (.send (chanOf w 1) false (fld w 14 2) 0 p.words (smGet 0 tl.xids (chanKey (chanOf w 1) true)) 0)) (t := t.toNat) (c := chanOf w 1) (coded := false)
      (width := fld w 14 2) (table := 0) (ws := p.words) (xid := smGet 0 tl.xids (chanKey (chanOf w 1) true)) habs
    refine ⟨hslots, ⟨k, hk, htile.trans (BitVec.ofNat_toNat ..), hchan, hxid, hwords, hcoded, hreplay⟩, ?_⟩
    unfold tileOf
    rw [htiles]
  · have hbody := bodyRecv_waits (i := iterOf (eng tl .xf)) (tl := paid tl w) ho hz hw hn hl
    rw [xids_paid, turn_paid] at hbody
    have hexec := exec_done (i := .recv t w) rfl (fits_of_opcode hop rfl) h.toReady _ _ none none hbody trivial (eng_paid ..) rfl
      fun c => nomatch c
    rw [xidCounted_paid] at hexec
    exact hexec

end Sys2Proof.Machine
end

section
/-! SUPPORT. What an instruction that reads scratch and changes its own tile answers and leaves. -/

namespace Sys2Proof.Machine

theorem unitBase_unitBase (a : Nat) : unitBase (unitBase a) = unitBase a := by
  have hs : unitSize (unitBase a) = unitSize a := by
    unfold unitSize unitBase unitSize stackEnd
    split <;> split <;> omega
  rw [unitBase, hs, unitBase, Nat.mul_div_cancel]
  unfold unitSize
  split <;> decide

/-- R341, R465: the unit of a byte is behind the byte's port, and poisoned as the byte is. -/
theorem memPz_unitBase (m : Mem) (a : Nat) : memPz m (unitBase a) = memPz m a := by
  have hdead : memDead m (unitBase a) = memDead m a := by
    unfold memDead
    rcases Nat.lt_or_ge a stackEnd with hlt | hge
    · have hunit : unitBase a = a / 64 * 64 := by rw [unitBase, unitSize, if_pos hlt]
      have hlow : a / 64 * 64 < stackEnd := by omega
      have hport : portOf (a / 64 * 64) = portOf a := by
        unfold portOf
        omega
      rw [hunit, hport, decide_eq_true hlow, decide_eq_true hlt]
    · have hlow : stackEnd ≤ unitBase a := by
        rw [unitBase_offStack hge]
        have : stackEnd % 8 = 0 := rfl
        omega
      rw [decide_eq_false (Nat.not_lt.mpr hlow), decide_eq_false (Nat.not_lt.mpr hge), Bool.false_and, Bool.false_and]
  rw [memPz, memPz, hdead, unitBase_unitBase]

/-- R63, R407: a range without a poisoned byte has no poisoned unit. -/
theorem badUnits_clean {m : Mem} {a n : Nat} (h : memAnyPz m a n = false) : badUnits m a n = [] := by
  have hbyte (x : Nat) (h1 : a ≤ x) (h2 : x < a + n) : memPz m x = false := by
    have hx := List.any_eq_false.mp h (x - a) (List.mem_range.mpr (by omega))
    rw [show a + (x - a) = x by omega] at hx
    exact Bool.eq_false_iff.mpr hx
  rw [badUnits, List.filter_eq_nil_iff]
  intro b hb
  unfold unitsOf at hb
  split at hb
  · exact absurd hb List.not_mem_nil
  · simp only [tab, List.mem_map, List.mem_range] at hb
    obtain ⟨i, hi, rfl⟩ := hb
    rcases Nat.eq_zero_or_pos i with rfl | hpos
    · have := hbyte a (Nat.le_refl _) (by omega)
      rw [Nat.add_zero, show a / unitSize a * unitSize a = unitBase a from rfl, memPz_unitBase, this]
      exact Bool.false_ne_true
    · have hsize : 0 < unitSize a := by unfold unitSize; split <;> decide
      have hlow : a < (a / unitSize a + i) * unitSize a :=
        calc a < (a / unitSize a + 1) * unitSize a := Nat.lt_mul_of_div_lt (Nat.lt_succ_self _) hsize
          _ ≤ (a / unitSize a + i) * unitSize a := Nat.mul_le_mul_right _ (by omega)
      have hhigh : (a / unitSize a + i) * unitSize a ≤ a + n - 1 :=
        (Nat.le_div_iff_mul_le hsize).mp (by omega)
      rw [hbyte _ (Nat.le_of_lt hlow) (by omega)]
      exact Bool.false_ne_true

/-- The bytes read of a range are poisoned where the range is. -/
theorem memRead_anyPz (m : Mem) (a n : Nat) : (memRead m a n).any (·.2) = memAnyPz m a n := by
  simp only [memRead, tab, List.any_map, memAnyPz]
  rfl

/-- A byte read of a clean range is clean. -/
theorem memRead_clean {m : Mem} {a n : Nat} (h : memAnyPz m a n = false) (i : Nat) : ((memRead m a n).getD i (0, false)).2 = false := by
  rcases Nat.lt_or_ge i (memRead m a n).length with hi | hi
  · rw [← List.getElem_eq_getD (h := hi)]
    rw [← memRead_anyPz, List.any_eq_false] at h
    exact Bool.eq_false_iff.mpr (h _ (List.getElem_mem hi))
  · rw [List.getD_eq_getElem?_getD, List.getElem?_eq_none hi]
    rfl

theorem vGet_paid (tl : Tile) (w : W64) (r : Nat) : vGet (paid tl w) r = vGet tl r := by unfold paid; split <;> rfl

theorem vGet_setQ (tl : Tile) (n : Nat) (q : Queue) (r : Nat) : vGet (setQ tl n q) r = vGet tl r := rfl

theorem groupGet_paid (tl : Tile) (w : W64) (r : Nat) : groupGet (paid tl w) r = groupGet tl r := by simp only [groupGet, vGet_paid]

theorem trkExpo_paid (tl : Tile) (w : W64) (b : Bool) (f r : Nat) : trkExpo (paid tl w) b f r = trkExpo tl b f r := by
  simp only [trkExpo, vGet_paid]

theorem eng_vSet (tl : Tile) (r : Nat) (x : List Lane) (e : Eng) : eng (vSet tl r x) e = eng tl e := rfl

theorem eng_vSets (tl : Tile) (r : Nat) (l : List (List Lane)) (e : Eng) : eng (vSets tl r l) e = eng tl e := by
  induction l generalizing tl r with
  | nil => rfl
  | cons x l ih => exact ih ..

theorem eng_putCodes (b : Bool) (tl : Tile) (vd vc : Nat) (c : Bool) (x : List Lane) (q : W32 → Quant) (e : Eng) :
    eng (putCodes b tl vd vc c x q) e = eng tl e := by
  unfold putCodes
  cases c <;> rfl

theorem markRow_clean (l : List Lane) : markRow false l = l := rfl

theorem markRows_clean (l : List (List Lane)) : l.map (markRow false) = l := List.map_id l

theorem markWord_clean (x : QWord) : markWord false x = x := rfl

theorem taintBytes_clean (l : List PByte) : taintBytes false l = l := by
  simp only [taintBytes, Bool.or_false, List.map_id']

/-- R67: a packet that a queue has room for only changes its queue. -/
theorem iresPacket_room {n : Env} {tl : Tile} {q : Nat} {kind : Byte} {ws : List QWord} (h : (qPutPacket q (tileQ tl q) kind ws).2 = 0) :
    iresPacket (iresDone n tl) q kind ws = iresDone n (setQ tl q (qPutPacket q (tileQ tl q) kind ws).1) := by
  simp only [iresPacket, iresDone, h, List.replicate_zero, List.append_nil]

section
variable {i : Instr} {s : State} {t : BitVec 10} {w : W64} {tl : Tile} {e : Eng} {op used : Nat} {b : Body}

/-- A plain instruction of an engine other than SQ whose body changes its own tile, to `tl'`, and nothing else. -/
theorem exec_changesTile {tl' : Tile}
    (hi : engineInstr i = some { tile := t, word := w, every := false, op := op, body := checked used b })
    (he : engOf (op / 32) = some e) (hsq : e ≠ .sq) (hop : wOpcode w = op) (h : Plain s t e w tl) (ho : operandsOk w used)
    (hb : b (envOf s t.toNat (eng tl e)) (iterOf (eng tl e)) w (paid tl w) = iresDone (envOf s t.toNat (eng tl e)) tl')
    (hx : eng tl' e = eng (paid tl w) e) : exec i s = .next (issuedWith s t e w tl tl' s.mem .none) :=
  exec_done hi (fits_of_opcode hop he) h.toReady tl' .none none none ((checked_ok ho (envOf_pz h)).trans hb) trivial
    (hx.trans (eng_paid ..)) rfl fun c => absurd c hsq

/-- R63: a clean range read counts no poisoned word. -/
theorem readCount_clean {m : Mem} {u : Nat} {l : List (Nat × Nat)} (hl : ∀ p ∈ l, memAnyPz m (scratchBase u + p.1) p.2 = false) :
    (l.map fun p => (badUnits m (scratchBase u + p.1) p.2).length).sum = 0 := by
  rw [List.sum_eq_zero_iff_forall_eq_nat]
  intro x hm
  obtain ⟨p, hp, rfl⟩ := List.mem_map.mp hm
  rw [badUnits_clean (hl p hp)]
  rfl

/-- A ready instruction of a computing engine that reads memory, counts no poisoned word, and changes its own tile and the memory. -/
theorem exec_readsCleanly {tl' : Tile} {m : Mem} {ue reads : List (Nat × Nat)} {b : Body}
    (hi : engineInstr i = some { tile := t, word := w, every := false, op := op, body := b })
    (he : engOf (op / 32) = some e) (hsq : e ≠ .sq) (hxf : e ≠ .xf) (hop : wOpcode w = op) (h : Plain s t e w tl)
    (hb : b (envOf s t.toNat (eng tl e)) (iterOf (eng tl e)) w (paid tl w)
      = { iresDone (envOf s t.toNat (eng tl e)) tl' with mem := m, ue := ue, reads := reads })
    (hue : ∀ p ∈ ue, p.2 = 0) (hx : eng tl' e = eng (paid tl w) e) : exec i s = .next (issuedWith s t e w tl tl' m .none) := by
  have hx' : eng tl' e = eng tl e := hx.trans (eng_paid ..)
  refine (exec_quiet hi (fits_of_opcode hop he) h.toReady _ hb rfl ⟨rfl, rfl, rfl, hue, trivial⟩
    (singlesOf_nil _ _ (h.whole hsq hxf)) rfl rfl fun c => absurd c hsq).trans ?_
  simp only [iresDone, hx']
  rfl

/-- A plain instruction of a computing engine whose body reads clean scratch and changes its own tile. -/
theorem exec_readsScratch {tl' : Tile} {l : List (Nat × Nat)}
    (hi : engineInstr i = some { tile := t, word := w, every := false, op := op, body := checked used b })
    (he : engOf (op / 32) = some e) (hsq : e ≠ .sq) (hxf : e ≠ .xf) (hop : wOpcode w = op) (h : Plain s t e w tl) (ho : operandsOk w used)
    (hb : b (envOf s t.toNat (eng tl e)) (iterOf (eng tl e)) w (paid tl w)
      = iresRead (envOf s t.toNat (eng tl e)) (iresDone (envOf s t.toNat (eng tl e)) tl') l)
    (hl : ∀ p ∈ l, memAnyPz s.mem (scratchBase t.toNat + p.1) p.2 = false)
    (hx : eng tl' e = eng (paid tl w) e) : exec i s = .next (issuedWith s t e w tl tl' s.mem .none) :=
  exec_readsCleanly hi he hsq hxf hop h (((checked_ok ho (envOf_pz h)).trans hb).trans rfl)
    (List.forall_mem_singleton.mpr (readCount_clean hl)) hx

end

end Sys2Proof.Machine
end

section
/-! SUPPORT. VX: moves and lane by lane computation. -/

namespace Sys2Proof.Machine

section
variable {s : State} {t : BitVec 10} {w : W64} {tl : Tile}

/-- R173. -/
theorem exec_vld (h : Plain s t .vx w tl) (hop : wOpcode w = 0x42) (ho : operandsOk w (mask 47 10))
    (hn : fld w 43 5 + (fld w 40 3 + 1) ≤ 32) (h0 : 0 ≤ vAddr w (iterOf (eng tl .vx)))
    (hin : (vAddr w (iterOf (eng tl .vx))).toNat + 256 * (fld w 40 3 + 1) ≤ scratchSize)
    (hz : memAnyPz s.mem (scratchBase t.toNat + (vAddr w (iterOf (eng tl .vx))).toNat) (256 * (fld w 40 3 + 1)) = false) :
    exec (.vld t w) s = .next (issuedWith s t .vx w tl (vSets (paid tl w) (fld w 43 5)
      (chunks 64 (bytesRow (memRead s.mem (scratchBase t.toNat + (vAddr w (iterOf (eng tl .vx))).toNat) (256 * (fld w 40 3 + 1))))))
      s.mem .none) := by
  refine exec_readsScratch (l := [((vAddr w (iterOf (eng tl .vx))).toNat, 256 * (fld w 40 3 + 1))]) rfl rfl (by decide) (by decide) hop h ho ?_
    (List.forall_mem_singleton.mpr hz) (eng_vSets ..)
  simp only [vReg, Nat.not_lt.mpr hn, Int.not_lt.mpr h0, inScratch, hin, decide_true, Bool.not_true, Bool.false_eq_true, or_self, if_false,
    envOf_pz h, markRows_clean]
  rfl

/-- R173. -/
theorem exec_vst (h : Plain s t .vx w tl) (hop : wOpcode w = 0x43) (ho : operandsOk w (mask 47 10))
    (hn : fld w 43 5 + (fld w 40 3 + 1) ≤ 32) (h0 : 0 ≤ vAddr w (iterOf (eng tl .vx)))
    (hin : (vAddr w (iterOf (eng tl .vx))).toNat + 256 * (fld w 40 3 + 1) ≤ scratchSize) :
    exec (.vst t w) s = .next (issuedWith s t .vx w tl (paid tl w)
      (memWrite s.mem (scratchBase t.toNat + (vAddr w (iterOf (eng tl .vx))).toNat)
        (tab (fld w 40 3 + 1) fun k => rowBytes (vGet tl (fld w 43 5 + k))).flatten) .none) := by
  refine exec_storesOffStack (l := []) rfl rfl (by decide) hop h.toReady ((checked_ok ho (envOf_pz h)).trans ?_)
    fun p hp => absurd hp List.not_mem_nil
  simp only [vReg, Nat.not_lt.mpr hn, Int.not_lt.mpr h0, inScratch, hin, decide_true, Bool.not_true, Bool.false_eq_true, or_self, if_false,
    envOf_pz h, taintBytes_clean, vGet_paid]
  rfl

/-- Bytes written past the stacks read back, and no other byte changes (R41). -/
theorem memWrite_scratch (m : Mem) (u off : Nat) (l : List PByte) :
    (∀ j b z, l[j]? = some (b, z) → memByte (memWrite m (scratchBase u + off) l) (scratchBase u + off + j) = b)
      ∧ ∀ x, x < scratchBase u + off ∨ scratchBase u + off + l.length ≤ x → memByte (memWrite m (scratchBase u + off) l) x = memByte m x := by
  refine ⟨fun j b z hj => ?_, fun x hx => memByte_memWrite_other _ _ _ _ hx⟩
  obtain ⟨hlen, hget⟩ := List.getElem?_eq_some_iff.mp hj
  rw [memByte_memWrite_same m _ l j hlen (memDead_offStack m (by rw [Nat.add_assoc]; exact stackEnd_le_scratch ..)), hget]

/-- R173: the queue that VPOP names. -/
theorem exec_vpop (h : Plain s t .vx w tl) {q : Nat} {p : QItem} {q' : Queue} (hop : wOpcode w = 0x44) (ho : operandsOk w (mask 47 37))
    (hq : [qLdVx, qMxVx, qTrVx][fld w 41 2]? = some q) (hp : qTake (tileQ tl q) = some (p, q'))
    (hc : fld w 37 4 = 0 ∨ p.words.length = fld w 37 4) (hn : fld w 43 5 + p.words.length ≤ 32) :
    exec (.vpop t w) s = .next (issuedWith s t .vx w tl (vSets (setQ (paid tl w) q q') (fld w 43 5) (p.words.map wordRow)) s.mem .none) := by
  refine exec_changesTile rfl rfl (by decide) hop h ho ?_ (eng_vSets ..)
  have hsel : fld w 41 2 ≠ 3 := fun c => by rw [c] at hq; cases hq
  have hname : ([qLdVx, qMxVx, qTrVx] : List Nat).getD (fld w 41 2) 0 = q := by rw [List.getD_eq_getElem?_getD, hq]; rfl
  have hcount : ¬ (fld w 37 4 ≠ 0 ∧ p.words.length ≠ fld w 37 4) := fun c => hc.elim c.1 c.2
  simp only [hsel, if_false, hname, tileQ_paid, hp, hcount, vReg, Nat.not_lt.mpr hn, envOf_pz h, markRow_clean]

/-- R173. -/
theorem exec_vpush (h : Plain s t .vx w tl) {q : Nat} (hop : wOpcode w = 0x45) (ho : operandsOk w (mask 47 30)) (h0 : fld w 39 4 ≠ 0)
    (hn : fld w 43 5 + fld w 39 4 ≤ 32) (hq : (if fld w 38 1 = 0 then qVxLd else qVxXf) = q)
    (hput : (qPutPacket q (tileQ tl q) (BitVec.ofNat 8 (fld w 30 8))
      (tab (fld w 39 4) fun k => rowWord (vGet tl (fld w 43 5 + k)))).2 = 0) :
    exec (.vpush t w) s = .next (issuedWith s t .vx w tl (setQ (paid tl w) q (qPutPacket q (tileQ tl q) (BitVec.ofNat 8 (fld w 30 8))
      (tab (fld w 39 4) fun k => rowWord (vGet tl (fld w 43 5 + k)))).1) s.mem .none) := by
  refine exec_changesTile rfl rfl (by decide) hop h ho ?_ rfl
  simp only [vReg, h0, Nat.not_lt.mpr hn, or_self, if_false, hq, envOf_pz h, markWord_clean, vGet_paid]
  rw [iresPacket_room (by rw [tileQ_paid]; exact hput), tileQ_paid]

/-- R173. -/
theorem exec_vscl (h : Plain s t .vx w tl) {p : QItem} {q' : Queue} {x : W64} {z : Bool} (hop : wOpcode w = 0x46)
    (ho : operandsOk w (mask 47 35)) (hp : qTake (tileQ tl qSqVx) = some (p, q')) (hx : p.words.head? = some { lanes := [x], pz := z }) :
    exec (.vscl t w) s = .next (issuedWith s t .vx w tl (vSet (setQ (paid tl w) qSqVx q') (fld w 43 5)
      (if fld w 42 1 = 0 then List.replicate 64 ⟨BitVec.ofNat 32 (if fld w 35 1 = 0 then x.toNat else x.toNat / 2 ^ 32), z⟩
        else (vGet tl (fld w 43 5)).set (fld w 36 6) ⟨BitVec.ofNat 32 (if fld w 35 1 = 0 then x.toNat else x.toNat / 2 ^ 32), z⟩))
      s.mem .none) := by
  refine exec_changesTile rfl rfl (by decide) hop h ho ?_ rfl
  have hhead : p.words.headD { lanes := [], pz := false } = { lanes := [x], pz := z } := by rw [List.headD_eq_head?_getD, hx]; rfl
  simp only [tileQ_paid, hp, hhead, vReg, envOf_pz h, Bool.or_false, List.headD_cons, vGet_setQ, vGet_paid]
  rfl

/-- R174. -/
theorem exec_vop (h : Plain s t .vx w tl) (hop : wOpcode w = 0x47) (ho : operandsOk w (mask 47 23)) (hf : fld w 23 5 ≠ 31) :
    exec (.vop t w) s = .next (issuedWith s t .vx w tl (vSet (paid tl w) (fld w 43 5)
      (vopLanes (fld w 23 5) (vGet tl (fld w 38 5)) (vGet tl (fld w 33 5)) (vGet tl (fld w 28 5)))) s.mem .none) := by
  refine exec_changesTile rfl rfl (by decide) hop h ho ?_ rfl
  simp only [hf, if_false, vReg, envOf_pz h, markRow_clean, vGet_paid]

/-- R174. -/
theorem exec_vopi (h : Plain s t .vx w tl) (hop : wOpcode w = 0x48) (ho : operandsOk w (mask 47 33 + mask 31 0)) (h3 : fld w 33 5 ≠ 3)
    (h30 : fld w 33 5 ≠ 30) (h31 : fld w 33 5 ≠ 31) :
    exec (.vopi t w) s = .next (issuedWith s t .vx w tl (vSet (paid tl w) (fld w 43 5)
      (vopLanes (fld w 33 5) (vGet tl (fld w 38 5)) (List.replicate 64 ⟨BitVec.ofNat 32 (fld w 0 32), false⟩) zeroRow)) s.mem .none) := by
  refine exec_changesTile rfl rfl (by decide) hop h ho ?_ rfl
  simp only [h3, h30, h31, or_self, if_false, vReg, envOf_pz h, markRow_clean, vGet_paid]

/-- R176. -/
theorem exec_vred (h : Plain s t .vx w tl) (hop : wOpcode w = 0x49) (ho : operandsOk w (mask 47 35)) (hf : fld w 35 3 ≤ 5) :
    exec (.vred t w) s = .next (issuedWith s t .vx w tl (vSet (paid tl w) (fld w 43 5) (List.replicate 64
      ⟨vredFn (fld w 35 3) ((vGet tl (fld w 38 5)).map (·.bits)), (vGet tl (fld w 38 5)).any (·.pz)⟩)) s.mem .none) := by
  refine exec_changesTile rfl rfl (by decide) hop h ho ?_ rfl
  simp only [gt_iff_lt, Nat.not_lt.mpr hf, if_false, vReg, envOf_pz h, Bool.or_false, vGet_paid]

end

/-- Settles O15: each instruction's own rule, with VST's bytes those written to scratch. -/
theorem vxMovesAndComputes : Obligations.VxMovesAndComputes := by
  intro s t w tl h goesTo me vd a b c n off rows
  refine ⟨exec_vld h, fun hop ho hn h0 hin => ⟨_, exec_vst h hop ho hn h0 hin, memWrite_scratch ..⟩, fun _ _ _ => exec_vpop h, ?_,
    fun _ _ _ _ => exec_vscl h, exec_vop h, exec_vopi h, exec_vred h⟩
  intro hop ho h0 hn q put hput
  exact exec_vpush h hop ho h0 hn rfl hput

end Sys2Proof.Machine
end

section
/-! SUPPORT. VX: rearranging rows and quantising them. -/

namespace Sys2Proof.Machine

section
variable {s : State} {t : BitVec 10} {w : W64} {tl : Tile}

/-- R467: a lane takes no poison from clean bytes. -/
theorem rotated_clean {m : Mem} {a n : Nat} (hz : memAnyPz m a n = false) (inv all : Bool) (y : List W32) :
    ((y.zipIdx).map fun p => (⟨p.1, all || (inv && ((memRead m a n).getD (p.2 / 8) (0, false)).2)⟩ : Machine.Lane))
      = y.map fun x => ⟨x, all⟩ := by
  simp only [memRead_clean hz, Bool.and_false, Bool.or_false]
  rw [← List.zipIdx_map_fst 0 y, List.map_map]
  simp only [List.zipIdx_map_fst]
  rfl

/-- R177. -/
theorem exec_vrot (h : Plain s t .vx w tl) (hop : wOpcode w = 0x4a) (ho : operandsOk w (mask 47 21)) (hd : fld w 43 5 % 4 = 0)
    (ha : fld w 38 5 % 4 = 0) (hin : fld w 21 16 * 32 + 32 ≤ scratchSize)
    (hz : memAnyPz s.mem (scratchBase t.toNat + fld w 21 16 * 32) 32 = false) :
    exec (.vrot t w) s = .next (issuedWith s t .vx w tl (groupSet (paid tl w) (fld w 43 5)
      ((rotate (bit w 37) ((memRead s.mem (scratchBase t.toNat + fld w 21 16 * 32) 32).map (·.1))
        ((groupGet tl (fld w 38 5)).map (·.bits))).map fun x => ⟨x, (groupGet tl (fld w 38 5)).any (·.pz)⟩)) s.mem .none) := by
  refine exec_readsScratch (l := [(fld w 21 16 * 32, 32)]) rfl rfl (by decide) (by decide) hop h ho ?_ (List.forall_mem_singleton.mpr hz)
    (eng_vSets ..)
  have hread : scratchRead (envOf s t.toNat (eng tl .vx)) (fld w 21 16 * 32) 32
      = memRead s.mem (scratchBase t.toNat + fld w 21 16 * 32) 32 := rfl
  simp only [vReg, hd, ha, ne_eq, not_true_eq_false, or_self, if_false, inScratch, hin, decide_true, Bool.not_true, Bool.false_eq_true,
    envOf_pz h, hread, memRead_anyPz, hz, Bool.and_false, Bool.or_false, Bool.false_or, groupGet_paid, rotated_clean hz]

/-- R178. -/
theorem exec_vpick (h : Plain s t .vx w tl) {ch : List Nat} (hop : wOpcode w = 0x4b) (ho : operandsOk w (mask 47 21))
    (ha : fld w 38 5 % 4 = 0) (hin : fld w 21 17 * 16 + 16 ≤ scratchSize)
    (hz : memAnyPz s.mem (scratchBase t.toNat + fld w 21 17 * 16) 16 = false)
    (hl : sideList ((memRead s.mem (scratchBase t.toNat + fld w 21 17 * 16) 16).map (·.1)) = some ch) :
    exec (.vpick t w) s = .next (issuedWith s t .vx w tl (vSet (paid tl w) (fld w 43 5)
      ((ch.map fun c => laneAt (groupGet tl (fld w 38 5)) c) ++ List.replicate (64 - ch.length) Machine.Lane.zero)) s.mem .none) := by
  refine exec_readsScratch (l := [(fld w 21 17 * 16, 16)]) rfl rfl (by decide) (by decide) hop h ho ?_ (List.forall_mem_singleton.mpr hz) rfl
  have hread : scratchRead (envOf s t.toNat (eng tl .vx)) (fld w 21 17 * 16) 16
      = memRead s.mem (scratchBase t.toNat + fld w 21 17 * 16) 16 := rfl
  simp only [vReg, ha, ne_eq, not_true_eq_false, if_false, inScratch, hin, decide_true, Bool.not_true, Bool.false_eq_true, hread,
    memRead_anyPz, hz, hl, envOf_pz h, markRow_clean, groupGet_paid]

/-- R178. -/
theorem exec_vside (h : Plain s t .vx w tl) {ch : List Nat} (hop : wOpcode w = 0x4c) (ho : operandsOk w (mask 47 23))
    (hin : fld w 23 15 * 64 + 64 + 256 * ch.length ≤ scratchSize)
    (hz : memAnyPz s.mem (scratchBase t.toNat + fld w 23 15 * 64) 16 = false)
    (hrows : memAnyPz s.mem (scratchBase t.toNat + fld w 23 15 * 64 + 64) (256 * ch.length) = false)
    (hl : sideList ((memRead s.mem (scratchBase t.toNat + fld w 23 15 * 64) 16).map (·.1)) = some ch) :
    exec (.vside t w) s = .next (issuedWith s t .vx w tl (vSet (paid tl w) (fld w 43 5) (sideSum (vGet tl (fld w 38 5)) (vGet tl (fld w 43 5))
      (tab ch.length fun j => bytesRow (memRead s.mem (scratchBase t.toNat + fld w 23 15 * 64 + 64 + 256 * j) 256)) 0)) s.mem .none) := by
  refine exec_readsScratch (l := [(fld w 23 15 * 64, 16), (fld w 23 15 * 64 + 64, 256 * ch.length)]) rfl rfl (by decide) (by decide) hop h ho
    ?_ (List.forall_mem_cons.mpr ⟨hz, List.forall_mem_singleton.mpr (by rw [← Nat.add_assoc]; exact hrows)⟩) rfl
  have hread (o n : Nat) : scratchRead (envOf s t.toNat (eng tl .vx)) o n = memRead s.mem (scratchBase t.toNat + o) n := rfl
  have hhead : fld w 23 15 * 64 + 64 ≤ scratchSize := Nat.le_trans (Nat.le_add_right _ _) hin
  have hall : fld w 23 15 * 64 + (64 + 256 * ch.length) ≤ scratchSize := by rw [← Nat.add_assoc]; exact hin
  simp only [inScratch, hhead, hall, decide_true, Bool.not_true, Bool.false_eq_true, if_false, hread, memRead_anyPz, hz, hl, vReg, envOf_pz h,
    markRow_clean, vGet_paid, Nat.add_assoc]

/-- R182. -/
theorem exec_vpack (h : Plain s t .vx w tl) {bs : List PByte} (hop : wOpcode w = 0x50) (ho : operandsOk w (mask 47 36))
    (ha : fld w 38 5 % 4 = 0) (hk : fld w 36 2 ≠ 3)
    (hb : packCodes (fld w 36 2) ((groupGet tl (fld w 38 5)).map fun l => (satCode (widthBits (fld w 36 2)) l.bits, l.pz)) = bs) :
    exec (.vpack t w) s = .next (issuedWith s t .vx w tl (vSet (paid tl w) (fld w 43 5)
      (bytesRow (bs ++ List.replicate (256 - bs.length) (0, false)))) s.mem .none) := by
  refine exec_changesTile rfl rfl (by decide) hop h ho ?_ rfl
  simp only [vReg, ha, ne_eq, not_true_eq_false, hk, or_self, if_false, groupGet_paid, hb, envOf_pz h, markRow_clean]

/-- R179: field E is clear where the exponent is the tracked one. -/
theorem trackField {trk : Bool} {x : Nat} (h : trk = true → x = 0) : (trk && x != 0) = false := by
  cases trk with
  | false => rfl
  | true => rw [h rfl]; rfl

/-- R182. -/
theorem exec_vunpk (h : Plain s t .vx w tl) {x : Int × Bool} (hop : wOpcode w = 0x51) (ho : operandsOk w (mask 47 14))
    (hd : fld w 43 5 % 4 = 0) (hk : fld w 15 2 ≠ 3) (hc : fld w 17 8 < 2 ^ widthBits (fld w 15 2)) (ht : bit w 14 = true → fld w 25 8 = 0)
    (hx : trkExpo tl (bit w 14) (fld w 25 8) (fld w 33 5) = x) (hp : x.2 = false) (he : Machine.expoOk x.1 = true) :
    exec (.vunpk t w) s = .next (issuedWith s t .vx w tl (groupSet (paid tl w) (fld w 43 5)
      ((unpackCodes (fld w 15 2) ((rowBytes (vGet tl (fld w 38 5))).take (blockBytes (fld w 15 2)))).map
        fun c => ⟨dequant c.1 (fld w 17 8) x.1, c.2⟩)) s.mem .none) := by
  refine exec_changesTile rfl rfl (by decide) hop h ho ?_ (eng_vSets ..)
  simp only [vReg, hd, ne_eq, not_true_eq_false, hk, Nat.not_le.mpr hc, trackField ht, Bool.false_eq_true, or_self, if_false, trkExpo_paid, hx,
    hp, he, Bool.not_true, envOf_pz h, Bool.or_false, vGet_paid]

theorem putCodes_paid (tl' : Tile) (vd vc : Nat) (c : Bool) (tl : Tile) (w : W64) (r : Nat) (q : W32 → Quant) :
    putCodes false tl' vd vc c (vGet (paid tl w) r) q = putCodes false tl' vd vc c (vGet tl r) q := by rw [vGet_paid]

/-- R179. -/
theorem exec_vqz (h : Plain s t .vx w tl) {x : Int × Bool} (hop : wOpcode w = 0x4d) (ho : operandsOk w (mask 47 13)) (hk : fld w 15 2 ≠ 3)
    (hc : fld w 17 8 < 2 ^ widthBits (fld w 15 2)) (ht : bit w 13 = true → fld w 25 8 = 0)
    (hx : trkExpo tl (bit w 13) (fld w 25 8) (fld w 33 5) = x) (hp : x.2 = false) (he : Machine.expoOk x.1 = true) :
    exec (.vqz t w) s = .next (issuedWith s t .vx w tl (putCodes false (paid tl w) (fld w 43 5) (fld w 33 5) (bit w 14) (vGet tl (fld w 38 5))
      (quantise (widthBits (fld w 15 2)) (fld w 17 8) x.1)) s.mem .none) := by
  refine exec_changesTile rfl rfl (by decide) hop h ho ?_ (eng_putCodes ..)
  simp only [vReg, hk, Nat.not_le.mpr hc, trackField ht, Bool.false_eq_true, or_self, if_false, trkExpo_paid, hx, hp, he, Bool.not_true,
    envOf_pz h, vGet_paid]

/-- R180: the shift of a record whose exponent is tracked, or fixed. -/
def recordShift (r : QRec) (x : Int) : Int := if r.trk then r.s + (x - r.eInit) else r.s

/-- R180. -/
theorem exec_vqnt (h : Plain s t .vx w tl) {r : QRec} {x : Int × Bool} (hop : wOpcode w = 0x4e) (ho : operandsOk w (mask 47 15))
    (hin : fld w 16 17 * 16 + 16 ≤ scratchSize) (hz : memAnyPz s.mem (scratchBase t.toNat + fld w 16 17 * 16) 16 = false)
    (hr : qRecOf ((memRead s.mem (scratchBase t.toNat + fld w 16 17 * 16) 16).map (·.1)) = r) (hok : r.ok = true)
    (hx : trkExpo tl true 0 (fld w 33 5) = x) (ht : r.trk = true → x.2 = false ∧ Machine.expoOk x.1 = true)
    (h0 : 0 ≤ recordShift r x.1) (h47 : recordShift r x.1 ≤ 47) :
    exec (.vqnt t w) s = .next (issuedWith s t .vx w tl (putCodes false (paid tl w) (fld w 43 5) (fld w 33 5) (bit w 15) (vGet tl (fld w 38 5))
      (requantise (widthBits r.width) r.f r.m (recordShift r x.1).toNat r.z)) s.mem .none) := by
  refine exec_readsScratch (l := [(fld w 16 17 * 16, 16)]) rfl rfl (by decide) (by decide) hop h ho ?_ (List.forall_mem_singleton.mpr hz)
    (eng_putCodes ..)
  have hread : scratchRead (envOf s t.toNat (eng tl .vx)) (fld w 16 17 * 16) 16
      = memRead s.mem (scratchBase t.toNat + fld w 16 17 * 16) 16 := rfl
  have hlate : (r.trk && x.2) = false := by
    cases hk : r.trk with
    | false => rfl
    | true => exact (ht hk).1
  have hexpo : (r.trk && !Machine.expoOk x.1) = false := by
    cases hk : r.trk with
    | false => rfl
    | true => rw [(ht hk).2]; rfl
  have hshift : (if r.trk = true then (r.s : Int) + (x.1 - r.eInit) else r.s) = recordShift r x.1 := rfl
  simp only [inScratch, hin, decide_true, Bool.not_true, Bool.false_eq_true, if_false, hread, memRead_anyPz, hz, hr, hok, vReg, trkExpo_paid,
    hx, hlate, hexpo, hshift, Int.not_lt.mpr h0, Int.not_lt.mpr h47, or_self, envOf_pz h, vGet_paid]

theorem map_markWord_clean (l : List QWord) : l.map (markWord false) = l := List.map_id l

/-- R181. -/
theorem exec_vqs (h : Plain s t .vx w tl) {p : QItem} {q' : Queue} {r : QRec} {qi qo : Nat} (hop : wOpcode w = 0x4f)
    (ho : operandsOk w (mask 47 21)) (hin : fld w 29 17 * 16 + 16 ≤ scratchSize)
    (hz : memAnyPz s.mem (scratchBase t.toNat + fld w 29 17 * 16) 16 = false)
    (hr : qRecOf ((memRead s.mem (scratchBase t.toNat + fld w 29 17 * 16) 16).map (·.1)) = r) (hok : r.ok = true) (ht : r.trk = false)
    (hqi : (if fld w 47 1 = 0 then qMxVx else qLdVx) = qi) (hqo : (if fld w 46 1 = 0 then qVxLd else qVxXf) = qo)
    (hp : qTake (tileQ tl qi) = some (p, q')) (hw : p.words ≠ [])
    (hput : (qPutPacket qo (tileQ tl qo) (BitVec.ofNat 8 (fld w 21 8))
      (wordsOf256 (packCodes r.width (vqsBlocks r false p.words)))).2 = 0) :
    exec (.vqs t w) s = .next (issuedWith s t .vx w tl (setQ (setQ (paid tl w) qi q') qo
      (qPutPacket qo (tileQ tl qo) (BitVec.ofNat 8 (fld w 21 8)) (wordsOf256 (packCodes r.width (vqsBlocks r false p.words)))).1)
      s.mem .none) := by
  refine exec_readsScratch (l := [(fld w 29 17 * 16, 16)]) rfl rfl (by decide) (by decide) hop h ho ?_ (List.forall_mem_singleton.mpr hz) rfl
  have hread : scratchRead (envOf s t.toNat (eng tl .vx)) (fld w 29 17 * 16) 16
      = memRead s.mem (scratchBase t.toNat + fld w 29 17 * 16) 16 := rfl
  have hsame : ({ m := r.m, f := r.f, s := r.s, z := r.z, width := r.width, trk := false, eInit := r.eInit, ok := true } : QRec) = r := by
    cases r
    cases hok
    cases ht
    rfl
  have hne : qi ≠ qo := by rw [← hqi, ← hqo]; split <;> split <;> decide
  have hother : tileQ (setQ (paid tl w) qi q') qo = tileQ tl qo := by rw [tileQ_setQ_other _ _ _ _ hne.symm, tileQ_paid]
  simp only [inScratch, hin, decide_true, Bool.not_true, Bool.false_eq_true, if_false, hread, memRead_anyPz, hz, hr, hok, ht, Bool.or_self,
    Bool.not_false, Bool.and_false, hsame, hqi, hqo, tileQ_paid, hp, List.length_eq_zero_iff, hw, envOf_pz h, map_markWord_clean]
  rw [iresPacket_room (by rw [hother]; exact hput), hother]

end

/-- Settles O16, instruction by instruction. -/
theorem vxRearranges : Obligations.VxRearranges := by
  intro s t w tl h goesTo me vd va a g base bytes
  exact ⟨exec_vrot h, fun _ => exec_vpick h, fun _ => exec_vside h, fun hop ho ha hk => exec_vpack h hop ho ha hk rfl,
    fun hop ho hd hk hc ht hp he => exec_vunpk h hop ho hd hk hc ht rfl hp he⟩

/-- Settles O17, instruction by instruction. -/
theorem vxQuantises : Obligations.VxQuantises := by
  intro s t w tl h goesTo me vd vc a rec_ clean
  refine ⟨fun hop ho hk hc ht hp he => exec_vqz h hop ho hk hc ht rfl hp he,
    fun hop ho hclean hok ht h0 h47 => exec_vqnt h hop ho hclean.1 hclean.2 rfl hok rfl ht h0 h47, ?_⟩
  intro p q' r qi qo put hop ho hclean hok ht hp hw hput
  exact exec_vqs h hop ho hclean.1 hclean.2 rfl hok ht rfl rfl hp hw hput

end Sys2Proof.Machine
end

section
/-! SUPPORT. MX: the accumulators, and what MMW, MXOUT and MZERO leave in them. -/

namespace Sys2Proof.Machine

theorem acc_paid (tl : Tile) (w : W64) : (paid tl w).acc = tl.acc := by unfold paid; split <;> rfl

theorem accGet_paid (tl : Tile) (w : W64) (a r : Nat) : accGet (paid tl w) a r = accGet tl a r := by rw [accGet, accGet, acc_paid]

/-- R164: MMW's rows change the accumulators of their tile and nothing else of it. -/
theorem mmwRows_onlyAcc (n : Env) (first : Bool) (acc xoff nacc kp : Nat) (ws : List (List Weight)) (tl : Tile) (l : List (Nat × Nat)) :
    mmwRows n first acc xoff nacc kp ws tl l = { tl with acc := (mmwRows n first acc xoff nacc kp ws tl l).acc } := by
  induction l generalizing tl with
  | nil => rfl
  | cons x l ih =>
    obtain ⟨a, r⟩ := x
    rw [mmwRows, ih]
    rfl

/-- R167: rows cleared change the accumulators of their tile and nothing else of it. -/
theorem clearRows_onlyAcc (b : Bool) (tl : Tile) (acc : Nat) (l : List Nat) :
    clearRows b tl acc l = { tl with acc := (clearRows b tl acc l).acc } := by
  induction l generalizing tl with
  | nil => rfl
  | cons r l ih =>
    rw [clearRows, ih]
    rfl

/-- An accumulator's row after another one, or the same, is set. -/
theorem accGet_accSet (tl : Tile) {a r a' r' : Nat} (hr : r < 32) (hr' : r' < 32) (x : List Lane) :
    accGet (accSet tl a r x) a' r' = if a' = a ∧ r' = r then x else accGet tl a' r' := by
  unfold accGet accSet
  split
  · next hsame => rw [hsame.1, hsame.2, smGet_smSet_same]
  · next hother => exact smGet_smSet_other _ _ _ _ _ (by omega)

/-- R167: an accumulator's rows once those of one are cleared. -/
theorem accGet_clearRows (tl : Tile) {acc a r : Nat} {l : List Nat} (hl : ∀ x ∈ l, x < 32) (hr : r < 32) :
    accGet (clearRows false tl acc l) a r = if a = acc ∧ r ∈ l then zeroRow else accGet tl a r := by
  induction l generalizing tl with
  | nil => rw [if_neg fun c => absurd c.2 List.not_mem_nil]; rfl
  | cons x l ih =>
    obtain ⟨hx, hl⟩ := List.forall_mem_cons.mp hl
    rw [clearRows, ih _ hl, accGet_accSet tl hx hr, markRow_clean]
    by_cases ha : a = acc
    · by_cases hm : r ∈ l
      · rw [if_pos ⟨ha, hm⟩, if_pos ⟨ha, List.mem_cons_of_mem _ hm⟩]
      · rw [if_neg fun c => hm c.2]
        simp only [ha, List.mem_cons, hm, or_false, true_and]
    · rw [if_neg fun c => ha c.1, if_neg fun c => ha c.1, if_neg fun c => ha c.1]

/-- R167: MZERO clears an accumulator where its mask has the accumulator's bit. -/
def zeroNamed (m : Nat) (tl : Tile) (a : Nat) : Tile := if m / 2 ^ a % 2 = 1 then clearRows false tl a (List.range 32) else tl

theorem zeroNamed_onlyAcc (m : Nat) (tl : Tile) (l : List Nat) :
    l.foldl (zeroNamed m) tl = { tl with acc := (l.foldl (zeroNamed m) tl).acc } := by
  induction l generalizing tl with
  | nil => rfl
  | cons a l ih =>
    rw [List.foldl_cons, ih]
    unfold zeroNamed
    split
    · rw [clearRows_onlyAcc]
    · rfl

theorem accGet_zeroNamed (m : Nat) (tl : Tile) {l : List Nat} {a r : Nat} (hr : r < 32) :
    accGet (l.foldl (zeroNamed m) tl) a r = if a ∈ l ∧ m.testBit a = true then zeroRow else accGet tl a r := by
  induction l generalizing tl with
  | nil => rw [if_neg fun c => absurd c.1 List.not_mem_nil]; rfl
  | cons x l ih =>
    have hx : accGet (zeroNamed m tl x) a r = if a = x ∧ m.testBit a = true then zeroRow else accGet tl a r := by
      unfold zeroNamed
      simp only [Nat.testBit_eq_decide_div_mod_eq, decide_eq_true_eq]
      split
      · next hm =>
        rw [accGet_clearRows tl (fun y hy => List.mem_range.mp hy) hr]
        by_cases ha : a = x
        · rw [if_pos ⟨ha, List.mem_range.mpr hr⟩, if_pos ⟨ha, ha ▸ hm⟩]
        · rw [if_neg fun c => ha c.1, if_neg fun c => ha c.1]
      · next hm => rw [if_neg]; rintro ⟨rfl, hc⟩; exact hm hc
    rw [List.foldl_cons, ih, hx]
    by_cases hm : m.testBit a = true
    · by_cases hl : a ∈ l
      · rw [if_pos ⟨hl, hm⟩, if_pos ⟨List.mem_cons_of_mem _ hl, hm⟩]
      · rw [if_neg fun c => hl c.1]
        simp only [hm, and_true, List.mem_cons, hl, or_false]
    · rw [if_neg fun c => hm c.2, if_neg fun c => hm c.2, if_neg fun c => hm c.2]

section
variable {s : State} {t : BitVec 10} {w : W64} {tl : Tile}

/-- R167: rows put out as a packet, and cleared where CLR asks. -/
theorem exec_mxout (h : Plain s t .mx w tl) {first : Nat} {rows : List Nat} (hop : wOpcode w = 0x23) (ho : operandsOk w (mask 47 26))
    (hf : fld w 40 5 + (if bit w 34 then iterOf (eng tl .mx) * fld w 36 4 else 0) = first) (hr : (tab (fld w 36 4) fun n => first + n) = rows)
    (h0 : fld w 36 4 ≠ 0) (hn : first + fld w 36 4 ≤ 32)
    (hput : (qPutPacket qMxVx (tileQ tl qMxVx) (BitVec.ofNat 8 (fld w 26 8)) (rows.map fun r => rowWord (accGet tl (fld w 45 3) r))).2 = 0) :
    exec (.mxout t w) s = .next (issuedWith s t .mx w tl
      (setQ (if bit w 35 then clearRows false (paid tl w) (fld w 45 3) rows else paid tl w) qMxVx
        (qPutPacket qMxVx (tileQ tl qMxVx) (BitVec.ofNat 8 (fld w 26 8)) (rows.map fun r => rowWord (accGet tl (fld w 45 3) r))).1)
      s.mem .none) := by
  have hstand (f : Tile → Tile → Prop) (hsame : f (paid tl w) (paid tl w)) (hclear : ∀ x, f { paid tl w with acc := x } (paid tl w)) :
      f (if bit w 35 then clearRows false (paid tl w) (fld w 45 3) rows else paid tl w) (paid tl w) := by
    split
    · rw [clearRows_onlyAcc]
      exact hclear _
    · exact hsame
  have hq : tileQ (if bit w 35 then clearRows false (paid tl w) (fld w 45 3) rows else paid tl w) qMxVx = tileQ tl qMxVx :=
    (hstand (fun a b => tileQ a qMxVx = tileQ b qMxVx) rfl fun _ => rfl).trans (tileQ_paid ..)
  refine exec_changesTile rfl rfl (by decide) hop h ho ?_ (hstand (fun a b => eng a .mx = eng b .mx) rfl fun _ => rfl)
  have hlast : ¬ 31 < first + fld w 36 4 - 1 := by omega
  simp only [hf, h0, hlast, or_self, if_false, hr, envOf_pz h, markWord_clean, accGet_paid]
  rw [iresPacket_room (by rw [hq]; exact hput), hq]

/-- R167. -/
theorem exec_mzero (h : Plain s t .mx w tl) (hop : wOpcode w = 0x24) (ho : operandsOk w (mask 47 40)) :
    exec (.mzero t w) s = .next (issuedWith s t .mx w tl ((List.range 8).foldl (zeroNamed (fld w 40 8)) (paid tl w)) s.mem .none) := by
  refine exec_changesTile rfl rfl (by decide) hop h ho ?_ (by rw [zeroNamed_onlyAcc]; rfl)
  simp only [envOf_pz h]
  rfl

/-- R160, R164: the scratch that a batch of rows is read from. -/
def batchRanges (xoff nacc kp n : Nat) : List (Nat × Nat) :=
  (batchRows n).flatMap fun ar => tab kp fun k => ((xoff + k * nacc + ar.1) * 2048 + ar.2 * 64, 64)

/-- R164: a batch reads clean scratch where each row's panels are clean. -/
theorem batchRanges_clean {m : Mem} {u xoff nacc kp n : Nat}
    (hz : ∀ r c, r < n → c < kp → memAnyPz m (scratchBase u + ((xoff + c * nacc + r / 32) * 2048 + r % 32 * 64)) 64 = false) :
    ∀ p ∈ batchRanges xoff nacc kp n, memAnyPz m (scratchBase u + p.1) p.2 = false := by
  intro p hp
  simp only [batchRanges, batchRows, tab, List.mem_flatMap, List.mem_map, List.mem_range] at hp
  obtain ⟨-, ⟨r, hr, rfl⟩, c, hc, rfl⟩ := hp
  exact hz r c hr hc

/-- R164 to R166: MMW with its packet, its scales and its rows in order. -/
theorem exec_mmw (h : Plain s t .mx w tl) {p : QItem} {q : Queue} {acc kp k sg n nacc xoff soff : Nat} {emit : Bool} {scale : List PByte}
    {tl2 : Tile} {put : Queue × Nat} (hop : wOpcode w = 0x22) (ho : operandsOk w (mask 47 1))
    (eacc : fld w 45 3 = acc) (ekp : fld w 39 3 = kp) (ek : fld w 37 2 = k) (esg : fld w 35 2 = sg) (en : fld w 27 8 + 1 = n)
    (enacc : ceilDiv n 32 = nacc) (eemit : (bit w 42 && (envOf s t.toNat (eng tl .mx)).last) = emit)
    (exoff : fld w 17 10 + (if bit w 43 then iterOf (eng tl .mx) * kp * nacc else 0) = xoff)
    (esoff : fld w 1 16 * 32 + (if bit w 43 && decide (2 ≤ sg) then iterOf (eng tl .mx) * kp * 32 else 0) = soff)
    (escale : memRead s.mem (scratchBase t.toNat + soff) (scaleBytes sg kp) = scale)
    (etl2 : mmwRows (envOf s t.toNat (eng tl .mx)) (bit w 44 && (iterOf (eng tl .mx) == 0)) acc xoff nacc kp
      (weightRows k sg kp scale p.words) (setQ (paid tl w) qLdMx q) (batchRows n) = tl2)
    (eput : qPutPacket qMxVx (tileQ tl qMxVx) 0 (tab n fun r => rowWord (accGet tl2 acc r)) = put)
    (hk : k ≠ 3) (hkp : kp ≠ 0) (hmax : kp ≤ kpMax k) (hacc : acc + nacc ≤ 8) (hemit : bit w 42 = true → n ≤ 15)
    (hx : xoff + kp * nacc ≤ 768) (hin : soff + scaleBytes sg kp ≤ scratchSize)
    (hz : memAnyPz s.mem (scratchBase t.toNat + soff) (scaleBytes sg kp) = false)
    (hpair : ∀ o ∈ pairOffs sg kp, pairOk k (numOf (((scale.drop o).take 2).map (·.1))) = true)
    (hq : qTake (tileQ tl qLdMx) = some (p, q)) (hlen : p.words.length = kp * panelWords k)
    (hrows : ∀ r c, r < n → c < kp → memAnyPz s.mem (scratchBase t.toNat + ((xoff + c * nacc + r / 32) * 2048 + r % 32 * 64)) 64 = false)
    (hput : emit = true → put.2 = 0) :
    exec (.mmw t w) s = .next (issuedWith s t .mx w tl (if emit then setQ tl2 qMxVx put.1 else tl2) s.mem .none) := by
  have htl2 : tl2 = { setQ (paid tl w) qLdMx q with acc := tl2.acc } := by
    rw [← etl2]
    exact mmwRows_onlyAcc ..
  have hqueue : tileQ tl2 qMxVx = tileQ tl qMxVx := by
    rw [htl2]
    exact (tileQ_setQ_other _ _ _ _ (by decide)).trans (tileQ_paid ..)
  have heng : eng tl2 .mx = eng (paid tl w) .mx := by rw [htl2]; rfl
  have hread : scratchRead (envOf s t.toNat (eng tl .mx)) soff (scaleBytes sg kp) = scale := escale
  have hlast : ¬ 7 < acc + nacc - 1 := by omega
  have hmany : (bit w 42 && decide (15 < n)) = false := by
    cases hb : bit w 42 with
    | false => rfl
    | true => exact decide_eq_false (Nat.not_lt.mpr (hemit hb))
  have hbad : ((pairOffs sg kp).any fun o =>
      !(((scale.drop o).take 2).any (·.2)) && !pairOk k (numOf (((scale.drop o).take 2).map (·.1)))) = false := by
    rw [List.any_eq_false]
    intro o hm
    rw [hpair o hm, Bool.not_true, Bool.and_false]
    exact Bool.false_ne_true
  have hb : bodyMmw (envOf s t.toNat (eng tl .mx)) (iterOf (eng tl .mx)) w (paid tl w)
      = iresRead (envOf s t.toNat (eng tl .mx)) (iresRead (envOf s t.toNat (eng tl .mx))
          (iresDone (envOf s t.toNat (eng tl .mx)) (if emit then setQ tl2 qMxVx put.1 else tl2)) [(soff, scaleBytes sg kp)])
        (batchRanges xoff nacc kp n) := by
    refine (checked_ok ho (envOf_pz h)).trans ?_
    simp only [eacc, ekp, ek, esg, en, enacc, exoff, esoff, hk, hkp, Nat.not_lt.mpr hmax, hlast, hmany, Bool.false_eq_true, or_self, if_false,
      gt_iff_lt, Nat.not_lt.mpr hx, inScratch, hin, decide_true, Bool.not_true, hread, hbad, tileQ_paid, hq, ne_eq, hlen, not_true_eq_false,
      etl2, eemit]
    cases emit with
    | false => rfl
    | true =>
      simp only [iresPacket, iresRead, iresDone, if_true, hqueue, eput, hput rfl]
      rfl
  refine exec_readsCleanly rfl rfl (by decide) (by decide) hop h (hb.trans rfl) (fun p hp => ?_) ?_
  · rcases List.mem_append.mp hp with hp | hp
    · obtain rfl := List.mem_singleton.mp hp
      exact readCount_clean (List.forall_mem_singleton.mpr hz)
    · obtain rfl := List.mem_singleton.mp hp
      exact readCount_clean (batchRanges_clean hrows)
  · cases emit with
    | false => exact heng
    | true => exact heng

end

/-- Settles O18: MMW by its rows, MXOUT by its packet, and MZERO by what each row of the accumulators reads as. -/
theorem mxAccumulates : Obligations.MxAccumulates := by
  intro s t w tl h i env base acc
  refine ⟨?_, ?_, fun hop ho => ⟨_, exec_mzero h hop ho, ?_, fun a r ha hr hb => ?_, fun a r _ hr hb => ?_⟩⟩
  · intro p q kp k sg n nacc emit xoff soff scale tl2 put hop ho hk hkp hmax hacc hemit hx hin hz hpair hq hlen hrows hput
    exact exec_mmw h hop ho rfl rfl rfl rfl rfl rfl rfl rfl rfl rfl rfl rfl hk hkp hmax hacc hemit hx hin hz hpair hq hlen hrows hput
  · intro first rows put hop ho h0 hn hput
    exact exec_mxout h hop ho rfl rfl h0 hn hput
  · rw [zeroNamed_onlyAcc, ← acc_paid tl w]
  · rw [accGet_zeroNamed _ _ hr, if_pos ⟨List.mem_range.mpr ha, hb⟩]
  · rw [accGet_zeroNamed _ _ hr, if_neg fun c => absurd c.2 (by rw [hb]; exact Bool.false_ne_true), accGet_paid]

end Sys2Proof.Machine
end

section
/-! SUPPORT. TR and AU: what TFE, TWALK, TOUT and ASTEP leave. -/

namespace Sys2Proof.Machine

/-- R190: the codes of a row are written in that row's bytes and nowhere else. -/
theorem memByte_encodeRow (base tbl row : Nat) (raw : Nat → RawVal) (x n f : Nat) (st : TfeSt)
    (h : x < base + row + 2 * f ∨ base + row + 2 * (f + n) ≤ x) : memByte (encodeRow false base tbl row raw n f st).mem x = memByte st.mem x := by
  induction n generalizing f st with
  | zero => rfl
  | succ n ih =>
    unfold encodeRow
    split
    · rfl
    · extract_lets +onlyGivenNames c ue reads
      split
      · rfl
      · rw [ih _ _ (by omega)]
        refine memByte_memWrite_other _ _ _ _ ?_
        show x < base + row + 2 * f ∨ base + row + 2 * f + 2 ≤ x
        omega

/-- R205: TFE writes in the code rows that it reaches and nowhere else. -/
theorem memByte_tfeRows (base tbl rs rd rstr cstr nf : Nat) (src : Bool) (x n r : Nat) (tl : Tile) (st : TfeSt)
    (h : ∀ k, r ≤ k → k < r + n → x < base + (rd + k * cstr * 64) ∨ base + (rd + k * cstr * 64) + 2 * nf ≤ x) :
    memByte (tfeRows false base tbl rs rd rstr cstr nf src n r tl st).2.mem x = memByte st.mem x := by
  induction n generalizing r tl st with
  | zero => rfl
  | succ n ih =>
    have hrow (raw : Nat → RawVal) : memByte (encodeRow false base tbl (rd + r * cstr * 64) raw nf 0 st).mem x = memByte st.mem x := by
      refine memByte_encodeRow _ _ _ _ _ _ _ _ ?_
      have := h r (Nat.le_refl _) (by omega)
      omega
    have hrest (k : Nat) (h1 : r + 1 ≤ k) (h2 : k < r + 1 + n) := h k (by omega) (by omega)
    unfold tfeRows
    split
    · rfl
    · dsimp only
      split
      · split
        · rfl
        · rw [ih _ _ _ hrest, hrow]
      · rw [ih _ _ _ hrest, hrow]

theorem eng_tfeRows (tag : Bool) (base tbl rs rd rstr cstr nf : Nat) (src : Bool) (n r : Nat) (tl : Tile) (st : TfeSt) (e : Eng) :
    eng (tfeRows tag base tbl rs rd rstr cstr nf src n r tl st).1 e = eng tl e := by
  induction n generalizing r tl st with
  | zero => rfl
  | succ n ih =>
    unfold tfeRows
    split
    · rfl
    · dsimp only
      split
      · split
        · rfl
        · rw [ih, eng_setQ]
      · rw [ih]

theorem bankGet_paid (tl : Tile) (w : W64) (b : Nat) : bankGet (paid tl w) b = bankGet tl b := by
  have h : (paid tl w).bank = tl.bank := by unfold paid; split <;> rfl
  rw [bankGet, bankGet, h]

/-- R199, R207: banks set change the banks of their tile and nothing else of it. -/
theorem bankSets_onlyBank (tl : Tile) (x : List Lane) (l : List Nat) :
    l.foldl (fun t b => bankSet t b x) tl = { tl with bank := (l.foldl (fun t b => bankSet t b x) tl).bank } := by
  induction l generalizing tl with
  | nil => rfl
  | cons b l ih => rw [List.foldl_cons, ih]; rfl

/-- A table's entries paired with their numbers. -/
theorem tab_zipIdx_map {α β : Type} (n : Nat) (f : Nat → α) (g : α × Nat → β) : ((tab n f).zipIdx).map g = tab n fun i => g (f i, i) := by
  apply List.ext_getElem
  · simp only [tab, List.length_map, List.length_zipIdx]
  · intro i h1 h2
    simp only [tab, List.getElem_map, List.getElem_zipIdx, List.getElem_range, Nat.zero_add]

/-- A clean range's parts are clean. -/
theorem memAnyPz_part {m : Mem} {a n o k : Nat} (h : memAnyPz m a n = false) (hk : o + k ≤ n) : memAnyPz m (a + o) k = false := by
  rw [memAnyPz, List.any_eq_false] at h ⊢
  intro i hi
  have := h (o + i) (List.mem_range.mpr (by have := List.mem_range.mp hi; omega))
  rwa [← Nat.add_assoc] at this

section
variable {s : State} {t : BitVec 10} {w : W64} {tl : Tile}

/-- R205: TFE whose rows raise no fault and read no poison. -/
theorem exec_tfe (h : Plain s t .tr w tl) {rt rs rd rows nf rstr cstr : Nat} {src : Bool} {p : Tile × TfeSt} (hop : wOpcode w = 0x63)
    (ert : (aGet tl (aReg w 44)).bits.toNat = rt) (ers : (aGet tl (aReg w 40)).bits.toNat = rs) (erd : (aGet tl (aReg w 36)).bits.toNat = rd)
    (erows : fld w 29 6 + 1 = rows) (enf : fld w 17 12 + 1 = nf) (erstr : fld w 8 9 = rstr) (ecstr : fld w 0 8 = cstr) (esrc : bit w 35 = src)
    (ep : tfeRows false (scratchBase t.toNat) rt (if src then 0 else rs) rd rstr cstr nf src rows 0 (paid tl w)
      { mem := s.mem, ue := 0, reads := [], fault := none } = p)
    (hlen : 2 * nf ≤ cstr * 64) (hpkt : src = true → fld w 40 4 = 0 ∧ rstr = 0)
    (hraw : src = false → rstr ≠ 0 ∧ rs % 4 = 0 ∧ rs + (rows - 1) * rstr * 64 + 4 ≤ scratchSize)
    (hrt : rt % 16 = 0) (hrd : rd % 64 = 0) (hint : rt + 16 * nf ≤ scratchSize) (hind : rd + (rows - 1) * cstr * 64 + 2 * nf ≤ scratchSize)
    (hf : p.2.fault = none) (hu : p.2.ue = 0) (zt : (aGet tl (aReg w 44)).pz = false) (zd : (aGet tl (aReg w 36)).pz = false)
    (zs : src = false → (aGet tl (aReg w 40)).pz = false) :
    exec (.tfe t w) s = .next (issuedWith s t .tr w tl p.1 p.2.mem .none) := by
  have hform : ¬ (cstr * 64 < 2 * nf ∨ (src && (fld w 40 4 != 0 || rstr != 0)) = true ∨ (!src && rstr == 0) = true)
      ∧ ¬ (rt % 16 ≠ 0 ∨ (!src && rs % 4 != 0) = true ∨ rd % 64 ≠ 0)
      ∧ ¬ ((!inScratch rt (16 * nf)) = true ∨ (!inScratch (rd + (rows - 1) * cstr * 64) (2 * nf)) = true
        ∨ (!src && !inScratch (rs + (rows - 1) * rstr * 64) 4) = true)
      ∧ (!src && (aGet tl (aReg w 40)).pz) = false := by
    have hwide := Nat.not_lt.mpr hlen
    cases src with
    | true =>
      obtain ⟨h40, hr⟩ := hpkt rfl
      simp [inScratch, hwide, h40, hr, hrt, hrd, hint, hind]
    | false =>
      obtain ⟨hr, h4, hin⟩ := hraw rfl
      simp [inScratch, hwide, hr, h4, hin, hrt, hrd, hint, hind, zs rfl]
  obtain ⟨hillegal, haligned, hinside, hsound⟩ := hform
  have heng : eng p.1 .tr = eng (paid tl w) .tr := by rw [← ep]; exact eng_tfeRows ..
  refine exec_readsCleanly (ue := [(t.toNat, p.2.ue)]) (reads := p.2.reads) rfl rfl (by decide) (by decide) hop h ?_
    (List.forall_mem_singleton.mpr hu) heng
  unfold bodyTfe
  have hmemory : (envOf s t.toNat (eng tl .tr)).mem = s.mem := rfl
  have htile : (envOf s t.toNat (eng tl .tr)).tile = t.toNat := rfl
  simp only [aGet_paid, ert, ers, erd, erows, enf, erstr, ecstr, esrc, hillegal, haligned, hinside, if_false, envOf_pz h, zt, zd, hsound,
    Bool.or_self, hmemory, htile, ep, hf]

/-- R206, R199: TWALK whose walks raise no fault and read no poison. -/
theorem exec_twalk (h : Plain s t .tr w tl) {nodes tt rc rows nt cstr : Nat} {ts : List TreeSpan} (hop : wOpcode w = 0x62)
    (ho : operandsOk w (mask 47 7)) (enodes : (aGet tl (aReg w 44)).bits.toNat = nodes) (ett : (aGet tl (aReg w 40)).bits.toNat = tt)
    (erc : (aGet tl (aReg w 36)).bits.toNat = rc) (erows : fld w 27 6 + 1 = rows) (ent : fld w 15 12 + 1 = nt) (ecstr : fld w 7 8 = cstr)
    (h8 : nodes % 8 = 0) (h4 : tt % 4 = 0) (h64 : rc % 64 = 0) (hint : tt + 4 * (nt + 1) ≤ scratchSize)
    (hinr : rc + rows * cstr * 64 ≤ scratchSize) (hz : memAnyPz s.mem (scratchBase t.toNat + tt) (4 * (nt + 1)) = false)
    (hts : treeSpans s.mem (scratchBase t.toNat + tt) nt = some ts)
    (zn : (aGet tl (aReg w 44)).pz = false) (zt : (aGet tl (aReg w 40)).pz = false) (zc : (aGet tl (aReg w 36)).pz = false)
    (hleaf : ∀ r y, r < rows → y ∈ ts →
      (walkTree s.mem (scratchBase t.toNat) nodes (rc + r * cstr * 64) (cstr * 64) y).fault = none
        ∧ ∀ z ∈ (walkTree s.mem (scratchBase t.toNat) nodes (rc + r * cstr * 64) (cstr * 64) y).rd,
          memAnyPz s.mem (scratchBase t.toNat + z.1) z.2 = false) :
    exec (.twalk t w) s = .next (issuedWith s t .tr w tl (bankSet (paid tl w) (fld w 34 2)
      ((tab rows fun r => sumLeaves (if bit w 33 then Machine.Lane.zero else laneAt (bankGet tl (fld w 34 2)) r)
        (ts.map (walkTree s.mem (scratchBase t.toNat) nodes (rc + r * cstr * 64) (cstr * 64)))) ++ (bankGet tl (fld w 34 2)).drop rows))
      s.mem .none) := by
  have hmem : ∀ l ∈ (tab rows fun r => ts.map (walkTree s.mem (scratchBase t.toNat) nodes (rc + r * cstr * 64) (cstr * 64))).flatten,
      l.fault = none ∧ ∀ z ∈ l.rd, memAnyPz s.mem (scratchBase t.toNat + z.1) z.2 = false := by
    intro l hl
    obtain ⟨k, hk, hl⟩ := List.mem_flatten.mp hl
    obtain ⟨r, hr, rfl⟩ := List.mem_map.mp hk
    obtain ⟨y, hy, rfl⟩ := List.mem_map.mp hl
    exact hleaf r y (List.mem_range.mp hr) hy
  have hfault := List.findSome?_eq_none_iff.mpr fun l hl => (hmem l hl).1
  have hb : bodyTwalk (envOf s t.toNat (eng tl .tr)) (iterOf (eng tl .tr)) w (paid tl w)
      = iresRead (envOf s t.toNat (eng tl .tr)) (iresRead (envOf s t.toNat (eng tl .tr)) (iresDone (envOf s t.toNat (eng tl .tr))
          (bankSet (paid tl w) (fld w 34 2) ((tab rows fun r =>
            sumLeaves (if bit w 33 then Machine.Lane.zero else laneAt (bankGet tl (fld w 34 2)) r)
              (ts.map (walkTree s.mem (scratchBase t.toNat) nodes (rc + r * cstr * 64) (cstr * 64)))) ++ (bankGet tl (fld w 34 2)).drop rows)))
          [(tt, 4 * (nt + 1))])
        ((tab rows fun r => ts.map (walkTree s.mem (scratchBase t.toNat) nodes (rc + r * cstr * 64) (cstr * 64))).flatten.flatMap (·.rd)) := by
    refine (checked_ok ho (envOf_pz h)).trans ?_
    have hmemory : (envOf s t.toNat (eng tl .tr)).mem = s.mem := rfl
    have htile : (envOf s t.toNat (eng tl .tr)).tile = t.toNat := rfl
    simp only [aGet_paid, enodes, ett, erc, erows, ent, ecstr, h8, h4, h64, ne_eq, not_true_eq_false, or_self, if_false, inScratch, hint, hinr,
      decide_true, Bool.not_true, Bool.false_eq_true, hmemory, htile, hts, hfault, envOf_pz h, zn, zt, zc, Bool.or_self, markRow_clean,
      bankGet_paid, tab_zipIdx_map]
    rfl
  refine exec_readsCleanly rfl rfl (by decide) (by decide) hop h (hb.trans rfl) (fun p hp => ?_) rfl
  rcases List.mem_append.mp hp with hp | hp
  · obtain rfl := List.mem_singleton.mp hp
    exact readCount_clean (List.forall_mem_singleton.mpr hz)
  · obtain rfl := List.mem_singleton.mp hp
    refine readCount_clean fun z hz => ?_
    obtain ⟨l, hl, hz⟩ := List.mem_flatMap.mp hz
    exact (hmem l hl).2 z hz

/-- R207: banks put out as a packet, and cleared where CLR asks. -/
theorem exec_tout (h : Plain s t .tr w tl) {bs : List Nat} (hop : wOpcode w = 0x64) (ho : operandsOk w (mask 47 35))
    (hbs : (tab (fld w 44 2 + 1) fun k => fld w 46 2 + k) = bs) (hn : fld w 46 2 + fld w 44 2 ≤ 3)
    (hput : (qPutPacket qTrVx (tileQ tl qTrVx) (BitVec.ofNat 8 (fld w 35 8)) (bs.map fun b => rowWord (bankGet tl b))).2 = 0) :
    exec (.tout t w) s = .next (issuedWith s t .tr w tl
      (setQ (if bit w 43 then bs.foldl (fun x b => bankSet x b zeroRow) (paid tl w) else paid tl w) qTrVx
        (qPutPacket qTrVx (tileQ tl qTrVx) (BitVec.ofNat 8 (fld w 35 8)) (bs.map fun b => rowWord (bankGet tl b))).1) s.mem .none) := by
  have hstand : ∃ x, (if bit w 43 then bs.foldl (fun x b => bankSet x b zeroRow) (paid tl w) else paid tl w) = { paid tl w with bank := x } := by
    split
    · exact ⟨_, bankSets_onlyBank ..⟩
    · exact ⟨_, rfl⟩
  obtain ⟨banks, hbanks⟩ := hstand
  have hq : tileQ { paid tl w with bank := banks } qTrVx = tileQ tl qTrVx := tileQ_paid ..
  refine exec_changesTile rfl rfl (by decide) hop h ho ?_ (by rw [hbanks]; rfl)
  simp only [Nat.not_lt.mpr hn, if_false, hbs, envOf_pz h, markWord_clean, markRow_clean, bankGet_paid, hbanks]
  rw [iresPacket_room (by rw [hq]; exact hput), hq]

end

/-- R79: an ASTEP's work leaves the front ends of its tile. -/
def EnginesStand (st st' : ASt) : Prop := st'.tile.engs = st.tile.engs

theorem emitEvents_engines (elim row aut pos : Nat) (evs : List (Nat × Bool)) (st : ASt) :
    EnginesStand st (emitEvents elim row aut pos evs st) := by
  induction evs generalizing st with
  | nil => exact rfl
  | cons ev evs ih =>
    unfold emitEvents
    split
    · exact ih _
    · exact ih _

theorem endToken_engines (a : ARun) (j : Nat) (c : ACtx) (t : ATok) (st : ASt) : EnginesStand st (endToken a j c t st) := by
  have hcount : (if t.eovf then { st.tile with auEditOvf := BitVec.ofNat 16 (satAdd st.tile.auEditOvf.toNat 1 16) } else st.tile).engs
      = st.tile.engs := by split <;> rfl
  unfold endToken
  dsimp only
  split
  · split
    · exact hcount
    · exact rfl
  · split
    · split
      · exact rfl
      · exact hcount
    · exact hcount

theorem rowSymbols_engines (a : ARun) (n k j : Nat) (c : ACtx) (t : ATok) (st : ASt) : EnginesStand st (rowSymbols a n k j c t st) := by
  induction n generalizing k j c t st with
  | zero => exact rfl
  | succ n ih =>
    unfold rowSymbols
    split
    · exact rfl
    · extract_lets +onlyGivenNames y z st0
      split
      · exact rfl
      · extract_lets +onlyGivenNames s _ _ st1
        have hemit : EnginesStand st st1 := emitEvents_engines ..
        split
        · exact hemit
        · split
          · exact (ih ..).trans ((endToken_engines ..).trans hemit)
          · exact (ih ..).trans hemit

theorem rowRun_engines (a : ARun) (st : ASt) : EnginesStand st (rowRun a st) := by
  unfold rowRun
  dsimp only
  split
  · exact rowSymbols_engines ..
  · split
    · split
      · exact rowSymbols_engines ..
      · exact rfl
    · exact rowSymbols_engines ..

theorem astepRow_engines (a : ARun) (src : Bool) (st : ASt) : EnginesStand st (astepRow a src st) := by
  unfold astepRow
  dsimp only
  split
  · exact rfl
  · split
    · exact rfl
    · split
      · split
        · split
          · exact rfl
          · exact rfl
        · split
          · exact rfl
          · exact rowRun_engines ..
      · exact rowRun_engines ..

theorem astepRows_engines (a : ARun) (src : Bool) (es : List ARow) (r : Nat) (st : ASt) : EnginesStand st (astepRows a src es r st) := by
  induction es generalizing r st with
  | nil => exact rfl
  | cons e es ih =>
    unfold astepRows
    split
    · exact rfl
    · exact (ih ..).trans (astepRow_engines ..)

section
variable {s : State} {t : BitVec 10} {w : W64} {tl : Tile}

theorem mset_paid (tl : Tile) (w : W64) : (paid tl w).mset = tl.mset := by unfold paid; split <;> rfl

/-- R232: the row entries of a clean range, read clean. -/
theorem rowEntries_clean {m : Mem} {a rows : Nat} (h : AHdr) (src : Bool) (hz : memAnyPz m a (32 * rows) = false) :
    (tab rows fun r => rowOf h src (memWords m (a + 32 * r) 4) (memAnyPz m (a + 32 * r) 32))
      = tab rows fun r => rowOf h src (memWords m (a + 32 * r) 4) false := by
  refine List.map_congr_left fun r hr => ?_
  have := List.mem_range.mp hr
  rw [memAnyPz_part hz (by omega)]

/-- R232 to R237: ASTEP whose rows raise no fault and read no poison ends with its terminal word. -/
theorem exec_astep (h : Plain s t .au w tl) {ha ra rows : Nat} {hd : AHdr} {es : List ARow} {st : ASt} {put : Queue × Bool}
    (hop : wOpcode w = 0x82) (ho : operandsOk w (mask 47 23)) (eha : (aGet tl (aReg w 44)).bits.toNat = ha)
    (era : (aGet tl (aReg w 40)).bits.toNat = ra) (erows : fld w 31 6 + 1 = rows)
    (ehd : hdrOf (memWords s.mem (scratchBase t.toNat + ha) 8) false = hd)
    (ees : (tab rows fun r => rowOf hd (bit w 23) (memWords s.mem (scratchBase t.toNat + ra + 32 * r) 4) false) = es)
    (est : astepRows
      { base := scratchBase t.toNat, hdr := hd, row := es.headD (rowOf hd (bit w 23) [] false), r := 0, aut := fld w 37 3, elim := fld w 24 6,
        msk := bit w 30, mset := tl.mset.toNat, pkt := none, lastEnd := 0, badState := false } (bit w 23) es 0
      { mem := s.mem, tile := paid tl w, ue := 0, reads := [], fault := none, emitted := 0, dropped := 0, overran := 0, pz := false } = st)
    (eput : qPutWord qAuSq (tileQ st.tile qAuSq) { lanes := [terminalWord (fld w 37 3) st.emitted st.dropped], pz := false } = put)
    (h64 : ha % 64 = 0) (h32 : ra % 32 = 0) (hinh : ha + 64 ≤ scratchSize) (hinr : ra + 32 * rows ≤ scratchSize)
    (hzh : memAnyPz s.mem (scratchBase t.toNat + ha) 64 = false) (hzr : memAnyPz s.mem (scratchBase t.toNat + ra) (32 * rows) = false)
    (hok : hd.ok = true) (hrole : bit w 30 = true → hd.mrole = true)
    (hoffs : ∀ x ∈ es, x.symOff % 4 = 0 ∧ x.apbOff % 64 = 0 ∧ x.clsOff % 64 = 0) (hf : st.fault = none) (hu : st.ue = 0)
    (hov : st.overran = 0) (hpz : st.pz = false) (hput : put.2 = false)
    (zh : (aGet tl (aReg w 44)).pz = false) (zr : (aGet tl (aReg w 40)).pz = false) :
    exec (.astep t w) s = .next (issuedWith s t .au w tl (setQ st.tile qAuSq put.1) st.mem .none) := by
  have heng : eng (setQ st.tile qAuSq put.1) .au = eng (paid tl w) .au := by
    have : st.tile.engs = (paid tl w).engs := by rw [← est]; exact astepRows_engines ..
    rw [eng_setQ, eng, eng, this]
  have hhdpz : hd.pz = false := by rw [← ehd]; rfl
  have hclean : es.any (·.pz) = false := by
    rw [List.any_eq_false, ← ees]
    intro x hx
    obtain ⟨r, -, rfl⟩ := List.mem_map.mp hx
    exact Bool.false_ne_true
  have hmask : (bit w 30 && !hd.mrole) = false := by
    cases hb : bit w 30 with
    | false => rfl
    | true => rw [hrole hb]; rfl
  have hplaced : (es.any fun x => !x.pz && (x.symOff % 4 != 0 || x.apbOff % 64 != 0 || x.clsOff % 64 != 0)) = false := by
    rw [List.any_eq_false]
    intro x hx
    obtain ⟨h1, h2, h3⟩ := hoffs x hx
    simp only [h1, h2, h3, bne_self_eq_false, Bool.or_self, Bool.and_false, Bool.false_eq_true, not_false_eq_true]
  have hmemory : (envOf s t.toNat (eng tl .au)).mem = s.mem := rfl
  have htile : (envOf s t.toNat (eng tl .au)).tile = t.toNat := rfl
  have hb : bodyAstep (envOf s t.toNat (eng tl .au)) (iterOf (eng tl .au)) w (paid tl w)
      = { iresDone (envOf s t.toNat (eng tl .au)) (setQ st.tile qAuSq put.1) with
          mem := st.mem
          ue := (iresRead (envOf s t.toNat (eng tl .au)) (iresDone (envOf s t.toNat (eng tl .au)) tl) [(ha, 64), (ra, 32 * rows)]).ue
            ++ [(t.toNat, 0)]
          reads := (iresRead (envOf s t.toNat (eng tl .au)) (iresDone (envOf s t.toNat (eng tl .au)) tl) [(ha, 64), (ra, 32 * rows)]).reads
            ++ st.reads } := by
    refine (checked_ok ho (envOf_pz h)).trans ?_
    simp only [aGet_paid, eha, era, erows, hmemory, htile, envOf_pz h, zh, zr, Bool.or_self, Bool.or_false, hzh, ehd,
      rowEntries_clean hd (bit w 23) hzr, ees, h64, h32, ne_eq, not_true_eq_false, or_self, if_false, inScratch, hinh, hinr, decide_true,
      Bool.not_true, Bool.false_eq_true, hhdpz, hok, hmask, and_false, hplaced, hclean, mset_paid, est, hf, hpz, eput, hput, hov, hu,
      Option.isSome_none]
    rfl
  refine exec_readsCleanly rfl rfl (by decide) (by decide) hop h hb (fun p hp => ?_) heng
  rcases List.mem_append.mp hp with hp | hp
  · obtain rfl := List.mem_singleton.mp hp
    exact readCount_clean (List.forall_mem_cons.mpr ⟨hzh, List.forall_mem_singleton.mpr hzr⟩)
  · obtain rfl := List.mem_singleton.mp hp
    rfl

end

/-- Settles O19: each instruction's own rule, with TFE's writes those of its code rows. -/
theorem treesAndAutomataRun : Obligations.TreesAndAutomataRun := by
  constructor
  · intro s t w tl h base me a sound
    refine ⟨?_, ?_, ?_⟩
    · intro src rows nf rstr cstr p hop hlen hpkt hraw hrt hrd hint hind hf hu zt zd zs
      refine ⟨exec_tfe h hop rfl rfl rfl rfl rfl rfl rfl rfl rfl hlen hpkt hraw hrt hrd hint hind hf hu zt zd zs, fun x hx => ?_⟩
      exact memByte_tfeRows _ _ _ _ _ _ _ _ _ _ _ _ _ fun k _ hk => hx k (by omega)
    · intro ts rows nt cstr leaf old new hop ho h8 h4 h64 hint hinr hz hts zn zt zc hleaf
      exact exec_twalk h hop ho rfl rfl rfl rfl rfl rfl h8 h4 h64 hint hinr hz hts zn zt zc hleaf
    · intro bs put hop ho hn hput
      exact exec_tout h hop ho rfl hn hput
  · intro s t w tl h base ha ra rows hd es st put hop ho h64 h32 hinh hinr hzh hzr hok hrole hoffs hf hu hov hpz hput zh zr
    exact exec_astep h hop ho rfl rfl rfl rfl rfl rfl rfl h64 h32 hinh hinr hzh hzr hok hrole hoffs hf hu hov hpz hput zh zr

end Sys2Proof.Machine
end

section
/-! SUPPORT. A GATHER whose result starts inside a poisoned word of scratch: a[RS] need not be aligned (R118), so the store reads that word to
merge, and UE counts it (R63). -/

namespace Sys2Proof.Machine

/-- GATHER of one row of 64 bytes: RA 1, RI 3, RS 4. -/
def gatherWord : W64 := 0x0600134000000000

/-- A tile whose LD is at that word: the table at address 0 has one row, the index lies at scratch offset 128, the result goes to offset 4. -/
def gatherTile : Tile :=
  { Tile.idle with
    kernel := true
    engs := [(engNum .ld, { EngState.idle with length := 1, sent := 1, store := [gatherWord] })]
    a := [(2, ⟨1, false⟩), (3, ⟨128, false⟩), (4, ⟨4, false⟩)] }

/-- The block with that tile, whose first word of scratch is poisoned. -/
def gatherState : State :=
  { State.reset with tiles := [(0, gatherTile)], mem := { State.reset.mem with poison := [(scratchBase 0, true)] } }

theorem gatherState_plain : Plain gatherState 0 .ld gatherWord gatherTile :=
  { named := by decide +kernel, runs := by decide +kernel, kernel := rfl, going := rfl, fetched := by decide +kernel,
    reach := by decide +kernel, room := by decide +kernel, credit := fun c => absurd c (by decide +kernel), clean := rfl,
    whole := fun _ _ => rfl }

/-- The poisoned words that a tile has counted after an instruction. -/
def countedAfter (o : Host.Outcome State Fault Refusal) (t : Nat) : BitVec 16 :=
  match o with
  | .next s => (tileOf s t).ue
  | _ => 0

/-- R63: the word at which the result starts is counted. -/
theorem gather_countsMerged : countedAfter (exec (.gather 0 gatherWord) gatherState) 0 = 1 := by decide +kernel

/-- What issues and counts nothing leaves the count of a tile as it was. -/
theorem ue_issuedWith (s : State) (t : BitVec 10) (w : W64) (tl tl' : Tile) (m : Mem) (p : Pend) (l : List (Nat × Nat)) :
    (tileOf (addBytes (issuedWith s t .ld w tl tl' m p) t.toNat l) t.toNat).ue = tl'.ue := by
  rw [addBytes_tile, issuedWith, issued_tile, readOn_here _ _ fun c => absurd c (by decide)]
  rfl

/-- Refutes O14: the clause of GATHER leaves a[RS] unaligned, so its result may start within a poisoned word, which the store merges and the
tile counts in UE. -/
theorem not_ldGathersAndBags : ¬ Obligations.LdGathersAndBags := by
  intro h
  have hsel : ∀ k, k < fld gatherWord 26 10 + 1 → k = 0 := by decide +kernel
  obtain ⟨m, hm, -⟩ := (h gatherState 0 gatherWord gatherTile gatherState_plain).1 (by decide +kernel) (by decide +kernel) (by decide +kernel)
    (by decide +kernel) (by decide +kernel) (by decide +kernel) (by decide +kernel) (fun k hk => by
      rw [hsel k hk]
      exact ⟨by decide +kernel, by decide +kernel, by decide +kernel, by decide +kernel⟩)
    rfl rfl rfl rfl
  have hcount : countedAfter (exec (.gather 0 gatherWord) gatherState) 0 = gatherTile.ue := by
    rw [hm]
    exact ue_issuedWith ..
  rw [gather_countsMerged] at hcount
  exact absurd hcount (by decide)

end Sys2Proof.Machine
end

section
/-! SUPPORT. LD between global memory and scratch: clean reads, clean stores of whole words, and what an instruction made of them leaves. -/

namespace Sys2Proof.Machine

/-- What an LD instruction answers that reads clean memory, writes clean whole words, and faults nowhere: the tile `tl`, the memory `m`, the
pending work `p`, and of `l` the accesses that reach the stacks. -/
structure Moves (tl : Tile) (m : Mem) (p : Pend) (l : List (Nat × Nat)) (r : IRes) : Prop where
  tile : r.tile = tl
  mem : r.mem = m
  pend : r.pend = p
  sig : r.sigCtr = none
  jump : r.jump = none
  fault : r.fault = none
  overran : r.overran = []
  readBad : r.readBad = []
  wroteBad : r.wroteBad = []
  ue : ∀ x ∈ r.ue, x.2 = 0
  touch : r.touch.filter (fun x => x.1 < stackEnd) = l.filter (fun x => x.1 < stackEnd)

theorem Moves.done (n : Env) (tl : Tile) : Moves tl n.mem .none [] (iresDone n tl) :=
  ⟨rfl, rfl, rfl, rfl, rfl, rfl, rfl, rfl, rfl, fun _ h => absurd h List.not_mem_nil, rfl⟩

/-- An access past the stacks moves no stack bytes. -/
theorem Moves.offStack {tl : Tile} {m : Mem} {p : Pend} {l : List (Nat × Nat)} {r : IRes} {a k : Nat} (h : Moves tl m p (l ++ [(a, k)]) r)
    (ha : stackEnd ≤ a) : Moves tl m p l r := by
  refine { h with touch := h.touch.trans ?_ }
  rw [List.filter_append, List.filter_cons_of_neg (by simp only [decide_eq_true_eq]; omega), List.filter_nil, List.append_nil]

/-- R63, R407: a clean range read. -/
theorem Moves.gread {tl : Tile} {m : Mem} {p : Pend} {l : List (Nat × Nat)} {r : IRes} (h : Moves tl m p l r) (n : Env) {a k : Nat}
    (hz : memAnyPz n.mem a k = false) : Moves tl m p (l ++ [(a, k)]) (iresGread n r a k) := by
  have htouch : (r.touch ++ [(a, k)]).filter (fun x => x.1 < stackEnd) = (l ++ [(a, k)]).filter (fun x => x.1 < stackEnd) := by
    rw [List.filter_append, List.filter_append, h.touch]
  unfold iresGread
  rw [badUnits_clean hz, List.append_nil]
  split
  · next u hu =>
    have hlow : stackEnd ≤ a := by
      unfold regionOf at hu
      split at hu
      · cases hu
      · split at hu
        · cases hu
        · split at hu
          · cases hu
          · split at hu
            · next hw =>
              have : stackEnd ≤ tileWindows := by decide
              exact Nat.le_trans this hw.1
            · split at hu
              · cases hu
              · cases hu
    refine { h with ue := ?_, touch := ?_ }
    · intro x hx
      rcases List.mem_append.mp hx with hx | hx
      · exact h.ue x hx
      · rw [List.mem_singleton.mp hx]
        rfl
    · rw [List.filter_append, List.filter_cons_of_neg (by simp only [decide_eq_true_eq]; omega), List.filter_nil, List.append_nil]
      exact h.touch
  · exact { h with touch := htouch }
  · exact { h with touch := htouch }

theorem storedBad_allClean {a : Nat} {l : List PByte} (h : l.any (·.2) = false) : storedBad a l = [] := by
  unfold storedBad
  split
  · rfl
  · rw [List.filter_eq_nil_iff]
    intro b _
    rw [Bool.not_eq_true, List.any_eq_false]
    exact fun x hx => List.any_eq_false.mp h x (List.mem_of_mem_drop (List.mem_of_mem_take hx))

theorem mergedUnits_whole {a n : Nat} (ha : a % 8 = 0) (hn : n % 8 = 0) : mergedUnits a n = [] := by
  rcases Nat.lt_or_ge a stackEnd with hlt | hge
  · rw [mergedUnits, if_pos hlt]
  · exact mergedUnits_aligned hge ha hn

/-- R63, R71: clean whole words stored. -/
theorem Moves.store {tl : Tile} {m : Mem} {p : Pend} {l : List (Nat × Nat)} {r : IRes} (h : Moves tl m p l r) {a : Nat} {x : List PByte}
    (ha : a % 8 = 0) (hn : x.length % 8 = 0) (hz : x.any (·.2) = false) :
    Moves tl (memWrite m a x) p (l ++ [(a, x.length)]) (iresStore r a x) := by
  have hanswer : iresStore r a x = { r with mem := memWrite r.mem a x, touch := r.touch ++ [(a, x.length)] } := by
    unfold iresStore iresMerge
    rw [mergedUnits_whole ha hn, storedBad_allClean hz, List.append_nil]
  have htouch : (r.touch ++ [(a, x.length)]).filter (fun y => y.1 < stackEnd) = (l ++ [(a, x.length)]).filter (fun y => y.1 < stackEnd) := by
    rw [List.filter_append, List.filter_append, h.touch]
  rw [hanswer, ← h.mem]
  exact { h with mem := rfl, touch := htouch }

/-- R372: only accesses to the stacks count. -/
theorem addBytes_filter {s : State} {t : Nat} {l l' : List (Nat × Nat)}
    (h : l.filter (fun x => x.1 < stackEnd) = l'.filter (fun x => x.1 < stackEnd)) : addBytes s t l = addBytes s t l' := by
  simp only [addBytes, h]

/-- R346: only accesses to the stacks meet a port that retrains. -/
theorem portWaits_filter {s : State} {l l' : List (Nat × Nat)}
    (h : l.filter (fun x => x.1 < stackEnd) = l'.filter (fun x => x.1 < stackEnd)) : l.any (portWaits s) = l'.any (portWaits s) := by
  have hin (l : List (Nat × Nat)) : l.any (portWaits s) = (l.filter fun x => x.1 < stackEnd).any (portWaits s) := by
    rw [List.any_filter]
    congr 1
    funext x
    by_cases hx : x.1 < stackEnd
    · simp only [hx, decide_true, Bool.true_and]
    · simp only [portWaits, hx, decide_false, Bool.false_and]
  rw [hin l, hin l', h]

/-- An instruction of LD that moves clean memory: its tile, its memory and its pending work, and the bytes moved counted to its job. -/
theorem exec_moves {i : Instr} {s : State} {t : BitVec 10} {w : W64} {tl : Tile} {op : Nat} {b : Body} {tl' : Tile} {m : Mem} {p : Pend}
    {l : List (Nat × Nat)} (hi : engineInstr i = some { tile := t, word := w, every := false, op := op, body := b })
    (he : engOf (op / 32) = some .ld) (hop : wOpcode w = op) (h : Plain s t .ld w tl)
    (hp : match p with | .send c _ _ _ _ _ _ => c.isLocal = true | _ => True)
    (hb : Moves tl' m p l (b (envOf s t.toNat (eng tl .ld)) (iterOf (eng tl .ld)) w (paid tl w)))
    (hx : eng tl' .ld = eng (paid tl w) .ld) (hw : l.any (portWaits s) = false) :
    exec i s = .next (addBytes (issuedWith s t .ld w tl tl' m p) t.toNat l) := by
  generalize hr : b (envOf s t.toNat (eng tl .ld)) (iterOf (eng tl .ld)) w (paid tl w) = r at hb
  obtain ⟨rfl, rfl, rfl, hsig, hjump, hfault, hover, hread, hwrote, hue, htouch⟩ := hb
  have hbad : badTarget (eng tl .ld) r.jump = false := by rw [hjump]; rfl
  rw [exec_ready hi (fits_of_opcode hop he) h.toReady,
    issueWord_next h.toReady _ r hr.symm hfault ((portWaits_filter htouch).trans hw) hbad,
    singlesOf_nil _ _ (h.whole (by decide) (by decide)), List.foldl_nil, runOut_stays fun c => absurd c (by decide)]
  simp only [afterIssue, hover, hread, hwrote, List.foldl_nil, addOverruns, addUe_nil hue, sendIssued_quiet hp, hsig, hjump,
    addBytes_filter htouch, hx, eng_paid]
  rfl

section
variable {s : State} {t : BitVec 10} {w : W64} {tl : Tile}

theorem memRead_length (m : Mem) (a n : Nat) : (memRead m a n).length = n := by simp only [memRead, tab, List.length_map, List.length_range]

theorem memRead_get {m : Mem} {a n j : Nat} (h : j < (memRead m a n).length) : (memRead m a n)[j] = (memByte m (a + j), memPz m (a + j)) := by
  simp only [memRead, tab, List.getElem_map, List.getElem_range]

/-- R115: the checks that LOAD and STORE pass. -/
theorem ldCopy_passes {store : Bool} {n : Env} {i : Nat} {w : W64} {tl : Tile} {g k : Nat} {d : Int} (ho : operandsOk w (mask 47 2))
    (hpz : n.pz = false) (hg : gAddr (aGet tl (aReg w 44)).bits.toNat i (sext (fld w 16 14) 14) 64 = g)
    (hd : sAddr (aGet tl (aReg w 40)).bits.toNat i (sext (fld w 2 14) 14) = d) (hk : (fld w 30 10 + 1) * 64 = k) (hga : g % 64 = 0)
    (hda : d.toNat % 64 = 0) (h0 : 0 ≤ d) (hin : d.toNat + k ≤ scratchSize) (hr : ldReach n g k = true)
    (za : (aGet tl (aReg w 44)).pz = false) (zs : (aGet tl (aReg w 40)).pz = false) :
    ldCopy store n i w tl
      = if store then
          if !ldWritable n g k then iresFault n tl 0x13
          else iresStore (iresGread n (iresDone n tl) (scratchBase n.tile + d.toNat) k) g (memRead n.mem (scratchBase n.tile + d.toNat) k)
        else iresStore (iresGread n (iresDone n tl) g k) (scratchBase n.tile + d.toNat) (memRead n.mem g k) := by
  have hd64 : d % 64 = 0 := by omega
  refine (checked_ok ho hpz).trans ?_
  simp only [hg, hd, hk, hga, hd64, ne_eq, not_true_eq_false, or_self, if_false, Int.not_lt.mpr h0, inScratch, hin, decide_true, Bool.not_true,
    Bool.false_eq_true, hr, hpz, za, zs, Bool.or_self, taintBytes_clean]

/-- What a copy of `n` clean bytes leaves at its destination. -/
theorem memByte_copied {m : Mem} {a g n j : Nat} (hj : j < n) (hd : memDead m (a + j) = false) :
    memByte (memWrite m a (memRead m g n)) (a + j) = memByte m (g + j) := by
  have hlen : j < (memRead m g n).length := by rw [memRead_length]; exact hj
  rw [memByte_memWrite_same m _ _ j hlen hd, memRead_get]

/-- R115. -/
theorem exec_load (h : Plain s t .ld w tl) {g k : Nat} {d : Int} (hop : wOpcode w = 0x02) (ho : operandsOk w (mask 47 2))
    (hg : gAddr (aGet tl (aReg w 44)).bits.toNat (iterOf (eng tl .ld)) (sext (fld w 16 14) 14) 64 = g)
    (hd : sAddr (aGet tl (aReg w 40)).bits.toNat (iterOf (eng tl .ld)) (sext (fld w 2 14) 14) = d) (hk : (fld w 30 10 + 1) * 64 = k)
    (hga : g % 64 = 0) (hda : d.toNat % 64 = 0) (h0 : 0 ≤ d) (hin : d.toNat + k ≤ scratchSize)
    (hr : ldReach (envOf s t.toNat (eng tl .ld)) g k = true) (za : (aGet tl (aReg w 44)).pz = false) (zs : (aGet tl (aReg w 40)).pz = false)
    (hz : memAnyPz s.mem g k = false) (hw : portWaits s (g, k) = false) :
    exec (.load t w) s = .next (addBytes (issuedWith s t .ld w tl (paid tl w)
      (memWrite s.mem (scratchBase t.toNat + d.toNat) (memRead s.mem g k)) .none) t.toNat [(g, k)]) := by
  refine exec_moves (b := bodyLoad) rfl rfl hop h trivial ?_ rfl (by rw [List.any_cons, hw]; rfl)
  rw [bodyLoad, ldCopy_passes ho (envOf_pz h) (by rw [aGet_paid]; exact hg) (by rw [aGet_paid]; exact hd) hk hga hda h0 hin hr
    (by rw [aGet_paid]; exact za) (by rw [aGet_paid]; exact zs), if_neg Bool.false_ne_true]
  have hlen : (memRead s.mem g k).length % 8 = 0 := by rw [memRead_length]; omega
  have hread := (Moves.done (envOf s t.toNat (eng tl .ld)) (paid tl w)).gread (envOf s t.toNat (eng tl .ld)) (a := g) (k := k) hz
  exact (hread.store (scratch_aligned t.toNat hda) hlen ((memRead_anyPz ..).trans hz)).offStack (stackEnd_le_scratch ..)

/-- R115. -/
theorem exec_store (h : Plain s t .ld w tl) {g k : Nat} {d : Int} (hop : wOpcode w = 0x03) (ho : operandsOk w (mask 47 2))
    (hg : gAddr (aGet tl (aReg w 44)).bits.toNat (iterOf (eng tl .ld)) (sext (fld w 16 14) 14) 64 = g)
    (hd : sAddr (aGet tl (aReg w 40)).bits.toNat (iterOf (eng tl .ld)) (sext (fld w 2 14) 14) = d) (hk : (fld w 30 10 + 1) * 64 = k)
    (hga : g % 64 = 0) (hda : d.toNat % 64 = 0) (h0 : 0 ≤ d) (hin : d.toNat + k ≤ scratchSize)
    (hr : ldReach (envOf s t.toNat (eng tl .ld)) g k = true) (za : (aGet tl (aReg w 44)).pz = false) (zs : (aGet tl (aReg w 40)).pz = false)
    (hz : memAnyPz s.mem (scratchBase t.toNat + d.toNat) k = false) (hw : portWaits s (g, k) = false)
    (hwr : ldWritable (envOf s t.toNat (eng tl .ld)) g k = true) :
    exec (.store t w) s = .next (addBytes (issuedWith s t .ld w tl (paid tl w)
      (memWrite s.mem g (memRead s.mem (scratchBase t.toNat + d.toNat) k)) .none) t.toNat [(g, k)]) := by
  refine exec_moves (b := bodyStore) rfl rfl hop h trivial ?_ rfl (by rw [List.any_cons, hw]; rfl)
  rw [bodyStore, ldCopy_passes ho (envOf_pz h) (by rw [aGet_paid]; exact hg) (by rw [aGet_paid]; exact hd) hk hga hda h0 hin hr
    (by rw [aGet_paid]; exact za) (by rw [aGet_paid]; exact zs), if_pos rfl, hwr, if_neg (by decide)]
  have hlen : (memRead s.mem (scratchBase t.toNat + d.toNat) k).length = k := memRead_length ..
  have hread := ((Moves.done (envOf s t.toNat (eng tl .ld)) (paid tl w)).gread (envOf s t.toNat (eng tl .ld)) hz).offStack
    (stackEnd_le_scratch ..)
  have hstore := hread.store (a := g) (by omega) (by rw [hlen]; omega) ((memRead_anyPz ..).trans hz)
  rw [hlen] at hstore
  exact hstore

/-- R67: the bytes of clean words are clean. -/
theorem wordBytes_clean {l : List QWord} (h : l.any (·.pz) = false) : (l.flatMap wordBytes).any (·.2) = false := by
  rw [List.any_eq_false] at h ⊢
  intro x hx
  obtain ⟨y, hy, hx⟩ := List.mem_flatMap.mp hx
  obtain ⟨v, -, hx⟩ := List.mem_flatMap.mp hx
  obtain ⟨b, -, rfl⟩ := List.mem_map.mp hx
  exact h y hy

/-- R117. -/
theorem exec_qst (h : Plain s t .ld w tl) {p : QItem} {q' : Queue} {g q : Nat} {l : List PByte} (hop : wOpcode w = 0x05)
    (ho : operandsOk w (mask 47 25)) (hg : gAddr (aGet tl (aReg w 44)).bits.toNat (iterOf (eng tl .ld)) (sext (fld w 25 14) 14) 256 = g)
    (hq : (if fld w 43 1 = 0 then qVxLd else qXfLd) = q) (hl : p.words.flatMap wordBytes = l) (hga : g % 64 = 0)
    (hp : qTake (tileQ tl q) = some (p, q')) (hc : fld w 39 4 = 0 ∨ fld w 39 4 = p.words.length) (hlen : l.length = 256 * p.words.length)
    (hz : p.words.any (·.pz) = false) (za : (aGet tl (aReg w 44)).pz = false) (hr1 : ldReach (envOf s t.toNat (eng tl .ld)) g 1 = true)
    (hr : ldReach (envOf s t.toNat (eng tl .ld)) g l.length = true) (hwr : ldWritable (envOf s t.toNat (eng tl .ld)) g l.length = true)
    (hw : portWaits s (g, l.length) = false) :
    exec (.qst t w) s = .next (addBytes (issuedWith s t .ld w tl (setQ (paid tl w) q q') (memWrite s.mem g l) .none) t.toNat
      [(g, l.length)]) := by
  refine exec_moves (b := bodyQst) rfl rfl hop h trivial ?_ (eng_setQ ..) (by rw [List.any_cons, hw]; rfl)
  have hcount : ¬ (fld w 39 4 ≠ 0 ∧ fld w 39 4 ≠ p.words.length) := fun c => hc.elim c.1 c.2
  have hanswer : bodyQst (envOf s t.toNat (eng tl .ld)) (iterOf (eng tl .ld)) w (paid tl w)
      = iresStore (iresDone (envOf s t.toNat (eng tl .ld)) (setQ (paid tl w) q q')) g l := by
    refine (checked_ok ho (envOf_pz h)).trans ?_
    simp only [aGet_paid, hg, hq, hga, ne_eq, not_true_eq_false, if_false, hr1, Bool.not_true, Bool.false_eq_true, tileQ_paid, hp, hcount,
      ← hlen, hr, hwr, or_self, envOf_pz h, za, Bool.or_self, taintBytes_clean, hl]
  rw [hanswer]
  exact (Moves.done (envOf s t.toNat (eng tl .ld)) (setQ (paid tl w) q q')).store (a := g) (x := l) (by omega) (by omega)
    (hl ▸ wordBytes_clean hz)

/-- R116: a packet is begun in a queue that has room. -/
theorem qBegin_room {q : Nat} {x : Queue} (h : qFull q x = false) :
    qBegin q x = ({ x with pkt := some { words := [], ovr := false, flips := [] }, dropping := false, flushed := false }, false) := by
  unfold qBegin
  rw [h, if_neg Bool.false_ne_true]

/-- R116. -/
theorem exec_ldq (h : Plain s t .ld w tl) {q wb al top n g : Nat} (hop : wOpcode w = 0x04) (ho : operandsOk w (mask 47 13))
    (hq : ldqQueue (fld w 42 2) = (q, wb, al, top)) (hn : fld w 35 7 = n)
    (hg : gAddr (aGet tl (aReg w 44)).bits.toNat (iterOf (eng tl .ld)) (sext (fld w 13 14) 14) wb = g) (h0 : n ≠ 0) (htop : n ≤ top)
    (hga : g % al = 0) (hr : ldReach (envOf s t.toNat (eng tl .ld)) g (n * wb) = true) (hz : memAnyPz s.mem g (n * wb) = false)
    (za : (aGet tl (aReg w 44)).pz = false) (hw : portWaits s (g, n * wb) = false) (hfull : qFull q (tileQ tl q) = false) :
    exec (.ldq t w) s = .next (addBytes (issuedWith s t .ld w tl
      (setQ (paid tl w) q { tileQ tl q with pkt := some { words := [], ovr := false, flips := [] }, dropping := false, flushed := false }) s.mem
      (.ldq q (BitVec.ofNat 8 (fld w 27 8)) ((chunks wb (memRead s.mem g (n * wb))).map bytesWord))) t.toNat [(g, n * wb)]) := by
  refine exec_moves (b := bodyLdq) rfl rfl hop h trivial ?_ (eng_setQ ..) (by rw [List.any_cons, hw]; rfl)
  generalize hq1 : ({ tileQ tl q with pkt := some { words := [], ovr := false, flips := [] }, dropping := false, flushed := false } : Queue) = q1
  have hmemory : (envOf s t.toNat (eng tl .ld)).mem = s.mem := rfl
  have hanswer : bodyLdq (envOf s t.toNat (eng tl .ld)) (iterOf (eng tl .ld)) w (paid tl w)
      = { iresGread (envOf s t.toNat (eng tl .ld)) (iresDone (envOf s t.toNat (eng tl .ld)) (setQ (paid tl w) q q1)) g (n * wb) with
          pend := .ldq q (BitVec.ofNat 8 (fld w 27 8)) ((chunks wb (memRead s.mem g (n * wb))).map bytesWord)
          overran := [] } := by
    refine (checked_ok ho (envOf_pz h)).trans ?_
    simp only [aGet_paid, hq, hn, hg, h0, Nat.not_lt.mpr htop, or_self, if_false, hga, ne_eq, not_true_eq_false, hr, Bool.not_true,
      Bool.false_eq_true, za, taintBytes_clean, tileQ_paid, qBegin_room hfull, hq1, hmemory]
    rfl
  have hread := (Moves.done (envOf s t.toNat (eng tl .ld)) (setQ (paid tl w) q q1)).gread (envOf s t.toNat (eng tl .ld)) (a := g)
    (k := n * wb) hz
  rw [hanswer]
  exact { hread with pend := rfl, overran := rfl }

end

/-- Settles O11: the bytes copied are those written, and a write of whole words changes no other. -/
theorem ldCopiesBytes : Obligations.LdCopiesBytes := by
  intro s t w tl h i ga sa g off own n ho hga hda h0 hin hr za zs
  have hlen (a : Nat) : (memRead s.mem a n).length = n := memRead_length ..
  refine ⟨fun hop hz hw => ⟨_, exec_load h hop ho rfl rfl rfl hga hda h0 hin hr za zs hz hw, fun j hj => ?_, fun a ha => ?_⟩,
    fun hop hz hw hwr => ⟨_, exec_store h hop ho rfl rfl rfl hga hda h0 hin hr za zs hz hw hwr, fun j hj hd => memByte_copied hj hd,
      fun a ha => memByte_memWrite_other _ _ _ _ (by rw [hlen]; exact ha)⟩⟩
  · exact memByte_copied hj (memDead_offStack _ (Nat.le_trans (stackEnd_le_scratch ..) (Nat.le_add_right _ _)))
  · exact memWrite_aligned_other (stackEnd_le_scratch ..) (scratch_aligned _ hda) (by rw [hlen]; omega) (by rw [hlen]; exact ha)

/-- Settles O13: QST's bytes are its packet's, LDQ leaves the words it read pending. -/
theorem ldMovesPackets : Obligations.LdMovesPackets := by
  refine ⟨fun s t w tl p q' h => ?_, fun s t w tl h => ?_⟩
  · intro ga g q l hop ho hga hp hc hlen hz za hr1 hr hwr hw
    refine ⟨_, exec_qst h hop ho rfl rfl rfl hga hp hc hlen hz za hr1 hr hwr hw, fun j b hj hd => ?_, fun a ha => ?_⟩
    · obtain ⟨hin, hget⟩ := List.getElem?_eq_some_iff.mp hj
      rw [memByte_memWrite_same _ _ _ j hin hd, hget]
    · exact memByte_memWrite_other _ _ _ _ ha
  · intro ga q wb n g hop ho h0 htop hga hr hz za hw hfull
    exact exec_ldq h hop ho rfl rfl rfl h0 htop hga hr hz za hw hfull

end Sys2Proof.Machine
end

section
/-! SUPPORT. Reset, power, the discrete inputs and the start-up sequencer. -/

namespace Sys2Proof.Machine

/-- An instruction's next state, written another way. -/
theorem exec_next {i : Instr} {s a b : State} (hi : exec i s = .next a) (h : a = b) : exec i s = .next b := h ▸ hi

/-- Settles O57, value by value. -/
theorem resetState : Obligations.ResetState := by
  refine ⟨rfl, rfl, rfl, rfl, rfl, rfl, rfl, rfl, rfl, rfl, rfl, rfl, rfl, rfl, rfl, rfl, rfl, rfl, rfl, rfl, rfl, rfl, reset_mem_wf, rfl, rfl, rfl, rfl,
    rfl, rfl, rfl, rfl, rfl, rfl, rfl, rfl, fun i => ?_, rfl, rfl, rfl, rfl, rfl, rfl, rfl, rfl, rfl, rfl, rfl, rfl, rfl, rfl, rfl, rfl, rfl, rfl,
    rfl, rfl⟩
  cases i
  all_goals exact ⟨rfl, rfl, rfl, rfl, rfl, rfl⟩

/-- What is kept of a map reads as before, and all else as the default. -/
theorem smGet_filter {α : Type} (d : α) (m : SMap α) (f : Nat → Bool) (k : Nat) :
    smGet d (m.filter fun c => f c.1) k = if f k then smGet d m k else d := by
  induction m with
  | nil => exact (ite_self d).symm
  | cons c m ih =>
    by_cases hk : c.1 = k
    · by_cases hf : f k = true
      · rw [List.filter_cons_of_pos (by simp only [hk, hf]), if_pos hf]
        simp only [smGet, hk, if_true]
      · rw [List.filter_cons_of_neg (by simpa only [hk] using hf), ih, if_neg hf, if_neg hf]
    · have hskip : smGet d (c :: m) k = smGet d m k := by simp only [smGet, hk, if_false]
      by_cases hf : f c.1 = true
      · rw [List.filter_cons_of_pos (by exact hf), hskip, ← ih]
        simp only [smGet, hk, if_false]
      · rw [List.filter_cons_of_neg (by exact hf), hskip, ih]

/-- R439, R464: a byte of the stacks keeps its contents, unless its port had FAILED. -/
theorem memByte_stacksOnly (m : Mem) (a : Nat) (ha : a < stackEnd) (hd : memDead m a = false) : memByte (stacksOnly m) a = memByte m a := by
  have hdead : memDead (stacksOnly m) a = false := by simp [memDead, stacksOnly]
  rw [memByte, memByte, hdead, hd, stacksOnly, smGet_filter 0 m.cells (fun k => decide (k < stackEnd)), if_pos (decide_eq_true ha)]

/-- R439: every byte outside the stacks reads as zero. -/
theorem memByte_stacksOnly_outside (m : Mem) (a : Nat) (ha : stackEnd ≤ a) : memByte (stacksOnly m) a = 0 := by
  rw [memByte, stacksOnly, smGet_filter 0 m.cells (fun k => decide (k < stackEnd)), decide_eq_false (Nat.not_lt.mpr ha)]
  exact ite_self _

/-- R447: the block whose power is gone. -/
def powerGone (s : State) : State :=
  { freshBlock s 0 .reset with
    pins := { (freshBlock s 0 .reset).pins with pwrOk := false }, su := { (freshBlock s 0 .reset).su with off := true, counting := false } }

/-- R435: the block whose power has come. -/
def powerCome (s : State) : State := { freshBlock s 0 .power with su := { (freshBlock s 0 .power).su with since := s.now } }

/-- R435, R445, R447: each edge of RESET_N and PWR_OK. -/
theorem resetFall_lost {s : State} (hoff : s.su.off = false) (hn : s.pins.resetN = true) (hp : s.su.phase ≠ .power) :
    resetFall s = freshBlock { s with pins := { s.pins with resetN := false } } ctBits .reset := by
  simp only [resetFall, hoff, hn, hp, Bool.false_eq_true, or_self, if_false, Bool.not_true]

theorem resetFall_early {s : State} (h : s.su.off = true ∨ s.su.phase = .power) : resetFall s = { s with pins := { s.pins with resetN := false } } := by
  simp only [resetFall, h, if_true]

theorem resetRise_begins {s : State} (hoff : s.su.off = false) (hp : s.su.phase = .reset) :
    resetRise s = { s with pins := { s.pins with resetN := true }, su := { s.su with phase := .fuse }, fuse := { s.fuse with valid := false } } := by
  unfold resetRise
  rw [hoff, hp]
  rfl

theorem resetRise_level {s : State} (h : s.su.off = true ∨ s.su.phase ≠ .reset) : resetRise s = { s with pins := { s.pins with resetN := true } } := by
  rcases h with h | h
  · simp only [resetRise, h, if_true]
  · simp only [resetRise, h, if_false, ite_self]

theorem powerLost_gone {s : State} (h : s.su.off = false ∨ s.pins.pwrOk = true) : powerLost s = powerGone s := by
  rcases h with h | h
  · simp only [powerLost, h, Bool.false_eq_true, false_and, if_false, powerGone]
  · simp only [powerLost, h, Bool.not_true, Bool.false_eq_true, and_false, if_false, powerGone]

/-- Settles O49: each edge by its own rule, with the bytes of the stacks those that are kept. -/
theorem resetAndPowerPins : Obligations.ResetAndPowerPins := by
  intro s lost
  have hlost (s1 : State) (on : BitVec 36) (p : Phase) (hm : s1.mem = s.mem) : lost (freshBlock s1 on p) := by
    refine ⟨rfl, rfl, rfl, rfl, rfl, rfl, rfl, rfl, rfl, rfl, fun a ha hd => ?_, fun a ha => memByte_stacksOnly_outside _ a ha⟩
    rw [← hm] at hd ⊢
    exact memByte_stacksOnly _ a ha hd
  refine ⟨fun hoff hn hp => ⟨_, exec_next rfl (resetFall_lost hoff hn hp), hlost _ _ _ rfl, rfl, rfl⟩,
    fun hoff hp => exec_next rfl (resetRise_begins hoff hp), fun h => exec_next rfl (resetRise_level h),
    fun h => exec_next rfl (resetFall_early h), fun hk => ⟨powerGone s, exec_next rfl ?_, hlost s 0 .reset rfl, rfl, rfl, rfl⟩,
    fun hoff => ⟨powerGone s, exec_next rfl (powerLost_gone (.inl hoff)), hlost s 0 .reset rfl, rfl, rfl, rfl⟩,
    fun hk => ⟨powerCome s, exec_next rfl ?_, hlost s 0 .power rfl, rfl, rfl, rfl, rfl⟩⟩
  · rw [powerFall, if_pos hk, powerLost_gone (.inr hk)]
  · simp only [powerRise, hk, Bool.false_eq_true, if_false, powerCome]

/-- R378, R382: whether the clocks run is the same after an event. -/
theorem EventFrame.ctRuns {s s' : State} (h : EventFrame s s') : ctRuns s' = ctRuns s := by
  unfold Machine.ctRuns refRuns
  rw [h.clocks, h.power, h.su]

/-- R401: with no doorbell kept, nothing is left to handle. -/
theorem ringBells_none {s : State} (h : s.pins.bells = []) : ringBells s = s := by
  have hsame : { s.pins with bells := [] } = s.pins := by rw [← h]
  unfold ringBells
  rw [hsame, h]
  rfl

theorem haltEnds_none {s : State} (h : s.pins.bells = []) : haltEnds s = s := by
  unfold haltEnds resumeBells
  rw [ringBells_none h, ite_self]

theorem haltEnds_rings {s : State} (hh : halted s = false) (hc : ctRuns s = true) : haltEnds s = ringBells s := by
  unfold haltEnds resumeBells
  rw [hh, hc, if_neg (by decide)]

/-- Settles O50: the kept doorbells are rung where the halt ends and the clocks run. -/
theorem haltAndFilters : Obligations.HaltAndFilters := by
  intro s hw
  have hrelease (hr : s.pins.haltReq = true) : haltRelease s = haltEnds { s with pins := { s.pins with haltReq := false } } := by
    simp only [haltRelease, hr, hw, and_self, if_true]
  have hstuck (hr : s.pins.haltReq = true) (hn : s.pins.stuck = false) :
      haltStuck s = haltEnds (sendBlockEvent { s with pins := { s.pins with stuck := true } } 0x0607 0) := by
    simp only [haltStuck, hr, hw, hn, Bool.not_false, and_self, if_true]
  have hevent := sendBlockEvent_frame { s with pins := { s.pins with stuck := true } } 0x0607 0
  refine ⟨rfl, fun hr hb => ⟨?_, fun hn => ?_⟩, fun hr hc => ⟨?_, fun hn => ?_⟩, fun hr hn => ?_, ?_, ?_, ?_⟩
  · exact exec_next rfl ((hrelease hr).trans (haltEnds_none hb))
  · refine ⟨_, exec_next rfl ((hstuck hr hn).trans (haltEnds_none ?_)), hevent.pins, ?_, hevent.slots, hevent.tiles⟩
    · rw [hevent.pins]
      exact hb
    · rw [halted, hevent.pins]
      exact Bool.and_false _
  · exact exec_next rfl ((hrelease hr).trans (haltEnds_rings rfl hc))
  · refine exec_next rfl ((hstuck hr hn).trans (haltEnds_rings ?_ (hevent.ctRuns.trans hc)))
    rw [halted, hevent.pins]
    exact Bool.and_false _
  · have hframe := sendBlockEvent_frame { s with pins := { s.pins with stuck := false } } 0x0608 0
    refine ⟨_, exec_next rfl ?_, hframe.pins, hframe.slots, hframe.tiles⟩
    simp only [haltRearmed, hw, hn, hr, Bool.not_false, and_self, if_true]
  all_goals
    refine exec_next rfl ?_
    simp only [filteredPulse, hw, Bool.not_true, Bool.false_eq_true, if_false]

/-- R437: the power of a domain that is turned on. -/
theorem startTraining_power (s : State) (q : Nat) : (startTraining s q).power = s.power := by
  unfold startTraining
  dsimp only
  split <;> rfl

theorem startTrainings_power (s : State) (l : List Nat) : (l.foldl startTraining s).power = s.power := by
  induction l generalizing s with
  | nil => rfl
  | cons q l ih => rw [List.foldl_cons, ih, startTraining_power]

/-- R345, R438: an OFF port that is powered, with its STK_PG high. -/
def canTrain (x : MemPort) : Prop := x.st = .off ∧ x.pg = true

/-- R438: a port that is not started stands. -/
theorem mpOf_startTraining_other (s : State) {p q : Nat} (h : p ≠ q) : mpOf (startTraining s q) p = mpOf s p := by
  unfold startTraining
  dsimp only
  split
  · simp only [mpOf, smGet_smSet_other _ _ _ _ _ h]
  · rfl

theorem mpOf_startTrainings_other (s : State) {p : Nat} {l : List Nat} (h : p ∉ l) : mpOf (l.foldl startTraining s) p = mpOf s p := by
  induction l generalizing s with
  | nil => rfl
  | cons q l ih =>
    obtain ⟨hq, hl⟩ := List.ne_and_not_mem_of_not_mem_cons h
    rw [List.foldl_cons, ih _ hl, mpOf_startTraining_other s hq]

/-- R438: a port in training stays in training. -/
theorem mpOf_startTrainings_training (s : State) {p : Nat} (l : List Nat) (h : (mpOf s p).st = .training) :
    mpOf (l.foldl startTraining s) p = mpOf s p := by
  induction l generalizing s with
  | nil => rfl
  | cons q l ih =>
    have hone : mpOf (startTraining s q) p = mpOf s p := by
      by_cases hq : p = q
      · rw [← hq, startTraining, if_neg fun c => by rw [h] at c; exact absurd c.1 (by decide)]
      · exact mpOf_startTraining_other s hq
    rw [List.foldl_cons, ih _ (by rw [hone]; exact h), hone]

/-- R438: a port that can train, once those of a list that has it have been started. -/
theorem mpOf_startTrainings (s : State) {p : Nat} {l : List Nat} (hl : p ∈ l) (hc : canTrain (mpOf s p))
    (hon : s.power.on.getLsbD (mpDomain p) = true) : mpOf (l.foldl startTraining s) p = { mpOf s p with st := .training } := by
  induction l generalizing s with
  | nil => exact absurd hl List.not_mem_nil
  | cons q l ih =>
    by_cases hq : p = q
    · have hset : mpOf (startTraining s q) p = { mpOf s p with st := .training } := by
        rw [← hq, startTraining, if_pos ⟨hc.1, hc.2, hon⟩]
        simp only [mpOf, smGet_smSet_same]
      rw [List.foldl_cons, mpOf_startTrainings_training _ _ (by rw [hset]), hset]
    · have hother := mpOf_startTraining_other s hq
      rw [List.foldl_cons, ih _ ((List.mem_cons.mp hl).resolve_left hq) (by rw [hother]; exact hc)
        (by rw [startTraining_power]; exact hon), hother]

/-- R392: the ports of an MPG domain. -/
def portsOf (d : Nat) : List Nat := (List.range 4).map fun i => 16 * (d / 18) + 4 * (d % 18 - 12) + i

theorem mem_portsOf {d p : Nat} (hp : p < 32) (hm : 12 ≤ d % 18 ∧ d % 18 < 16) : p ∈ portsOf d ↔ mpDomain p = d := by
  simp only [portsOf, List.mem_map, List.mem_range, mpDomain]
  constructor
  · rintro ⟨i, hi, rfl⟩
    omega
  · intro h
    exact ⟨p % 4, by omega, by omega⟩

/-- R437: a domain turned on, before its ports train. -/
def poweredOn (s : State) (d : Nat) : State :=
  latchGroup { s with power := { s.power with on := s.power.on ||| domBit d, clk := s.power.clk &&& ~~~(domBit d) } } d

theorem poweredOn_power (s : State) (d : Nat) :
    (poweredOn s d).power = { s.power with on := s.power.on ||| domBit d, clk := s.power.clk &&& ~~~(domBit d) } := by
  unfold poweredOn latchGroup
  split <;> rfl

theorem poweredOn_ports (s : State) (d : Nat) : (poweredOn s d).ports = s.ports := by
  unfold poweredOn latchGroup
  split <;> rfl

theorem domainOn_eq (s : State) (d : Nat) :
    domainOn s d = if 12 ≤ d % 18 ∧ d % 18 < 16 then (portsOf d).foldl startTraining (poweredOn s d) else poweredOn s d := by
  unfold domainOn portsOf
  rw [List.foldl_map]
  rfl

theorem domainOn_power (s : State) (d : Nat) :
    (domainOn s d).power = { s.power with on := s.power.on ||| domBit d, clk := s.power.clk &&& ~~~(domBit d) } := by
  rw [domainOn_eq]
  split
  · rw [startTrainings_power, poweredOn_power]
  · rw [poweredOn_power]

theorem domBit_self {d : Nat} (h : d < 36) : (domBit d).getLsbD d = true := by
  simp only [domBit, BitVec.getLsbD_ofNat, h, decide_true, Bool.true_and, Nat.testBit_two_pow_self]

theorem mpDomain_lt {p : Nat} (h : p < 32) : mpDomain p < 36 ∧ 12 ≤ mpDomain p % 18 ∧ mpDomain p % 18 < 16 := by
  unfold mpDomain
  omega

/-- R438: a port that can train, once a domain is on. -/
theorem mpOf_domainOn {s : State} {d p : Nat} (hd : d < 36) (hp : p < 32) (hc : canTrain (mpOf s p)) :
    mpOf (domainOn s d) p = if mpDomain p = d then { mpOf s p with st := .training } else mpOf s p := by
  have hport : mpOf (poweredOn s d) p = mpOf s p := by rw [mpOf, mpOf, poweredOn_ports]
  rw [domainOn_eq]
  by_cases hm : mpDomain p = d
  · have hrange : 12 ≤ d % 18 ∧ d % 18 < 16 := by rw [← hm]; exact (mpDomain_lt hp).2
    have hon : (poweredOn s d).power.on.getLsbD (mpDomain p) = true := by
      rw [poweredOn_power, hm]
      show (s.power.on ||| domBit d).getLsbD d = true
      rw [BitVec.getLsbD_or, domBit_self hd, Bool.or_true]
    rw [if_pos hrange, if_pos hm, mpOf_startTrainings _ ((mem_portsOf hp hrange).mpr hm) (by rw [hport]; exact hc) hon, hport]
  · rw [if_neg hm]
    split
    · next hrange => rw [mpOf_startTrainings_other _ fun c => hm ((mem_portsOf hp hrange).mp c), hport]
    · exact hport

/-- R438: a port that trains stays in training as further domains come on. -/
theorem mpOf_domainOn_training {s : State} {d p : Nat} (h : (mpOf s p).st = .training) : mpOf (domainOn s d) p = mpOf s p := by
  have hport : mpOf (poweredOn s d) p = mpOf s p := by rw [mpOf, mpOf, poweredOn_ports]
  rw [domainOn_eq]
  split
  · rw [mpOf_startTrainings_training _ _ (by rw [hport]; exact h), hport]
  · exact hport

/-- R438: a port that can train does so once all domains of a list with its own are on. -/
theorem mpOf_domainsOn {s : State} {p : Nat} {l : List Nat} (hl : ∀ d ∈ l, d < 36) (hp : p < 32) (hc : canTrain (mpOf s p))
    (hm : mpDomain p ∈ l) : (mpOf (l.foldl domainOn s) p).st = .training := by
  have hstays (l : List Nat) (s : State) (h : (mpOf s p).st = .training) : (mpOf (l.foldl domainOn s) p).st = .training := by
    induction l generalizing s with
    | nil => exact h
    | cons d l ih => exact ih _ (by rw [mpOf_domainOn_training h]; exact h)
  induction l generalizing s with
  | nil => exact absurd hm List.not_mem_nil
  | cons d l ih =>
    obtain ⟨hd, hl⟩ := List.forall_mem_cons.mp hl
    have hone := mpOf_domainOn hd hp hc
    by_cases h : mpDomain p = d
    · exact hstays l _ (by rw [hone, if_pos h])
    · rw [if_neg h] at hone
      exact ih hl (by rw [hone]; exact hc) ((List.mem_cons.mp hm).resolve_left h)

/-- R437: all domains on. -/
theorem domainsOn_on (s : State) (l : List Nat) : (l.foldl domainOn s).power.on = s.power.on ||| l.foldl (fun b d => b ||| domBit d) 0#36 := by
  have hacc (l : List Nat) (b : BitVec 36) : l.foldl (fun b d => b ||| domBit d) b = b ||| l.foldl (fun b d => b ||| domBit d) 0#36 := by
    induction l generalizing b with
    | nil => exact BitVec.or_zero.symm
    | cons d l ih => rw [List.foldl_cons, List.foldl_cons, ih, ih (0#36 ||| domBit d), BitVec.zero_or, BitVec.or_assoc]
  induction l generalizing s with
  | nil => exact BitVec.or_zero.symm
  | cons d l ih =>
    rw [List.foldl_cons, ih, domainOn_power, List.foldl_cons, BitVec.zero_or, hacc l (domBit d), ← BitVec.or_assoc]

/-- R437: the domains' bits are all there are. -/
theorem allDomains : (List.range 36).foldl (fun b d => b ||| domBit d) 0#36 = BitVec.allOnes 36 := by decide +kernel

/-- R379, R384: the core switches to an input. -/
theorem switchInput_switches (s : State) (i : TbIn) :
    (switchInput s i).clocks.src = 0 ∧ (switchInput s i).clocks.inUse = i ∧ (switchInput s i).clocks.relock = some (s.now + 40)
      ∧ (switchInput s i).clocks.relockAll = true ∧ (switchInput s i).clocks.relocks = inc16 s.clocks.relocks
      ∧ (switchInput s i).power = s.power ∧ (switchInput s i).su = s.su := by
  have hframe := sendBlockEvent_frame (startRelock (useInput s i)) 0x0603 (mk64 (tbNum i))
  unfold switchInput clockEvent
  rw [hframe.clocks, hframe.power, hframe.su]
  unfold startRelock latchVf useInput takeInput
  by_cases h : s.clocks.inUse = i
  · rw [if_pos h]
    exact ⟨rfl, h, rfl, rfl, rfl, rfl, rfl⟩
  · rw [if_neg h]
    exact ⟨rfl, rfl, rfl, rfl, rfl, rfl, rfl⟩

/-- R378: an RCLK is eligible where neither PREF nor the other input lacks one. -/
theorem anyRclk_pref {s : State} (h : anyRclk s = true) (hp : (tbOf s (prefIn s)).elig = false) : (tbOf s (tbOther (prefIn s))).elig = true := by
  unfold anyRclk at h
  cases hi : prefIn s with
  | tb0 => rw [hi] at hp; exact (Bool.or_eq_true_iff.mp h).resolve_left (Bool.eq_false_iff.mp hp)
  | tb1 => rw [hi] at hp; exact (Bool.or_eq_true_iff.mp h).resolve_right (Bool.eq_false_iff.mp hp)

/-- R379, R437: CLOCK ends with the core on an eligible RCLK, its loops to lock within 40 us. -/
theorem startClock_starts {s : State} (h : anyRclk s = true) :
    (startClock s).su.phase = .domains ∧ (startClock s).clocks.src = 0 ∧ (startClock s).power.clk = ctBits
      ∧ (startClock s).power.on = s.power.on ∧ (startClock s).clocks.relock = some (s.now + 40) ∧ (startClock s).clocks.relockAll = true := by
  generalize hs1 : ({ s with
    clocks := { s.clocks with src := 0, inUse := prefIn s, relock := some (s.now + 40), relockAll := true }
    power := { s.power with clk := ctBits }, su := { s.su with phase := .domains } } : State) = s1
  have hinput (i : TbIn) : tbOf s1 i = tbOf s i := by rw [← hs1]; cases i <;> rfl
  have huse : s1.clocks.inUse = prefIn s := by rw [← hs1]
  have hstart : startClock s = clockCheck s1 1 := by rw [← hs1]; rfl
  rw [hstart, clockCheck, if_pos (by rw [← hs1]), huse, hinput, hinput]
  by_cases hp : (tbOf s (prefIn s)).elig = true
  · rw [if_pos hp, ← hs1]
    exact ⟨rfl, rfl, rfl, rfl, rfl, rfl⟩
  · rw [if_neg hp, if_pos (anyRclk_pref h (Bool.eq_false_iff.mpr hp))]
    obtain ⟨hsrc, -, hlock, hall, -, hpower, hsu⟩ := switchInput_switches s1 (tbOther (prefIn s))
    exact ⟨by rw [hsu, ← hs1], hsrc, by rw [hpower, ← hs1], by rw [hpower, ← hs1], by rw [hlock, ← hs1], hall⟩

/-- R437, R438: DOMAINS ends with every domain on and clocked, and the ports of the MPG domains in training. -/
theorem startDomains_starts (s : State) :
    (startDomains s).su.phase = .links ∧ (startDomains s).power.on = 0xfffffffff ∧ (startDomains s).power.clk = 0xfffffffff
      ∧ ∀ p, p < 32 → (mpOf s p).st = .off → (mpOf s p).pg = true → (mpOf (startDomains s) p).st = .training := by
  have hon : ((List.range 36).foldl domainOn s).power.on = 0xfffffffff := by
    rw [domainsOn_on, allDomains, BitVec.or_allOnes]
    rfl
  have htrains (p : Nat) (hp : p < 32) (hc : canTrain (mpOf s p)) : (mpOf ((List.range 36).foldl domainOn s) p).st = .training :=
    mpOf_domainsOn (fun d hd => List.mem_range.mp hd) hp hc (List.mem_range.mpr (mpDomain_lt hp).1)
  unfold startDomains
  generalize (List.range 36).foldl domainOn s = s1 at hon htrains
  exact ⟨rfl, hon, rfl, fun p hp hoff hpg => htrains p hp ⟨hoff, hpg⟩⟩

/-- R439: what SELFTEST leaves of the stacks. -/
theorem memByte_selfTested (s : State) (a : Nat) (ha : a < stackEnd) : memByte (selfTested s).mem a = memByte s.mem a := by
  show (if memDead s.mem a then 0 else smGet 0 (s.mem.cells.filter fun c => decide (c.1 < stackEnd)) a) = _
  rw [smGet_filter 0 s.mem.cells (fun k => decide (k < stackEnd)), if_pos (decide_eq_true ha)]
  rfl

/-- R435: STOPPED with its CODE, ELAPSED standing. -/
theorem stopWith_stops (s : State) (c : BitVec 8) :
    (stopWith s c.toNat).su.phase = .stopped ∧ (stopWith s c.toNat).su.code = c ∧ (stopWith s c.toNat).su.counting = false
      ∧ (stopWith s c.toNat).mem = s.mem ∧ (stopWith s c.toNat).tiles = s.tiles := by
  have helapsed : (stopElapsed s).su.counting = false ∧ (stopElapsed s).mem = s.mem ∧ (stopElapsed s).tiles = s.tiles := by
    unfold stopElapsed
    split
    · exact ⟨rfl, rfl, rfl⟩
    · next h => exact ⟨Bool.eq_false_iff.mpr h, rfl, rfl⟩
  exact ⟨rfl, BitVec.ofNat_toNat .. |>.trans (BitVec.setWidth_eq ..), helapsed⟩

/-- R435: the codes with which a phase fails its time. -/
def failsWith (s : State) (p : Phase) (c : BitVec 8) : Prop :=
  (p = .power ∧ c = 1) ∨ (p = .fuse ∧ c = 2) ∨ (p = .domains ∧ c = 3) ∨ (p = .links ∧ c = 4 ∧ (hpOf s 0).trained = false)
    ∨ (p = .links ∧ c = 5 ∧ ∃ m, m < 32 ∧ (mpOf s m).st = .failed) ∨ (p = .links ∧ c = 6 ∧ ∃ m, m < 32 ∧ (mpOf s m).st = .off)
    ∨ (p = .selftest ∧ c = 7)

/-- R435: a phase that fails its time stops the block. -/
theorem phaseTimeout_stops {s : State} {p : Phase} {c : BitVec 8} (hoff : s.su.off = false) (hp : s.su.phase = p) (hc : failsWith s p c) :
    ∃ x : State → State, phaseTimeout s c.toNat = x (stopWith s c.toNat) ∧ ∀ y, (x y).su.phase = y.su.phase ∧ (x y).su.code = y.su.code
      ∧ (x y).su.counting = y.su.counting ∧ (x y).mem = y.mem ∧ (x y).tiles = y.tiles := by
  have hany (k : PortSt) (h : ∃ m, m < 32 ∧ (mpOf s m).st = k) : ((List.range 32).any fun m => (mpOf s m).st == k) = true := by
    obtain ⟨m, hm, hk⟩ := h
    exact List.any_eq_true.mpr ⟨m, List.mem_range.mpr hm, beq_iff_eq.mpr hk⟩
  unfold phaseTimeout
  rw [hoff, if_neg Bool.false_ne_true, hp]
  rcases hc with ⟨rfl, rfl⟩ | ⟨rfl, rfl⟩ | ⟨rfl, rfl⟩ | ⟨rfl, rfl, h⟩ | ⟨rfl, rfl, h⟩ | ⟨rfl, rfl, h⟩ | ⟨rfl, rfl⟩
  · exact ⟨id, rfl, fun _ => ⟨rfl, rfl, rfl, rfl, rfl⟩⟩
  · exact ⟨id, rfl, fun _ => ⟨rfl, rfl, rfl, rfl, rfl⟩⟩
  · exact ⟨id, rfl, fun _ => ⟨rfl, rfl, rfl, rfl, rfl⟩⟩
  · exact ⟨id, by rw [h]; rfl, fun _ => ⟨rfl, rfl, rfl, rfl, rfl⟩⟩
  · exact ⟨id, by rw [hany _ h]; rfl, fun _ => ⟨rfl, rfl, rfl, rfl, rfl⟩⟩
  · exact ⟨id, by rw [hany _ h]; rfl, fun _ => ⟨rfl, rfl, rfl, rfl, rfl⟩⟩
  · exact ⟨fun y => { y with power := { y.power with samples := y.power.samples + 1 }, su := { y.su with bist := bistWord s s.power.samples } },
      rfl, fun _ => ⟨rfl, rfl, rfl, rfl, rfl⟩⟩

/-- Settles O51, phase by phase. -/
theorem startupPhases : Obligations.StartupPhases := by
  intro s hoff
  refine ⟨fun hp => ?_, fun hp hn => ?_, fun hp h => ?_, fun hp h => ?_, fun hp h => ?_, fun hp h0 hports => ?_, fun hp => ?_, fun p c hp hc => ?_,
    fun c hp => ?_⟩
  · refine exec_next rfl ?_
    unfold phaseEnd
    rw [hoff, hp]
    rfl
  · refine exec_next rfl ?_
    unfold phaseEnd
    rw [hoff, hp]
    simp only [Bool.false_eq_true, if_false, hn, if_true]
    rfl
  · refine ⟨_, exec_next rfl ?_, startClock_starts h⟩
    unfold phaseEnd
    rw [hoff, hp]
    simp only [Bool.false_eq_true, if_false, h, if_true]
  · refine ⟨_, exec_next rfl ?_, startDomains_starts s⟩
    unfold phaseEnd
    rw [hoff, hp]
    simp only [Bool.false_eq_true, if_false, h, if_true]
  · refine exec_next rfl ?_
    unfold phaseEnd
    rw [hoff, hp]
    simp only [Bool.false_eq_true, if_false, h, if_true]
  · refine exec_next rfl ?_
    have hall : ((List.range 32).all fun p => (mpOf s p).st == .up) = true :=
      List.all_eq_true.mpr fun p hp => beq_iff_eq.mpr (hports p (List.mem_range.mp hp))
    unfold phaseEnd
    rw [hoff, hp]
    simp only [Bool.false_eq_true, if_false, h0, hall, Bool.and_self, if_true]
  · refine ⟨selfTested s, exec_next rfl ?_, rfl, rfl, rfl, rfl, rfl, memByte_selfTested s⟩
    unfold phaseEnd
    rw [hoff, hp]
    rfl
  · obtain ⟨x, hx, hkeep⟩ := phaseTimeout_stops hoff hp hc
    obtain ⟨hphase, hcode, hcount, hmem, htiles⟩ := hkeep (stopWith s c.toNat)
    obtain ⟨sphase, scode, scount, smem, stiles⟩ := stopWith_stops s c
    exact ⟨_, exec_next rfl hx, hphase.trans sphase, hcode.trans scode, hcount.trans scount, hmem.trans smem, htiles.trans stiles⟩
  · refine exec_next rfl ?_
    unfold phaseTimeout
    rw [hoff, hp]
    rfl

end Sys2Proof.Machine
end

section
/-! SUPPORT. The clock monitor: what its steps leave of power and NMI, and the locks and measurements of the timebase. -/

namespace Sys2Proof.Machine

/-- R382 to R386: a step that leaves power and the domains' state. -/
def PowerStands (s s' : State) : Prop := s'.power = s.power

theorem EventFrame.powerStands {s s' : State} (h : EventFrame s s') : PowerStands s s' := h.power

theorem DetectFrame.powerStands {s s' : State} (h : DetectFrame s s') : PowerStands s s' := h.power

theorem PowerStands.trans {a b c : State} (h : PowerStands a b) (k : PowerStands b c) : PowerStands a c := Eq.trans k h

theorem takeInput_power (s : State) (i : TbIn) : PowerStands s (takeInput s i) := by
  unfold takeInput
  split <;> rfl

theorem switchMarks_power (s : State) (i : TbIn) : PowerStands s (switchMarks s i) :=
  (takeInput_power s i).trans (sendBlockEvent_frame ..).powerStands

theorem portRetrain_frame (s : State) (p : Nat) :
    ∃ ports, EventFrame { s with ports := ports } (portRetrain s p) := by
  unfold portRetrain
  dsimp only
  split
  · exact ⟨s.ports, EventFrame.refl s⟩
  · exact ⟨_, sendHalfEvent_frame ..⟩

theorem hostDown_frame (s : State) (p : Nat) : ∃ hosts, EventFrame { s with hosts := hosts } (hostDown s p) := by
  unfold hostDown
  dsimp only
  split
  · exact ⟨s.hosts, EventFrame.refl s⟩
  · exact ⟨_, sendHalfEvent_frame ..⟩

/-- R345, R314: what ports that lose training leave of the clocks, of power and of NMI. -/
structure PortsFrame (s s' : State) : Prop where
  clocks : s'.clocks = { s.clocks with evs := s'.clocks.evs }
  power : s'.power = s.power
  errs : s'.errs = s.errs
  now : s'.now = s.now
  tb0 : s'.tb0 = s.tb0
  tb1 : s'.tb1 = s.tb1

theorem PortsFrame.refl (s : State) : PortsFrame s s := ⟨rfl, rfl, rfl, rfl, rfl, rfl⟩

theorem PortsFrame.trans {a b c : State} (h : PortsFrame a b) (k : PortsFrame b c) : PortsFrame a c :=
  ⟨by rw [k.clocks, h.clocks], k.power.trans h.power, k.errs.trans h.errs, k.now.trans h.now, k.tb0.trans h.tb0, k.tb1.trans h.tb1⟩

theorem portRetrain_ports (s : State) (p : Nat) : PortsFrame s (portRetrain s p) := by
  obtain ⟨_, h⟩ := portRetrain_frame s p
  exact ⟨h.clocks, h.power, h.errs, h.now, h.tb0, h.tb1⟩

theorem hostDown_ports (s : State) (p : Nat) : PortsFrame s (hostDown s p) := by
  obtain ⟨_, h⟩ := hostDown_frame s p
  exact ⟨h.clocks, h.power, h.errs, h.now, h.tb0, h.tb1⟩

theorem foldl_ports {f : State → Nat → State} (hf : ∀ s p, PortsFrame s (f s p)) (l : List Nat) (s : State) : PortsFrame s (l.foldl f s) := by
  induction l generalizing s with
  | nil => exact .refl s
  | cons p l ih => exact (hf s p).trans (ih _)

/-- R379, R386: a check of the input in use leaves power. -/
theorem clockCheck_power (s : State) (c : Nat) : PowerStands s (clockCheck s c) := by
  have hhold : PowerStands s (enterHold s) := by
    unfold enterHold
    extract_lets +onlyGivenNames _ s1 s2 s3
    have h2 : PortsFrame s1 s2 := foldl_ports portRetrain_ports _ _
    have h3 : PortsFrame s2 s3 := foldl_ports hostDown_ports _ _
    exact Eq.trans (((raiseNmi_frame s3 1).trans (detect_frame ..)).power) ((h2.trans h3).power)
  have hswitch (i : TbIn) : PowerStands s (switchInput s i) := (switchInput_switches s i).2.2.2.2.2.1
  have hback : PowerStands s (fallBack s c) := by
    unfold fallBack
    extract_lets +onlyGivenNames _ s1
    exact (((raiseNmi_frame (startRelock s1) 0).trans (sendBlockEvent_frame ..).detect).trans (detect_frame ..)).power
  have hreturn : PowerStands s (raiseNmi (forceReturn s) 2) := by
    have : PowerStands s (useInput s (returnIn s)) := takeInput_power s (returnIn s)
    exact this.trans (raiseNmi_frame (forceReturn s) 2).power
  have hleave : PowerStands s (leaveHold s) := by
    have : PowerStands s (useInput s (returnIn s)) := takeInput_power s (returnIn s)
    exact this.trans (sendBlockEvent_frame ..).powerStands
  unfold clockCheck
  split
  · split
    · rfl
    · split
      · exact hswitch _
      · split
        · exact hback
        · exact hhold
  · split
    · split
      · split
        · exact hreturn
        · exact hhold
      · split
        · exact switchMarks_power s _
        · rfl
    · split
      · split
        · exact hleave
        · rfl
      · rfl

/-- R434: the NMI causes only grow. -/
def NmiGrows (s s' : State) : Prop := ∀ k, s.errs.nmi.getLsbD k = true → s'.errs.nmi.getLsbD k = true

theorem chainLog_nmi (n : Nat) (x : Errs) : (chainLog n x).nmi = x.nmi := by
  induction n generalizing x with
  | zero => rfl
  | succ n ih =>
    unfold chainLog
    split
    · split
      · rfl
      · exact ih _
    · split
      · exact ih _
      · rfl

theorem modEntry_nmi (s : State) (l : W32) (f : ErrEntry → ErrEntry) : (modEntry s l f).errs.nmi = s.errs.nmi := chainLog_nmi ..

theorem supersede_nmi (s : State) (p : ErrEntry → Bool) : (supersede s p).errs.nmi = s.errs.nmi := by
  unfold supersede
  generalize s.errs.log.filter _ = l
  induction l generalizing s with
  | nil => rfl
  | cons e l ih => rw [List.foldl_cons, ih]; exact modEntry_nmi ..

theorem countClass_nmi (x : Errs) (c : ErrClass) : (countClass x c).nmi = x.nmi := by cases c <;> rfl

theorem appendEntry_nmi (s : State) (e : ErrEntry) : (appendEntry s e).errs.nmi = s.errs.nmi := by
  unfold appendEntry
  dsimp only
  split
  · exact countClass_nmi ..
  · exact (chainLog_nmi ..).trans (countClass_nmi ..)

/-- R434: NMI has a cause that has been raised. -/
theorem raiseNmi_nmi (s : State) (c : Nat) : (raiseNmi s c).errs.nmi = s.errs.nmi ||| BitVec.ofNat 4 (2 ^ c) := by
  unfold raiseNmi ownFrame
  extract_lets causes f own
  split <;> rfl

theorem raiseNmi_grows (s : State) (c : Nat) : NmiGrows s (raiseNmi s c) := by
  intro k hk
  rw [raiseNmi_nmi, BitVec.getLsbD_or, hk, Bool.true_or]

theorem blockStop_grows (s : State) (d : Detect) : NmiGrows s (blockStop s d) := by
  intro k hk
  unfold blockStop
  split
  · exact hk
  · extract_lets +onlyGivenNames e s1 s2 _ _ s3
    refine raiseNmi_grows s3 3 k ?_
    have h1 : s1.errs.nmi = s.errs.nmi := by
      show (match s.errs.handling with | none => s | some l => modEntry s l fun e => { e with step := .escalated }).errs.nmi = _
      split
      · rfl
      · exact modEntry_nmi ..
    have h2 : s2.errs.nmi = s1.errs.nmi := by
      show (stopElapsed (appendEntry s1 e)).errs.nmi = _
      rw [← appendEntry_nmi s1 e]
      unfold stopElapsed
      split <;> rfl
    show s2.errs.nmi.getLsbD k = true
    rw [h2, h1]
    exact hk

theorem detect_grows (s : State) (d : Detect) : NmiGrows s (detect s d) := by
  intro k hk
  unfold detect
  split
  · exact hk
  · split
    · exact blockStop_grows _ _ k hk
    · split
      · rw [modEntry_nmi]
        exact hk
      · split
        · exact blockStop_grows _ _ k hk
        · split
          · rw [appendEntry_nmi]
            exact hk
          · split
            · exact blockStop_grows _ _ k hk
            · extract_lets e
              rw [(errorLogged_frame ..).errs, supersede_nmi, appendEntry_nmi]
              exact hk

theorem nmi_raised (s : State) {c : Nat} (h : c < 4) : (raiseNmi s c).errs.nmi.getLsbD c = true := by
  rw [raiseNmi_nmi, BitVec.getLsbD_or, BitVec.getLsbD_ofNat, decide_eq_true h, Nat.testBit_two_pow_self, Bool.and_self, Bool.or_true]

/-- R385: the fall to LOSC. -/
theorem fallBack_falls (s : State) (c : Nat) :
    (fallBack s c).clocks.src = 1 ∧ (fallBack s c).clocks.inUse = s.clocks.inUse ∧ (fallBack s c).clocks.relock = some (s.now + 40)
      ∧ (fallBack s c).clocks.fallbacks = inc16 s.clocks.fallbacks ∧ (fallBack s c).errs.nmi.getLsbD 0 = true := by
  unfold fallBack
  extract_lets +onlyGivenNames _ s1
  have hnmi := nmi_raised (startRelock s1) (c := 0) (by omega)
  have hevent := sendBlockEvent_frame (raiseNmi (startRelock s1) 0) 0x0601 (mk64 c)
  have hframe := ((raiseNmi_frame (startRelock s1) 0).trans hevent.detect).trans
    (detect_frame (clockEvent (raiseNmi (startRelock s1) 0) 0x0601 (mk64 c)) (Detect.plain 0x10 .A 0))
  rw [hframe.clocks]
  exact ⟨rfl, rfl, rfl, rfl, detect_grows _ _ 0 (by rw [clockEvent, hevent.errs]; exact hnmi)⟩

/-- R386: the entry into CLOCK-HOLD. -/
theorem enterHold_holds (s : State) :
    (enterHold s).clocks.src = 2 ∧ (enterHold s).clocks.relock = none ∧ (enterHold s).clocks.holds = inc16 s.clocks.holds
      ∧ (enterHold s).errs.nmi.getLsbD 1 = true := by
  unfold enterHold
  extract_lets +onlyGivenNames _ s1 s2 s3
  have hports : PortsFrame s1 s3 := (foldl_ports portRetrain_ports (List.range 32) s1).trans (foldl_ports hostDown_ports (List.range 4) s2)
  have hframe := (raiseNmi_frame s3 1).trans (detect_frame (raiseNmi s3 1) (Detect.plain 0x11 .A 0))
  rw [hframe.clocks, hports.clocks]
  exact ⟨rfl, rfl, rfl, detect_grows _ _ 1 (nmi_raised s3 (by omega))⟩

theorem tbOther_ne (i : TbIn) : tbOther i ≠ i := by cases i <;> decide

/-- R379: while the input in use is eligible, the check finds nothing to do. -/
theorem clockCheck_eligible {s : State} {c : Nat} (h0 : s.clocks.src = 0) (he : (tbOf s s.clocks.inUse).elig = true) : clockCheck s c = s := by
  rw [clockCheck, if_pos h0, if_pos he]

/-- R384: an input that is eligible, or may not be, stands. -/
theorem gainElig_elig {s : State} {i : TbIn} (h : (tbOf s i).elig = true) : gainElig s i = s := by
  have hsame : setTb s i { tbOf s i with elig := true } = s := by
    cases i
    · show { s with tb0 := { s.tb0 with elig := true } } = s
      rw [show { s.tb0 with elig := true } = s.tb0 by rw [← show s.tb0.elig = true from h]]
    · show { s with tb1 := { s.tb1 with elig := true } } = s
      rw [show { s.tb1 with elig := true } = s.tb1 by rw [← show s.tb1.elig = true from h]]
  unfold gainElig
  dsimp only
  split
  · exact hsame
  · rfl

theorem gainElig_watched {s : State} {i : TbIn} (hw : s.clocks.loscWatch = true) (hg : (tbOf s i).goodwin ≠ 16) : gainElig s i = s := by
  simp only [gainElig, hw, hg, Bool.not_true, Bool.false_eq_true, and_false, false_and, or_self, if_false]

/-- Settles O52: each loss of a lock by what the check of the input in use then finds. -/
theorem timebaseLocks : Obligations.TimebaseLocks := by
  intro s i hm x cold
  have hlost (hb : x.blockLock = true) : exec (.blockLockLost i) s = .next (clockCheck (setTb s i (cold x false)) 1) := by
    refine exec_next rfl ?_
    rw [if_pos ⟨hm, hb⟩, loseLock]
    simp only [Bool.not_true, Bool.and_false]
    rfl
  refine ⟨fun hr => exec_next rfl (if_pos ⟨hm, hr⟩), fun h0 hi he => ⟨fun hb => ?_, fun hf => ?_, fun hr hb hw hg => ?_⟩,
    fun h0 hi hb => ⟨fun he => ?_, fun he hl => ?_, fun he hl => ?_⟩, fun pos p hr hv hp => exec_next rfl (if_pos ⟨hm, hr, hv, hp⟩),
    fun pos p hv hp => exec_next rfl (if_neg fun c => c.2.2.2 hp)⟩
  · refine exec_next (hlost hb) (clockCheck_eligible ?_ ?_)
    · rw [setTb_clocks]; exact h0
    · rw [setTb_clocks, tbOf_setTb_other _ _ _ _ hi]; exact he
  · refine exec_next rfl ?_
    rw [if_pos ⟨hm, hf⟩, loseLock]
    simp only [Bool.not_false, Bool.and_true]
    refine clockCheck_eligible ?_ ?_
    · rw [setTb_clocks]; exact h0
    · rw [setTb_clocks, tbOf_setTb_other _ _ _ _ hi]; exact he
  · refine exec_next rfl ?_
    rw [if_pos ⟨hm, hr, hb⟩, gainElig_watched (by rw [setTb_clocks]; exact hw) (by rw [tbOf_setTb_same]; exact hg)]
    refine clockCheck_eligible ?_ ?_
    · rw [setTb_clocks]; exact h0
    · rw [setTb_clocks, tbOf_setTb_other _ _ _ _ hi]; exact he
  all_goals
    have hsrc : (setTb s i (cold x false)).clocks.src = 0 := by rw [setTb_clocks]; exact h0
    have huse : (setTb s i (cold x false)).clocks.inUse = i := by rw [setTb_clocks]; exact hi
    have hown : (tbOf (setTb s i (cold x false)) i).elig = false := by rw [tbOf_setTb_same]
    have hother : (tbOf (setTb s i (cold x false)) (tbOther i)).elig = (tbOf s (tbOther i)).elig := by
      rw [tbOf_setTb_other _ _ _ _ (tbOther_ne i)]
  · obtain ⟨ssrc, suse, slock, sall, scount, -⟩ := switchInput_switches (setTb s i (cold x false)) (tbOther i)
    rw [setTb_now] at slock
    rw [setTb_clocks] at scount
    refine ⟨_, exec_next (hlost hb) ?_, ssrc, suse, slock, sall, scount⟩
    rw [clockCheck, if_pos hsrc, huse, hown, if_neg Bool.false_ne_true, hother, he, if_pos rfl]
  · obtain ⟨ssrc, suse, slock, scount, snmi⟩ := fallBack_falls (setTb s i (cold x false)) 1
    rw [setTb_now] at slock
    rw [setTb_clocks] at scount
    refine ⟨_, exec_next (hlost hb) ?_, ssrc, suse.trans huse, slock, scount, snmi⟩
    rw [clockCheck, if_pos hsrc, huse, hown, if_neg Bool.false_ne_true, hother, he, if_neg Bool.false_ne_true, setTb_clocks, hl, if_pos rfl]
  · obtain ⟨ssrc, slock, scount, snmi⟩ := enterHold_holds (setTb s i (cold x false))
    rw [setTb_clocks] at scount
    refine ⟨_, exec_next (hlost hb) ?_, ssrc, slock, scount, snmi⟩
    rw [clockCheck, if_pos hsrc, huse, hown, if_neg Bool.false_ne_true, hother, he, if_neg Bool.false_ne_true, setTb_clocks, hl,
      if_neg Bool.false_ne_true]

end Sys2Proof.Machine
end

section
/-! SUPPORT. The clock monitor's measurements, and a relock that ends with nothing waiting. -/

namespace Sys2Proof.Machine

/-- What holds of half A and of half B holds of every half. -/
theorem forall_half {p : Half → Prop} (hA : p .A) (hB : p .B) : ∀ h, p h
  | .A => hA
  | .B => hB

/-- R384: LOSC that is eligible stays so. -/
theorem gainLosc_losc {s : State} (h : s.clocks.losc = true) : gainLosc s = s := by
  unfold gainLosc
  split
  · show { s with clocks := { s.clocks with losc := true } } = s
    rw [show { s.clocks with losc := true } = s.clocks by rw [← h]]
  · rfl

/-- R383: a window within its bounds. -/
theorem windowInput_good {s : State} {i : TbIn} {c : Nat} (hv : tbValid (tbOf s i) = true) (h1 : 25003 ≤ c) (h2 : c ≤ 25013) :
    windowInput s i c = setTb s i { tbOf s i with goodwin := min 16 ((tbOf s i).goodwin + 1) } := by
  simp only [windowInput, hv, inTol, h1, h2, and_self, decide_true, Bool.not_true, Bool.false_eq_true, if_false, if_true]

theorem windowInput_bad {s : State} {i : TbIn} {c : Nat} (hv : tbValid (tbOf s i) = true) (h : c < 25003 ∨ 25013 < c) :
    windowInput s i c = setTb s i { tbOf s i with goodwin := 0, elig := (tbOf s i).elig && !s.clocks.loscWatch } := by
  have hout : ¬ (25003 ≤ c ∧ c ≤ 25013) := by omega
  simp only [windowInput, hv, inTol, hout, decide_false, Bool.not_true, Bool.false_eq_true, if_false]

/-- R379, R384: where LOSC and the input in use are eligible, and no other can become so, the monitor's check changes nothing. -/
theorem monitorCheck_stands {s : State} {c : Nat} (h0 : s.clocks.src = 0) (hl : s.clocks.losc = true)
    (he : (tbOf s s.clocks.inUse).elig = true) (e0 : gainElig s .tb0 = s) (e1 : gainElig s .tb1 = s) :
    clockCheck (gainElig (gainElig (gainLosc s) .tb0) .tb1) c = s := by
  rw [gainLosc_losc hl, e0, e1, clockCheck_eligible h0 he]

/-- R383, R384: a window of two good counts. -/
theorem windowCheck_good {s : State} {c0 c1 : Nat} (hm : monitorRuns s = true) (v0 : tbValid s.tb0 = true) (v1 : tbValid s.tb1 = true)
    (a0 : 25003 ≤ c0) (b0 : c0 ≤ 25013) (a1 : 25003 ≤ c1) (b1 : c1 ≤ 25013) (h0 : s.clocks.src = 0) (e0 : s.tb0.elig = true)
    (e1 : s.tb1.elig = true) (hl : s.clocks.losc = true) :
    windowCheck s c0 c1
      = { s with tb0 := { s.tb0 with goodwin := min 16 (s.tb0.goodwin + 1) }, tb1 := { s.tb1 with goodwin := min 16 (s.tb1.goodwin + 1) } } := by
  generalize hx : ({ s with
    tb0 := { s.tb0 with goodwin := min 16 (s.tb0.goodwin + 1) }, tb1 := { s.tb1 with goodwin := min 16 (s.tb1.goodwin + 1) } } : State) = x
  have hinputs : windowInput (windowInput s .tb0 c0) .tb1 c1 = x := by
    rw [windowInput_good (i := .tb0) v0 a0 b0, ← hx]
    exact windowInput_good (i := .tb1) v1 a1 b1
  have helig (i : TbIn) : (tbOf x i).elig = true := by
    rw [← hx]
    cases i
    · exact e0
    · exact e1
  unfold windowCheck
  rw [hm, if_neg (by decide), hinputs]
  exact monitorCheck_stands (by rw [← hx]; exact h0) (by rw [← hx]; exact hl) (helig _) (gainElig_elig (helig _)) (gainElig_elig (helig _))

/-- R383, R384: a good count of the input in use, and a bad one of the other. -/
theorem windowCheck_bad {s : State} {c0 c1 : Nat} (hm : monitorRuns s = true) (v0 : tbValid s.tb0 = true) (v1 : tbValid s.tb1 = true)
    (a0 : 25003 ≤ c0) (b0 : c0 ≤ 25013) (h1 : c1 < 25003 ∨ 25013 < c1) (h0 : s.clocks.src = 0) (hi : s.clocks.inUse = .tb0)
    (e0 : s.tb0.elig = true) (hl : s.clocks.losc = true) (hw : s.clocks.loscWatch = true) :
    windowCheck s c0 c1
      = { s with tb0 := { s.tb0 with goodwin := min 16 (s.tb0.goodwin + 1) }, tb1 := { s.tb1 with goodwin := 0, elig := false } } := by
  generalize hx : ({ s with
    tb0 := { s.tb0 with goodwin := min 16 (s.tb0.goodwin + 1) }, tb1 := { s.tb1 with goodwin := 0, elig := false } } : State) = x
  have hinputs : windowInput (windowInput s .tb0 c0) .tb1 c1 = x := by
    rw [windowInput_good (i := .tb0) v0 a0 b0, ← hx]
    have hbad (s' : State) (hc : s'.clocks = s.clocks) (ht : s'.tb1 = s.tb1) :
        windowInput s' .tb1 c1 = setTb s' .tb1 { s.tb1 with goodwin := 0, elig := false } := by
      rw [windowInput_bad (i := .tb1) (by rw [show tbOf s' .tb1 = s.tb1 from ht]; exact v1) h1, hc, hw, show tbOf s' .tb1 = s.tb1 from ht]
      rw [Bool.not_true, Bool.and_false]
    exact hbad _ rfl rfl
  have helig : (tbOf x .tb0).elig = true := by rw [← hx]; exact e0
  unfold windowCheck
  rw [hm, if_neg (by decide), hinputs]
  refine monitorCheck_stands (by rw [← hx]; exact h0) (by rw [← hx]; exact hl) ?_ (gainElig_elig helig) (gainElig_watched ?_ ?_)
  · rw [show x.clocks.inUse = .tb0 by rw [← hx]; exact hi]
    exact helig
  · rw [← hx]
    exact hw
  · rw [← hx]
    exact Nat.zero_ne_add_one 15

/-- R383, R384: a watch check that LOSC and the input in use pass, and the other does not. -/
theorem watchCheck_other {s : State} {c r0 r1 : Nat} (hm : monitorRuns s = true) (h1 : r1 < 368640 ∨ 450560 < r1) (a0 : 368640 ≤ r0)
    (b0 : r0 ≤ 450560) (ac : 368640 ≤ c) (bc : c ≤ 450560) (h0 : s.clocks.src = 0) (hi : s.clocks.inUse = .tb0) (e0 : s.tb0.elig = true)
    (hl : s.clocks.losc = true) :
    watchCheck s c r0 r1
      = { s with clocks := { s.clocks with loscWatch := true, loscFails := 0 }, tb0 := { s.tb0 with watchRun := 0 }
                 tb1 := { s.tb1 with elig := false, watchRun := 0 } } := by
  have hin0 : inTol r0 368640 450560 = true := decide_eq_true ⟨a0, b0⟩
  have hinc : inTol c 368640 450560 = true := decide_eq_true ⟨ac, bc⟩
  have hin1 : inTol r1 368640 450560 = false := decide_eq_false (by omega)
  generalize hx : ({ s with
    clocks := { s.clocks with loscWatch := true, loscFails := 0 }, tb0 := { s.tb0 with watchRun := 0 }
    tb1 := { s.tb1 with elig := false, watchRun := 0 } } : State) = x
  have hinputs : watchInput (watchInput (watchLosc s c) .tb0 r0) .tb1 r1 = x := by
    rw [← hx]
    unfold watchInput watchLosc
    rw [hin0, hinc, hin1]
    rfl
  have helig : (tbOf x .tb0).elig = true := by rw [← hx]; exact e0
  have huse : (tbOf x x.clocks.inUse).elig = true := by
    rw [show x.clocks.inUse = .tb0 by rw [← hx]; exact hi]
    exact helig
  unfold watchCheck
  rw [hm, if_neg (by decide), hinputs, hin0, hin1, gainLosc_losc (s := x) (by rw [← hx]; exact hl)]
  dsimp only
  rw [if_pos rfl, if_neg Bool.false_ne_true, gainElig_elig helig, clockCheck_eligible (by rw [← hx]; exact h0) huse]

/-- R382: AUTO moves by at most 8, within 1000. -/
theorem nextAuto_bounds {a : Int} (e : Nat) (h1 : -1000 ≤ a) (h2 : a ≤ 1000) :
    nextAuto a e ≤ a + 8 ∧ a - 8 ≤ nextAuto a e ∧ -1000 ≤ nextAuto a e ∧ nextAuto a e ≤ 1000 := by
  unfold nextAuto
  dsimp only
  generalize roundHalfEven _ _ = step
  omega

/-- R382: a value within AUTO's field reads back. -/
theorem toInt_wrap11 {x : Int} (h1 : -1000 ≤ x) (h2 : x ≤ 1000) : (BitVec.ofNat 11 (wrap x 11)).toInt = x := by
  rw [BitVec.toInt_eq_toNat_cond, BitVec.toNat_ofNat]
  unfold wrap
  split <;> omega

theorem sext_toNat (x : BitVec 11) : sext x.toNat 11 = x.toInt := by
  have hx := x.isLt
  rw [BitVec.toInt_eq_toNat_cond]
  unfold sext
  split <;> split <;> omega

/-- R382: AUTO after a trim interval, an event or none. -/
theorem trimUpdate_trims {s : State} (e : Nat) (hm : monitorRuns s = true) (he : (tbOf s s.clocks.inUse).elig = true) :
    (trimUpdate s e).clocks.auto = BitVec.ofNat 11 (wrap (nextAuto s.clocks.auto.toInt e) 11) ∧ (trimUpdate s e).slots = s.slots
      ∧ (trimUpdate s e).tiles = s.tiles := by
  unfold trimUpdate
  rw [if_neg (by rw [hm, he]; decide)]
  extract_lets +onlyGivenNames old new _ s1
  have hold : old = s.clocks.auto.toInt := sext_toNat _
  rw [← hold]
  split
  · have hframe := sendBlockEvent_frame s1 0x0605 (mk64 (wrap new 64))
    exact ⟨congrArg (·.auto) hframe.clocks, hframe.slots, hframe.tiles⟩
  · exact ⟨rfl, rfl, rfl⟩

/-- R387: what a time that passes keeps where no Boxcars limit is near. -/
structure Quietly (s s' : State) : Prop where
  mem : s'.mem = s.mem
  slots : s'.slots = s.slots
  tiles : s'.tiles = s.tiles
  images : s'.images = s.images
  bwaits : s'.bwaits = s.bwaits
  replies : s'.replies = s.replies
  clocks : s'.clocks = s.clocks
  pins : s'.pins = s.pins
  outs : ∀ h, (half s' h).outQueue = (half s h).outQueue
  bulletins : ∀ h, (half s' h).bullWait = (half s h).bullWait
  gate : s'.power.gateWait = s.power.gateWait

theorem Quietly.refl (s : State) : Quietly s s := ⟨rfl, rfl, rfl, rfl, rfl, rfl, rfl, rfl, fun _ => rfl, fun _ => rfl, rfl⟩

theorem Quietly.trans {a b c : State} (p : Quietly a b) (q : Quietly b c) : Quietly a c :=
  ⟨q.mem.trans p.mem, q.slots.trans p.slots, q.tiles.trans p.tiles, q.images.trans p.images, q.bwaits.trans p.bwaits, q.replies.trans p.replies,
    q.clocks.trans p.clocks, q.pins.trans p.pins, fun h => (q.outs h).trans (p.outs h), fun h => (q.bulletins h).trans (p.bulletins h),
    q.gate.trans p.gate⟩

theorem measure_quietly (s : State) : Quietly s (measure s) :=
  ⟨rfl, rfl, rfl, rfl, rfl, rfl, rfl, rfl, fun h => by cases h <;> rfl, fun h => by cases h <;> rfl, rfl⟩

theorem Quietly.waits {s s' : State} (q : Quietly s s') (h : NothingWaits s) : NothingWaits s' :=
  { evs := by rw [q.clocks]; exact h.evs, marks := by rw [q.clocks]; exact h.marks, held := by rw [q.clocks]; exact h.held,
    bells := by rw [q.pins]; exact h.bells, replies := q.replies.trans h.replies, outs := fun x => (q.outs x).trans (h.outs x),
    bulletins := fun x => (q.bulletins x).trans (h.bulletins x), images := by unfold Machine.images; rw [q.images]; exact h.images,
    batches := q.bwaits.trans h.batches, slots := q.slots.trans h.slots }

/-- R29, R308: the state at a later instant, before its measurements. -/
def laterState (s : State) (n : Nat) : State :=
  { s with
    now := s.now + n, modes := if clocksRun s then account s.modes n else s.modes
    turns := if ctRuns s then s.turns else { s.turns with stallAt := s.turns.stallAt + n }
    halfA := if ctRuns s then s.halfA else { s.halfA with bullSince := s.halfA.bullSince + n }
    halfB := if ctRuns s then s.halfB else { s.halfB with bullSince := s.halfB.bullSince + n } }

theorem elapse_eq (s : State) (n : Nat) :
    elapse s n = settlePower (if s.now / 1000 = (s.now + n) / 1000 ∨ s.su.off ∨ s.clocks.src = 2 then laterState s n else measure (laterState s n)) := rfl

theorem laterState_quietly (s : State) (n : Nat) : Quietly s (laterState s n) := by
  refine ⟨rfl, rfl, rfl, rfl, rfl, rfl, rfl, rfl, fun h => ?_, fun h => ?_, rfl⟩
  all_goals
    unfold laterState
    cases hc : ctRuns s
    · cases h <;> rfl
    · cases h <;> rfl

/-- R308: with no Boxcars and no recovery, no limit is met. -/
theorem settlePower_idle {s : State} (hb : s.modes.boxing = false) (hr : s.modes.recovering = false) : settlePower s = s := by
  simp only [settlePower, hb, hr, Bool.false_eq_true, false_and, if_false]

/-- R387, R308: time that passes with no Boxcars and no recovery. -/
theorem elapse_quietly {s : State} (n : Nat) (hb : s.modes.boxing = false) (hr : s.modes.recovering = false) : Quietly s (elapse s n) := by
  have hmodes : (laterState s n).modes.boxing = false ∧ (laterState s n).modes.recovering = false := by
    show (if clocksRun s then account s.modes n else s.modes).boxing = false ∧ (if clocksRun s then account s.modes n else s.modes).recovering = false
    split
    · rw [account, hb, if_neg Bool.false_ne_true]
      exact ⟨rfl, hr⟩
    · exact ⟨hb, hr⟩
  rw [elapse_eq]
  split
  · rw [settlePower_idle hmodes.1 hmodes.2]
    exact laterState_quietly s n
  · rw [settlePower_idle (s := measure (laterState s n)) hmodes.1 hmodes.2]
    exact (laterState_quietly s n).trans (measure_quietly _)

/-- R387: what a restart does with nothing waiting. -/
theorem flushEvs_none {s : State} (h : s.clocks.evs = []) : flushEvs s = s := by
  have hsame : { s.clocks with evs := [] } = s.clocks := by rw [← h]
  unfold flushEvs
  rw [hsame, h]
  rfl

theorem flushMarks_none {s : State} (h : s.clocks.catchMarks = []) : flushMarks s = s := by
  have hsame : { s with clocks := { s.clocks with catchMarks := [] } } = s := by rw [show { s.clocks with catchMarks := [] } = s.clocks by rw [← h]]
  unfold flushMarks
  rw [hsame, h]
  split
  · rfl
  · split <;> rfl

theorem releaseHeld_none {s : State} (h : s.clocks.held = []) : releaseHeld s = s := by
  have hsame : { s.clocks with held := [] } = s.clocks := by rw [← h]
  unfold releaseHeld
  rw [hsame, h]
  rfl

theorem resumeBells_none {s : State} (h : s.pins.bells = []) : resumeBells s = s := haltEnds_none h

theorem bulletinReturned_none {s : State} {h : Half} (hb : (half s h).bullWait = []) : bulletinReturned s h = s := by
  have hsame : modHalf s h (fun x => { x with bullWait := [] }) = s := by
    cases h
    · show { s with halfA := { s.halfA with bullWait := [] } } = s
      rw [show { s.halfA with bullWait := [] } = s.halfA by rw [← show s.halfA.bullWait = [] from hb]]
    · show { s with halfB := { s.halfB with bullWait := [] } } = s
      rw [show { s.halfB with bullWait := [] } = s.halfB by rw [← show s.halfB.bullWait = [] from hb]]
  unfold bulletinReturned
  split
  · rw [hb]
    exact hsame
  · rfl

/-- R457, R332: images that all take ADMITs are not freed. -/
theorem freeImages_none {s : State} (h : ∀ p ∈ Machine.images s, p.2.admits = true) : freeImages s = s := by
  have hfold (l : List (Nat × Image)) (hl : ∀ p ∈ l, p.2.admits = true) : l.foldl (fun s p => freeImage s p.1 p.2) s = s := by
    induction l with
    | nil => rfl
    | cons p l ih =>
      obtain ⟨hp, hl⟩ := List.forall_mem_cons.mp hl
      rw [List.foldl_cons, show freeImage s p.1 p.2 = s by rw [freeImage, if_pos (.inl hp)], ih hl]
  exact hfold _ h

theorem usedSlots_none {s : State} (h : s.slots = []) : usedSlots s = [] := by rw [usedSlots, h]; rfl

theorem resumeWork_none {s : State} (h : NothingWaits s) : resumeWork s = s := by
  have hreplies : { s with replies := [] } = s := by rw [← h.replies]
  unfold resumeWork
  rw [h.replies, handBack, hreplies]
  simp only [List.foldl_cons, List.foldl_nil, h.outs, List.isEmpty_nil, if_true, bulletinReturned_none (h.bulletins _), usedSlots_none h.slots,
    h.batches, List.map_nil, List.eraseDups_nil, afterBatches, freeImages_none h.images]

theorem resumeGate_idle {s : State} (h : s.power.gateWait = .idle) : resumeGate s = s := by
  rw [resumeGate, if_neg fun c => by rw [h] at c; exact absurd c.1 (by decide)]

/-- R387: with nothing waiting, a restart only ends the relock. -/
theorem restart_none {s : State} (h : NothingWaits s) (hg : s.power.gateWait = .idle) :
    restart s = { s with clocks := { s.clocks with relock := none, relockAll := false } } := by
  generalize hs1 : ({ s with clocks := { s.clocks with relock := none, relockAll := false } } : State) = s1
  have h1 : NothingWaits s1 := by
    rw [← hs1]
    exact ⟨h.evs, h.marks, h.held, h.bells, h.replies, forall_half (h.outs .A) (h.outs .B),
      forall_half (h.bulletins .A) (h.bulletins .B), h.images, h.batches, h.slots⟩
  have hg1 : s1.power.gateWait = .idle := by rw [← hs1]; exact hg
  unfold restart
  rw [hs1, flushEvs_none h1.evs, flushMarks_none h1.marks]
  dsimp only
  rw [resumeWork_none h1, resumeBells_none h1.bells, releaseHeld_none h1.held,
    resumeGate_idle hg1]

/-- R384, R434: a write of RETURN_NOW. -/
theorem clkReturnNow_served {s : State} (h : avail s (mgmtBase + 0x70008) = .served) :
    exec .clkReturnNow s = .next { s with clocks := { s.clocks with returnReq := s.clocks.returnReq || (s.clocks.src == 1 && !s.errs.block) } } := by
  refine exec_next rfl ?_
  have hb0 : bit (mk64 (2 + b2n s.clocks.manual)) 0 = s.clocks.manual := by cases s.clocks.manual <;> decide
  have hb1 : bit (mk64 (2 + b2n s.clocks.manual)) 1 = true := by cases s.clocks.manual <;> decide
  have hreg : regBlock (mgmtBase + 0x70008) = some (.clocks, 0x08) := by decide +kernel
  unfold mgmtWrite
  rw [h, hreg]
  show writeClkCtl s (bit (mk64 (2 + b2n s.clocks.manual)) 1) (bit (mk64 (2 + b2n s.clocks.manual)) 0) = _
  rw [hb0, hb1, writeClkCtl, Bool.true_and]

/-- Settles O53, measurement by measurement. -/
theorem clockMonitor : Obligations.ClockMonitor := by
  intro s hm
  refine ⟨fun c0 c1 v0 v1 a0 b0 a1 b1 h0 e0 e1 hl => exec_next rfl (windowCheck_good hm v0 v1 a0 b0 a1 b1 h0 e0 e1 hl),
    fun c0 c1 v0 v1 a0 b0 h1 h0 hi e0 hl hw => exec_next rfl (windowCheck_bad hm v0 v1 a0 b0 h1 h0 hi e0 hl hw),
    fun c r0 r1 h1 a0 b0 ac bc h0 hi e0 hl => ⟨_, exec_next rfl (watchCheck_other hm h1 a0 b0 ac bc h0 hi e0 hl), rfl, e0, rfl, rfl, h0⟩,
    fun e he h1 h2 => ?_, fun t ht hr hn hg hb hrec => ?_, fun h1 hs hb => exec_next (clkReturnNow_served hs) ?_,
    fun h1 hs => exec_next (clkReturnNow_served hs) ?_⟩
  · obtain ⟨hauto, hslots, htiles⟩ := trimUpdate_trims e hm he
    obtain ⟨hup, hdown, hlow, hhigh⟩ := nextAuto_bounds e h1 h2
    have hnew := toInt_wrap11 hlow hhigh
    refine ⟨_, rfl, ?_, ?_, ?_, ?_, hslots, htiles⟩
    all_goals
      rw [hauto, hnew]
      assumption
  · have hq : Quietly s (elapseTo s t) := elapse_quietly _ hb hrec
    refine ⟨{ elapseTo s t with clocks := { (elapseTo s t).clocks with relock := none, relockAll := false } }, exec_next rfl ?_, rfl, rfl,
      hq.slots, hq.tiles, hq.mem⟩
    rw [relockEnd, ht]
    show (if refRuns s then restart (elapseTo s t) else s) = _
    rw [if_pos hr, restart_none (hq.waits hn) (hq.gate.trans hg)]
  · have hreturn : (s.clocks.returnReq || (s.clocks.src == 1 && !s.errs.block)) = true := by rw [h1, hb]; exact Bool.or_true _
    rw [hreturn]
  · have hreturn : (s.clocks.returnReq || (s.clocks.src == 1 && !s.errs.block)) = s.clocks.returnReq := by
      rw [show (s.clocks.src == 1) = false from beq_eq_false_iff_ne.mpr h1, Bool.false_and, Bool.or_false]
    rw [hreturn]

end Sys2Proof.Machine
end

section
/-! SUPPORT. Memory ports that train, fail and come back, and domains that lose power. -/

namespace Sys2Proof.Machine

theorem mpOf_set_same (s : State) (p : Nat) (y : MemPort) : mpOf { s with ports := smSet MemPort.off s.ports p y } p = y := by
  simp only [mpOf, smGet_smSet_same]

theorem mpOf_set_other (s : State) {p q : Nat} (y : MemPort) (h : q ≠ p) :
    mpOf { s with ports := smSet MemPort.off s.ports p y } q = mpOf s q := by
  simp only [mpOf, smGet_smSet_other _ _ _ _ _ h]

theorem resumeStacks_none {s : State} (h : s.clocks.held = []) : resumeStacks s = s := by
  rw [resumeStacks, releaseHeld_none h, ite_self]

/-- R346: a port that fails: FAILED with its cause, its reads poisoned; an event and a detection change no port. -/
theorem portFail_fails (s : State) (p c : Nat) :
    (portFail s p c).ports = smSet MemPort.off s.ports p { mpOf s p with st := .failed, retrain := false, cause := BitVec.ofNat 4 c }
      ∧ (portFail s p c).mem.failed = s.mem.failed ||| BitVec.ofNat 32 (2 ^ p) ∧ (portFail s p c).clocks.held = s.clocks.held := by
  unfold portFail
  extract_lets +onlyGivenNames x wasUp _ s1 h
  have hframe : DetectFrame s1 (detect (sendHalfEvent s1 h 0x0402 (mk64 (p + 256 * c))) (Detect.plain 0x0c h p)) :=
    (sendHalfEvent_frame ..).detect.trans (detect_frame ..)
  split
  · exact ⟨hframe.ports, hframe.failed, congrArg (·.held) hframe.clocks⟩
  · exact ⟨rfl, rfl, rfl⟩

/-- R345: a port that ends a training for the first time, or after a retraining with nothing waiting. -/
theorem portUp_ups {s : State} {p : Nat} {r : Byte} {again : Bool} (hst : (mpOf s p).st = .training) (ha : (mpOf s p).retrain = again)
    (hr : refRuns s = true) (hd : s.power.on.getLsbD (mpDomain p) = true) (hw : again = true → s.clocks.held = []) :
    (portUp s p r again).ports = smSet MemPort.off s.ports p { mpOf s p with st := .up, retrain := false, repaired := r }
      ∧ (portUp s p r again).mem = { s.mem with failed := s.mem.failed &&& ~~~(BitVec.ofNat 32 (2 ^ p)) }
      ∧ (portUp s p r again).slots = s.slots := by
  unfold portUp
  rw [if_pos ⟨hst, ha, hr, hd⟩]
  cases again with
  | false => exact ⟨rfl, rfl, rfl⟩
  | true =>
    dsimp only
    generalize hx : latchDeskew _ p = x
    have hheld : x.clocks.held = [] := by rw [← hx]; exact hw rfl
    rw [if_pos rfl, resumeStacks_none hheld, ← hx]
    exact ⟨rfl, rfl, rfl⟩

theorem startTraining_starts {s : State} {p : Nat} (hst : (mpOf s p).st = .off) (hpg : (mpOf s p).pg = true)
    (hd : s.power.on.getLsbD (mpDomain p) = true) :
    startTraining s p = { s with ports := smSet MemPort.off s.ports p { mpOf s p with st := .training } } := by
  unfold startTraining
  exact if_pos ⟨hst, hpg, hd⟩

theorem pgRise_trains {s : State} {p : Nat} (hw : woscRuns s = true) (hst : (mpOf s p).st = .off)
    (hd : s.power.on.getLsbD (mpDomain p) = true) :
    pgRise s p = { s with ports := smSet MemPort.off s.ports p { mpOf s p with pg := true, st := .training } } := by
  have hport := mpOf_set_same s p { mpOf s p with pg := true }
  generalize hx : ({ s with ports := smSet MemPort.off s.ports p { mpOf s p with pg := true } } : State) = x at hport
  have hdx : x.power.on.getLsbD (mpDomain p) = true := by rw [← hx]; exact hd
  unfold pgRise
  rw [if_pos hw, hx, startTraining_starts (by rw [hport]; exact hst) (by rw [hport]) hdx, hport, ← hx]
  dsimp only
  rw [smSet_smSet _ _ _ fun h => absurd (congrArg MemPort.pg h) Bool.false_ne_true.symm]

theorem pgFall_fails {s : State} {p : Nat} (hw : woscRuns s = true) (hpg : (mpOf s p).pg = true) (hst : (mpOf s p).st = .up)
    (hh : s.clocks.held = []) : mpOf (pgFall s p) p = { mpOf s p with pg := false, st := .failed, retrain := false, cause := 8 } := by
  unfold pgFall
  rw [if_neg (by rw [hw, hpg]; decide)]
  extract_lets +onlyGivenNames _ s1 x
  have hx : x = { mpOf s p with pg := false } := mpOf_set_same { s with mem := loseStack s.mem p } p _
  obtain ⟨hports, -, hheld⟩ := portFail_fails s1 p 8
  rw [if_pos (.inl (by rw [hx]; exact hst)), resumeStacks_none (hheld.trans hh), mpOf, hports, smGet_smSet_same, show mpOf s1 p = x from rfl, hx]
  rfl

/-- R393: what leaves power's state alone. -/
theorem loseTile_power (s : State) (t : Nat) : PowerStands s (loseTile s t) := rfl

theorem losePort_power (s : State) (p : Nat) : PowerStands s (losePort s p) := by
  unfold losePort
  dsimp only
  split <;> rfl

theorem noteQuiet_power (s : State) : PowerStands s (noteQuiet s) := by
  unfold noteQuiet
  split <;> rfl

theorem loseHalf_power (s : State) (h : Half) : PowerStands s (loseHalf s h) := by
  unfold loseHalf
  exact Eq.trans (noteQuiet_power _) (Eq.trans (setTb_power ..) (setHalf_power ..))

theorem foldl_power {f : State → Nat → State} (hf : ∀ s i, PowerStands s (f s i)) (l : List Nat) (s : State) : PowerStands s (l.foldl f s) := by
  induction l generalizing s with
  | nil => exact rfl
  | cons i l ih => exact (hf s i).trans (ih _)

theorem loseDomain_power (s : State) (d : Nat) : PowerStands s (loseDomain s d) := by
  unfold loseDomain
  extract_lets h k
  split
  · exact foldl_power (fun s _ => loseTile_power s _) _ _
  · split
    · exact foldl_power (fun s _ => losePort_power s _) _ _
    · split
      · exact loseHalf_power s h
      · exact foldl_power (fun s i => (hostDown_ports s _).power) _ _

/-- R393: the power state after a fault of a domain's regulator. -/
theorem domainFault_power {s : State} {d : Nat} (hon : s.power.on.getLsbD d = true) (hoff : s.su.off = false) :
    (domainFault s d).power
      = { s.power with on := s.power.on &&& ~~~(domBit d), clk := s.power.clk &&& ~~~(domBit d), fault := s.power.fault ||| domBit d } := by
  unfold domainFault
  rw [if_neg (by rw [hon, hoff]; decide)]
  extract_lets +onlyGivenNames h s1 s2 _ s3 s4
  have h2 : s2.power = s.power := (sendHalfEvent_frame ..).powerStands.trans (loseDomain_power s1 d)
  have h4 : s4.power = s3.power := (detect_frame ..).power
  have h3 : s3.power = { s.power with
      on := s.power.on &&& ~~~(domBit d), clk := s.power.clk &&& ~~~(domBit d), fault := s.power.fault ||| domBit d } := by rw [← h2]
  split
  · exact Eq.trans (clockCheck_power s4 1) (h4.trans h3)
  · exact h4.trans h3

theorem domBit_getLsbD {d e : Nat} (h : e < 36) : (domBit d).getLsbD e = decide (e = d) := by
  unfold domBit
  rw [BitVec.getLsbD_ofNat, decide_eq_true h, Bool.true_and, Nat.testBit_two_pow]
  exact decide_eq_decide.mpr eq_comm

/-- R342: a stack address is named by its port and its device address. -/
theorem stackAddr_portOf_devAddr (a : Nat) : portOf a < 32 ∧ stackAddr (portOf a) (devAddr a) = a := by
  unfold portOf devAddr stackAddr
  omega

theorem devAddr_lt {a : Nat} (h : a < stackEnd) : devAddr a < 48 * 2 ^ 30 := by
  unfold stackEnd at h
  unfold devAddr
  omega

theorem stackAddr_names {p d : Nat} (hp : p < 32) (hd : d < 48 * 2 ^ 30) :
    stackAddr p d < stackEnd ∧ portOf (stackAddr p d) = p ∧ devAddr (stackAddr p d) = d := by
  unfold stackEnd portOf devAddr stackAddr
  omega

/-- Settles O54, port by port, then the domains' faults and the addresses' arithmetic. -/
theorem memoryPortsAndDomains : Obligations.MemoryPortsAndDomains := by
  refine ⟨fun s p r => ?_, fun s d hd hon hoff => ⟨_, rfl, ?_⟩,
    fun a ha => ⟨(stackAddr_portOf_devAddr a).1, devAddr_lt ha, (stackAddr_portOf_devAddr a).2⟩, fun p d hp hd => stackAddr_names hp hd⟩
  · refine ⟨fun hw hst hd => ⟨_, exec_next rfl (pgRise_trains hw hst hd), mpOf_set_same .., rfl, fun q hq => mpOf_set_other _ _ hq⟩,
      fun hst hr hd => ⟨fun ha => ⟨_, rfl, portUp_ups hst ha hr hd (fun h => absurd h (by decide))⟩,
        fun ha hw => ⟨_, rfl, portUp_ups hst ha hr hd fun _ => hw.held⟩⟩,
      fun c hst ha hr h1 h6 => exec_next rfl ?_, fun hst ha hr hw => ⟨_, rfl, ?_⟩, fun hst => ⟨_, rfl, ?_⟩,
      fun hw hpg hst hh => ⟨_, rfl, pgFall_fails hw hpg hst hh⟩⟩
    · have hwas : ((mpOf s p.toNat).st == .up || (mpOf s p.toNat).retrain) = false := by rw [hst, ha]; rfl
      have hc : BitVec.ofNat 4 c.toNat = c := (BitVec.ofNat_toNat ..).trans (BitVec.setWidth_eq ..)
      rw [if_pos ⟨h1, h6⟩, portTimeout, if_pos ⟨hst, ha, hr⟩, if_neg Bool.false_ne_true, portFail, hwas, hc]
      rfl
    · obtain ⟨hports, hfailed, hheld⟩ := portFail_fails s p.toNat 7
      have hstate : portTimeout s p.toNat 7 true = portFail s p.toNat 7 := by
        rw [portTimeout, if_pos ⟨hst, ha, hr⟩, if_pos rfl, resumeStacks_none (hheld.trans hw.held)]
      rw [hstate]
      exact ⟨by rw [mpOf, hports, smGet_smSet_same]; rfl, hfailed⟩
    · rw [portRetrain, if_neg (not_not_intro hst)]
      exact ⟨(sendHalfEvent_frame ..).ports, (sendHalfEvent_frame ..).slots, (sendHalfEvent_frame ..).tiles⟩
  · rw [domainFault_power hon hoff]
    simp only [BitVec.getLsbD_and, BitVec.getLsbD_or, BitVec.getLsbD_not, domBit_self hd, hd, decide_true, Bool.not_true, Bool.and_false,
      Bool.or_true, true_and]
    intro e he hne
    rw [domBit_getLsbD he, decide_eq_false hne, Bool.not_false, decide_eq_true he, Bool.and_self, Bool.and_true]

/-- R306, R309: leaving Boxcars changes of the modes only that. -/
theorem leaveBoxcars_leaves (s : State) : (leaveBoxcars s).modes = { s.modes with boxing := false } ∧ (leaveBoxcars s).power = s.power := by
  unfold leaveBoxcars
  by_cases hb : s.modes.boxing = true
  · rw [if_pos hb, chosenNow, modeRelock]
    split <;> exact ⟨rfl, rfl⟩
  · rw [if_neg hb]
    exact ⟨by rw [← eq_false_of_ne_true hb], rfl⟩

/-- R29: the modes after a time that passes are those that the accounts and their limits leave. -/
theorem elapse_modes {s : State} {n : Nat} {m : Modes} (hc : clocksRun s = true) (hm : account s.modes n = m) :
    ∃ x : State, x.modes = m ∧ elapse s n = settlePower x := by
  have hlater : (laterState s n).modes = m := by
    show (if clocksRun s then account s.modes n else s.modes) = m
    rw [if_pos hc, hm]
  rw [elapse_eq]
  split
  · exact ⟨laterState s n, hlater, rfl⟩
  · exact ⟨measure (laterState s n), hlater, rfl⟩

theorem settlePower_spent {s : State} (hb : s.modes.boxing = true) (h : s.modes.thermal = 0) :
    (settlePower s).modes = { s.modes with boxing := false, recovering := true } := by
  rw [settlePower, if_pos ⟨hb, h⟩, (sendBlockEvent_frame ..).modes, (leaveBoxcars_leaves _).1]

theorem settlePower_worn {s : State} (hb : s.modes.boxing = true) (h : s.modes.thermal ≠ 0) (hw : wornOf s.modes = true) :
    (settlePower s).modes = { s.modes with boxing := false } := by
  rw [settlePower, if_neg fun c => h c.2, if_pos ⟨hb, hw⟩, (sendBlockEvent_frame ..).modes, (leaveBoxcars_leaves _).1]

theorem settlePower_recovered {s : State} (hb : s.modes.boxing = false) (hr : s.modes.recovering = true) (h : 20000 ≤ thermalMs s.modes) :
    (settlePower s).modes = { s.modes with recovering := false } := by
  have hnot : ¬ s.modes.boxing = true := by rw [hb]; exact Bool.false_ne_true
  rw [settlePower, if_neg fun c => hnot c.1, if_neg fun c => hnot c.1, if_pos ⟨hr, h⟩]

/-- R309: a sensor above its limit. -/
theorem boxHot_hot {s : State} {n : Nat} {t : BitVec 16} (hn : n < 24) (ht : 400 < (effTemp s n t).toInt) (hc : ctRuns s = true) :
    (boxHot s n t).modes = { s.modes with hot := true, boxing := false } ∧ smGet 0 (boxHot s n t).power.temps n = t := by
  unfold boxHot
  rw [if_neg (by rw [hc]; simp only [Bool.not_true, Bool.false_eq_true, or_false]; omega)]
  extract_lets +onlyGivenNames _ _ s1
  have htemp : smGet 0 s1.power.temps n = t := smGet_smSet_same ..
  split
  · rw [(sendBlockEvent_frame ..).modes, (sendBlockEvent_frame ..).power, (leaveBoxcars_leaves _).1, (leaveBoxcars_leaves _).2]
    exact ⟨rfl, htemp⟩
  · next hb => exact ⟨by rw [← show s.modes.boxing = false from eq_false_of_ne_true hb], htemp⟩

/-- Settles O55, limit by limit. -/
theorem boxcarsLimits : Obligations.BoxcarsLimits := by
  intro s _
  refine ⟨fun hb hc => ?_, fun hb hc hw ht => ?_, fun n t hn ht hc => ?_,
    fun l hl ht hc => ⟨_, exec_next rfl (if_pos ⟨hl, ?_, hc⟩), rfl, rfl, rfl⟩,
    fun hr hb hc ht => ?_⟩
  · obtain ⟨x, hx, helapse⟩ := elapse_modes (n := ceilDiv s.modes.thermal 5) hc (if_pos hb)
    have hspent := settlePower_spent (s := x) (by rw [hx]; exact hb) (by rw [hx]; exact Nat.sub_eq_zero_of_le (by unfold ceilDiv; omega))
    refine ⟨settlePower x, exec_next rfl ((if_pos ⟨hb, hc⟩).trans helapse), ?_⟩
    rw [hspent, hx]
    exact ⟨rfl, rfl, Nat.sub_eq_zero_of_le (by unfold ceilDiv; omega)⟩
  · obtain ⟨x, hx, helapse⟩ := elapse_modes (n := 7200000000000 - (s.modes.wearBase.toNat * 1000000 + s.modes.usedUs)) hc (if_pos hb)
    have hworn : wornOf x.modes = true := by
      rw [hx]
      refine decide_eq_true ?_
      show 7200000 ≤ s.modes.wearBase.toNat
        + (s.modes.usedUs + (7200000000000 - (s.modes.wearBase.toNat * 1000000 + s.modes.usedUs))) / 1000000
      omega
    have hleft : x.modes.thermal ≠ 0 := by
      rw [hx]
      exact Nat.sub_ne_zero_of_lt ht
    refine ⟨settlePower x, exec_next rfl ((if_pos ⟨hb, hc, ht⟩).trans helapse), ?_⟩
    rw [settlePower_worn (by rw [hx]; exact hb) hleft hworn]
    exact ⟨rfl, hworn, by rw [hx]⟩
  · obtain ⟨hmodes, htemp⟩ := boxHot_hot hn ht hc
    refine ⟨_, rfl, ?_, ?_, htemp⟩
    all_goals rw [hmodes]
  · have hnot : ¬ s.modes.boxing = true := by rw [hb]; exact Bool.false_ne_true
    have hfull : min 200000000 (s.modes.thermal + (100000000 - s.modes.thermal)) = 100000000 := by omega
    obtain ⟨x, hx, helapse⟩ := elapse_modes (n := 100000000 - s.modes.thermal) hc (if_neg hnot)
    rw [hfull] at hx
    refine ⟨settlePower x, exec_next rfl ((if_pos ⟨hr, by rw [hb]; rfl, hc⟩).trans helapse), ?_⟩
    rw [settlePower_recovered (by rw [hx]; exact hb) (by rw [hx]; exact hr) (by rw [hx]; show 20000 ≤ 100000000 / 5000; decide), hx]
  · rw [List.all_eq_true]
    intro p hp
    exact decide_eq_true (ht p.2 p.1 (List.mem_zipIdx_iff_getElem?.mp hp))

end Sys2Proof.Machine
end

section
/-! SUPPORT. The gate commands, their handshakes and the rails. -/

namespace Sys2Proof.Machine

/-- R395: a command's fields, as they stand in its word. -/
theorem gateWord_fields {op d : Nat} (ho : op < 4) (hd : d < 64) :
    fld (mk64 (put op 8 2 + put d 0 6)) 8 2 = op ∧ fld (mk64 (put op 8 2 + put d 0 6)) 0 6 = d := by
  have hput : put op 8 2 + put d 0 6 = op * 256 + d := by
    unfold put
    rw [Nat.shiftLeft_eq, Nat.shiftLeft_eq]
    omega
  have hword : (mk64 (op * 256 + d)).toNat = op * 256 + d := Nat.mod_eq_of_lt (by omega)
  rw [hput, fld, fld, hword, Nat.shiftRight_eq_div_pow, Nat.shiftRight_eq_div_pow]
  omega

/-- R395: a gate command is a write of GATE_CTL. -/
theorem gateWrite_served {s : State} {op d : Nat} (ho : op < 4) (hd : d < 64) (h : avail s (mgmtBase + 0x70060) = .served) :
    gateWrite s op d = gateCmd s op d := by
  have hreg : regBlock (mgmtBase + 0x70060) = some (.clocks, 0x60) := by decide +kernel
  obtain ⟨hop, hdom⟩ := gateWord_fields ho hd
  have hnot : ¬ ((avail s (mgmtBase + 0x70060) = .notReady ∧ s.clocks.src = 2) ∨ avail s (mgmtBase + 0x70060) = .held) := by
    rw [h]
    exact fun c => c.elim (fun c => absurd c.1 (by decide)) (fun c => absurd c (by decide))
  unfold gateWrite mgmtWrite
  rw [if_neg hnot, h, hreg]
  show gateCmd s (fld _ 8 2) (fld _ 0 6) = _
  rw [hop, hdom]

/-- R394: what a gate command notes of itself. -/
def gateNoted (s : State) (op : Nat) (d : BitVec 6) : State :=
  { s with power := { s.power with gateDomain := d, gateOp := BitVec.ofNat 2 op } }

/-- R394: where the gates are free, a command runs. -/
theorem gateWrite_runs {s : State} {op : Nat} {d : BitVec 6} (ho : op < 4) (hd : d.toNat < 36) (h : gateFree s = true) :
    gateWrite s op d.toNat = runGate (gateNoted s op d) op d.toNat := by
  simp only [gateFree, Bool.and_eq_true, beq_iff_eq, bne_iff_ne, Bool.not_eq_true', Option.isNone_iff_eq_none] at h
  obtain ⟨⟨⟨⟨⟨⟨hav, hwait⟩, hblock⟩, hoff⟩, hphase⟩, hrelock⟩, hct⟩ := h
  have hd6 : BitVec.ofNat 6 d.toNat = d := (BitVec.ofNat_toNat ..).trans (BitVec.setWidth_eq ..)
  have hidle : ¬ (s.errs.block = true ∨ s.su.off = true ∨ s.power.gateWait ≠ .idle) := by rw [hblock, hoff, hwait]; decide
  have hnow : ¬ (s.clocks.relock.isSome = true ∨ (!ctRuns s) = true) := by rw [hrelock, hct]; decide
  rw [gateWrite_served ho (by omega) hav, gateCmd, if_neg hidle, hd6]
  dsimp only
  rw [if_neg (fun c => c.elim hphase fun c => by omega), if_neg hnow]
  rfl

/-- R394, R395: in READY a command is refused. -/
theorem gateWrite_refused {s : State} {op : Nat} {d : BitVec 6} (ho : op < 4) (hp : s.su.phase = .ready)
    (hav : avail s (mgmtBase + 0x70060) = .served) (hblock : s.errs.block = false) (hoff : s.su.off = false) (hwait : s.power.gateWait = .idle) :
    gateWrite s op d.toNat = gateEnd (gateNoted s op d) 2 .idle := by
  have hd6 : BitVec.ofNat 6 d.toNat = d := (BitVec.ofNat_toNat ..).trans (BitVec.setWidth_eq ..)
  have hidle : ¬ (s.errs.block = true ∨ s.su.off = true ∨ s.power.gateWait ≠ .idle) := by rw [hblock, hoff, hwait]; decide
  rw [gateWrite_served ho d.isLt hav, gateCmd, if_neg hidle, hd6]
  dsimp only
  rw [if_pos (.inl hp)]
  rfl

/-- R394: the power state after a domain is taken off. -/
theorem domainOff_power (s : State) (d : Nat) :
    (domainOff s d).power = { s.power with on := s.power.on &&& ~~~(domBit d), clk := s.power.clk &&& ~~~(domBit d) } := by
  unfold domainOff
  extract_lets +onlyGivenNames s1 _ _ s2
  have h2 : s2.power = { s.power with on := s.power.on &&& ~~~(domBit d), clk := s.power.clk &&& ~~~(domBit d) } := by
    rw [← show s1.power = s.power from loseDomain_power s d]
  split
  · exact Eq.trans (clockCheck_power s2 1) h2
  · exact h2

/-- R394, R345: a domain that comes up leaves the tiles and memory. -/
theorem domainOn_stands (s : State) (d : Nat) : (domainOn s d).tiles = s.tiles ∧ (domainOn s d).mem = s.mem := by
  have hports (l : List Nat) (x : State) : (l.foldl startTraining x).tiles = x.tiles ∧ (l.foldl startTraining x).mem = x.mem := by
    induction l generalizing x with
    | nil => exact ⟨rfl, rfl⟩
    | cons p l ih =>
      have hone : (startTraining x p).tiles = x.tiles ∧ (startTraining x p).mem = x.mem := by
        unfold startTraining
        dsimp only
        split <;> exact ⟨rfl, rfl⟩
      exact ⟨(ih _).1.trans hone.1, (ih _).2.trans hone.2⟩
  have hon : (poweredOn s d).tiles = s.tiles ∧ (poweredOn s d).mem = s.mem := by
    unfold poweredOn latchGroup
    split <;> exact ⟨rfl, rfl⟩
  rw [domainOn_eq]
  split
  · exact ⟨(hports ..).1.trans hon.1, (hports ..).2.trans hon.2⟩
  · exact hon

theorem exec_gates {s : State} {d : BitVec 6} :
    exec (.closeClock d) s = .next (gateWrite s 0 d.toNat) ∧ exec (.openClock d) s = .next (gateWrite s 1 d.toNat)
      ∧ exec (.powerOff d) s = .next (gateWrite s 2 d.toNat) ∧ exec (.powerOn d) s = .next (gateWrite s 3 d.toNat) := ⟨rfl, rfl, rfl, rfl⟩

/-- R394, R395: each command on a domain, as it stands. -/
theorem runGate_close {s : State} {d : Nat} (h1 : s.power.on.getLsbD d = true) (h2 : s.power.clk.getLsbD d = true) :
    runGate s 0 d = gateEnd s 3 (.close false) ∧ runGate s 2 d = gateEnd s 3 (.close true) := by
  unfold runGate
  simp only [h1, h2, Bool.and_self, if_true, if_false, Nat.reduceEqDiff, and_self]

theorem runGate_closed {s : State} {d : Nat} (h : s.power.on.getLsbD d = false ∨ s.power.clk.getLsbD d = false) :
    runGate s 0 d = gateEnd { s with power := { s.power with clk := s.power.clk &&& ~~~(domBit d) } } 0 .idle
      ∧ runGate s 2 d = gateEnd (domainOff s d) 0 .idle := by
  have hnot : (s.power.on.getLsbD d && s.power.clk.getLsbD d) = false := Bool.and_eq_false_iff.mpr h
  unfold runGate
  simp only [hnot, Bool.false_eq_true, if_true, if_false, Nat.reduceEqDiff, and_self]

theorem runGate_open (s : State) (d : Nat) :
    runGate s 1 d
      = gateEnd { s with power := { s.power with clk := if s.power.on.getLsbD d then s.power.clk ||| domBit d else s.power.clk } } 0 .idle := by
  unfold runGate
  cases s.power.on.getLsbD d <;> rfl

theorem runGate_power (s : State) (d : Nat) :
    runGate s 3 d = if s.power.on.getLsbD d then gateEnd s 0 .idle else gateEnd s 3 .rail := rfl

theorem railDone_ends {s : State} (good : Bool) (hw : s.power.gateWait = .rail) (hc : ctRuns s = true) :
    railDone s good = if good then gateEnd (domainOn s s.power.gateDomain.toNat) 0 .idle else gateEnd s 1 .idle := by
  simp only [railDone, hw, hc, Bool.not_true, Bool.false_eq_true, if_false]

theorem handshakeDone_ends {s : State} {c : Nat} {b : Bool} (hw : s.power.gateWait = .close b)
    (hr : domainRuns s s.power.gateDomain.toNat = true) (hc : c ≤ 4096) :
    handshakeDone s c = gateEnd
      (if b then
        domainOff { s with power := { s.power with gateCycles := BitVec.ofNat 13 c, clk := s.power.clk &&& ~~~(domBit s.power.gateDomain.toNat) } }
          s.power.gateDomain.toNat
       else { s with power := { s.power with gateCycles := BitVec.ofNat 13 c, clk := s.power.clk &&& ~~~(domBit s.power.gateDomain.toNat) } })
      0 .idle := by
  simp only [handshakeDone, hw, hr, hc, and_self, if_true]

/-- Settles O45, command by command and end by end. -/
theorem gateCommands : Obligations.GateCommands := by
  refine ⟨fun s d hd => ⟨fun hfree => ?_, fun hp hav hblock hoff hwait => ?_⟩, fun s c => ⟨fun hw hr hc => ?_, fun hw hr hc => ?_,
    fun b hw hr => exec_next rfl ?_, fun hw hc => ⟨exec_next rfl (railDone_ends false hw hc), ?_⟩⟩⟩
  · have hrun {op : Nat} (ho : op < 4) : gateWrite s op d.toNat = runGate (gateNoted s op d) op d.toNat := gateWrite_runs ho hd hfree
    refine ⟨fun h1 h2 => exec_next rfl ((hrun (by decide)).trans (runGate_close (s := gateNoted s 0 d) h1 h2).1),
      exec_next rfl ((hrun (by decide)).trans (runGate_open (gateNoted s 1 d) _)),
      fun h1 h2 => exec_next rfl ((hrun (by decide)).trans (runGate_close (s := gateNoted s 2 d) h1 h2).2),
      fun h => exec_next rfl ((hrun (by decide)).trans ?_), fun h => exec_next rfl ((hrun (by decide)).trans ?_),
      fun h => ⟨exec_next rfl ((hrun (by decide)).trans (runGate_closed (s := gateNoted s 0 d) h).1),
        _, exec_next rfl ((hrun (by decide)).trans (runGate_closed (s := gateNoted s 2 d) h).2), ?_⟩⟩
    · rw [runGate_power, if_neg (by rw [show (gateNoted s 3 d).power.on = s.power.on from rfl, h]; decide)]
      rfl
    · rw [runGate_power, if_pos (show (gateNoted s 3 d).power.on.getLsbD d.toNat = true from h)]
      rfl
    · have hpower := domainOff_power (gateNoted s 2 d) d.toNat
      exact ⟨congrArg (·.on) hpower, congrArg (·.clk) hpower, rfl, rfl⟩
  · have hrefuse {op : Nat} (ho : op < 4) : gateWrite s op d.toNat = gateEnd (gateNoted s op d) 2 .idle :=
      gateWrite_refused ho hp hav hblock hoff hwait
    exact ⟨exec_next rfl (hrefuse (by decide)), exec_next rfl (hrefuse (by decide)), exec_next rfl (hrefuse (by decide)),
      exec_next rfl (hrefuse (by decide))⟩
  · have hc13 : BitVec.ofNat 13 c.toNat = c := (BitVec.ofNat_toNat ..).trans (BitVec.setWidth_eq ..)
    refine exec_next rfl ((handshakeDone_ends hw hr hc).trans ?_)
    rw [hc13]
    rfl
  · have hc13 : BitVec.ofNat 13 c.toNat = c := (BitVec.ofNat_toNat ..).trans (BitVec.setWidth_eq ..)
    refine ⟨_, exec_next rfl (handshakeDone_ends hw hr hc), ?_⟩
    rw [hc13, if_pos rfl]
    generalize hx : ({ s with power := { s.power with gateCycles := c, clk := s.power.clk &&& ~~~(domBit s.power.gateDomain.toNat) } } : State) = x
    have hpower := domainOff_power x s.power.gateDomain.toNat
    rw [← hx] at hpower ⊢
    refine ⟨congrArg (·.gateCycles) hpower, congrArg (·.on) hpower, (congrArg (·.clk) hpower).trans ?_, rfl, rfl⟩
    exact (BitVec.and_assoc ..).trans (congrArg _ (BitVec.and_self ..))
  · rw [handshakeTimeout, hw]
    exact if_pos hr
  · refine ⟨_, exec_next rfl (railDone_ends true hw hc), ?_, domainOn_stands s _⟩
    rw [if_pos rfl, gateEnd, domainOn_power]
    rfl

end Sys2Proof.Machine
end

section
/-! SUPPORT. Management writes that one register takes: the selects, TILE_FLUSH, firmware, seal and shutdown; messages out of order and notices. -/

namespace Sys2Proof.Machine

/-- R460: a served write reaches its register. -/
theorem mgmtWrite_served {s : State} {a : Nat} {b : RegBlock} {off : Nat} (d : W64) (h : avail s a = .served) (hr : regBlock a = some (b, off)) :
    mgmtWrite s a d = regWrite s b off d := by
  unfold mgmtWrite
  rw [h, hr]

/-- R250: a message that is not the next one changes nothing. -/
theorem onMessage_other {s : State} {m : Msg} (h : isNext s m = false) (kind : Bool) (f : State → Msg → State) : onMessage s m kind f = s :=
  if_neg fun c => Bool.false_ne_true (h.symm.trans c.1)

/-- Settles O30. -/
theorem messagesInOrder : Obligations.MessagesInOrder := fun _ _ h =>
  ⟨exec_next rfl (onMessage_other h _ onAdmit), exec_next rfl (onMessage_other h _ onTokens), exec_next rfl (onMessage_other h _ onTakeback),
    exec_next rfl (onMessage_other h _ onResign), exec_next rfl (onMessage_other h _ onPause), exec_next rfl (onMessage_other h _ onResume),
    exec_next rfl (onMessage_other h _ onResumeLoss), exec_next rfl (onMessage_other h _ onResumeRebuild),
    exec_next rfl (onMessage_other h _ onMark), exec_next rfl (onMessage_other h _ onDrop)⟩

/-- R319: the end of an interval of notices, for the notice that runs. -/
theorem noticeEnd_found {s : State} {k : NoticeKey} {n : Notice} (hw : windowOpen s = true)
    (hn : s.win.notices.find? (fun x => x.key == k) = some n) :
    noticeEnd s k =
      if n.pending then
        sendNotice { s with win := { s.win with notices := s.win.notices.map fun m => if m.key = k then { m with pending := false } else m } } n
      else { s with win := { s.win with notices := s.win.notices.filter fun m => m.key != k } } := by
  unfold noticeEnd
  rw [if_neg (by rw [hw]; decide), hn]

theorem sendNotice_sends {s : State} {n : Notice} {p : Nat} (h : noticePort s = some p) :
    sendNotice s n = { s with sent := s.sent ++ [noticePacket p n] } := by
  unfold sendNotice
  rw [h]
  rfl

theorem sendNotice_lost {s : State} {n : Notice} (h : noticePort s = none) : sendNotice s n = s := by
  unfold sendNotice
  rw [h]

/-- Settles O39: an interval that is over, one with a notice pending, and one whose notice no port takes. -/
theorem noticeIntervals : Obligations.NoticeIntervals := by
  intro s k hw
  refine ⟨fun hn => exec_next rfl ?_, fun n hn => ⟨fun hp => exec_next rfl ?_, fun p hp hport => exec_next rfl ?_, fun hp hport => exec_next rfl ?_⟩⟩
  · unfold noticeEnd
    rw [if_neg (by rw [hw]; decide), hn]
  · rw [noticeEnd_found hw hn, if_neg (by rw [hp]; decide)]
  · rw [noticeEnd_found hw hn, if_pos hp]
    exact sendNotice_sends hport
  · rw [noticeEnd_found hw hn, if_pos hp]
    exact sendNotice_lost hport

/-- R87: the registers of a tile are its block of the map. -/
theorem regBlock_tile (t : BitVec 10) {off : Nat} (ho : off < 4096) (h8 : off % 8 = 0) :
    regBlock (mgmtBase + 0x100000000 + 4096 * t.toNat + off) = some (.tile t.toNat, off) := by
  have ht := t.isLt
  have hbase : mgmtBase = 0xfe0000000000 := rfl
  have hpage : (mgmtBase + 0x100000000 + 4096 * t.toNat + off - mgmtBase) / 4096 = 0x100000 + t.toNat := by omega
  have hoff : (mgmtBase + 0x100000000 + 4096 * t.toNat + off) % 4096 = off := by omega
  unfold regBlock
  dsimp only
  rw [hpage, hoff, if_neg (by omega), if_pos (by omega), Nat.add_sub_cancel_left]

/-- R74: a flush step, queue by queue. -/
def flushStep (m : Nat) (tl : Tile) (q : Nat) : Tile := if m.testBit q then setQ tl q (qFlush (tileQ tl q)) else tl

theorem flushStep_queues (m : Nat) (tl : Tile) (k q : Nat) :
    tileQ (flushStep m tl k) q = if q = k ∧ m.testBit q = true then qFlush (tileQ tl q) else tileQ tl q := by
  unfold flushStep
  by_cases hk : q = k
  · rw [hk]
    by_cases hm : m.testBit k = true
    · rw [if_pos hm, if_pos ⟨rfl, hm⟩, tileQ_setQ_same]
    · rw [if_neg hm, if_neg fun c => hm c.2]
  · rw [if_neg (c := q = k ∧ _) fun c => hk c.1]
    split
    · exact tileQ_setQ_other _ _ _ _ hk
    · rfl

theorem flushSteps_queues (m n : Nat) (tl : Tile) (q : Nat) :
    tileQ ((List.range n).foldl (flushStep m) tl) q = if q < n ∧ m.testBit q = true then qFlush (tileQ tl q) else tileQ tl q := by
  induction n with
  | zero => exact (if_neg fun c => absurd c.1 (Nat.not_lt_zero q)).symm
  | succ n ih =>
    rw [List.range_succ, List.foldl_append, List.foldl_cons, List.foldl_nil, flushStep_queues, ih]
    by_cases hm : m.testBit q = true
    · by_cases hq : q = n
      · rw [if_pos ⟨hq, hm⟩, if_neg (by omega), if_pos ⟨by omega, hm⟩]
      · rw [if_neg (c := q = n ∧ _) fun c => hq c.1]
        exact ite_congr (propext (and_congr_left' (by omega))) (fun _ => rfl) fun _ => rfl
    · rw [if_neg fun c => hm c.2, if_neg fun c => hm c.2, if_neg fun c => hm c.2]

/-- R74: a flush changes of a tile only its queues. -/
theorem flushQueues_stands (tl : Tile) (m : Nat) : { flushQueues tl m with queues := tl.queues } = tl := by
  have hstep (l : List Nat) (x : Tile) : { l.foldl (flushStep m) x with queues := tl.queues } = { x with queues := tl.queues } := by
    induction l generalizing x with
    | nil => rfl
    | cons q l ih =>
      refine (ih (flushStep m x q)).trans ?_
      unfold flushStep
      split <;> rfl
  exact hstep _ tl

/-- Settles O43: the fold of the queues that the word names. -/
theorem tileFlushEmpties : Obligations.TileFlushEmpties := by
  intro s t d hav hblock
  refine ⟨flushQueues (tileOf s t.toNat) (fld d 0 18), exec_next rfl ?_, flushQueues_stands .., fun q => flushSteps_queues ..⟩
  rw [mgmtWrite_served d hav (regBlock_tile t (by decide) (by decide))]
  show (if s.errs.block then s else _) = _
  rw [if_neg (by rw [hblock]; decide)]

/-- Settles O42, register by register. -/
theorem selectsCopy : Obligations.SelectsCopy := by
  intro s d
  have hreq (h : Half) : regBlock (mgmtBase + 0x20018 + 4096 * halfNum h) = some (.req h, 0x018) := by cases h <;> decide +kernel
  refine ⟨fun h hav hh => exec_next rfl ((mgmtWrite_served d hav (hreq h)).trans (if_neg (not_not_intro hh))),
    fun h hh hav => exec_next rfl ((mgmtWrite_served d hav (hreq h)).trans (if_pos hh)),
    fun hav => exec_next rfl ((mgmtWrite_served (b := .errs) (off := 0x20) d hav (by decide +kernel)).trans rfl),
    fun hav => exec_next rfl ((mgmtWrite_served (b := .group) (off := 0x200) d hav (by decide +kernel)).trans rfl),
    fun hav => exec_next rfl ((mgmtWrite_served (b := .group) (off := 0x198) d hav (by decide +kernel)).trans rfl)⟩

/-- R349: reads that count poison change the ports' counters only. -/
theorem countPoison_ports (s : State) (a n : Nat) : ∃ ports, countPoison s a n = { s with ports := ports } := by
  have hfold (l : List Nat) (x : State) : ∃ ports, l.foldl addPoisonRd x = { x with ports := ports } := by
    induction l generalizing x with
    | nil => exact ⟨x.ports, rfl⟩
    | cons b l ih =>
      obtain ⟨p, hp⟩ := ih (addPoisonRd x b)
      refine ⟨p, hp.trans ?_⟩
      unfold addPoisonRd
      split <;> rfl
  exact hfold ..

theorem countDir_ports (s : State) : ∃ ports, countDir s = { s with ports := ports } := by
  unfold countDir
  split
  · exact countPoison_ports ..
  · exact ⟨s.ports, rfl⟩

/-- R442: a seal that passes its checks. -/
theorem sealBlock_seals {s : State} (hp : s.su.phase = .sealWait) (hf : sealFail s = none) :
    (sealBlock s).su.phase = .ready ∧ (sealBlock s).su.sealed = true ∧ (sealBlock s).su.counting = false
      ∧ (sealBlock s).win = { s.win with copy := readDir s } ∧ (sealBlock s).mem = s.mem := by
  obtain ⟨ports, hports⟩ := countDir_ports s
  unfold sealBlock
  rw [if_neg (not_not_intro hp), hf, hports]
  dsimp only
  unfold stopElapsed
  by_cases hc : s.su.counting = true
  · simp only [hc, if_true, and_self]
  · simp only [hc, Bool.false_eq_true, if_false, and_self]

theorem sealBlock_fails {s : State} {c : Nat} (hp : s.su.phase = .sealWait) (hf : sealFail s = some c) :
    sealBlock s = { countDir s with su := { s.su with code := BitVec.ofNat 8 c } } := by
  unfold sealBlock
  rw [if_neg (not_not_intro hp), hf]

theorem sealBlock_other {s : State} (hp : s.su.phase ≠ .sealWait) : sealBlock s = s := if_pos hp

/-- R442, R446: the two commands of word 0x08. -/
theorem startup_commands {s : State} (hav : avail s (mgmtBase + 0x90008) = .served) :
    mgmtWrite s (mgmtBase + 0x90008) 1 = sealBlock s
      ∧ mgmtWrite s (mgmtBase + 0x90008) 2 = if s.su.phase = .ready then beginShutdown s else s := by
  have hreg : regBlock (mgmtBase + 0x90008) = some (.startup, 0x08) := by decide +kernel
  have h10 : bit 1 0 = true ∧ bit 1 1 = false ∧ bit 2 0 = false ∧ bit 2 1 = true := by decide
  obtain ⟨h1, h2, h3, h4⟩ := h10
  rw [mgmtWrite_served _ hav hreg, mgmtWrite_served _ hav hreg]
  simp only [regWrite, writeStartup, h1, h2, h3, h4, if_true, Bool.false_eq_true, false_and, true_and, if_false, and_self]

/-- R446: what a shutdown leaves of the clocks: the memory ports' domains are shut. -/
theorem portDomains_bits {d : Nat} (h : d < 36) :
    ((List.range 8).foldl (fun b k => b ||| domBit (18 * (k / 4) + 12 + k % 4)) 0#36).getLsbD d = decide (12 ≤ d % 18 ∧ d % 18 < 16) := by
  decide +revert +kernel

/-- Settles O46, command by command. -/
theorem firmwareSealShutdown : Obligations.FirmwareSealShutdown := by
  intro s
  refine ⟨fun d hp hav => exec_next rfl ?_,
    fun hp hc hf => ⟨BitVec.ofNat 16 (numOf (((s.su.stewMem.map (·.1)).drop 2).take 2)), exec_next rfl ?_⟩,
    fun hp hc hf => exec_next rfl ?_,
    fun hp hav => ⟨fun c hf => exec_next rfl ((startup_commands hav).1.trans (sealBlock_fails hp hf)),
      fun hf => ⟨sealBlock s, exec_next rfl (startup_commands hav).1, sealBlock_seals hp hf⟩⟩,
    fun hp hav hb => exec_next rfl ((startup_commands hav).2.trans ?_), fun hp hcl hc ha hb => ?_⟩
  · rw [mgmtWrite_served (b := .startup) (off := 0x10) d hav (by decide +kernel)]
    exact if_neg (not_not_intro hp)
  · unfold fwAuth
    rw [if_neg (by rw [hp, hc]; decide), hf]
    rfl
  · unfold fwAuth
    rw [if_neg (by rw [hp, hc]; decide)]
    split
    · next h => exact absurd h hf
    · rfl
  · rw [if_pos hp, beginShutdown, if_pos ⟨hp, by rw [hb]; rfl⟩]
    unfold noteQuiet
    by_cases hj : s.halfA.jobs.isEmpty = true ∧ s.halfB.jobs.isEmpty = true
    · rw [if_pos ⟨rfl, hj⟩, hj.1, hj.2, Bool.and_self, Bool.or_true]
    · rw [if_neg fun c => hj c.2, eq_false_of_ne_true (fun c => hj (Bool.and_eq_true_iff.mp c)), Bool.or_false]
  · refine ⟨_, exec_next rfl (if_neg ?_), rfl, rfl, rfl, fun d hd => ?_⟩
    · rw [hp, hcl, hc, ha, hb]
      decide
    · refine (BitVec.getLsbD_and ..).trans (congrArg _ ?_)
      rw [BitVec.getLsbD_not, decide_eq_true hd, Bool.true_and]
      exact congrArg _ (portDomains_bits hd)

end Sys2Proof.Machine
end

section
/-! SUPPORT. Management writes, register by register. -/

namespace Sys2Proof.Machine

/-- R460: a served write sets its register. -/
theorem registerWrite_served {s : State} {a : W48} {d : W64} {b : RegBlock} {off : Nat} (h : servedAt s a b off) :
    exec (.registerWrite a d) s = .next (regWrite s b off d) := exec_next rfl (mgmtWrite_served d h.1 h.2)

theorem registerWrite_sets {s x : State} {a : W48} {d : W64} {b : RegBlock} {off : Nat} (h : servedAt s a b off) (hx : regWrite s b off d = x) :
    exec (.registerWrite a d) s = .next x := hx ▸ registerWrite_served h

theorem registerWrite_shut {s : State} {a : W48} {d : W64} (h : avail s a.toNat = .access ∨ avail s a.toNat = .notReady) :
    exec (.registerWrite a d) s = .next s := by
  refine exec_next rfl ?_
  unfold mgmtWrite
  obtain h | h := h
  · rw [h]
  · rw [h]

theorem registerWrite_held {s : State} {a : W48} {d : W64} (h : avail s a.toNat = .held) :
    exec (.registerWrite a d) s = .next { s with clocks := { s.clocks with held := s.clocks.held ++ [{ cmd := .registerWrite a d, turn := none }] } } := by
  refine exec_next rfl ?_
  have ha : BitVec.ofNat 48 a.toNat = a := (BitVec.ofNat_toNat ..).trans (BitVec.setWidth_eq ..)
  unfold mgmtWrite
  rw [h, ha]
  cases regBlock a.toNat <;> rfl

/-- R16: the register of a table of words. -/
theorem regIdx_at {base n p : Nat} (h : p < n) : regIdx (base + 8 * p) base n = some p := by
  unfold regIdx
  rw [if_pos (by omega), Nat.add_sub_cancel_left, Nat.mul_div_cancel_left p (by decide)]

theorem ite_not_sealed {α : Type} (b : Bool) (x y : α) : (if (!b) = true then x else y) = if b = true then y else x := by cases b <;> rfl

theorem writeHostPort {s : State} {p : Nat} (h : p < 4) (d : W64) :
    writeWindow s (0x100 + 8 * p) d
      = setHp s p { hpOf s p with downs := wf d 48 8, badpkt := wf d 32 16, badwr := wf d 16 16, retries := wf d 0 16 } := by
  have hne {k : Nat} (hk : k < 0x100) : 0x100 + 8 * p ≠ k := by omega
  simp only [writeWindow, hne (show 0x00 < 0x100 by decide), hne (show 0x08 < 0x100 by decide), hne (show 0x10 < 0x100 by decide),
    hne (show 0x18 < 0x100 by decide), hne (show 0x20 < 0x100 by decide), hne (show 0x28 < 0x100 by decide), if_false, regIdx_at h]

theorem writeMemPort {s : State} {p : Nat} (h : p < 32) (d : W64) :
    writePorts s (0x100 + 8 * p) d
      = { s with ports := smSet MemPort.off s.ports p { mpOf s p with retrains := wf d 40 8, poisonRd := wf d 16 16, retries := wf d 0 16 } } := by
  simp only [writePorts, regIdx_at h]

theorem writeAbsent {s : State} {w : Nat} (h : w < 8) (d : W64) :
    writeGroup s (0x040 + 8 * w) d
      = { s with group := { s.group with absent := s.group.absent &&& ~~~(BitVec.ofNat 512 (d.toNat * 2 ^ (64 * w))) } } := by
  have hne {k : Nat} (hk : k < 0x040 ∨ 0x080 ≤ k) : 0x040 + 8 * w ≠ k := by omega
  simp only [writeGroup, hne (show 0x010 < 0x040 ∨ 0x080 ≤ 0x010 by decide), hne (show 0x080 < 0x040 ∨ 0x080 ≤ 0x080 by decide),
    hne (show 0x088 < 0x040 ∨ 0x080 ≤ 0x088 by decide), hne (show 0x090 < 0x040 ∨ 0x080 ≤ 0x090 by decide),
    hne (show 0x098 < 0x040 ∨ 0x080 ≤ 0x098 by decide), hne (show 0x100 < 0x040 ∨ 0x080 ≤ 0x100 by decide),
    hne (show 0x108 < 0x040 ∨ 0x080 ≤ 0x108 by decide), hne (show 0x180 < 0x040 ∨ 0x080 ≤ 0x180 by decide),
    hne (show 0x188 < 0x040 ∨ 0x080 ≤ 0x188 by decide), hne (show 0x198 < 0x040 ∨ 0x080 ≤ 0x198 by decide),
    hne (show 0x200 < 0x040 ∨ 0x080 ≤ 0x200 by decide), if_false, regIdx_at h]

/-- R358: the bits that a write of one word of the members' flags clears. -/
theorem absent_bits (x : BitVec 512) (d : W64) {w b : Nat} (hb : b < 512) :
    (x &&& ~~~(BitVec.ofNat 512 (d.toNat * 2 ^ (64 * w)))).getLsbD b = (x.getLsbD b && !(b / 64 == w && d.getLsbD (b % 64))) := by
  have hword : (d.toNat * 2 ^ (64 * w)).testBit b = (b / 64 == w && d.getLsbD (b % 64)) := by
    rw [Nat.testBit_mul_two_pow]
    by_cases hw : b / 64 = w
    · rw [hw, beq_self_eq_true, Bool.true_and, decide_eq_true (by omega), Bool.true_and, show b - 64 * w = b % 64 by omega]
      rfl
    · rw [beq_eq_false_iff_ne.mpr hw, Bool.false_and]
      by_cases hlow : 64 * w ≤ b
      · rw [show d.toNat.testBit (b - 64 * w) = d.getLsbD (b - 64 * w) from rfl, BitVec.getLsbD_of_ge d _ (by omega), Bool.and_false]
      · rw [decide_eq_false hlow, Bool.false_and]
  rw [BitVec.getLsbD_and, BitVec.getLsbD_not, BitVec.getLsbD_ofNat, decide_eq_true hb, Bool.true_and, Bool.true_and, hword]

/-- Settles O41, register by register. -/
theorem registerWrites : Obligations.RegisterWrites := by
  intro s a d
  refine ⟨registerWrite_shut, registerWrite_held, fun _ _ h => registerWrite_served h, fun _ h => registerWrite_sets h rfl,
    fun _ h => registerWrite_sets h rfl, fun _ h => registerWrite_sets h rfl, fun h => registerWrite_sets h rfl, fun h => registerWrite_sets h rfl,
    fun h => registerWrite_sets h rfl, fun h => registerWrite_sets h rfl, fun h => registerWrite_sets h rfl, fun h => registerWrite_sets h rfl,
    fun h h2 h0 => registerWrite_sets h (if_neg (by omega)), fun h hbad => registerWrite_sets h (if_pos hbad),
    fun h => registerWrite_sets h (ite_not_sealed ..), fun h => registerWrite_sets h (ite_not_sealed ..),
    fun h => registerWrite_sets h (ite_not_sealed ..), fun h => registerWrite_sets h rfl, fun h => registerWrite_sets h rfl,
    fun h => registerWrite_sets h rfl, fun _ hp h => registerWrite_sets h (writeHostPort hp d),
    fun _ hp h => registerWrite_sets h (writeMemPort hp d), fun h => registerWrite_sets h rfl,
    fun w hw h => ⟨_, registerWrite_sets h (writeAbsent hw d), fun b hb => absent_bits _ d hb⟩, fun h => registerWrite_sets h rfl,
    fun h => registerWrite_sets h rfl, fun h => registerWrite_sets h rfl, fun h => registerWrite_sets h rfl, fun h => registerWrite_sets h rfl,
    fun h => registerWrite_sets h rfl, fun h => registerWrite_sets h rfl, fun h => registerWrite_sets h rfl, fun h => registerWrite_sets h rfl,
    fun h => registerWrite_sets h rfl, fun h => registerWrite_sets h rfl, fun h => registerWrite_sets h rfl, fun h => registerWrite_sets h rfl,
    fun h => registerWrite_sets h rfl, fun h => registerWrite_sets h rfl, fun h => registerWrite_sets h rfl, fun h => registerWrite_sets h rfl,
    fun h => registerWrite_sets h rfl, fun h => registerWrite_sets h rfl, fun _ h => registerWrite_sets h rfl, fun _ h => registerWrite_sets h rfl,
    fun _ h => registerWrite_sets h rfl, fun h => registerWrite_sets h rfl, fun _ h => registerWrite_sets h rfl⟩

end Sys2Proof.Machine
end

section
/-! SUPPORT. Host ports and their training. -/

namespace Sys2Proof.Machine

theorem EventFrame.hpOf_eq {s s' : State} (h : EventFrame s s') (p : Nat) : hpOf s' p = hpOf s p := by rw [hpOf, h.hosts]; rfl

/-- R314: a trained port that goes down. -/
theorem hostDown_downs {s : State} {p : Nat} (ht : (hpOf s p).trained = true) (q : Nat) :
    hpOf (hostDown s p) q = hpOf (setHp s p { hpOf s p with trained := false, downs := inc8 (hpOf s p).downs }) q := by
  unfold hostDown
  rw [if_neg (by rw [ht]; decide)]
  exact (sendHalfEvent_frame ..).hpOf_eq q

theorem hostDown_untrained {s : State} {p : Nat} (ht : (hpOf s p).trained = false) : hostDown s p = s := if_pos (by rw [ht]; rfl)

/-- R314: a port that trains. -/
theorem hostUp_trains {s : State} {p : Nat} {r : BitVec 7} (ht : (hpOf s p).trained = false) (hr : refRuns s = true)
    (hon : s.power.on.getLsbD (hpDomain p) = true) (hclk : s.power.clk.getLsbD (hpDomain p) = true) (q : Nat) :
    hpOf (hostUp s p r) q = hpOf (setHp s p { hpOf s p with trained := true, repaired := r }) q := by
  unfold hostUp
  rw [if_neg (by rw [ht, hr, hon, hclk]; decide)]
  exact (sendHalfEvent_frame ..).hpOf_eq q

/-- Settles O29, port by port. -/
theorem hostPortsTrain : Obligations.HostPortsTrain := by
  intro s p r
  refine ⟨fun ht => ⟨_, rfl, (hostDown_downs ht _).trans (hpOf_setHp_same ..), fun q hq => (hostDown_downs ht q).trans (hpOf_setHp_other _ _ _ _ hq)⟩,
    fun ht => exec_next rfl (hostDown_untrained ht),
    fun ht hr hon hclk => ⟨_, rfl, (hostUp_trains ht hr hon hclk _).trans (hpOf_setHp_same ..),
      fun q hq => (hostUp_trains ht hr hon hclk q).trans (hpOf_setHp_other _ _ _ _ hq)⟩,
    fun q hq => exec_next rfl ?_, fun q h4 ht => exec_next rfl ?_⟩
  · rw [flitReplay, if_pos rfl]
    exact if_pos hq
  · rw [flitReplay, if_neg Bool.false_ne_true]
    exact if_pos ⟨ht, h4⟩

end Sys2Proof.Machine
end

section
/-! SUPPORT. Frames on the M-chain. -/

namespace Sys2Proof.Machine

theorem mcSend_idle {s : State} (hf : s.su.fwd = []) (ho : s.su.own = []) : mcSend s = s := by
  unfold mcSend
  rw [hf, ho]
  rfl

/-- R449: a frame that arrives on a chain with nothing to send. -/
theorem mcArrive_good {s : State} {f : Frame} (k : State → State) (hq : mcQuiet s = true) (hc : crcOk f = true) : mcArrive s f k = k s := by
  simp only [mcQuiet, Bool.and_eq_true, List.isEmpty_iff] at hq
  obtain ⟨⟨hruns, hfwd⟩, hown⟩ := hq
  unfold mcArrive
  rw [if_neg (by rw [hruns]; decide), mcSend_idle hfwd hown]
  exact if_pos hc

theorem mcArrive_bad {s : State} {f : Frame} (k : State → State) (hq : mcQuiet s = true) (hc : crcOk f = false) :
    mcArrive s f k = { s with su := { s.su with badcrc := inc16 s.su.badcrc } } := by
  simp only [mcQuiet, Bool.and_eq_true, List.isEmpty_iff] at hq
  obtain ⟨⟨hruns, hfwd⟩, hown⟩ := hq
  unfold mcArrive
  rw [if_neg (by rw [hruns]; decide), mcSend_idle hfwd hown]
  exact if_neg (by rw [hc]; decide)

theorem mcQuiet_empty {s : State} (hq : mcQuiet s = true) : s.su.fwd = [] ∧ s.su.own = [] := by
  simp only [mcQuiet, Bool.and_eq_true, List.isEmpty_iff] at hq
  exact ⟨hq.1.2, hq.2⟩

theorem mcPass_first {s : State} {f : Frame} (h : s.su.fwd = []) : mcPass s f = { s with su := { s.su with fwd := [f] } } := by
  unfold mcPass
  rw [h]
  rfl

/-- R448: the answer of a seated block. -/
theorem respond_first {s : State} {f : Frame} {st : Nat} {d : W64} (ho : s.su.own = []) (hs : s.su.seated = true) :
    respond s f st d = { s with su := { s.su with own := [sealFrame
      { type := 4, flags := BitVec.ofNat 8 (put st 4 4 + put 1 1 1), dst := 0, src := s.su.addr, tag := f.tag, arg := 0, data := d
        crc := 0 }] } } := by
  unfold respond ownFrame
  rw [ho, hs]
  exact if_pos (.inl (by show 1 ≤ 4; decide))

/-- R449: an RD for the block, by what its register answers. -/
theorem mcRead_served {s : State} {f : Frame} {b : RegBlock} {off : Nat} (ha : mcAvail s (mcAddr f) = .served) (hr : regBlock (mcAddr f) = some (b, off)) :
    mcRead s f = respond s f 0 (regWord s b off) := by
  unfold mcRead
  rw [ha, hr]

theorem mcRead_other {s : State} {f : Frame} :
    (mcAvail s (mcAddr f) = .notReady → mcRead s f = respond s f 2 0) ∧ (mcAvail s (mcAddr f) = .access → mcRead s f = respond s f 1 0)
      ∧ (mcAvail s (mcAddr f) = .held → mcRead s f = holdCmd s (.mcRd f)) := by
  unfold mcRead
  refine ⟨fun h => ?_, fun h => ?_, fun h => ?_⟩
  all_goals rw [h]

theorem mcWrite_served {s : State} {f : Frame} {b : RegBlock} {off : Nat} (ha : mcAvail s (mcAddr f) = .served) (hr : regBlock (mcAddr f) = some (b, off)) :
    mcWrite s f =
      if s.su.lastWr = some (f.tag, mk64 (mcAddr f), f.data) then respond s f 0 (regWord s b off)
      else
        respond (regWrite { s with su := { s.su with lastWr := some (f.tag, mk64 (mcAddr f), f.data) } } b off f.data) f 0
          (regWord (regWrite { s with su := { s.su with lastWr := some (f.tag, mk64 (mcAddr f), f.data) } } b off f.data) b off) := by
  unfold mcWrite
  rw [ha, hr]

theorem mcWrite_other {s : State} {f : Frame} :
    (mcAvail s (mcAddr f) = .notReady → mcWrite s f = respond s f 2 0) ∧ (mcAvail s (mcAddr f) = .access → mcWrite s f = respond s f 1 0)
      ∧ (mcAvail s (mcAddr f) = .held → mcWrite s f = holdCmd s (.mcWr f)) := by
  unfold mcWrite
  refine ⟨fun h => ?_, fun h => ?_, fun h => ?_⟩
  all_goals rw [h]

/-- R450: a SEAT, by its count and the seal. -/
theorem seat_seats {s : State} {f : Frame} (hf : s.su.fwd = []) (hn : fld f.arg 0 9 < 256) (hs : s.su.sealed = false) :
    seat s f = { s with su := { s.su with
      addr := BitVec.ofNat 16 (fld f.arg 16 8 * 256 + fld f.arg 0 9), seated := true, fwd := [sealFrame { f with arg := f.arg + 1 }] } } := by
  unfold seat
  dsimp only
  rw [if_neg (by omega), if_neg (by rw [hs]; decide)]
  exact mcPass_first hf

theorem seat_full {s : State} {f : Frame} (hf : s.su.fwd = []) (hn : 256 ≤ fld f.arg 0 9) :
    seat s f = { s with su := { s.su with refused := inc16 s.su.refused, fwd := [sealFrame { f with flags := f.flags ||| 1 }] } } := by
  unfold seat
  dsimp only
  rw [if_pos hn]
  exact mcPass_first hf

theorem seat_sealed {s : State} {f : Frame} (hf : s.su.fwd = []) (hn : fld f.arg 0 9 < 256) (hs : s.su.sealed = true) :
    seat s f = { s with su := { s.su with
      refused := inc16 s.su.refused, fwd := [sealFrame { f with arg := f.arg + 1, flags := f.flags ||| 1 }] } } := by
  unfold seat
  dsimp only
  rw [if_neg (by omega), if_pos hs]
  exact mcPass_first hf

/-- R448, R449: frames that a chain with nothing to send takes. -/
theorem exec_mcSeat {s : State} {f : Frame} (hq : mcQuiet s = true) (hc : crcOk f = true) (ht : f.type = 1) :
    exec (.mcSeat f) s = .next (seat s f) := exec_next rfl ((if_pos ht).trans (mcArrive_good _ hq hc))

theorem exec_mcRd {s : State} {f : Frame} (hq : mcQuiet s = true) (hc : crcOk f = true) (ht : f.type = 2) (hm : isMine s f = true) :
    exec (.mcRd f) s = .next (mcRead s f) := exec_next rfl ((if_pos ⟨ht, hm⟩).trans (mcArrive_good _ hq hc))

theorem exec_mcWr {s : State} {f : Frame} (hq : mcQuiet s = true) (hc : crcOk f = true) (ht : f.type = 3) (hm : isMine s f = true) :
    exec (.mcWr f) s = .next (mcWrite s f) := exec_next rfl ((if_pos ⟨ht, hm⟩).trans (mcArrive_good _ hq hc))

theorem isMine_seated {s : State} {f : Frame} (h : isMine s f = true) : s.su.seated = true := (Bool.and_eq_true_iff.mp h).1

theorem wf_low (d : W64) : wf d 0 32 = BitVec.ofNat 32 d.toNat := by
  refine BitVec.eq_of_toNat_eq ?_
  unfold wf fld
  rw [BitVec.toNat_ofNat, BitVec.toNat_ofNat, Nat.shiftRight_zero, Nat.mod_mod]

/-- Settles O40, frame by frame. -/
theorem chainFrames : Obligations.ChainFrames := by
  intro s f hq
  obtain ⟨hfwd, hown⟩ := mcQuiet_empty hq
  have hanswer {st : Nat} {d : W64} (hm : isMine s f = true) := respond_first (f := f) (st := st) (d := d) hown (isMine_seated hm)
  refine ⟨fun hc ht hn hs => (exec_mcSeat hq hc ht).trans (congrArg _ (seat_seats hfwd hn hs)),
    fun hc ht hn => (exec_mcSeat hq hc ht).trans (congrArg _ (seat_full hfwd hn)),
    fun hc ht hn hs => (exec_mcSeat hq hc ht).trans (congrArg _ (seat_sealed hfwd hn hs)),
    fun b off hc ht hm ha hr => exec_next (exec_mcRd hq hc ht hm) ((mcRead_served ha hr).trans (hanswer hm)),
    fun hc ht hm ha => exec_next (exec_mcRd hq hc ht hm) ((mcRead_other.1 ha).trans (hanswer hm)),
    fun hc ht hm ha => exec_next (exec_mcRd hq hc ht hm) ((mcRead_other.2.1 ha).trans (hanswer hm)),
    fun hc ht hm ha => exec_next (exec_mcRd hq hc ht hm) (mcRead_other.2.2 ha),
    fun hc ht hm => ⟨fun ha => exec_next (exec_mcWr hq hc ht hm) ((mcWrite_other.1 ha).trans (hanswer hm)),
      fun ha => exec_next (exec_mcWr hq hc ht hm) ((mcWrite_other.2.1 ha).trans (hanswer hm)),
      fun ha => exec_next (exec_mcWr hq hc ht hm) (mcWrite_other.2.2 ha),
      fun b off ha hr => ⟨fun hl => exec_next (exec_mcWr hq hc ht hm) ((mcWrite_served ha hr).trans ((if_pos hl).trans (hanswer hm))),
        fun hl => exec_next (exec_mcWr hq hc ht hm) ((mcWrite_served ha hr).trans (if_neg hl))⟩⟩,
    fun off hc ht hm ha hr hoff hl => exec_next (exec_mcWr hq hc ht hm) ((mcWrite_served ha hr).trans ((if_neg hl).trans ?_)),
    fun hc hn => exec_next rfl ((if_neg (by rw [hn]; simp only [Bool.false_eq_true, false_and, not_false_eq_true])).trans
      ((mcArrive_good _ hq hc).trans (mcPass_first hfwd))),
    fun hc => exec_next rfl ((if_neg (by rw [hc]; simp only [Bool.false_eq_true, and_false, not_false_eq_true])).trans (mcArrive_bad _ hq hc))⟩
  subst hoff
  generalize hx : ({ s with su := { s.su with lastWr := some (f.tag, mk64 (mcAddr f), f.data) } } : State) = x
  have hwrite : regWrite x .turns 0x08 f.data = { x with turns := { x.turns with nom := BitVec.ofNat 32 f.data.toNat } } := by
    rw [← wf_low]
    rfl
  rw [hwrite, respond_first (by rw [← hx]; exact hown) (by rw [← hx]; exact isMine_seated hm), ← hx]
  rfl

end Sys2Proof.Machine
end

section
/-! SUPPORT. Packets on an open host port. -/

namespace Sys2Proof.Machine

/-- R314: what an open port is. -/
theorem portOpen_iff {s : State} {p : Nat} :
    portOpen s p = true ↔ (hpOf s p).trained = true ∧ s.power.on.getLsbD (hpDomain p) = true ∧ domainShut s (hpDomain p) = false
      ∧ refRuns s = true ∧ s.clocks.relock = none ∧ s.clocks.held.any (fun c => cmdPort c.cmd == some p) = false := by
  simp only [portOpen, Bool.and_eq_true, Bool.not_eq_true', Option.isNone_iff_eq_none, and_assoc]

/-- R316: a packet on an open port is applied, or waits where what it reaches is shut. -/
theorem onPort_open {s : State} {p : Nat} {i : Instr} {shut : Bool} {f : State → W32 → State} (h : portOpen s p = true) :
    onPort s p i shut f =
      if shut then { s with clocks := { s.clocks with held := s.clocks.held ++ [{ cmd := i, turn := some s.turns.cur }] } } else f s s.turns.cur := by
  obtain ⟨ht, hon, hdom, hr, hl, hheld⟩ := portOpen_iff.mp h
  unfold onPort portApply
  rw [if_neg (by rw [ht, hon, hr]; decide)]
  dsimp only
  rw [hl, hdom, hheld, if_neg (by decide)]
  cases shut <;> rfl

theorem bytesOf_length (n v : Nat) : (bytesOf n v).length = n := by
  induction n generalizing v with
  | zero => rfl
  | succ n ih => exact congrArg Nat.succ (ih _)

theorem flatMap_bytesOf_length (ws : List W64) : (ws.flatMap fun w => bytesOf 8 w.toNat).length = 8 * ws.length := by
  induction ws with
  | nil => rfl
  | cons w ws ih =>
    rw [List.flatMap_cons, List.length_append, ih, List.length_cons, show (bytesOf 8 w.toNat).length = 8 from bytesOf_length ..]
    omega

/-- R346: words written leave every byte outside them. -/
theorem memByte_memPutWords_other (m : Mem) {a b : Nat} {ws : List W64} (h : b < a ∨ a + 8 * ws.length ≤ b) :
    memByte (memPutWords m a ws) b = memByte m b := by
  refine memByte_memWrite_other _ _ _ _ ?_
  rwa [clean, List.length_map, flatMap_bytesOf_length]

theorem memWords_length (m : Mem) (a n : Nat) : (memWords m a n).length = n := by
  unfold memWords tab
  rw [List.length_map, List.length_range]

theorem countReads_clean {s : State} {a n : Nat} (h : memAnyPz s.mem (winAddr s a) n = false) : countReads s a n = s := by
  unfold countReads countPoison
  rw [badUnits_clean h]
  rfl

/-- R316: a header that holds names its TYPE. -/
theorem headOk_type {w0 : W64} {t : Nat} (h : headOk w0 t = true) : fld w0 56 8 = t := by
  simp only [headOk, Bool.and_eq_true, beq_iff_eq] at h
  exact h.1.1

/-- R316, R317: a write with a good header. -/
theorem mwr_applies {s : State} {p : Nat} {w0 w1 : W64} {data : List W64} (hh : headOk w0 0x10 = true) (h0 : fld w1 48 15 = 0)
    (hd : data.length = pktLen w0) : mwr s p w0 w1 data = applyWrite s p w0 w1 data := by
  unfold mwr
  rw [if_neg (not_not_intro (headOk_type hh)), if_neg (by rw [hh, h0]; decide), if_neg (not_not_intro hd)]

theorem mrd_applies {s : State} {p : Nat} {w0 w1 : W64} (hh : headOk w0 0x11 = true) (h0 : fld w1 48 15 = 0) :
    mrd s p w0 w1 = applyRead s p w0 w1 := by
  unfold mrd
  rw [if_neg (not_not_intro (headOk_type hh)), if_neg (by rw [hh, h0]; decide)]

theorem mwr_bad {s : State} {p : Nat} {w0 w1 : W64} {data : List W64} (ht : fld w0 56 8 = 0x10) (hh : headOk w0 0x10 = false) :
    mwr s p w0 w1 data = badPacket s p := by
  unfold mwr
  rw [if_neg (not_not_intro ht)]
  exact if_pos (.inl (by rw [hh]; rfl))

theorem mrd_bad {s : State} {p : Nat} {w0 w1 : W64} (ht : fld w0 56 8 = 0x11) (hh : headOk w0 0x11 = false) :
    mrd s p w0 w1 = badPacket s p := by
  unfold mrd
  rw [if_neg (not_not_intro ht)]
  exact if_pos (.inl (by rw [hh]; rfl))

theorem doorbell_bad {s : State} {p : Nat} {w0 w1 : W64} {turn : W32} (ht : fld w0 56 8 = 0x20) (hh : headOk w0 0x20 = false) :
    doorbell s p w0 w1 turn = badPacket s p := by
  unfold doorbell
  rw [if_neg (not_not_intro ht)]
  exact if_pos (.inl (by rw [hh]; rfl))

/-- R317: the answer to a read on a trained port. -/
theorem complete_sends {s : State} {p : Nat} {w0 : W64} (ht : (hpOf s p).trained = true) (data : Option (List W64)) :
    complete s p w0 data = { s with sent := s.sent ++ [{
      port := p, w0 := packetHdr 0x12 (fld w0 32 16) ((data.map List.length).getD 0) (if data.isSome then 0 else 1), w1 := 0
      data := data.getD [] }] } := by
  unfold complete
  exact if_neg (by rw [ht]; decide)

/-- R316: what a packet to the window waits for. -/
theorem accessShut_window {s : State} {w0 w1 : W64} (hm : bit w1 63 = false) :
    accessShut s w0 w1
      = (!s.errs.block && windowAccess s (fld w1 0 48) (pktLen w0) && rangeShut s (winAddr s (fld w1 0 48)) (8 * pktLen w0)) := by
  unfold accessShut
  exact if_neg (by rw [hm]; decide)

/-- R460: what a packet to a register waits for. -/
theorem accessShut_mgmt {s : State} {w0 w1 : W64} (hm : bit w1 63 = true) :
    accessShut s w0 w1 = (mgmtAccess (fld w1 0 48) (pktLen w0) && avail s (fld w1 0 48) == .held) := by
  unfold accessShut
  exact if_pos hm

theorem mgmtAccess_iff {a n : Nat} : mgmtAccess a n = true ↔ n = 1 ∧ a % 8 = 0 ∧ mgmtBase ≤ a := by
  simp only [mgmtAccess, Bool.and_eq_true, beq_iff_eq, decide_eq_true_eq, and_assoc]

theorem avail_none {s : State} {a : Nat} (h : regBlock a = none) : avail s a = .access := by
  unfold avail
  rw [h]

/-- R316: a packet that an open port applies, or keeps waiting. -/
theorem exec_mwr {s : State} {p : BitVec 2} {w0 w1 : W64} {data : List W64} (h : portOpen s p.toNat = true) (hs : accessShut s w0 w1 = false) :
    exec (.mwr p w0 w1 data) s = .next (mwr s p.toNat w0 w1 data) := by
  refine exec_next rfl ((onPort_open h).trans ?_)
  rw [hs]
  rfl

theorem exec_mrd {s : State} {p : BitVec 2} {w0 w1 : W64} (h : portOpen s p.toNat = true) (hs : accessShut s w0 w1 = false) :
    exec (.mrd p w0 w1) s = .next (mrd s p.toNat w0 w1) := by
  refine exec_next rfl ((onPort_open h).trans ?_)
  rw [hs]
  rfl

theorem exec_doorbell {s : State} {p : BitVec 2} {w0 w1 : W64} (h : portOpen s p.toNat = true) :
    exec (.doorbell p w0 w1) s = .next (doorbell s p.toNat w0 w1 s.turns.cur) := exec_next rfl (onPort_open h)

/-- R316: a write to the window. -/
theorem applyWrite_window {s : State} {p : Nat} {w0 w1 : W64} {data : List W64} (hm : bit w1 63 = false) (hb : s.errs.block = false) :
    applyWrite s p w0 w1 data = if windowAccess s (fld w1 0 48) (pktLen w0) then winPut s (fld w1 0 48) data else badWrite s p := by
  unfold applyWrite
  dsimp only
  rw [if_neg (by rw [hm]; decide), if_neg (by rw [hb]; decide), ite_not_sealed]

/-- R457: a write to the management space. -/
theorem applyWrite_mgmt {s : State} {p : Nat} {w0 w1 : W64} {data : List W64} (hm : bit w1 63 = true) :
    applyWrite s p w0 w1 data =
      if mgmtAccess (fld w1 0 48) (pktLen w0) = true ∧ (regBlock (fld w1 0 48)).isSome = true then mgmtWrite s (fld w1 0 48) (data.headD 0)
      else badWrite s p := by
  unfold applyWrite
  exact if_pos hm

theorem applyRead_window {s : State} {p : Nat} {w0 w1 : W64} (hm : bit w1 63 = false) :
    applyRead s p w0 w1 =
      if windowAccess s (fld w1 0 48) (pktLen w0) then
        complete (countReads s (fld w1 0 48) (8 * pktLen w0)) p w0 (some (memWords s.mem (winAddr s (fld w1 0 48)) (pktLen w0)))
      else complete s p w0 none := by
  unfold applyRead
  dsimp only
  rw [if_neg (by rw [hm]; decide), ite_not_sealed]

theorem applyRead_served {s : State} {p : Nat} {w0 w1 : W64} {b : RegBlock} {off : Nat} (hm : bit w1 63 = true)
    (ha : mgmtAccess (fld w1 0 48) (pktLen w0) = true) (hv : avail s (fld w1 0 48) = .served) (hr : regBlock (fld w1 0 48) = some (b, off)) :
    applyRead s p w0 w1 = complete s p w0 (some [regWord s b off]) := by
  unfold applyRead
  dsimp only
  rw [if_pos hm, if_pos ha, hv, hr]

theorem applyRead_refused {s : State} {p : Nat} {w0 w1 : W64} (hm : bit w1 63 = true)
    (h : mgmtAccess (fld w1 0 48) (pktLen w0) = false ∨ avail s (fld w1 0 48) = .access ∨ avail s (fld w1 0 48) = .notReady) :
    applyRead s p w0 w1 = complete s p w0 none := by
  unfold applyRead
  dsimp only
  rw [if_pos hm]
  split
  · next ha =>
    obtain h | h | h := h
    · exact absurd ha (by rw [h]; decide)
    · rw [h]
    · rw [h]
  · rfl

/-- Settles O27, packet by packet. -/
theorem hostPacketsServed : Obligations.HostPacketsServed := by
  intro s p w0 w1 hopen
  have htrained := (portOpen_iff.mp hopen).1
  refine ⟨fun data hh h0 hd hm hb => ⟨fun hw hshut => ?_, fun hw => ?_⟩, fun hh h0 hm => ⟨fun hw hshut hpz => ?_, fun hw => ?_⟩,
    fun data ht hh hs => exec_next (exec_mwr hopen hs) (mwr_bad ht hh), fun ht hh hs => exec_next (exec_mrd hopen hs) (mrd_bad ht hh),
    fun ht hh => exec_next (exec_doorbell hopen) (doorbell_bad ht hh), fun hm h0 => ⟨fun data d hh hd hhead => ?_, fun hh => ?_⟩, fun h1 h2 h3 => ?_⟩
  · have hs : accessShut s w0 w1 = false := by rw [accessShut_window hm, hshut, Bool.and_false]
    refine ⟨winPut s (fld w1 0 48) data, exec_next (exec_mwr hopen hs) ?_, rfl, rfl, fun y hy => memByte_memPutWords_other _ (by rw [hd]; exact hy)⟩
    rw [mwr_applies hh h0 hd, applyWrite_window hm hb, if_pos hw]
  · have hs : accessShut s w0 w1 = false := by rw [accessShut_window hm, hw, Bool.and_false, Bool.false_and]
    refine exec_next (exec_mwr hopen hs) ?_
    rw [mwr_applies hh h0 hd, applyWrite_window hm hb, if_neg (by rw [hw]; decide)]
    rfl
  · have hs : accessShut s w0 w1 = false := by rw [accessShut_window hm, hshut, Bool.and_false]
    refine exec_next (exec_mrd hopen hs) ?_
    rw [mrd_applies hh h0, applyRead_window hm, if_pos hw, countReads_clean hpz, complete_sends htrained, Option.map_some, memWords_length]
    rfl
  · have hs : accessShut s w0 w1 = false := by rw [accessShut_window hm, hw, Bool.and_false, Bool.false_and]
    refine exec_next (exec_mrd hopen hs) ?_
    rw [mrd_applies hh h0, applyRead_window hm, if_neg (by rw [hw]; decide), complete_sends htrained]
    rfl
  · have hfirst : data.headD 0 = d := by rw [List.headD_eq_head?_getD, hhead]; rfl
    have hopenShut (hv : mgmtAccess (fld w1 0 48) (pktLen w0) = false ∨ avail s (fld w1 0 48) ≠ .held) : accessShut s w0 w1 = false := by
      rw [accessShut_mgmt hm]
      exact Bool.and_eq_false_iff.mpr (hv.imp id fun hv => beq_eq_false_iff_ne.mpr hv)
    refine ⟨fun b off hone hv hr => exec_next (exec_mwr hopen (hopenShut (.inr (by rw [hv]; decide)))) ?_,
      fun hone hr hv => exec_next (exec_mwr hopen (hopenShut (.inr (by obtain hv | hv := hv <;> rw [hv] <;> decide)))) ?_,
      fun hno => exec_next (exec_mwr hopen (hopenShut ?_)) ?_, fun hone hv => exec_next rfl ((onPort_open hopen).trans ?_)⟩
    · rw [mwr_applies hh h0 hd, applyWrite_mgmt hm, if_pos ⟨mgmtAccess_iff.mpr hone, by rw [hr]; rfl⟩, hfirst, mgmtWrite_served d hv hr]
    · rw [mwr_applies hh h0 hd, applyWrite_mgmt hm, if_pos ⟨mgmtAccess_iff.mpr hone, hr⟩]
      unfold mgmtWrite
      obtain hv | hv := hv
      · rw [hv]
      · rw [hv]
    · exact hno.imp (fun h => eq_false_of_ne_true fun c => h (mgmtAccess_iff.mp c)) fun h => by rw [avail_none h]; decide
    · rw [mwr_applies hh h0 hd, applyWrite_mgmt hm, if_neg fun c =>
        hno.elim (fun h => h (mgmtAccess_iff.mp c.1)) fun h => by rw [h] at c; exact absurd c.2 (by decide)]
      rfl
    · rw [accessShut_mgmt hm, mgmtAccess_iff.mpr hone, hv]
      rfl
  · have hopenShut (hv : mgmtAccess (fld w1 0 48) (pktLen w0) = false ∨ avail s (fld w1 0 48) ≠ .held) : accessShut s w0 w1 = false := by
      rw [accessShut_mgmt hm]
      exact Bool.and_eq_false_iff.mpr (hv.imp id fun hv => beq_eq_false_iff_ne.mpr hv)
    refine ⟨fun b off hone hv hr => exec_next (exec_mrd hopen (hopenShut (.inr (by rw [hv]; decide)))) ?_,
      fun hno => ?_, fun hone hv => exec_next rfl ((onPort_open hopen).trans ?_)⟩
    · rw [mrd_applies hh h0, applyRead_served hm (mgmtAccess_iff.mpr hone) hv hr, complete_sends htrained]
      rfl
    · have hrefused : mgmtAccess (fld w1 0 48) (pktLen w0) = false ∨ avail s (fld w1 0 48) = .access ∨ avail s (fld w1 0 48) = .notReady :=
        hno.imp_left fun h => eq_false_of_ne_true fun c => h (mgmtAccess_iff.mp c)
      refine exec_next (exec_mrd hopen (hopenShut (hrefused.imp_right fun h => ?_))) ?_
      · obtain h | h := h <;> rw [h] <;> decide
      · rw [mrd_applies hh h0, applyRead_refused hm hrefused, complete_sends htrained]
        rfl
    · rw [accessShut_mgmt hm, mgmtAccess_iff.mpr hone, hv]
      rfl
  · refine exec_next rfl ((onPort_open hopen).trans ?_)
    rw [if_neg Bool.false_ne_true, if_neg]
    · rfl
    · simp only [List.contains_cons, List.contains_nil, Bool.or_false, Bool.or_eq_true, beq_iff_eq, h1, h2, h3, or_self, not_false_eq_true]

/-- R324: a doorbell of a block that has not stopped. -/
theorem doorbell_rings {s : State} {p : Nat} {w0 w1 : W64} {turn : W32} (hh : headOk w0 0x20 = true) (h0 : fld w1 36 28 = 0)
    (hb : s.errs.block = false) (hhalt : halted s = false) :
    doorbell s p w0 w1 turn = ringBell s (fld w1 32 4) (BitVec.ofNat 32 (fld w1 0 32)) turn := by
  unfold doorbell
  rw [if_neg (not_not_intro (headOk_type hh)), if_neg (by rw [hh, h0]; decide), if_neg (by rw [hb]; decide), if_neg (by rw [hhalt]; decide)]

theorem doorbell_waits {s : State} {p : Nat} {w0 w1 : W64} {turn : W32} (hh : headOk w0 0x20 = true) (h0 : fld w1 36 28 = 0)
    (hb : s.errs.block = false) (hhalt : halted s = true) :
    doorbell s p w0 w1 turn
      = { s with pins := { s.pins with bells := s.pins.bells ++ [(fld w1 32 4, BitVec.ofNat 32 (fld w1 0 32), turn)] } } := by
  unfold doorbell
  rw [if_neg (not_not_intro (headOk_type hh)), if_neg (by rw [hh, h0]; decide), if_neg (by rw [hb]; decide), if_pos hhalt]

/-- R325: a doorbell for one entry takes it. -/
theorem ringBell_one {s : State} {r : Nat} {pi turn : W32} (hb : s.errs.block = false) (hpi : pi = ciOf s r + 1) (hr : 1 ≤ ringEntries s r)
    (hs : serving s = true) : ringBell s r pi turn = takeEntries 1 s r turn := by
  have hone : (ciOf s r + 1 - ciOf s r).toNat = 1 := by rw [BitVec.add_comm, BitVec.add_sub_cancel]; rfl
  unfold ringBell
  rw [if_neg (by rw [hb]; decide), hpi, hone, if_neg (by omega), if_pos hs]

theorem takeEntries_one {s : State} {r : Nat} {turn : W32} (hpz : memAnyPz s.mem (winAddr s (subEntry s r (ciOf s r))) 64 = false) :
    takeEntries 1 s r turn =
      if ownedByBlock s (subEntry s r (ciOf s r)) then takeEntryMsg s r (ciOf s r) turn
      else { s with win := { s.win with early := inc16 s.win.early } } := by
  unfold takeEntries
  exact if_neg (by rw [hpz]; decide)

/-- Settles O28, doorbell by doorbell. -/
theorem doorbellsTakeEntries : Obligations.DoorbellsTakeEntries := by
  intro s p w0 w1 hopen hh h0 hb
  refine ⟨fun hhalt => exec_next (exec_doorbell hopen) (doorbell_waits hh h0 hb hhalt),
    fun hhalt hn => exec_next (exec_doorbell hopen) ((doorbell_rings hh h0 hb hhalt).trans ?_),
    fun hhalt hpi hr hs hpz hown h1 h7 => exec_next (exec_doorbell hopen) ((doorbell_rings hh h0 hb hhalt).trans ?_),
    fun hhalt hpi hr hs hpz hown => exec_next (exec_doorbell hopen) ((doorbell_rings hh h0 hb hhalt).trans ?_)⟩
  · unfold ringBell
    rw [if_neg (by rw [hb]; decide), if_pos (.inr hn)]
  · rw [ringBell_one hb hpi hr hs, takeEntries_one hpz, if_pos hown]
    exact if_pos ⟨h1, h7⟩
  · rw [ringBell_one hb hpi hr hs, takeEntries_one hpz, if_neg (by rw [hown]; decide)]

end Sys2Proof.Machine
end

section
/-! SUPPORT. What a message changes of the request table: one slot, its pages, and nothing of the others. -/

namespace Sys2Proof.Machine

/-- R250: a step that changes at most slot `n` of the table, and neither the messages taken nor the current turn. -/
structure MsgStep (n : Nat) (s s' : State) : Prop where
  taken : s'.taken = s.taken
  cur : s'.turns.cur = s.turns.cur
  others : ∀ j, j ≠ n → slotOf s' j = slotOf s j

theorem MsgStep.refl (n : Nat) (s : State) : MsgStep n s s := ⟨rfl, rfl, fun _ _ => rfl⟩

theorem MsgStep.trans {n : Nat} {a b c : State} (h : MsgStep n a b) (k : MsgStep n b c) : MsgStep n a c :=
  ⟨k.taken.trans h.taken, k.cur.trans h.cur, fun j hj => (k.others j hj).trans (h.others j hj)⟩

theorem slotOf_slots {s s' : State} (h : s'.slots = s.slots) (j : Nat) : slotOf s' j = slotOf s j := by rw [slotOf, h]; rfl

theorem MsgStep.of_slots {n : Nat} {s s' : State} (h : s'.slots = s.slots) (ht : s'.taken = s.taken) (hc : s'.turns.cur = s.turns.cur) :
    MsgStep n s s' := ⟨ht, hc, fun j _ => slotOf_slots h j⟩

theorem modSlot_step (s : State) (n : Nat) (f : Slot → Slot) : MsgStep n s (modSlot s n f) := ⟨rfl, rfl, fun j hj => slotOf_modSlot_other s n j f hj⟩

theorem modHalf_step (s : State) (n : Nat) (h : Half) (f : HalfState → HalfState) : MsgStep n s (modHalf s h f) :=
  .of_slots (modHalf_slots ..) (modHalf_taken ..) (congrArg (·.cur) (modHalf_turns ..))

/-- R248: a slot that keeps all but its pages and its extension page. -/
def Repaged (x y : Slot) : Prop :=
  ∃ pages ext unused, y = { x with r := { x.r with pages := pages, ext := ext }, w := { x.w with unused := unused } }

theorem Repaged.refl (x : Slot) : Repaged x x := ⟨x.r.pages, x.r.ext, x.w.unused, rfl⟩

theorem Repaged.trans {x y z : Slot} (h : Repaged x y) (k : Repaged y z) : Repaged x z := by
  obtain ⟨_, _, _, rfl⟩ := h
  obtain ⟨pages, ext, unused, rfl⟩ := k
  exact ⟨pages, ext, unused, rfl⟩

/-- R248: a step that changes of the table at most the pages of slot `n`. -/
structure PageStep (n : Nat) (s s' : State) : Prop where
  step : MsgStep n s s'
  own : Repaged (slotOf s n) (slotOf s' n)

theorem PageStep.refl (n : Nat) (s : State) : PageStep n s s := ⟨.refl n s, .refl _⟩

theorem PageStep.trans {n : Nat} {a b c : State} (h : PageStep n a b) (k : PageStep n b c) : PageStep n a c :=
  ⟨h.step.trans k.step, h.own.trans k.own⟩

theorem PageStep.of_slots {n : Nat} {s s' : State} (h : s'.slots = s.slots) (ht : s'.taken = s.taken) (hc : s'.turns.cur = s.turns.cur) :
    PageStep n s s' := ⟨.of_slots h ht hc, by rw [slotOf_slots h]; exact .refl _⟩

theorem PageStep.of_repaged {n : Nat} {s : State} {f : Slot → Slot} (hf : ∀ x, Repaged x (f x)) : PageStep n s (modSlot s n f) :=
  ⟨modSlot_step s n f, by rw [slotOf_modSlot_same]; exact hf _⟩

theorem PageStep.modHalf (s : State) (n : Nat) (h : Half) (f : HalfState → HalfState) : PageStep n s (modHalf s h f) :=
  .of_slots (modHalf_slots ..) (modHalf_taken ..) (congrArg (·.cur) (modHalf_turns ..))

theorem PageStep.mem (s : State) (n : Nat) (m : Mem) : PageStep n s { s with mem := m } := .of_slots rfl rfl rfl

theorem PageStep.foldl {n : Nat} {f : State → Nat → State} (hf : ∀ s i, PageStep n s (f s i)) (l : List Nat) (s : State) :
    PageStep n s (l.foldl f s) := by
  induction l generalizing s with
  | nil => exact .refl n s
  | cons i l ih => exact (hf s i).trans (ih _)

theorem setSlotPage_pages (s : State) (n i k : Nat) : PageStep n s (setSlotPage s n i k) := by
  unfold setSlotPage
  split
  · exact .of_repaged fun x => ⟨x.r.pages.set i k, x.r.ext, x.w.unused, rfl⟩
  · exact .of_slots rfl rfl rfl

theorem releaseFrom_pages (s : State) (n i m : Nat) : PageStep n s (releaseFrom s n i m) := by
  unfold releaseFrom
  extract_lets ks s1
  have h1 : PageStep n s s1 := .foldl (fun s j => setSlotPage_pages s n j 0) _ _
  exact h1.trans (.of_repaged fun x => ⟨x.r.pages, x.r.ext, _, rfl⟩)

theorem releaseAll_pages (s : State) (n m : Nat) : PageStep n s (releaseAll s n m) :=
  (releaseFrom_pages s n 0 m).trans (.of_repaged fun x => ⟨x.r.pages, 0, _, rfl⟩)

theorem addRef_pages (s : State) (n : Nat) (h : Half) (k : Nat) : PageStep n s (addRef s h k) := by
  unfold addRef
  split
  · exact .refl n s
  · exact .modHalf ..

theorem dropRef_pages (s : State) (n : Nat) (h : Half) (k : Nat) : PageStep n s (dropRef s h k) := by
  unfold dropRef
  split
  · exact .refl n s
  · exact .modHalf ..

theorem countPoison_pages (s : State) (n a m : Nat) : PageStep n s (countPoison s a m) := by
  obtain ⟨_, h⟩ := countPoison_ports s a m
  rw [h]
  exact .of_slots rfl rfl rfl

theorem takeEntry_pages (s : State) (n i : Nat) : PageStep n s (takeEntry s n i) := by
  unfold takeEntry
  split
  · extract_lets +onlyGivenNames h old k s1 s3 s2
    have h1 : PageStep n s s1 := (addRef_pages s n h k).trans (dropRef_pages _ n h old)
    have h2 : PageStep n s1 s2 := by
      show PageStep n s1 (if old = 0 then s1 else _)
      split
      · exact .refl n s1
      · exact (countPoison_pages ..).trans (.mem ..)
    exact (h1.trans h2).trans (setSlotPage_pages s2 n i k)
  · exact .refl n s

theorem takeExt_pages (s : State) (n m : Nat) : PageStep n s (takeExt s n m) := by
  unfold takeExt
  split
  · exact .refl n s
  · exact ((addRef_pages s n _ _).trans (.of_repaged fun x => ⟨x.r.pages, _, x.w.unused, rfl⟩)).trans (.mem ..)

/-- R248: the pages that positions need are taken for the slot alone. -/
theorem takePages_pages (s : State) (n p q : Nat) : PageStep n s (takePages s n p q) := by
  unfold takePages
  split
  · exact .refl n s
  · exact (takeExt_pages s n _).trans (.foldl (fun s i => takeEntry_pages s n i) _ _)

/-- R326: an answer changes memory and what waits to be handed back. -/
theorem handBack_stands (l : List Reply) (stuck : List Nat) (s : State) :
    ∃ mem replies, handBack l stuck s = { s with mem := mem, replies := replies } := by
  induction l generalizing stuck s with
  | nil => exact ⟨s.mem, s.replies, rfl⟩
  | cons r l ih =>
    unfold handBack
    split
    · split
      · obtain ⟨mem, replies, h⟩ := ih (r.ring :: stuck) { s with replies := s.replies ++ [r] }
        exact ⟨mem, replies, h⟩
      · obtain ⟨mem, replies, h⟩ := ih stuck (setOwner (winPut s (subEntry s r.ring r.idx + 40) [_, _]) (subEntry s r.ring r.idx) 1)
        exact ⟨mem, replies, h⟩
    · obtain ⟨mem, replies, h⟩ := ih (r.ring :: stuck) { s with replies := s.replies ++ [r] }
      exact ⟨mem, replies, h⟩

theorem answer_stands (s : State) (m : Msg) (st p k g : Nat) : ∃ mem replies, answer s m st p k g = { s with mem := mem, replies := replies } := by
  unfold answer
  exact handBack_stands _ _ { s with replies := [] }

theorem answer_pages (s : State) (n : Nat) (m : Msg) (st p k g : Nat) : PageStep n s (answer s m st p k g) := by
  obtain ⟨_, _, h⟩ := answer_stands s m st p k g
  rw [h]
  exact .of_slots rfl rfl rfl

theorem answerSlot_slot (s : State) (m : Msg) (st p j : Nat) : slotOf (answerSlot s m st p) j = slotOf s j := by
  obtain ⟨_, _, h⟩ := answer_stands s m st p (msgSlot m) (msgSgen m)
  rw [answerSlot, h]
  rfl

theorem answerSlot_step (s : State) (n : Nat) (m : Msg) (st p : Nat) : MsgStep n s (answerSlot s m st p) := (answer_pages ..).step

theorem countEpoch_slots (s : State) (m : Msg) : (countEpoch s m).slots = s.slots := by
  unfold countEpoch
  split <;> rfl

theorem countEpoch_step (s : State) (n : Nat) (m : Msg) : MsgStep n s (countEpoch s m) := by
  unfold countEpoch
  split
  · exact .refl n s
  · exact .of_slots rfl rfl rfl

/-- R250: the next message, of a command's kind, is decided with the message off the list. -/
theorem onMessage_next {s : State} {m : Msg} {kind : Bool} {f : State → Msg → State} (h : isNext s m = true) (hk : kind = true) :
    onMessage s m kind f = f (dropTaken s) m := if_pos ⟨h, hk⟩

/-- R331: with no mask record owed, none is published. -/
theorem drainMasks_none {s : State} {n : Nat} (h : (slotOf s n).w.maskPos = []) : drainMasks s n = s := by
  unfold drainMasks
  rw [h]
  unfold publishMasks
  rw [h]

/-- R227: a tenant without masks has no mask jobs. -/
theorem addMaskJob_none {s : State} {n p q : Nat} (h : (slotOf s n).r.masks = false) : addMaskJob s n p q = s := by
  unfold addMaskJob
  exact if_pos (.inl (by rw [h]; rfl))

theorem addBackJob_none {s : State} {n p : Nat} (h : (slotOf s n).r.masks = false) : addBackJob s n p = s := by
  unfold addBackJob
  dsimp only
  rw [h]

/-- R288: with no record ready, nothing is published. -/
theorem publishSlot_none {s : State} {n : Nat} (h : nextRecord s n = none) : publishSlot s n = s := by
  have hstep : publishStep s n = (s, false) := by
    unfold publishStep
    split
    · rfl
    · rw [h]
  unfold publishSlot publishLoop
  rw [hstep]
  rfl

/-- R273: a slot with no terminal record, no open run and nothing computed past what is published has no record. -/
theorem nextRecord_none {s : State} {n : Nat} (ht : (slotOf s n).w.term = none) (hr : (slotOf s n).w.runOpen = false)
    (hc : (slotOf s n).w.computed ≤ (slotOf s n).w.published) : nextRecord s n = none := by
  unfold nextRecord
  dsimp only
  rw [ht]
  dsimp only
  rw [hr]
  split
  · rfl
  · rw [if_neg (by rintro ⟨c, -⟩; exact Bool.false_ne_true c), if_neg (by omega)]

theorem afterRebuild_other {s : State} {n : Nat} (h : (slotOf s n).r.st ≠ .lost) : afterRebuild s n = s := if_pos (.inl h)

/-- R288: a publication that finds nothing to publish. -/
theorem publish_none {s : State} {n : Nat} (hr : nextRecord s n = none) (hm : (slotOf s n).w.maskPos = []) (hl : (slotOf s n).r.st ≠ .lost) :
    publish s n = s := by
  rw [publish, publishSlot_none hr, drainMasks_none hm, afterRebuild_other hl]

end Sys2Proof.Machine
end

section
/-! SUPPORT. TOKENS and TAKEBACK of a settled slot. -/

namespace Sys2Proof.Machine

/-- R242: what a new deadline changes of a slot. -/
theorem setDeadline_slot (s : State) (n : Nat) :
    ∃ dlv deadline, slotOf (setDeadline s n) n = { slotOf s n with r := { (slotOf s n).r with dlv := dlv, deadline := deadline } } := by
  unfold setDeadline
  rw [slotOf_modSlot_same]
  dsimp only
  repeat' split
  all_goals exact ⟨_, _, rfl⟩

theorem commitTo_slot (s : State) (n c : Nat) :
    ∃ toksum, slotOf (commitTo s n c) n = { slotOf s n with r := { (slotOf s n).r with commit := c, toksum := toksum } } :=
  ⟨_, slotOf_modSlot_same ..⟩

theorem commitTo_step (s : State) (n c : Nat) : MsgStep n s (commitTo s n c) := modSlot_step ..

theorem setDeadline_step (s : State) (n : Nat) : MsgStep n s (setDeadline s n) := modSlot_step ..

/-- R287: with nothing computed past what is published, and no run, no cell is stamped. -/
theorem stampDue_none {s : State} {n : Nat} (hc : (slotOf s n).w.computed ≤ (slotOf s n).w.published) (hr : (slotOf s n).w.runOpen = false) :
    stampDue s n = s := by
  have hzero (k : Nat) : min k (slotOf s n).w.computed - (slotOf s n).w.published = 0 := by omega
  unfold stampDue
  dsimp only
  split
  · rfl
  · rw [hzero, hr, if_neg (by rintro ⟨c, -⟩; exact Bool.false_ne_true c)]
    rfl

theorem lateTokens_step (s : State) (n : Nat) (m : Msg) (t : W32) (k : Nat) : MsgStep n s (lateTokens s m t k) := by
  unfold lateTokens
  split
  · exact .refl n s
  · have hframe (x : State) := sendBlockEvent_frame x 0x0208 (mk64 (msgSlot m))
    exact .of_slots (hframe _).slots (hframe _).taken (congrArg (·.cur) (hframe _).turns)

theorem lateTokens_slot (s : State) (m : Msg) (t : W32) (k j : Nat) : slotOf (lateTokens s m t k) j = slotOf s j := by
  unfold lateTokens
  split
  · rfl
  · exact slotOf_slots (sendBlockEvent_frame ..).slots j

/-- R273: a slot about which nothing is left to publish, of a tenant without masks. -/
structure Settled (x : Slot) : Prop where
  term : x.w.term = none
  run : x.w.runOpen = false
  computed : x.w.computed ≤ x.w.published
  masks : x.r.masks = false
  owed : x.w.maskPos = []

theorem settled_iff {x : Slot} : settled x = true ↔ Settled x := by
  simp only [settled, Bool.and_eq_true, Option.isNone_iff_eq_none, Bool.not_eq_true', decide_eq_true_eq, List.isEmpty_iff]
  exact ⟨fun ⟨⟨⟨⟨h1, h2⟩, h3⟩, h4⟩, h5⟩ => ⟨h1, h2, h3, h4, h5⟩, fun ⟨h1, h2, h3, h4, h5⟩ => ⟨⟨⟨⟨h1, h2⟩, h3⟩, h4⟩, h5⟩⟩

theorem Repaged.settled {x y : Slot} (h : Repaged x y) (q : Settled x) : Settled y := by
  obtain ⟨_, _, _, rfl⟩ := h
  exact ⟨q.term, q.run, q.computed, q.masks, q.owed⟩

/-- R256: what an accepted TOKENS leaves of its slot. -/
structure Spoken (x y : Slot) (n c : Nat) : Prop where
  settled : Settled y
  st : y.r.st = .generating
  head : y.r.head = x.r.head + n
  commit : y.r.commit = c
  oseq : y.r.oseq = x.r.oseq
  tenant : y.r.tenant = x.r.tenant

/-- R256: TOKENS applied to a settled slot that generates or is READY. -/
theorem applyTokens_applies {s : State} {m : Msg} {turn : W32} (hq : Settled (slotOf s (msgSlot m)))
    (hst : (slotOf s (msgSlot m)).r.st = .ready ∨ (slotOf s (msgSlot m)).r.st = .generating) :
    MsgStep (msgSlot m) s (applyTokens s m turn)
      ∧ Spoken (slotOf s (msgSlot m)) (slotOf (applyTokens s m turn) (msgSlot m)) (fld m.w2 32 8) (fld m.w1 0 24) := by
  unfold applyTokens
  extract_lets k n c old toks s1 s2
  have h1 : PageStep k s s1 := takePages_pages ..
  have hq1 : Settled (slotOf s1 k) := h1.own.settled hq
  have hmasks : ((slotOf s1 k).r.masks && n != 0) = false := by rw [hq1.masks]; rfl
  have h2 := slotOf_modSlot_same s1 k fun x =>
    { x with
      r := { x.r with st := if x.r.st = .ready then .generating else x.r.st, head := old.head + n }
      w := { x.w with
        toks := x.w.toks ++ toks
        prod := if old.commit < c then x.w.prod ++ [(c, turn)] else x.w.prod
        final := if bit m.w2 31 then some (c - 1) else x.w.final
        maskPos := if x.r.masks && n != 0 then x.w.maskPos ++ [{ pos := old.head + n, back := false, addr := none }] else x.w.maskPos } }
  rw [hmasks] at h2
  have hst2 : (if (slotOf s1 k).r.st = .ready then SlotSt.generating else (slotOf s1 k).r.st) = .generating := by
    obtain ⟨_, _, _, hown⟩ := h1.own
    rw [hown]
    obtain hst | hst := hst
    · exact if_pos hst
    · exact (ite_eq_right_iff.mpr fun _ => hst.symm).trans hst
  obtain ⟨toksum, h3⟩ := commitTo_slot s2 k c
  obtain ⟨dlv, deadline, h4⟩ := setDeadline_slot (commitTo s2 k c) k
  rw [h3, show slotOf s2 k = _ from h2] at h4
  have hstamp : stampDue (setDeadline (commitTo s2 k c) k) k = setDeadline (commitTo s2 k c) k :=
    stampDue_none (by rw [h4]; exact hq1.computed) (by rw [h4]; exact hq1.run)
  rw [hstamp, addMaskJob_none (by rw [h4]; exact hq1.masks), h4]
  obtain ⟨_, _, _, hown⟩ := h1.own
  refine ⟨(h1.step.trans (modSlot_step ..)).trans ((commitTo_step ..).trans (setDeadline_step ..)), ⟨hq1.term, hq1.run, hq1.computed, hq1.masks, hq1.owed⟩,
    hst2, rfl, rfl, ?_, ?_⟩
  all_goals rw [hown]

/-- R256: an accepted TOKENS of a settled slot, with what follows it. -/
theorem onTokens_accepts {s : State} {m : Msg} (hq : Settled (slotOf s (msgSlot m)))
    (hst : (slotOf s (msgSlot m)).r.st = .ready ∨ (slotOf s (msgSlot m)).r.st = .generating) (hg : slotGate s m true false = none)
    (hbad : (!hdrOk m 2 || fld m.w2 0 31 != 0 || decide (64 < fld m.w2 32 8) || fld m.w3 36 28 != 0 || m.w4 != 0
      || (decide (0 < fld m.w2 32 8) && !toksOk s (fld m.w3 0 36) (fld m.w2 32 8))) = false) (hfail : tokensFail s m = none) :
    MsgStep (msgSlot m) s (onTokens s m)
      ∧ Spoken (slotOf s (msgSlot m)) (slotOf (onTokens s m) (msgSlot m)) (fld m.w2 32 8) (fld m.w1 0 24) := by
  have hslot : slotOf (countEpoch s m) (msgSlot m) = slotOf s (msgSlot m) := slotOf_slots (countEpoch_slots s m) _
  have hlost : (slotOf s (msgSlot m)).r.st ≠ .lost := by
    obtain hst | hst := hst <;> rw [hst] <;> decide
  obtain ⟨hstep, hspoken⟩ := applyTokens_applies (s := countEpoch s m) (m := m) (turn := bellTurn s m) (by rw [hslot]; exact hq)
    (by rw [hslot]; exact hst)
  rw [hslot] at hspoken
  generalize hx : lateTokens (answerSlot (applyTokens (countEpoch s m) m (bellTurn s m)) m 0 0) m (bellTurn s m)
    (fld m.w1 0 24 - (slotOf s (msgSlot m)).r.commit) = x
  have hxslot : slotOf x (msgSlot m) = slotOf (applyTokens (countEpoch s m) m (bellTurn s m)) (msgSlot m) := by
    rw [← hx, lateTokens_slot, answerSlot_slot]
  have hxstep : MsgStep (msgSlot m) s x := by
    rw [← hx]
    exact ((countEpoch_step ..).trans hstep).trans ((answerSlot_step ..).trans (lateTokens_step ..))
  rw [← hxslot] at hspoken
  have hnone : nextRecord x (msgSlot m) = none := nextRecord_none hspoken.settled.term hspoken.settled.run hspoken.settled.computed
  have hresult : onTokens s m = x := by
    unfold onTokens
    dsimp only
    rw [hbad, if_neg Bool.false_ne_true, hg]
    dsimp only
    rw [if_neg hlost, if_pos hst, decideTokens, hfail, countToks, if_neg (by decide), decide1, hx, publishSlot_none hnone]
    exact publish_none hnone hspoken.settled.owed (by rw [hspoken.st]; decide)
  rw [hresult]
  exact ⟨hxstep, hspoken⟩

theorem trimJobs_pages (s : State) (n p : Nat) : PageStep n s (trimJobs s n p) := by
  unfold trimJobs
  exact .modHalf ..

/-- R258: what a slot taken back to a position keeps. -/
structure Rewound (x y : Slot) (dst : Nat) : Prop where
  st : y.r.st = x.r.st
  head : y.r.head = dst
  commit : y.r.commit = x.r.commit

/-- R258: a settled slot taken back. -/
theorem takeBack_rewinds {s : State} {n dst : Nat} (hq : Settled (slotOf s n)) :
    MsgStep n s (takeBack s n dst) ∧ Rewound (slotOf s n) (slotOf (takeBack s n dst) n) dst := by
  unfold takeBack
  extract_lets head s0 s1 s2
  split
  · next h => exact ⟨.refl n s, ⟨rfl, h.symm, rfl⟩⟩
  · have h0 : s0 = s := drainMasks_none hq.owed
    have h1 : PageStep n s s1 := by
      rw [← h0]
      exact (trimJobs_pages s0 n dst).trans (releaseFrom_pages ..)
    have hq1 : Settled (slotOf s1 n) := h1.own.settled hq
    have hmasks : (slotOf s2 n).r.masks = false := by
      rw [show slotOf s2 n = _ from slotOf_modSlot_same ..]
      exact hq1.masks
    have howed : (slotOf s2 n).w.maskPos = [] := by
      rw [show slotOf s2 n = _ from slotOf_modSlot_same ..]
      dsimp only
      rw [hq1.masks]
      exact hq1.owed
    rw [addBackJob_none hmasks, drainMasks_none howed, show slotOf s2 n = _ from slotOf_modSlot_same ..]
    obtain ⟨_, _, _, hown⟩ := h1.own
    refine ⟨h1.step.trans (modSlot_step ..), ?_, rfl, ?_⟩
    all_goals rw [hown]

theorem decideTakeback_accepts {s : State} {m : Msg} (hq : Settled (slotOf s (msgSlot m))) (hfail : takebackFail s m = none) :
    MsgStep (msgSlot m) s (decideTakeback s m)
      ∧ Rewound (slotOf s (msgSlot m)) (slotOf (decideTakeback s m) (msgSlot m)) (fld m.w1 0 24) := by
  have hslot : slotOf (countEpoch s m) (msgSlot m) = slotOf s (msgSlot m) := slotOf_slots (countEpoch_slots s m) _
  obtain ⟨hstep, hrewound⟩ := takeBack_rewinds (s := countEpoch s m) (dst := fld m.w1 0 24) (by rw [hslot]; exact hq)
  rw [hslot] at hrewound
  unfold decideTakeback
  rw [hfail, decide1, answerSlot_slot]
  exact ⟨((countEpoch_step ..).trans hstep).trans (answerSlot_step ..), hrewound⟩

/-- Settles O31: both messages, on a slot about which nothing is left to publish. -/
theorem tokensAndTakebackMoveHead : Obligations.TokensAndTakebackMoveHead := by
  intro s m hn hg hset old hst
  have hq : Settled (slotOf (dropTaken s) (msgSlot m)) := settled_iff.mp hset
  refine ⟨fun hh h0 h64 hw3 hw4 htoks hfail => ?_, fun hh h2 h3 h4 hfail => ?_⟩
  · have htype : (msgType m == 2) = true := (Bool.and_eq_true_iff.mp (Bool.and_eq_true_iff.mp hh).1).1
    have hbad : (!hdrOk m 2 || fld m.w2 0 31 != 0 || decide (64 < fld m.w2 32 8) || fld m.w3 36 28 != 0 || m.w4 != 0
        || (decide (0 < fld m.w2 32 8) && !toksOk (dropTaken s) (fld m.w3 0 36) (fld m.w2 32 8))) = false := by
      have hread : (decide (0 < fld m.w2 32 8) && !toksOk (dropTaken s) (fld m.w3 0 36) (fld m.w2 32 8)) = false := by
        obtain h | h := htoks
        · rw [h]
          rfl
        · rw [show toksOk (dropTaken s) (fld m.w3 0 36) (fld m.w2 32 8) = true from h]
          exact Bool.and_false _
      rw [hread, hh, h0, hw3, hw4, decide_eq_false (Nat.not_lt.mpr h64)]
      rfl
    obtain ⟨hstep, hspoken⟩ := onTokens_accepts hq hst hg hbad hfail
    exact ⟨_, exec_next rfl (onMessage_next hn htype), hstep.taken, hspoken.st, hspoken.head, hspoken.commit, hspoken.oseq, hspoken.tenant,
      fun k hk => hstep.others k hk⟩
  · have htype : (msgType m == 3) = true := (Bool.and_eq_true_iff.mp (Bool.and_eq_true_iff.mp hh).1).1
    obtain ⟨hstep, hrewound⟩ := decideTakeback_accepts (s := dropTaken s) hq hfail
    have hresult : onTakeback (dropTaken s) m = decideTakeback (dropTaken s) m := by
      have hlost : (slotOf (dropTaken s) (msgSlot m)).r.st ≠ .lost := by
        obtain hst | hst := hst
        all_goals
          rw [show (slotOf (dropTaken s) (msgSlot m)).r.st = _ from hst]
          decide
      unfold onTakeback
      rw [if_neg (by rw [hh, h2, h3, h4]; decide), show slotGate (dropTaken s) m true false = none from hg]
      dsimp only
      rw [if_neg hlost]
      exact if_pos hst
    exact ⟨_, exec_next rfl ((onMessage_next hn htype).trans hresult), hstep.taken, hrewound.st, hrewound.head, hrewound.commit,
      fun k hk => hstep.others k hk⟩

end Sys2Proof.Machine
end

section
/-! SUPPORT. The end of a request, and a slot that enters LOST. -/

namespace Sys2Proof.Machine

theorem dropRows_pages (s : State) (n : Nat) : PageStep n s (dropRows s n) := by
  unfold dropRows
  exact .modHalf ..

/-- R268: the messages that a slot held are answered; the table stands. -/
theorem endHeld_slot (l : List Msg) (s : State) (j : Nat) : slotOf (endHeld l s) j = slotOf s j := by
  induction l generalizing s with
  | nil => rfl
  | cons m l ih =>
    unfold endHeld
    rw [ih, answerSlot_slot]

theorem endHeld_step (l : List Msg) (s : State) (n : Nat) : MsgStep n s (endHeld l s) := by
  induction l generalizing s with
  | nil => exact .refl n s
  | cons m l ih => exact (answerSlot_step ..).trans (ih _)

/-- R255, R259: what the end of a request leaves of its slot. -/
structure Ended (x y : Slot) (st : SlotSt) (t : Option VRec) : Prop where
  st : y.r.st = st
  sub : y.r.sub = 0
  term : y.w.term = t
  oseq : y.r.oseq = x.r.oseq
  commit : y.r.commit = x.r.commit

theorem endSlot_ends (s : State) (n : Nat) (st : SlotSt) (t : Option VRec) :
    MsgStep n s (endSlot s n st t) ∧ Ended (slotOf s n) (slotOf (endSlot s n st t) n) st t := by
  unfold endSlot
  extract_lets +onlyGivenNames held m pages s1 s2
  have h1 : PageStep n s s1 := ((dropRows_pages s n).trans (.modHalf ..)).trans (releaseAll_pages _ n m)
  obtain ⟨_, _, _, hown⟩ := h1.own
  refine ⟨(h1.step.trans (modSlot_step ..)).trans (endHeld_step ..), ?_⟩
  rw [endHeld_slot, show slotOf s2 n = _ from slotOf_modSlot_same .., hown]
  exact ⟨rfl, rfl, rfl, rfl, rfl⟩

/-- R267: what a slot that enters LOST keeps. -/
structure Lost (x y : Slot) : Prop where
  st : y.r.st = .lost
  sub : y.r.sub = 0
  commit : y.r.commit = x.w.pause.commit
  head : y.r.head = x.w.pause.commit
  dlv : y.r.dlv = false

theorem enterLost_loses {s : State} {n : Nat} (quiet : Bool) (hf : (slotOf s n).w.pause.fetch = false) :
    MsgStep n s (enterLost s n quiet) ∧ Lost (slotOf s n) (slotOf (enterLost s n quiet) n)
      ∧ ((slotOf (enterLost s n quiet) n).w.pause.fetch = false) := by
  unfold enterLost
  extract_lets +onlyGivenNames x c s1 s2 s3
  have h1 : PageStep n s s1 := ((dropRows_pages s n).trans (.modHalf ..)).trans (releaseAll_pages _ n _)
  have h3 : s3 = s2 := if_neg (by rw [hf]; decide)
  obtain ⟨_, _, _, hown⟩ := h1.own
  have hstep : MsgStep n s s3 := by
    rw [h3]
    exact h1.step.trans (modSlot_step ..)
  have hslot : Lost (slotOf s n) (slotOf s3 n) ∧ (slotOf s3 n).w.pause.fetch = false := by
    rw [h3, show slotOf s2 n = _ from slotOf_modSlot_same .., hown]
    exact ⟨⟨rfl, rfl, rfl, rfl, rfl⟩, rfl⟩
  split
  · exact ⟨hstep, hslot⟩
  · have hframe := sendSlotEvent_frame s3 n 0x0101 (mk64 c)
    rw [slotOf_slots hframe.slots n]
    exact ⟨hstep.trans (.of_slots hframe.slots hframe.taken (congrArg (·.cur) hframe.turns)), hslot⟩

/-- R255: a slot that has ended, with at most its terminal record to publish. -/
structure AtEnd (x : Slot) : Prop where
  dead : slotLive x.r.st = false
  term : ∀ v, x.w.term = some v → v.kind = 2

/-- R274: what publication changes of a slot that has ended. -/
structure Told (x y : Slot) : Prop where
  st : y.r.st = x.r.st
  sub : y.r.sub = x.r.sub
  commit : y.r.commit = x.r.commit
  fetch : y.w.pause.fetch = x.w.pause.fetch
  term : y.w.term = none ∨ y.w.term = x.w.term

theorem Told.refl (x : Slot) : Told x x := ⟨rfl, rfl, rfl, rfl, .inr rfl⟩

theorem Told.trans {x y z : Slot} (h : Told x y) (k : Told y z) : Told x z :=
  ⟨k.st.trans h.st, k.sub.trans h.sub, k.commit.trans h.commit, k.fetch.trans h.fetch,
    k.term.elim .inl fun k => h.term.elim (fun h => .inl (k.trans h)) fun h => .inr (k.trans h)⟩

theorem Told.atEnd {x y : Slot} (h : Told x y) (k : AtEnd x) : AtEnd y :=
  ⟨by rw [h.st]; exact k.dead, fun v hv => h.term.elim (fun h => by rw [h] at hv; cases hv) fun h => k.term v (h ▸ hv)⟩

theorem excuseReady_told (s : State) (n : Nat) : MsgStep n s (excuseReady s n) ∧ Told (slotOf s n) (slotOf (excuseReady s n) n) := by
  unfold excuseReady
  dsimp only
  rw [slotOf_modSlot_same]
  exact ⟨modSlot_step .., rfl, rfl, rfl, rfl, .inr rfl⟩

theorem EventFrame.step {s s' : State} (h : EventFrame s s') (n : Nat) : MsgStep n s s' :=
  .of_slots h.slots h.taken (congrArg (·.cur) h.turns)

/-- R274: a terminal record is done with its place. -/
theorem recordDone_terminal {s : State} {n : Nat} {v : VRec} (hv : v.kind = 2) :
    recordDone s n v = modSlot (modSlot s n fun x => { x with r := { x.r with oseq := x.r.oseq + 1 }, w := { x.w with wait := false } }) n
      fun x => { x with w := { x.w with term := none } } := if_pos hv

theorem countLate_terminal {s : State} {n : Nat} {v : VRec} (hv : v.kind = 2) : countLate s n v = s := if_pos (.inl hv)

/-- R274: the terminal record published, or its wait begun. -/
theorem publishRing_told {s : State} {n : Nat} {v : VRec} (hv : v.kind = 2) :
    MsgStep n s (publishRing s n v) ∧ Told (slotOf s n) (slotOf (publishRing s n v) n) := by
  unfold publishRing
  extract_lets +onlyGivenNames off seq s1
  split
  · have h1 : EventFrame s s1 := putSlotWords_frame ..
    have hframe := publishNotice_frame (recordDone (countLate s1 n v) n v) (.ring (slotOf s n).r.ring) seq
    refine ⟨((h1.step n).trans ?_).trans (hframe.step n), ?_⟩
    · rw [countLate_terminal hv, recordDone_terminal hv]
      exact (modSlot_step ..).trans (modSlot_step ..)
    · rw [slotOf_slots hframe.slots, countLate_terminal hv, recordDone_terminal hv, slotOf_modSlot_same, slotOf_modSlot_same, slotOf_slots h1.slots]
      exact ⟨rfl, rfl, rfl, rfl, .inl rfl⟩
  · split
    · exact excuseReady_told s n
    · obtain ⟨hstep, htold⟩ := excuseReady_told s n
      have hframe (x : State) := sendSlotEvent_frame x n 0x0103 (mk64 (slotOf s n).r.oseq.toNat)
      refine ⟨(hstep.trans (modSlot_step ..)).trans ((hframe _).step n), ?_⟩
      rw [slotOf_slots (hframe _).slots, slotOf_modSlot_same]
      exact htold.trans ⟨rfl, rfl, rfl, rfl, .inr rfl⟩

theorem publishStep_told {s : State} {n : Nat} (h : AtEnd (slotOf s n)) :
    MsgStep n s (publishStep s n).1 ∧ Told (slotOf s n) (slotOf (publishStep s n).1 n) := by
  have hsame : MsgStep n s s ∧ Told (slotOf s n) (slotOf s n) := ⟨.refl n s, .refl _⟩
  unfold publishStep
  split
  · exact hsame
  · cases ht : (slotOf s n).w.term with
    | none =>
      have hnone : nextRecord s n = none := by
        unfold nextRecord
        dsimp only
        rw [ht]
        exact if_pos (.inl (by rw [h.dead]; rfl))
      rw [hnone]
      exact hsame
    | some v =>
      have hterm : nextRecord s n = some (v, none) := by
        unfold nextRecord
        dsimp only
        rw [ht]
      rw [hterm]
      exact publishRing_told (h.term v ht)

theorem publishLoop_told (k : Nat) {s : State} {n : Nat} (h : AtEnd (slotOf s n)) :
    MsgStep n s (publishLoop k s n) ∧ Told (slotOf s n) (slotOf (publishLoop k s n) n) := by
  induction k generalizing s with
  | zero => exact ⟨.refl n s, .refl _⟩
  | succ k ih =>
    obtain ⟨hstep, htold⟩ := publishStep_told h
    unfold publishLoop
    dsimp only
    split
    · obtain ⟨hstep', htold'⟩ := ih (htold.atEnd h)
      exact ⟨hstep.trans hstep', htold.trans htold'⟩
    · exact ⟨hstep, htold⟩

/-- R274, R288: publication of a slot that has ended. -/
theorem publishSlot_told {s : State} {n : Nat} (h : AtEnd (slotOf s n)) :
    MsgStep n s (publishSlot s n) ∧ Told (slotOf s n) (slotOf (publishSlot s n) n) := publishLoop_told _ h

/-- R259: a request ends with its terminal record published or waiting. -/
theorem endRequest_ends {s : State} {n reason : Nat} {st : SlotSt} (hst : slotLive st = false) (hf : (slotOf s n).w.pause.fetch = false) :
    MsgStep n s (endRequest s n st reason) ∧ (slotOf (endRequest s n st reason) n).r.st = st
      ∧ (slotOf (endRequest s n st reason) n).r.sub = 0 := by
  obtain ⟨hstep, hended⟩ := endSlot_ends s n st (some (terminalRec s n reason))
  have hend : AtEnd (slotOf (endSlot s n st (some (terminalRec s n reason))) n) :=
    ⟨by rw [hended.st]; exact hst, fun v hv => by rw [hended.term] at hv; cases hv; rfl⟩
  obtain ⟨hstep', htold⟩ := publishSlot_told hend
  unfold endRequest
  dsimp only
  rw [if_neg (by rw [hf]; decide)]
  exact ⟨hstep.trans hstep', htold.st.trans hended.st, htold.sub.trans hended.sub⟩

/-- R264, R266: a paused slot whose expiry has come, or not. -/
theorem expireSlot_early {s : State} {n : Nat} (he : notEarlier s.turns.cur (slotOf s n).r.expiry = false) : expireSlot s n = s :=
  if_neg fun c => Bool.false_ne_true (he.symm.trans c.2.2)

theorem expireSlot_due {s : State} {n : Nat} (hst : (slotOf s n).r.st = .paused) (hsub : (slotOf s n).r.sub = 2)
    (he : notEarlier s.turns.cur (slotOf s n).r.expiry = true) :
    expireSlot s n = if (slotOf s n).w.pause.retain then endRequest (enterLost s n true) n .done 6 else enterLost s n false := if_pos ⟨hst, hsub, he⟩

theorem expireHandle_found {s : State} {h : Half} {i : Nat} {x : Handle} (hx : smGet none (half s h).handles i = some x) :
    expireHandle s h i = if notEarlier s.turns.cur x.expiry then sendHalfEvent (dropHandle s h i x) h 0x0104 (mk64 x.value.toNat) else s := by
  unfold expireHandle
  rw [hx]

theorem half_handles_event {s s' : State} (h : EventFrame s s') (k : Half) :
    (half s' k).handles = (half s k).handles ∧ (half s' k).unused = (half s k).unused ∧ (half s' k).refs = (half s k).refs := by
  cases k
  · exact ⟨congrArg (·.handles) h.halfA, congrArg (·.unused) h.halfA, congrArg (·.refs) h.halfA⟩
  · exact ⟨congrArg (·.handles) h.halfB, congrArg (·.unused) h.halfB, congrArg (·.refs) h.halfB⟩

/-- R264: a dropped handle. -/
theorem dropHandle_drops (s : State) (h : Half) (i : Nat) (x : Handle) :
    smGet none (half (dropHandle s h i x) h).handles i = none
      ∧ (∀ k, k ≠ i → smGet none (half (dropHandle s h i x) h).handles k = smGet none (half s h).handles k)
      ∧ (half (dropHandle s h i x) h).unused = (half s h).unused ++ x.pages ++ (if x.ext = 0 then [] else [x.ext])
      ∧ (half (dropHandle s h i x) h).refs = (half s h).refs := by
  unfold dropHandle
  rw [half_modHalf_same]
  exact ⟨smGet_smErase_same .., fun k hk => smGet_smErase_other _ _ _ _ hk, rfl, rfl⟩

theorem dropHandle_slots (s : State) (h : Half) (i : Nat) (x : Handle) : (dropHandle s h i x).slots = s.slots := modHalf_slots ..

/-- Settles O26, expiry by expiry. -/
theorem expiriesAct : Obligations.ExpiriesAct := by
  intro s hw
  refine ⟨fun n hst hsub => ⟨fun he => exec_next rfl ((if_pos hw).trans (expireSlot_early he)), fun he hr hf => ?_, fun he hr _ hf => ?_⟩,
    fun h i x hx => ⟨fun he => exec_next rfl ((if_pos hw).trans ?_), fun he => ?_⟩⟩
  · have hdue := (expireSlot_due hst hsub he).trans (if_neg (by rw [hr]; decide))
    obtain ⟨hstep, hlost, -⟩ := enterLost_loses false hf
    exact ⟨_, exec_next rfl ((if_pos hw).trans hdue), hlost.st, hlost.sub, hlost.commit, hlost.head, hlost.dlv, hstep.others⟩
  · have hdue := (expireSlot_due hst hsub he).trans (if_pos hr)
    obtain ⟨hstep, -, hfetch⟩ := enterLost_loses true hf
    obtain ⟨hstep', hend, hsub'⟩ := endRequest_ends (s := enterLost s n.toNat true) (st := .done) (reason := 6) rfl hfetch
    exact ⟨_, exec_next rfl ((if_pos hw).trans hdue), hend, hsub', (hstep.trans hstep').others⟩
  · rw [expireHandle_found hx, if_neg (by rw [he]; decide)]
  · obtain ⟨hgone, hothers, hunused, hrefs⟩ := dropHandle_drops s h i.toNat x
    have hframe := sendHalfEvent_frame (dropHandle s h i.toNat x) h 0x0104 (mk64 x.value.toNat)
    obtain ⟨hh, hu, hr⟩ := half_handles_event hframe h
    refine ⟨_, exec_next rfl ((if_pos hw).trans ((expireHandle_found hx).trans (if_pos he))), ?_⟩
    rw [hh, hu, hr]
    exact ⟨hgone, hothers, hunused, hrefs, hframe.slots.trans (dropHandle_slots ..)⟩

end Sys2Proof.Machine
end

section
/-! SUPPORT. A request table that names one slot twice: the second entry waits for the image that the first fetches (R267). Nothing in the model
keeps such tables out: what the table answers is the first entry, but the walk over what waits for an image meets the second. -/

namespace Sys2Proof.Machine

/-- A READY request of a BATCH tenant, SGEN 1, whose pause image is being fetched. -/
def fetchingSlot : Slot :=
  { r := { SlotRec.free with st := .ready, omode := true, sgen := 1 }
    w := { SlotWork.none with pause := { SlotWork.none.pause with fetch := true } } }

/-- The block in READY with that request in slot 0, and a second entry of slot 0 that waits for the image. -/
def twiceNamed : State :=
  { State.reset with
    slots := [(0, fetchingSlot), (0, { fetchingSlot with w := { fetchingSlot.w with fillFrom := some (0, 1) } })]
    su := { Startup.reset with phase := .ready } }

/-- A RESIGN of slot 0, SGEN 1. -/
def resignSlot0 : Msg := { ring := 0, idx := 0, w0 := mk64 (put 4 56 8 + put 2 48 8), w1 := mk64 (put 1 24 8), w2 := 0, w3 := 0, w4 := 0 }

/-- The state in which a command leaves slot 0. -/
def slot0After (o : Host.Outcome State Fault Refusal) : SlotSt :=
  match o with
  | .next s => (slotOf s 0).r.st
  | _ => .free

/-- R267: the RESIGN ends slot 0, then the walk fails it for the image that will not be fetched. -/
theorem resign_fails_twiceNamed : slot0After (exec (.resign resignSlot0) { twiceNamed with taken := [resignSlot0] }) = .failed := by
  decide +kernel

/-- R267: so does the end of a fetch whose image fails its checks. -/
theorem fetchEnd_fails_twiceNamed : slot0After (exec (.imageFetchDone 0) twiceNamed) = .failed := by decide +kernel

/-- Refutes O32: where the table names a slot twice, and the second entry waits for the image that the first fetches, an accepted RESIGN leaves
the slot FAILED. -/
theorem not_resignPauseLoss : ¬ Obligations.ResignPauseLoss := by
  intro h
  obtain ⟨s', hs, -, hst, -⟩ := (h { twiceNamed with taken := [resignSlot0] } resignSlot0 (by decide +kernel)).1 (by decide +kernel)
    (by decide +kernel) rfl rfl rfl (by decide +kernel) (by decide +kernel)
  have hresigned : slot0After (exec (.resign resignSlot0) { twiceNamed with taken := [resignSlot0] }) = .resigned := by
    rw [hs]
    exact hst
  rw [resign_fails_twiceNamed] at hresigned
  exact absurd hresigned (by decide)

/-- Refutes O36: there the end of a fetch whose image fails its checks leaves the slot FAILED, not LOST. -/
theorem not_pauseImages : ¬ Obligations.PauseImages := by
  intro h
  obtain ⟨-, -, -, hlost, -⟩ := h twiceNamed 0 (by decide +kernel)
  obtain ⟨s', hs, hst, -⟩ := hlost rfl rfl (by decide +kernel) (by decide +kernel)
  have hend : slot0After (exec (.imageFetchDone 0) twiceNamed) = .lost := by
    rw [hs]
    exact hst
  rw [fetchEnd_fails_twiceNamed] at hend
  exact absurd hend (by decide)

end Sys2Proof.Machine
end

section
/-! SUPPORT. Accepted RESUME, PREFIX_REF and ADMIT. -/

namespace Sys2Proof.Machine

/-- R251: checks that hold let a message through. -/
theorem firstFail_none {l : List (Bool × Nat)} (h : ∀ p ∈ l, p.1 = false) : firstFail l = none := by
  induction l with
  | nil => rfl
  | cons p l ih =>
    obtain ⟨hp, hl⟩ := List.forall_mem_cons.mp h
    obtain ⟨b, st⟩ := p
    rw [show b = false from hp]
    exact ih hl

/-- R265: a run opened by a RESUME, with its answer. -/
theorem onResume_accepts {s : State} {m : Msg} {p : Nat} {pl : List (W32 × Nat)} (hbad : resumeBad s m = false)
    (hg : slotGate s m false false = none) (hst : (slotOf s (msgSlot m)).r.st = .paused) (hmasks : (slotOf s (msgSlot m)).r.masks = false)
    (hmax : (slotOf s (msgSlot m)).r.commit + fld m.w2 40 24 ≤ maxPos) (hpz : toksPz s (fld m.w2 0 36) (fld m.w2 40 24) = false)
    (hpages : pagesNeeded s (msgSlot m) (if (slotOf s (msgSlot m)).r.sub = 2 then 0 else (slotOf s (msgSlot m)).r.commit)
      ((slotOf s (msgSlot m)).r.commit + fld m.w2 40 24) ≤ freePages s (slotHalf (msgSlot m)))
    (hprice : price s (slotHalf (msgSlot m)) (slotOf s (msgSlot m)).w.image ((slotOf s (msgSlot m)).r.sub == 2) (fld m.w2 40 24) = some (p, pl)) :
    MsgStep (msgSlot m) s (onResume s m) ∧ (slotOf (onResume s m) (msgSlot m)).r.st = (if fld m.w2 40 24 = 0 then .ready else .prompt)
      ∧ (slotOf (onResume s m) (msgSlot m)).w.runFrom = (slotOf s (msgSlot m)).r.commit
      ∧ (slotOf (onResume s m) (msgSlot m)).w.runTo = (slotOf s (msgSlot m)).r.commit + fld m.w2 40 24
      ∧ (slotOf (onResume s m) (msgSlot m)).w.runP = p ∧ (slotOf (onResume s m) (msgSlot m)).w.plans = pl
      ∧ (slotOf (onResume s m) (msgSlot m)).w.runTurn = s.turns.cur
      ∧ (slotOf (onResume s m) (msgSlot m)).r.commit = (slotOf s (msgSlot m)).r.commit := by
  unfold onResume
  extract_lets +onlyGivenNames k x n off c away
  have haway : (if away = true then 0 else c) = if x.r.sub = 2 then 0 else c := ite_congr (propext beq_iff_eq) (fun _ => rfl) fun _ => rfl
  have hchecks : firstFail [(decide (maxPos < c + n), 0x15), (toksPz s off n, 0x14),
      (decide (freePages s (slotHalf k) < pagesNeeded s k (if away then 0 else c) (c + n)), 0x16)] = none := by
    refine firstFail_none fun q hq => ?_
    simp only [List.mem_cons, List.not_mem_nil, or_false] at hq
    obtain rfl | rfl | rfl := hq
    · exact decide_eq_false (Nat.not_lt.mpr hmax)
    · exact hpz
    · rw [haway]
      exact decide_eq_false (Nat.not_lt.mpr hpages)
  rw [if_neg (by rw [hbad]; decide), hg]
  dsimp -zeta only
  rw [if_neg (not_not_intro hst), hchecks]
  dsimp -zeta only
  rw [show price s (slotHalf k) x.w.image away n = some (p, pl) from hprice]
  dsimp -zeta only
  extract_lets +onlyGivenNames s1 s2 fetch s3 s4
  have hslot : slotOf (countEpoch s m) k = x := slotOf_slots (countEpoch_slots s m) _
  have h1 : PageStep k (countEpoch s m) s1 := takePages_pages ..
  obtain ⟨_, _, _, hown⟩ := h1.own
  rw [hslot] at hown
  have hcur : s1.turns.cur = s.turns.cur := h1.step.cur.trans (countEpoch_step s k m).cur
  have h2 : slotOf s2 k = _ := slotOf_modSlot_same ..
  have h3 : slotOf s3 k = _ := slotOf_modSlot_same ..
  obtain ⟨dlv, deadline, h4⟩ := setDeadline_slot s3 k
  rw [h3, h2, hown] at h4
  have h4s : s4 = setDeadline s3 k := addMaskJob_none (by rw [h4]; exact hmasks)
  have hstep : MsgStep k s (setDeadline s3 k) :=
    ((countEpoch_step s k m).trans h1.step).trans ((modSlot_step ..).trans ((modSlot_step ..).trans (setDeadline_step ..)))
  rw [answerSlot_slot, h4s, h4]
  exact ⟨hstep.trans (answerSlot_step ..), rfl, rfl, rfl, rfl, rfl, hcur, rfl⟩

/-- R267, R268: a rebuild begun. -/
theorem onResumeRebuild_accepts {s : State} {m : Msg} {p : Nat} {pl : List (W32 × Nat)} {i : Image} (hbad : resumeBad s m = false)
    (hg : slotGate s m false false = none) (hst : (slotOf s (msgSlot m)).r.st = .lost) (hsub : (slotOf s (msgSlot m)).r.sub = 0)
    (hmasks : (slotOf s (msgSlot m)).r.masks = false) (hold : fld m.w3 40 24 = (slotOf s (msgSlot m)).r.commit)
    (hmax : fld m.w3 40 24 + fld m.w2 40 24 ≤ maxPos) (hpz : toksPz s (fld m.w2 0 36) (fld m.w3 40 24 + fld m.w2 40 24) = false)
    (hpages : pagesNeeded s (msgSlot m) 0 (fld m.w3 40 24 + fld m.w2 40 24) ≤ freePages s (slotHalf (msgSlot m)))
    (hprice : price s (slotHalf (msgSlot m)) (slotOf s (msgSlot m)).w.image true (fld m.w3 40 24 + fld m.w2 40 24) = some (p, pl))
    (himage : imageOf s (slotOf s (msgSlot m)).w.image = some i) :
    MsgStep (msgSlot m) s (onResumeRebuild s m) ∧ (slotOf (onResumeRebuild s m) (msgSlot m)).r.st = .lost
      ∧ (slotOf (onResumeRebuild s m) (msgSlot m)).r.sub = 1 ∧ (slotOf (onResumeRebuild s m) (msgSlot m)).w.rebuild = some (fld m.w3 40 24)
      ∧ (slotOf (onResumeRebuild s m) (msgSlot m)).w.runFrom = 0
      ∧ (slotOf (onResumeRebuild s m) (msgSlot m)).w.runTo = fld m.w3 40 24 + fld m.w2 40 24
      ∧ (slotOf (onResumeRebuild s m) (msgSlot m)).w.screened = 0 ∧ (slotOf (onResumeRebuild s m) (msgSlot m)).w.runP = p := by
  unfold onResumeRebuild
  extract_lets +onlyGivenNames k x new old off
  have hchecks : firstFail [(old != x.r.commit, 0x13), (decide (maxPos < old + new), 0x15), (toksPz s off (old + new), 0x14),
      (decide (freePages s (slotHalf k) < pagesNeeded s k 0 (old + new)), 0x16)] = none := by
    refine firstFail_none fun q hq => ?_
    simp only [List.mem_cons, List.not_mem_nil, or_false] at hq
    obtain rfl | rfl | rfl | rfl := hq
    · exact bne_eq_false_iff_eq.mpr hold
    · exact decide_eq_false (Nat.not_lt.mpr hmax)
    · exact hpz
    · exact decide_eq_false (Nat.not_lt.mpr hpages)
  rw [if_neg (by rw [hbad]; decide), hg]
  dsimp -zeta only
  rw [if_neg (fun c => c.elim (· hst) (· hsub)), hchecks]
  dsimp -zeta only
  rw [show price s (slotHalf k) x.w.image true (old + new) = some (p, pl) from hprice, show imageOf s x.w.image = some i from himage]
  dsimp -zeta only
  extract_lets +onlyGivenNames s1 s2
  have hslot : slotOf (countEpoch s m) k = x := slotOf_slots (countEpoch_slots s m) _
  have h1 : PageStep k (countEpoch s m) s1 := takePages_pages ..
  obtain ⟨_, _, _, hown⟩ := h1.own
  rw [hslot] at hown
  have h2 : slotOf s2 k = _ := slotOf_modSlot_same ..
  obtain ⟨dlv, deadline, h4⟩ := setDeadline_slot s2 k
  rw [h2, hown] at h4
  have hstep : MsgStep k s (setDeadline s2 k) :=
    ((countEpoch_step s k m).trans h1.step).trans ((modSlot_step ..).trans (setDeadline_step ..))
  rw [answerSlot_slot, addMaskJob_none (by rw [h4]; exact hmasks), h4]
  exact ⟨hstep.trans (answerSlot_step ..), hst, rfl, rfl, rfl, rfl, rfl, rfl⟩

/-- Settles O33, form by form. -/
theorem resumesReopen : Obligations.ResumesReopen := by
  intro s m p pl hn ht hbad hg
  have htype : (msgType m == 6) = true := beq_iff_eq.mpr ht
  refine ⟨fun hform hst hmasks hmax hpz hpages hprice => ?_, fun i hr hl hst hsub hmasks hold hmax hpz hpages hprice himage => ?_⟩
  · obtain ⟨hstep, hown⟩ := onResume_accepts (s := dropTaken s) hbad hg hst hmasks hmax hpz hpages hprice
    have hkind : (msgType m == 6 && bit m.w1 23 == bit m.w1 22) = true := by rw [htype, hform, beq_self_eq_true]; rfl
    exact ⟨_, exec_next rfl (onMessage_next hn hkind), hstep.taken, hown⟩
  · obtain ⟨hstep, hown⟩ := onResumeRebuild_accepts (s := dropTaken s) hbad hg hst hsub hmasks hold hmax hpz hpages hprice himage
    have hkind : (msgType m == 6 && bit m.w1 23 && !bit m.w1 22) = true := by rw [htype, hr, hl]; rfl
    exact ⟨_, exec_next rfl (onMessage_next hn hkind), hstep.taken, hown⟩

/-- R264: a step that leaves both tables of handles. -/
def HandlesStand (s s' : State) : Prop := ∀ h, (half s' h).handles = (half s h).handles

theorem HandlesStand.refl (s : State) : HandlesStand s s := fun _ => rfl

theorem HandlesStand.trans {a b c : State} (h : HandlesStand a b) (k : HandlesStand b c) : HandlesStand a c := fun x => (k x).trans (h x)

theorem HandlesStand.of_halves {s s' : State} (ha : s'.halfA = s.halfA) (hb : s'.halfB = s.halfB) : HandlesStand s s' := fun h => by
  cases h
  · exact congrArg _ ha
  · exact congrArg _ hb

theorem modHalf_handles {s : State} {h : Half} {f : HalfState → HalfState} (hf : ∀ x, (f x).handles = x.handles) :
    HandlesStand s (modHalf s h f) := fun k => by
  by_cases hk : k = h
  · rw [hk, half_modHalf_same, hf]
  · rw [half_modHalf_other s h k f hk]

theorem addRef_handles (s : State) (h : Half) (k : Nat) : HandlesStand s (addRef s h k) := by
  unfold addRef
  split
  · exact .refl s
  · exact modHalf_handles fun _ => rfl

theorem dropRef_handles (s : State) (h : Half) (k : Nat) : HandlesStand s (dropRef s h k) := by
  unfold dropRef
  split
  · exact .refl s
  · exact modHalf_handles fun _ => rfl

theorem setSlotPage_handles (s : State) (n i k : Nat) : HandlesStand s (setSlotPage s n i k) := by
  unfold setSlotPage
  split
  · exact .of_halves rfl rfl
  · exact .of_halves rfl rfl

theorem mem_handles (s : State) (m : Mem) : HandlesStand s { s with mem := m } := .of_halves rfl rfl

theorem takeEntry_handles (s : State) (n i : Nat) : HandlesStand s (takeEntry s n i) := by
  unfold takeEntry
  split
  · extract_lets +onlyGivenNames h old k s1 s3 s2
    have h1 : HandlesStand s s1 := (addRef_handles s h k).trans (dropRef_handles _ h old)
    have h2 : HandlesStand s1 s2 := by
      show HandlesStand s1 (if old = 0 then s1 else _)
      split
      · exact .refl s1
      · obtain ⟨_, hc⟩ := countPoison_ports s1 (pageAddr s1 h old) 65536
        have h3 : HandlesStand s1 s3 := by
          rw [show s3 = _ from hc]
          exact .of_halves rfl rfl
        exact h3.trans (mem_handles _ _)
    exact (h1.trans h2).trans (setSlotPage_handles s2 n i k)
  · exact .refl s

theorem answer_handles (s : State) (m : Msg) (st p k g : Nat) : HandlesStand s (answer s m st p k g) := by
  obtain ⟨_, _, h⟩ := answer_stands s m st p k g
  rw [h]
  exact .of_halves rfl rfl

theorem countEpoch_handles (s : State) (m : Msg) : HandlesStand s (countEpoch s m) := by
  unfold countEpoch
  split
  · exact .refl s
  · exact .of_halves rfl rfl

theorem countEpoch_slotPages (s : State) (m : Msg) (n k : Nat) : slotPages (countEpoch s m) n k = slotPages s n k := by
  unfold countEpoch
  split <;> rfl

theorem addRefs_stand (h : Half) (l : List Nat) (s : State) :
    HandlesStand s (l.foldl (fun s p => addRef s h p) s) ∧ (l.foldl (fun s p => addRef s h p) s).slots = s.slots
      ∧ (l.foldl (fun s p => addRef s h p) s).taken = s.taken ∧ (l.foldl (fun s p => addRef s h p) s).turns = s.turns := by
  induction l generalizing s with
  | nil => exact ⟨.refl s, rfl, rfl, rfl⟩
  | cons p l ih =>
    obtain ⟨hh, hs, ht, hc⟩ := ih (addRef s h p)
    have hone : (addRef s h p).slots = s.slots ∧ (addRef s h p).taken = s.taken ∧ (addRef s h p).turns = s.turns := by
      unfold addRef
      split
      · exact ⟨rfl, rfl, rfl⟩
      · exact ⟨modHalf_slots .., modHalf_taken .., modHalf_turns ..⟩
    exact ⟨(addRef_handles s h p).trans hh, hs.trans hone.1, ht.trans hone.2.1, hc.trans hone.2.2⟩

theorem handleExt_stands (s : State) (h : Half) (l : List Nat) :
    HandlesStand s (handleExt s h l).1 ∧ (handleExt s h l).1.slots = s.slots ∧ (handleExt s h l).1.taken = s.taken
      ∧ (handleExt s h l).1.turns = s.turns := by
  unfold handleExt
  split
  · exact ⟨.refl s, rfl, rfl, rfl⟩
  · obtain ⟨hh, hs, ht, hc⟩ := addRefs_stand h [nextPage s h] s
    exact ⟨hh.trans (mem_handles _ _), hs, ht, hc⟩

/-- R263: what MARK makes, and where. -/
theorem makeHandle_makes (s : State) (k i len : Nat) (v : W32) (ttl : Nat) :
    MsgStep k s (makeHandle s k i len v ttl)
      ∧ (∃ e, smGet none (half (makeHandle s k i len v ttl) (slotHalf k)).handles i = some e ∧ e.tenant = (slotOf s k).r.tenant ∧ e.value = v
        ∧ e.len = len ∧ e.expiry = s.turns.cur + BitVec.ofNat 32 ttl ∧ e.pages = slotPages s k (entriesFor len))
      ∧ (∀ j, j ≠ i → smGet none (half (makeHandle s k i len v ttl) (slotHalf k)).handles j = smGet none (half s (slotHalf k)).handles j)
      ∧ (markCopies (slotOf s k) len = false → (makeHandle s k i len v ttl).slots = s.slots) := by
  unfold makeHandle
  extract_lets +onlyGivenNames x h pages sc ext e s1
  obtain ⟨hr, hrs, hrt, hrc⟩ := addRefs_stand h pages s
  obtain ⟨he, hes, het, hec⟩ := handleExt_stands (pages.foldl (fun s p => addRef s h p) s) h pages
  have hs1 : s1.slots = s.slots := (modHalf_slots ..).trans (hes.trans hrs)
  have ht1 : s1.taken = s.taken := (modHalf_taken ..).trans (het.trans hrt)
  have hc1 : s1.turns = s.turns := (modHalf_turns ..).trans (hec.trans hrc)
  have hstep1 : MsgStep k s s1 := .of_slots hs1 ht1 (congrArg (·.cur) hc1)
  have hh1 : (half s1 h).handles = smSet none (half s h).handles i (some e) := by
    rw [show half s1 h = _ from half_modHalf_same .., he h, hr h]
  have hfinal : MsgStep k s (if markCopies x len = true then takeEntry s1 k (len / 64) else s1)
      ∧ HandlesStand s1 (if markCopies x len = true then takeEntry s1 k (len / 64) else s1) := by
    split
    · exact ⟨hstep1.trans (takeEntry_pages ..).step, takeEntry_handles _ _ _⟩
    · exact ⟨hstep1, .refl s1⟩
  rw [hfinal.2 h, hh1]
  exact ⟨hfinal.1, ⟨e, smGet_smSet_same .., rfl, rfl, rfl, rfl, rfl⟩, fun j hj => smGet_smSet_other _ _ _ _ _ hj,
    fun hm => by rw [if_neg (by rw [hm]; decide), hs1]⟩

/-- R263: the checks of a MARK that its slot and its table pass. -/
theorem onMark_decides {s : State} {m : Msg} {i : Nat} (hbad : prefixBad m = false) (hg : slotGate s m false false = none)
    (hst : (slotOf s (msgSlot m)).r.st = .ready ∨ (slotOf s (msgSlot m)).r.st = .generating) (h0 : fld m.w2 8 24 ≠ 0)
    (hc : fld m.w2 8 24 ≤ (slotOf s (msgSlot m)).r.commit) (hp : fld m.w2 8 24 ≤ (slotOf s (msgSlot m)).w.published)
    (hfind : findHandle s (slotOf s (msgSlot m)).r.tenant.toNat (BitVec.ofNat 32 (fld m.w2 32 32)) = none)
    (hfree : freeHandle s (slotHalf (msgSlot m)) = some i) :
    onMark s m = if freePages s (slotHalf (msgSlot m)) < markPages (slotOf s (msgSlot m)) (fld m.w2 8 24) then answerSlot s m 0x16 0
      else answerSlot (makeHandle (countEpoch s m) (msgSlot m) i (fld m.w2 8 24) (BitVec.ofNat 32 (fld m.w2 32 32)) (fld m.w3 40 24)) m 0 0 := by
  unfold onMark
  extract_lets +onlyGivenNames k x len v
  rw [if_neg (by rw [hbad]; decide), hg]
  dsimp -zeta only
  rw [if_neg (by rintro ⟨c1, c2⟩; exact hst.elim c1 c2), if_neg (fun c => c.elim h0 (Or.rec (Nat.not_lt.mpr hc) (Nat.not_lt.mpr hp))),
    show findHandle s x.r.tenant.toNat v = none from hfind, if_neg (by decide), hfree]

theorem onDrop_drops {s : State} {m : Msg} {h : Half} {i : Nat} {x : Handle} (hbad : prefixBad m = false) (h0 : msgSlot m = 0) (h1 : msgSgen m = 0)
    (hfind : findHandle s (msgTenant m) (BitVec.ofNat 32 (fld m.w2 32 32)) = some (h, i, x)) :
    onDrop s m = answer (dropHandle s h i x) m 0 0 0 0 := by
  unfold onDrop
  rw [if_neg (by rw [hbad, h0, h1]; decide), hfind]

/-- R251: a PREFIX_REF whose checks pass is one. -/
theorem prefixBad_type {m : Msg} (h : prefixBad m = false) : msgType m = 7 := by
  simp only [prefixBad, Bool.or_eq_false_iff, Bool.not_eq_false'] at h
  obtain ⟨⟨⟨⟨⟨⟨hh, -⟩, -⟩, -⟩, -⟩, -⟩, -⟩ := h
  exact beq_iff_eq.mp (Bool.and_eq_true_iff.mp (Bool.and_eq_true_iff.mp hh).1).1

theorem half_answer (s : State) (m : Msg) (st p k g : Nat) (h : Half) : half (answer s m st p k g) h = half s h := by
  obtain ⟨_, _, ha⟩ := answer_stands s m st p k g
  rw [ha]
  cases h <;> rfl

theorem answer_slots (s : State) (m : Msg) (st p k g : Nat) : (answer s m st p k g).slots = s.slots := by
  obtain ⟨_, _, ha⟩ := answer_stands s m st p k g
  rw [ha]

/-- Settles O34: MARK with pages enough and with too few, and DROP. -/
theorem prefixHandles : Obligations.PrefixHandles := by
  intro s m hn hbad v
  have htype : (msgType m == 7) = true := beq_iff_eq.mpr (prefixBad_type hbad)
  refine ⟨fun i hop hg => ?_, fun h i x hop h0 h1 hfind => ?_⟩
  · intro x h len hst hlen hc hp hfind hfree
    have hkind : (msgType m == 7 && fld m.w1 22 2 != 1) = true := by rw [htype, hop]; rfl
    have hmark := onMark_decides (s := dropTaken s) hbad hg hst hlen hc hp hfind hfree
    refine ⟨fun hpages => ?_, fun hpages => ?_⟩
    · obtain ⟨hstep, ⟨e, he, htenant, hvalue, helen, hexpiry, hepages⟩, hothers, hslots⟩ :=
        makeHandle_makes (countEpoch (dropTaken s) m) (msgSlot m) i len v (fld m.w3 40 24)
      have hslot : slotOf (countEpoch (dropTaken s) m) (msgSlot m) = x := slotOf_slots (countEpoch_slots ..) _
      have hcount : MsgStep (msgSlot m) (dropTaken s) (countEpoch (dropTaken s) m) := countEpoch_step ..
      rw [hslot] at htenant hslots
      refine ⟨_, e, exec_next rfl ((onMessage_next hn hkind).trans (hmark.trans (if_neg (Nat.not_lt.mpr hpages)))), ?_⟩
      have hfinal := (hcount.trans hstep).trans (answerSlot_step _ _ m 0 0)
      refine ⟨hfinal.taken, ?_, htenant, hvalue, helen, hexpiry.trans (congrArg (· + _) hcount.cur),
        hepages.trans (countEpoch_slotPages ..), fun k hk => ?_, hfinal.others, fun hm => ?_⟩
      · rw [answerSlot, half_answer]
        exact he
      · rw [answerSlot, half_answer]
        exact (hothers k hk).trans (congrArg (smGet none · k) (countEpoch_handles ..))
      · rw [answerSlot, answer_slots]
        exact (hslots hm).trans (countEpoch_slots ..)
    · refine ⟨_, exec_next rfl ((onMessage_next hn hkind).trans (hmark.trans (if_pos hpages))), (answerSlot_step _ 0 m 0x16 0).taken, ?_, ?_⟩
      · rw [answerSlot, half_answer]
        cases h <;> rfl
      · rw [answerSlot, answer_slots]
        rfl
  · have hkind : (msgType m == 7 && fld m.w1 22 2 == 1) = true := by rw [htype, hop]; rfl
    obtain ⟨hgone, hothers, hunused, -⟩ := dropHandle_drops (dropTaken s) h i x
    have hhalf : half (dropTaken s) h = half s h := by cases h <;> rfl
    rw [hhalf] at hothers hunused
    refine ⟨_, exec_next rfl ((onMessage_next hn hkind).trans (onDrop_drops (s := dropTaken s) hbad h0 h1 hfind)), ?_⟩
    rw [half_answer, answer_slots]
    refine ⟨((answer_pages _ 0 m 0 0 0 0).step.taken).trans ?_, hgone, hothers, hunused, dropHandle_slots ..⟩
    exact modHalf_taken ..

end Sys2Proof.Machine
end

section
/-! SUPPORT. An accepted ADMIT. -/

namespace Sys2Proof.Machine

/-- R349: a state but for the counters of poisoned reads. -/
def SamePorts (s x : State) : Prop := x = { s with ports := x.ports }

/-- R349: those counters play no part in an admission. -/
theorem SamePorts.admission {s x : State} (hx : SamePorts s x) (h : Half) (img : Nat) (n off q : Nat) (m : Msg) (i : Image) :
    price x h img true q = price s h img true q ∧ freeSlot x h = freeSlot s h ∧ toksPz x off q = toksPz s off q
      ∧ freePages (admitSlot x m n img i none 0 []) h = freePages (admitSlot s m n img i none 0 []) h
      ∧ pagesNeeded (admitSlot x m n img i none 0 []) n 0 q = pagesNeeded (admitSlot s m n img i none 0 []) n 0 q := by
  rw [hx]
  exact ⟨rfl, rfl, rfl, rfl, rfl⟩

theorem SamePorts.step {s x : State} (hx : SamePorts s x) (n : Nat) : MsgStep n s x ∧ slotOf x n = slotOf s n := by
  rw [hx]
  exact ⟨.of_slots rfl rfl rfl, rfl⟩

/-- R253: what an ADMIT without a handle makes of a slot. -/
def admitted (s : State) (m : Msg) (img : Nat) (i : Image) (p : Nat) (pl : List (W32 × Nat)) (x : Slot) : Slot :=
  { r := { SlotRec.free with
      st := .prompt, prio := BitVec.ofNat 3 (fld m.w1 45 3), plag := i.plag, omode := i.omode, masks := i.masks
      tenant := i.tenant, sgen := x.r.sgen + 1, epoch := BitVec.ofNat 16 (fld m.w0 32 16)
      ring := BitVec.ofNat 16 (fld m.w3 16 16), ctag := m.w4, scale := initScale i }
    w := { SlotWork.none with
      image := img, runTo := 0 + fld m.w2 40 24, runTurn := s.turns.cur, runP := p, runOpen := true, firstOut := 0 + fld m.w2 40 24, steady := true
      plans := pl, ringBase := fld (winWord s (vrOff s (fld m.w3 16 16))) 0 36, ringCount := fld (winWord s (vrOff s (fld m.w3 16 16) + 8)) 0 17
      toks := readToks s (fld m.w2 0 36) (fld m.w2 40 24) } }

theorem admitSlot_fills (s : State) (m : Msg) (n img : Nat) (i : Image) (p : Nat) (pl : List (W32 × Nat)) :
    admitSlot s m n img i none p pl = modSlot s n (admitted s m img i p pl) := rfl

/-- R251, R253: an ADMIT whose checks pass. -/
theorem onAdmit_decides {s : State} {m : Msg} {map : RouteMap} {img n p : Nat} {i : Image} {pl : List (W32 × Nat)} (hbad : admitBad s m = false)
    (hmap : mapOf s (fld m.w0 32 16) = some map) (hhome : homedHere s map (msgTenant m) = true) (hseen : s.turns.seen = true)
    (hnom : nomOk s.turns = true) (himg : admitImage s (msgTenant m) = some (img, i)) (h0 : fld m.w3 32 32 = 0)
    (hring : if i.omode then fld m.w3 16 16 = 0 ∧ (poolOf s (msgTenant m)).2.1 ≠ 0
      else ringBad s (fld m.w3 16 16) = false ∧ ringPz s (fld m.w3 16 16) = false)
    (hpz : toksPz s (fld m.w2 0 36) (fld m.w2 40 24) = false) (hfree : freeSlot s (placeHalf s) = some n)
    (hpages : pagesNeeded (admitSlot s m n img i none 0 []) n 0 (fld m.w2 40 24) + 1
      ≤ freePages (admitSlot s m n img i none 0 []) (placeHalf s))
    (hprice : price s (placeHalf s) img true (fld m.w2 40 24) = some (p, pl)) :
    ∃ x, SamePorts s x ∧ ∃ st q a b, onAdmit s m
      = answer (addMaskJob (setDeadline (takePages (admitSlot x m n img i none p pl) n 0 (0 + fld m.w2 40 24)) n) n 0
          (0 + fld m.w2 40 24)) m st q a b := by
  obtain ⟨x, hports, hx⟩ : ∃ x, (if i.omode then countPoison s (winAddr s (poolAt s (msgTenant m))) 16 else s) = x ∧ SamePorts s x := by
    refine ⟨_, rfl, ?_⟩
    split
    · obtain ⟨ports, hp⟩ := countPoison_ports s (winAddr s (poolAt s (msgTenant m))) 16
      rw [hp]
      rfl
    · rfl
  have hplen : fld m.w2 40 24 ≤ maxPos := by
    simp only [admitBad, Bool.or_eq_false_iff, decide_eq_false_iff_not, Nat.not_lt] at hbad
    exact hbad.1.1.1.2
  obtain ⟨hprice', hfree', hpz', hpages1, hpages2⟩ := hx.admission (placeHalf s) img n (fld m.w2 0 36) (fld m.w2 40 24) m i
  obtain ⟨hring1, hring2⟩ : (if i.omode then fld m.w3 16 16 != 0 || (poolOf s (msgTenant m)).2.1 == 0 else ringBad s (fld m.w3 16 16)) = false
      ∧ (!i.omode && ringPz s (fld m.w3 16 16)) = false := by
    cases hm : i.omode
    · rw [hm] at hring
      exact ⟨hring.1, hring.2⟩
    · rw [hm] at hring
      exact ⟨by rw [if_pos rfl, hring.1, beq_eq_false_iff_ne.mpr hring.2]; rfl, rfl⟩
  have hchecks : firstFail [(fld m.w3 32 32 != 0 && (none : Option (Half × Nat × Handle)).isNone, 0x23),
      (if i.omode then fld m.w3 16 16 != 0 || (poolOf s (msgTenant m)).2.1 == 0 else ringBad s (fld m.w3 16 16), 0x14),
      (decide (maxPos < 0 + fld m.w2 40 24), 0x15)] = none := by
    refine firstFail_none fun q hq => ?_
    simp only [List.mem_cons, List.not_mem_nil, or_false] at hq
    obtain rfl | rfl | rfl := hq
    · rw [h0]
      rfl
    · exact hring1
    · exact decide_eq_false (by omega)
  refine ⟨x, hx, ?_⟩
  unfold onAdmit
  dsimp only
  rw [if_neg (by rw [hbad]; decide), hmap]
  dsimp only
  rw [if_neg (by rw [hhome]; decide), if_pos (by rw [hseen, hnom]; rfl), himg]
  dsimp only
  rw [hports, if_pos h0]
  simp only [Option.map_none, Option.getD_none, Nat.zero_add] at hchecks ⊢
  rw [hchecks]
  dsimp only
  rw [hpz', hpz, hring2, if_neg (by decide), hfree', hfree]
  dsimp only
  rw [hpages1, hpages2, if_neg (Nat.not_lt.mpr hpages), hprice', hprice]
  exact ⟨_, _, _, _, rfl⟩

/-- Settles O35: the checks, then the slot as the ADMIT fills it. -/
theorem admitFillsSlot : Obligations.AdmitFillsSlot := by
  intro s m map img n p i pl hn hbad ht hmap hhome hseen hnom himg h0 hring hpz hfree hmasks hpages hprice
  obtain ⟨x, hx, st, q, a, b, hadmit⟩ := onAdmit_decides (s := dropTaken s) hbad hmap hhome hseen hnom himg h0 hring hpz hfree hpages hprice
  obtain ⟨hxstep, hxslot⟩ := hx.step n
  rw [admitSlot_fills] at hadmit
  have hpage : PageStep n (modSlot x n (admitted x m img i p pl)) _ := takePages_pages _ n 0 (0 + fld m.w2 40 24)
  obtain ⟨_, _, _, hown⟩ := hpage.own
  rw [slotOf_modSlot_same, hxslot] at hown
  obtain ⟨dlv, deadline, hslot⟩ := setDeadline_slot (takePages (modSlot x n (admitted x m img i p pl)) n 0 (0 + fld m.w2 40 24)) n
  rw [hown] at hslot
  rw [addMaskJob_none (by rw [hslot]; exact hmasks)] at hadmit
  have hstep := (hxstep.trans (modSlot_step ..)).trans (hpage.step.trans (setDeadline_step ..))
  have hanswer := answer_pages (setDeadline (takePages (modSlot x n (admitted x m img i p pl)) n 0 (0 + fld m.w2 40 24)) n) n m st q a b
  have hsame : slotOf (answer (setDeadline (takePages (modSlot x n (admitted x m img i p pl)) n 0 (0 + fld m.w2 40 24)) n) m st q a b) n = _ :=
    (slotOf_slots (answer_slots ..) n).trans hslot
  refine ⟨_, exec_next rfl ((onMessage_next hn (beq_iff_eq.mpr ht)).trans hadmit), (hstep.trans hanswer.step).taken, ?_⟩
  rw [hsame]
  exact ⟨rfl, rfl, rfl, rfl, rfl, rfl, rfl, rfl, rfl, Nat.zero_add _, rfl, rfl, rfl, (hstep.trans hanswer.step).others⟩

end Sys2Proof.Machine
end

section
/-! SUPPORT. Loads of route maps and code tables. -/

namespace Sys2Proof.Machine

theorem regBlock_group : regBlock (mgmtBase + 0x60100) = some (.group, 0x100) ∧ regBlock (mgmtBase + 0x60180) = some (.group, 0x180)
    ∧ regBlock (mgmtBase + 0x60188) = some (.group, 0x188) := by decide +kernel

theorem routeLoadWrite_starts {s : State} {d : W64} (hb : s.errs.block = false) (h : s.group.routeLoad = none) :
    routeLoadWrite s d
      = { s with group := { s.group with routeLoad := some (BitVec.ofNat 16 (fld d 48 16), BitVec.ofNat 36 (fld d 0 36)), routeResult := 3 } } :=
  if_neg (by rw [hb, h]; decide)

theorem routeLoadWrite_busy {s : State} {d : W64} (h : s.group.routeLoad.isSome = true) : routeLoadWrite s d = s := if_pos (.inr h)

/-- R369: the end of a load, before its image is judged. -/
theorem routeLoaded_none {s : State} (h : s.group.routeLoad = none) : routeLoaded s = s := by
  unfold routeLoaded
  rw [h]

theorem routeLoaded_busy {s : State} {e : BitVec 16} {off : BitVec 36} (h : s.group.routeLoad = some (e, off)) (hc : ctRuns s = true)
    (hb : s.errs.block = false) (ho : s.group.oldMap.isSome = true) :
    routeLoaded s = { s with group := { s.group with routeLoad := none, routeResult := 1 } } := by
  unfold routeLoaded
  rw [h]
  dsimp only
  rw [if_neg (by rw [hc, hb]; decide), if_pos ho]
  rfl

theorem routeLoaded_noImage {s : State} {e : BitVec 16} {off : BitVec 36} (h : s.group.routeLoad = some (e, off)) (hc : ctRuns s = true)
    (hb : s.errs.block = false) (ho : s.group.oldMap = none) (hi : routeImage s e.toNat off.toNat = none) :
    routeLoaded s = { countRoute s off.toNat with group := { s.group with routeLoad := none, routeResult := 2 } } := by
  have hgroup : (countRoute s off.toNat).group = s.group := by
    unfold countRoute
    dsimp only
    split
    · obtain ⟨_, hp⟩ := countPoison_ports s (winAddr s off.toNat) (64 + 8 * (fld (winWord s off.toNat) 32 16 + 1))
      rw [hp]
    · rfl
  unfold routeLoaded
  rw [h]
  dsimp only
  rw [if_neg (by rw [hc, hb]; decide), if_neg (by rw [ho]; decide), hi]
  dsimp only
  rw [hgroup]
  rfl

/-- R369, R7: a good image becomes NEW where its epoch is the next and its version is accepted. -/
theorem routeLoaded_image {s : State} {e : BitVec 16} {off : BitVec 36} {m : RouteMap} {ok : Bool} (h : s.group.routeLoad = some (e, off))
    (hc : ctRuns s = true) (hb : s.errs.block = false) (ho : s.group.oldMap = none) (hi : routeImage s e.toNat off.toNat = some m)
    (hok : (routeVersionOk s off.toNat && match s.group.newMap with
      | none => true
      | some n => e == n.epoch + 1) = ok) :
    routeLoaded s =
      if ok then
        sendBlockEvent { s with group := { s.group with routeLoad := none, routeResult := 0, newMap := some m, oldMap := s.group.newMap } } 0x0502
          (mk64 e.toNat)
      else { s with group := { s.group with routeLoad := none, routeResult := 2 } } := by
  unfold routeLoaded
  rw [h]
  dsimp only
  rw [if_neg (by rw [hc, hb]; decide), if_neg (by rw [ho]; decide), hi, ← hok]
  rfl

/-- R366: CODE_STAT.RESULT of an OK. -/
theorem codeStat_ok {t g op : Nat} (ht : t < 4096) (hg : g < 4) (ho : op < 4) :
    fld (mk64 (put t 52 12 + put g 50 2 + put op 48 2 + put 0 46 2)) 46 2 = 0 := by
  have hput : put t 52 12 + put g 50 2 + put op 48 2 + put 0 46 2 = (t * 16 + g * 4 + op) * 281474976710656 := by
    unfold put
    rw [Nat.shiftLeft_eq, Nat.shiftLeft_eq, Nat.shiftLeft_eq, Nat.shiftLeft_eq]
    omega
  have hword : (mk64 ((t * 16 + g * 4 + op) * 281474976710656)).toNat = (t * 16 + g * 4 + op) * 281474976710656 := by
    rw [mk64, BitVec.toNat_ofNat]
    omega
  rw [hput, fld, hword, Nat.shiftRight_eq_div_pow]
  omega

theorem fld_lt (w : W64) (lo len : Nat) : fld w lo len < 2 ^ len := Nat.mod_lt _ (Nat.two_pow_pos _)

theorem codeResult_stands (s : State) (d : W64) (op res : Nat) :
    (codeResult s d op res).mem = s.mem ∧ (codeResult s d op res).group.codes = s.group.codes := by
  unfold codeResult
  dsimp only
  exact ⟨rfl, rfl⟩

/-- R366: a good code table. -/
theorem codeLoadWrite_loads {s : State} {d : W64} (hb : s.errs.block = false) (ht : fld d 52 12 ≠ 0xfff)
    (hst : ((smGet CodeTable.empty s.group.codes (fld d 52 12)).gens[fld d 50 2]?).map (·.st) = some 0) (hw : fld d 48 2 ≠ 3)
    (hother : ((smGet CodeTable.empty s.group.codes (fld d 52 12)).gens.zipIdx.any fun x => x.2 != fld d 50 2 && x.1.st != 0) = true →
      fld d 48 2 = (smGet CodeTable.empty s.group.codes (fld d 52 12)).width) (hwin : fld d 0 36 + 128 ≤ winBytes s)
    (hpz : memAnyPz s.mem (winAddr s (fld d 0 36)) 128 = false)
    (hok : tableOk (tableLens (memBytes s.mem (winAddr s (fld d 0 36)) 128)) (widthBits (fld d 48 2)) = true) :
    codeLoadWrite s d = codeResult { s with group := { s.group with
      codes := smSet CodeTable.empty s.group.codes (fld d 52 12) { smGet CodeTable.empty s.group.codes (fld d 52 12) with
        width := fld d 48 2
        gens := (smGet CodeTable.empty s.group.codes (fld d 52 12)).gens.set (fld d 50 2)
          { st := 1, turn := 0, lens := tableLens (memBytes s.mem (winAddr s (fld d 0 36)) 128) } } } } d 0 0 := by
  unfold codeLoadWrite
  dsimp only
  rw [if_neg (by rw [hb]; decide), if_neg ht, if_neg (not_not_intro hst), if_neg (fun c => c.elim hw (Or.rec (fun c => c.2 (hother c.1)) (Nat.not_lt.mpr hwin))), hpz, hok, if_neg (by decide)]

theorem codeLoadWrite_fixed {s : State} {d : W64} (hb : s.errs.block = false) (ht : fld d 52 12 = 0xfff) : codeLoadWrite s d = codeResult s d 0 2 := by
  unfold codeLoadWrite
  dsimp only
  rw [if_neg (by rw [hb]; decide), if_pos ht]

theorem codeLoadWrite_state {s : State} {d : W64} (hb : s.errs.block = false) (ht : fld d 52 12 ≠ 0xfff)
    (hst : ((smGet CodeTable.empty s.group.codes (fld d 52 12)).gens[fld d 50 2]?).map (·.st) ≠ some 0) :
    codeLoadWrite s d = codeResult s d 0 1 := by
  unfold codeLoadWrite
  dsimp only
  rw [if_neg (by rw [hb]; decide), if_neg ht, if_pos hst]

/-- R366: CODE_ACT, refused and scheduled. -/
theorem codeActWrite_refused {s : State} {d : W64} (hb : s.errs.block = false)
    (h : fld d 52 12 = 0xfff ∨ ((smGet CodeTable.empty s.group.codes (fld d 52 12)).gens[fld d 50 2]?).map (·.st) ≠ some 1
      ∨ later (BitVec.ofNat 32 (fld d 0 32)) s.turns.cur = false) : codeActWrite s d = codeResult s d 1 2 := by
  unfold codeActWrite
  dsimp only
  rw [if_neg (by rw [hb]; decide), if_pos (h.imp_right fun h => h.imp_right fun h => by rw [wf, h]; rfl)]

theorem codeActWrite_schedules {s : State} {d : W64} (hb : s.errs.block = false) (ht : fld d 52 12 ≠ 0xfff)
    (hst : ((smGet CodeTable.empty s.group.codes (fld d 52 12)).gens[fld d 50 2]?).map (·.st) = some 1)
    (hl : later (BitVec.ofNat 32 (fld d 0 32)) s.turns.cur = true) :
    codeActWrite s d = codeResult { s with group := { s.group with
      acts := (s.group.acts.filter fun a => a.1 != fld d 52 12 || a.2.1 != fld d 50 2)
        ++ [(fld d 52 12, fld d 50 2, BitVec.ofNat 32 (fld d 0 32))] } } d 1 0 := by
  unfold codeActWrite
  dsimp only
  rw [if_neg (by rw [hb]; decide), if_neg (by
    rintro (c | c | c)
    · exact ht c
    · exact c hst
    · rw [wf, hl] at c
      exact absurd c (by decide))]
  rfl

/-- Settles O44, load by load. -/
theorem mapsAndTablesLoad : Obligations.MapsAndTablesLoad := by
  intro s d hb
  obtain ⟨hroute, hload, hact⟩ := regBlock_group
  have hfld12 := fld_lt d 52 12
  have hfld2 := fld_lt d 50 2
  refine ⟨fun hav hn => exec_next rfl ((mgmtWrite_served d hav hroute).trans (routeLoadWrite_starts hb hn)),
    fun hav hs => exec_next rfl ((mgmtWrite_served d hav hroute).trans (routeLoadWrite_busy hs)),
    fun hn => exec_next rfl (routeLoaded_none hn), fun e off hl hc => ⟨fun ho => exec_next rfl (routeLoaded_busy hl hc hb ho),
      fun ho hi => exec_next rfl (routeLoaded_noImage hl hc hb ho hi), fun m ho hi hepoch => ?_, fun m n ho hi hn he => exec_next rfl ?_⟩,
    fun hav ht hst hw hother hwin hpz hok => ⟨_, exec_next rfl ((mgmtWrite_served d hav hload).trans
      (codeLoadWrite_loads hb ht hst hw hother hwin hpz hok)), rfl, codeStat_ok hfld12 hfld2 (by decide), smGet_smSet_same ..,
      fun k hk => smGet_smSet_other _ _ _ _ _ hk⟩,
    fun hav => ⟨fun ht => exec_next rfl ((mgmtWrite_served d hav hload).trans (codeLoadWrite_fixed hb ht)),
      fun ht hst => exec_next rfl ((mgmtWrite_served d hav hload).trans (codeLoadWrite_state hb ht hst))⟩,
    fun hav h => exec_next rfl ((mgmtWrite_served d hav hact).trans (codeActWrite_refused hb h)),
    fun hav ht hst hl => ⟨_, exec_next rfl ((mgmtWrite_served d hav hact).trans (codeActWrite_schedules hb ht hst hl)), ?_⟩⟩
  · have hok : (routeVersionOk s off.toNat && match s.group.newMap with
        | none => true
        | some n => e == n.epoch + 1) = routeVersionOk s off.toNat := by
      cases hn : s.group.newMap with
      | none => exact Bool.and_true _
      | some n => exact (congrArg (_ && ·) (beq_iff_eq.mpr (hepoch n hn))).trans (Bool.and_true _)
    have hresult := routeLoaded_image hl hc hb ho hi hok
    refine ⟨_, exec_next rfl hresult, ?_⟩
    cases routeVersionOk s off.toNat with
    | false => exact ⟨rfl, rfl, rfl⟩
    | true =>
      have hframe (x : State) := sendBlockEvent_frame x 0x0502 (mk64 e.toNat)
      exact ⟨(hframe _).slots, (hframe _).tiles, (hframe _).group⟩
  · have hok : (routeVersionOk s off.toNat && match s.group.newMap with
        | none => true
        | some n => e == n.epoch + 1) = false := by
      rw [hn]
      exact (congrArg (_ && ·) (beq_eq_false_iff_ne.mpr he)).trans (Bool.and_false _)
    exact (routeLoaded_image hl hc hb ho hi hok).trans (if_neg Bool.false_ne_true)
  · exact ⟨(codeResult_stands ..).1, List.mem_append_right _ (List.mem_singleton_self _), (codeResult_stands ..).2,
      codeStat_ok hfld12 hfld2 (by decide)⟩

end Sys2Proof.Machine
end

section
/-! SUPPORT. Steward commands and their ends. -/

namespace Sys2Proof.Machine

/-- R454: no image of a tenant takes ADMITs. -/
def NoAdmits (t : BitVec 16) (s : State) : Prop := ∀ k i, imageOf s k = some i → i.tenant = t → i.admits = false

theorem NoAdmits.setImage {t : BitVec 16} {s : State} {n : Nat} {x : Option Image} (h : NoAdmits t s) (hx : ∀ i, x = some i → i.admits = false) :
    NoAdmits t (setImage s n x) := by
  intro k i hk ht
  by_cases hkn : k = n
  · rw [hkn, imageOf_setImage_same] at hk
    exact hx i hk
  · rw [imageOf_setImage_other s n k x hkn] at hk
    exact h k i hk ht

theorem EventFrame.noAdmits {s s' : State} (h : EventFrame s s') {t : BitVec 16} (k : NoAdmits t s) : NoAdmits t s' := by
  intro n i hn
  rw [imageOf, h.images] at hn
  exact k n i hn

theorem closeImages_noAdmits (s : State) (t : BitVec 16) : NoAdmits t (closeImages s t) := by
  have hget (l : SMap (Option Image)) (k : Nat) :
      smGet none (l.map fun p => (p.1, p.2.map fun i => if i.tenant = t then { i with admits := false } else i)) k
        = (smGet none l k).map fun i => if i.tenant = t then { i with admits := false } else i := by
    induction l with
    | nil => rfl
    | cons p l ih =>
      rw [List.map_cons]
      unfold smGet
      split
      · rfl
      · exact ih
  intro k i hk ht
  rw [imageOf, closeImages, hget] at hk
  obtain ⟨j, -, hj⟩ := Option.map_eq_some_iff.mp hk
  by_cases hjt : j.tenant = t
  · rw [if_pos hjt] at hj
    rw [← hj]
  · rw [if_neg hjt] at hj
    exact absurd (hj ▸ ht) hjt

/-- R457: an image that takes no ADMIT and is not used is freed; the start-up state stands. -/
theorem freeImage_frees {s : State} {n : Nat} {i : Image} {t : BitVec 16} (h : NoAdmits t s) :
    NoAdmits t (freeImage s n i) ∧ (freeImage s n i).su = s.su := by
  unfold freeImage
  split
  · exact ⟨h, rfl⟩
  · next hnot =>
    have hadmits : i.admits = false := eq_false_of_ne_true fun c => hnot (.inl c)
    split
    · exact ⟨h.setImage (fun _ hx => nomatch hx), rfl⟩
    · split
      · have hput := winPut_frame s (msetEntry s i.msEntry) (List.replicate 7 0)
        have hevent := sendBlockEvent_frame (setImage (winPut s (msetEntry s i.msEntry) (List.replicate 7 0)) n none) 0x0304 (msetExtra i)
        exact ⟨hevent.noAdmits ((hput.noAdmits h).setImage fun _ hx => nomatch hx), hevent.su.trans hput.su⟩
      · exact ⟨h.setImage (fun j hj => by cases hj; exact hadmits), rfl⟩

theorem freeImages_frees {s : State} {t : BitVec 16} (h : NoAdmits t s) : NoAdmits t (freeImages s) ∧ (freeImages s).su = s.su := by
  have hfold (l : List (Nat × Image)) (x : State) (hx : NoAdmits t x) :
      NoAdmits t (l.foldl (fun s p => freeImage s p.1 p.2) x) ∧ (l.foldl (fun s p => freeImage s p.1 p.2) x).su = x.su := by
    induction l generalizing x with
    | nil => exact ⟨hx, rfl⟩
    | cons p l ih =>
      obtain ⟨hone, hsu⟩ := freeImage_frees (n := p.1) (i := p.2) hx
      obtain ⟨hrest, hsu'⟩ := ih _ hone
      exact ⟨hrest, hsu'.trans hsu⟩
  exact hfold _ s h

theorem unloadTenant_unloads (s : State) (t : BitVec 16) : NoAdmits t (unloadTenant s t) ∧ (unloadTenant s t).su = s.su :=
  freeImages_frees (closeImages_noAdmits s t)

/-- R453: the fields of a steward command's word. -/
theorem stwWord_fields {op : Nat} (ho : op < 256) (t : BitVec 16) :
    fld (mk64 (put op 56 8 + put t.toNat 32 16)) 56 8 = op ∧ wf (mk64 (put op 56 8 + put t.toNat 32 16)) 32 16 = t := by
  have ht := t.isLt
  have hput : put op 56 8 + put t.toNat 32 16 = (op * 16777216 + t.toNat) * 4294967296 := by
    unfold put
    rw [Nat.shiftLeft_eq, Nat.shiftLeft_eq]
    omega
  have hword : (mk64 ((op * 16777216 + t.toNat) * 4294967296)).toNat = (op * 16777216 + t.toNat) * 4294967296 := by
    rw [mk64, BitVec.toNat_ofNat]
    omega
  have hop : fld (mk64 ((op * 16777216 + t.toNat) * 4294967296)) 56 8 = op := by
    rw [fld, hword, Nat.shiftRight_eq_div_pow]
    omega
  have htenant : fld (mk64 ((op * 16777216 + t.toNat) * 4294967296)) 32 16 = t.toNat := by
    rw [fld, hword, Nat.shiftRight_eq_div_pow]
    omega
  rw [hput, wf, htenant]
  exact ⟨hop, (BitVec.ofNat_toNat ..).trans (BitVec.setWidth_eq ..)⟩

theorem stwWrite_served {s : State} {op : Nat} (ho : op < 256) (t : BitVec 16) (h : avail s (mgmtBase + 0x90048) = .served) :
    stwWrite s op t = stwCommand s op t := by
  have hreg : regBlock (mgmtBase + 0x90048) = some (.startup, 0x48) := by decide +kernel
  obtain ⟨hop, ht⟩ := stwWord_fields ho t
  unfold stwWrite
  rw [mgmtWrite_served _ h hreg]
  show stwCommand s (fld _ 56 8) (wf _ 32 16) = _
  rw [hop, ht]

/-- R454: an UNLOAD_PROGRAM begun: the tenant's images are closed, its RESULT is PENDING. -/
theorem stwCommand_unloads {s : State} (t : BitVec 16) (hidle : s.su.stw = .idle) (hp : s.su.phase = .ready) (hb : s.errs.block = false) :
    (stwCommand s 2 t).su.stwResult = 1 ∧ (stwCommand s 2 t).su.stwOp = 2 ∧ (stwCommand s 2 t).su.stwTenant = t
      ∧ (stwCommand s 2 t).su.stw ≠ .idle ∧ NoAdmits t (stwCommand s 2 t) := by
  unfold stwCommand
  extract_lets +onlyGivenNames _ s1 _ s2 found s3
  rw [if_neg (not_not_intro hidle), if_neg (fun c => c.elim (· hp) fun c => Bool.false_ne_true (hb.symm.trans c)), if_pos rfl]
  obtain ⟨hnone, hsu⟩ := unloadTenant_unloads s2 t
  have hsu3 : s3.su = s2.su := hsu
  have hbusy : (StwWork.result (if found = true then 0 else 9) 0 none) ≠ .idle := fun c => StwWork.noConfusion c
  refine ⟨?_, ?_, ?_, hbusy, hnone⟩
  all_goals
    dsimp only
    rw [hsu3]
  rfl

/-- R453: a load that was begun goes on where the window is open. -/
theorem loadProgram_begun {s : State} {t : BitVec 16} {m : ImageMap} (hw : windowOpen s = true) (hl : s.su.stw = .load 1 t) :
    loadProgram s t m = loadImage s t m := by
  have hbegun : stwBegin s 1 t = s := if_neg (by rw [hl]; exact fun c => nomatch c)
  unfold loadProgram
  dsimp only
  rw [hbegun]
  exact if_pos ⟨hw, hl⟩

theorem imageOf_decided_same (s : State) (n : Nat) (i : Option Image) (img : Option Nat) :
    imageOf (stwDecide (setImage s n i) 0 0 img) n = i :=
  imageOf_setImage_same s n i

theorem imageOf_decided_other (s : State) (i : Option Image) (img : Option Nat) {n k : Nat} (h : k ≠ n) :
    imageOf (stwDecide (setImage s n i) 0 0 img) k = imageOf s k :=
  imageOf_setImage_other s n k i h

/-- R451, R453: an image without mask sets that passes its checks. -/
theorem loadImage_accepts {s : State} {t : BitVec 16} {m : ImageMap} {a : Nat} (hin : stwInWindow s = true)
    (hfew : ((imagesOf s t).filter fun p => !p.2.retiring).length < 2) (hpz : poisonedAt (stwImage s) = none)
    (hok : imageFail s (stwImage s) t.toNat s.su.stwLen.toNat m = none) (ha : stagePlace s (stwImage s).len = some a)
    (hsets : icount (stwImage s) 1 = 0) : loadImage s t m = acceptImage s (stwImage s) m (newImage (stwImage s) t m a 0 0) := by
  unfold loadImage
  dsimp only
  rw [if_neg (by rw [hin]; decide), if_neg (Nat.not_le.mpr hfew), hpz]
  dsimp only
  rw [hok, ha]
  dsimp only
  exact if_pos hsets

/-- R455: the RESULT and DETAIL of a command that ends; the next one may come. -/
def stwEnded (s : State) (r : Nat) (d : W32) : State :=
  { s with su := { s.su with stwResult := BitVec.ofNat 4 r, stwDetail := d, stw := .idle } }

/-- R455: a command decided that loaded no image, and its end. -/
theorem stwDone_ends {s : State} {r : Nat} {d : W32} (hw : windowOpen s = true) (h : s.su.stw = .result r d none) :
    stwDone s = stwEnded s r d := by
  unfold stwDone
  rw [h]
  exact if_neg (by rw [hw]; decide)

/-- R455: an image whose load ended OK takes ADMITs. -/
theorem stwDone_admits {s : State} {r : Nat} {d : W32} {n : Nat} {i : Image} (hw : windowOpen s = true) (h : s.su.stw = .result r d (some n))
    (hi : imageOf s n = some i) : stwDone s = setImage (stwEnded s r d) n (some { i with admits := true }) := by
  have hi' : imageOf (stwEnded s r d) n = some i := hi
  unfold stwDone
  rw [h]
  refine (if_neg (by rw [hw]; decide)).trans ?_
  show (match imageOf (stwEnded s r d) n with | none => _ | some i => _) = _
  rw [hi']
  rfl

theorem loadPlanDef_begun {s : State} {p : PlanDef} {t : BitVec 16} (hw : windowOpen s = true) (hl : s.su.stw = .load 3 t) :
    loadPlanDef s p =
      match planFail s p with
      | some r => stwDecide s r 0 none
      | none => stwDecide { s with group := { s.group with next := some p } } 0 0 none := by
  have hbegun : stwBegin s 3 0 = s := if_neg (by rw [hl]; exact fun c => nomatch c)
  unfold loadPlanDef
  rw [hbegun]
  show (match s.su.stw with | .load 3 _ => _ | _ => s) = _
  rw [hl]
  exact if_neg (by rw [hw]; decide)

/-- Settles O47, command by command. -/
theorem stewardCommands : Obligations.StewardCommands := by
  intro s hw
  have hopen : s.su.phase = .ready ∧ s.errs.block = false := by
    simp only [windowOpen, Bool.and_eq_true, beq_iff_eq, Bool.not_eq_true'] at hw
    exact ⟨hw.1.1.1, hw.1.2⟩
  refine ⟨fun t m hl hin => exec_next rfl ((loadProgram_begun hw hl).trans (if_pos (by rw [hin]; rfl))),
    fun t m a hl hin hfew hpz hok ha hsets => ?_, fun t hidle hav => ?_, fun p t hl => ⟨fun r hr => exec_next rfl ?_, fun hr => exec_next rfl ?_⟩,
    fun r d h => exec_next rfl (stwDone_ends hw h), fun r d n i h hi => exec_next rfl (stwDone_admits hw h hi)⟩
  · have hmset : (newImage (stwImage s) t m a 0 0).mset = 0 := by
      show BitVec.ofNat 16 (icount (stwImage s) 1) = 0
      rw [hsets]
      rfl
    have haccept := loadImage_accepts hin hfew hpz hok ha hsets
    unfold acceptImage at haccept
    dsimp only at haccept
    rw [if_pos hmset] at haccept
    exact ⟨_, newImage (stwImage s) t m a 0 0, exec_next rfl ((loadProgram_begun hw hl).trans haccept), imageOf_decided_same .., rfl, rfl, rfl, rfl,
      rfl, fun k hk => imageOf_decided_other _ _ _ hk⟩
  · obtain ⟨hresult, hop, htenant, hstw, hnone⟩ := stwCommand_unloads t hidle hopen.1 hopen.2
    exact ⟨_, exec_next rfl (stwWrite_served (by decide) t hav), hresult, hop, htenant, hstw, hnone⟩
  · rw [loadPlanDef_begun hw hl, hr]
    rfl
  · rw [loadPlanDef_begun hw hl, hr]
    rfl

end Sys2Proof.Machine
end

section
/-! SUPPORT. The end of a kernel: the check of R81, the flush of an abandoned tile, and the end of its job. -/

namespace Sys2Proof.Machine

/-- Stopping every tile of a map changes nothing that does not ask whether a tile is stopped. -/
theorem smGet_stopped_same {α : Type} {g : Tile → α} (hg : ∀ x : Tile, g { x with stopped := true } = g x) (m : SMap Tile) (d : Tile) (k : Nat) :
    g (smGet d (m.map fun p => (p.1, { p.2 with stopped := true })) k) = g (smGet d m k) := by
  induction m with
  | nil => rfl
  | cons p m ih =>
    simp only [List.map_cons, smGet]
    split
    · exact hg p.2
    · exact ih

theorem DetectFrame.tile_same {α : Type} {g : Tile → α} {s s' : State} (h : DetectFrame s s')
    (hg : ∀ x : Tile, g { x with stopped := true } = g x) (t : Nat) : g (tileOf s' t) = g (tileOf s t) := by
  unfold tileOf
  rcases h.tiles with e | e <;> rw [e]
  exact smGet_stopped_same hg ..

theorem recordFault_kernel (tl : Tile) (code q n idx : Nat) : (recordFault tl code q n idx).kernel = tl.kernel := by
  unfold recordFault; split <;> rfl

theorem recordFault_credits (tl : Tile) (code q n idx : Nat) : (recordFault tl code q n idx).credits = tl.credits := by
  unfold recordFault; split <;> rfl

/-- R82: a tile's fault leaves its kernel and its credits as they were. -/
theorem tileFault_keeps_kernel (s : State) (t code q n idx : Nat) :
    (tileOf (tileFault s t code q n idx) t).kernel = (tileOf s t).kernel
      ∧ (tileOf (tileFault s t code q n idx) t).credits = (tileOf s t).credits := by
  have hframe := tileFault_frame s t code q n idx
  rw [hframe.tile_same (g := Tile.kernel) (fun _ => rfl) t, hframe.tile_same (g := Tile.credits) (fun _ => rfl) t, tileOf_setTile_same]
  exact ⟨recordFault_kernel .., recordFault_credits ..⟩

/-- R81: a tile with its credit counters 1 to 15 cleared. -/
def creditsCleared (tl : Tile) : Tile := (List.range 15).foldl (fun a k => setCredit a (k + 1) 0) tl

theorem credit_setCredit (tl : Tile) (k j : Nat) (v : Byte) : credit (setCredit tl k v) j = if j = k then v else credit tl j := by
  unfold credit setCredit
  split
  · next h => rw [h]; exact smGet_smSet_same ..
  · next h => exact smGet_smSet_other _ _ _ _ _ h

theorem creditsCleared_clear (tl : Tile) {k : Nat} (h : 1 ≤ k) (h' : k ≤ 15) : credit (creditsCleared tl) k = 0 := by
  have hfold (n : Nat) : ∀ j, 1 ≤ j → j ≤ n → credit ((List.range n).foldl (fun a k => setCredit a (k + 1) 0) tl) j = 0 := by
    induction n with
    | zero => omega
    | succ n ih =>
      intro j hj hn
      rw [List.range_succ, List.foldl_append, List.foldl_cons, List.foldl_nil, credit_setCredit]
      split
      · rfl
      · exact ih j hj (by omega)
  exact hfold 15 k h h'

theorem creditsCleared_stands (tl : Tile) :
    (creditsCleared tl).kernel = tl.kernel ∧ (creditsCleared tl).stopped = tl.stopped ∧ (creditsCleared tl).fault = tl.fault := by
  have hfold (l : List Nat) (x : Tile) (hx : x.kernel = tl.kernel ∧ x.stopped = tl.stopped ∧ x.fault = tl.fault) :
      let y := l.foldl (fun a k => setCredit a (k + 1) 0) x
      y.kernel = tl.kernel ∧ y.stopped = tl.stopped ∧ y.fault = tl.fault := by
    induction l generalizing x with
    | nil => exact hx
    | cons k l ih => exact ih _ hx
  exact hfold _ tl ⟨rfl, rfl, rfl⟩

/-- R81: some credit counter of the tile is not zero. -/
def unbalanced (tl : Tile) : Bool := (List.range 15).any fun k => credit tl (k + 1) != 0

theorem unbalanced_iff {tl : Tile} : unbalanced tl = true ↔ ∃ k, 1 ≤ k ∧ k ≤ 15 ∧ credit tl k ≠ 0 := by
  simp only [unbalanced, List.any_eq_true, List.mem_range, bne_iff_ne, ne_eq]
  constructor
  · rintro ⟨k, hk, hc⟩
    exact ⟨k + 1, by omega, by omega, hc⟩
  · rintro ⟨k, h1, h15, hc⟩
    exact ⟨k - 1, by omega, by rwa [Nat.sub_add_cancel h1]⟩

/-- R105: a kernel that is over has no transfer in flight. -/
theorem onlyTransfers_of_over {tl : Tile} (h : kernelOver tl = true) : onlyTransfers tl = false := by
  simp only [kernelOver, Bool.and_eq_true, List.all_eq_true, decide_eq_true_eq, Bool.not_eq_true'] at h
  have hxf := (h.1 .xf (by decide)).2
  unfold outstanding at hxf
  rw [onlyTransfers, Bool.and_eq_false_iff]
  right
  rw [List.any_eq_false] at hxf ⊢
  intro f hf
  have := hxf f hf
  cases hp : f.pend <;> simp [hp] at this ⊢

theorem execKernelEnd_named {s : State} {t : BitVec 10} (h : tileNamed t.toNat = true) :
    exec (.kernelEnd t) s = .next (kernelEnd s t.toNat) := if_pos h

/-- R74, R413: a tile that a fault has stopped, its job abandoned or a replay, is flushed once it is quiet. -/
theorem kernelEnd_stopped {s : State} {t : Nat} {j : Job} (hj : jobOf s t = some j) (hs : (tileOf s t).stopped = true)
    (hq : tileQuiet (tileOf s t) = true) (hd : j.dead = true ∨ j.entry.isSome = true) :
    kernelEnd s t = jobEnded s { j with dead := true } := by
  unfold kernelEnd
  dsimp only
  rw [hj]
  dsimp only
  rw [if_pos (.inl hs), if_pos ⟨hd, .inl hq⟩]

/-- R81, R105: a kernel whose engines are through, on a tile that runs. -/
theorem kernelEnd_over {s : State} {t : Nat} {j : Job} (hj : jobOf s t = some j) (hs : (tileOf s t).stopped = false)
    (hk : (tileOf s t).kernel = true) (hr : domainRuns s (tileDomain t) = true) (hb : s.errs.block = false)
    (ho : kernelOver (tileOf s t) = true) :
    kernelEnd s t =
      if unbalanced (tileOf s t) then
        tileFault (setTile s t (creditsCleared { tileOf s t with kernel := false, engs := [] })) t 0x05 0 7 0
      else jobEnded (setTile s t { tileOf s t with kernel := false, engs := [] }) j := by
  have hpower : s.power.on.getLsbD (tileDomain t) = true := by
    simp only [domainRuns, Bool.and_eq_true] at hr
    exact hr.1.1
  unfold kernelEnd
  dsimp only
  rw [hj]
  dsimp only
  rw [if_neg (by rw [hs, hk, onlyTransfers_of_over ho, hpower]; simp), if_neg (by rw [hr, hb, ho]; decide)]
  rfl

/-- What the bookkeeping at a kernel's end leaves: memory, the images, the job lists, what runs, and whether a tile runs. -/
structure Booked (s s' : State) : Prop where
  mem : s'.mem = s.mem
  images : s'.images = s.images
  jobs : ∀ h, (half s' h).jobs = (half s h).jobs
  run : ∀ h, (half s' h).run = (half s h).run
  tiles : ∀ t, (tileOf s' t).kernel = (tileOf s t).kernel ∧ (tileOf s' t).stopped = (tileOf s t).stopped

theorem Booked.refl (s : State) : Booked s s := ⟨rfl, rfl, fun _ => rfl, fun _ => rfl, fun _ => ⟨rfl, rfl⟩⟩

theorem Booked.trans {a b c : State} (h : Booked a b) (k : Booked b c) : Booked a c :=
  ⟨k.mem.trans h.mem, k.images.trans h.images, fun x => (k.jobs x).trans (h.jobs x), fun x => (k.run x).trans (h.run x),
    fun t => ⟨(k.tiles t).1.trans (h.tiles t).1, (k.tiles t).2.trans (h.tiles t).2⟩⟩

/-- A change of one half is seen there alone. -/
theorem half_modHalf_eq {α : Type} {g : HalfState → α} {f : HalfState → HalfState} {s : State} {h : Half} (hg : g (f (half s h)) = g (half s h))
    (k : Half) : g (half (modHalf s h f) k) = g (half s k) := by
  by_cases hk : k = h
  · rw [hk, half_modHalf_same, hg]
  · rw [half_modHalf_other _ _ _ _ hk]

theorem noteRan_booked (j : Job) (s : State) (r : Row) : Booked s (noteRan j s r) := by
  unfold noteRan
  dsimp only
  split
  · exact ⟨rfl, rfl, fun h => by cases h <;> rfl, fun h => by cases h <;> rfl, fun _ => ⟨rfl, rfl⟩⟩
  · exact .refl s

theorem noteRans_booked (j : Job) (l : List Row) (s : State) : Booked s (l.foldl (noteRan j) s) := by
  induction l generalizing s with
  | nil => exact .refl s
  | cons r l ih => exact (noteRan_booked j s r).trans (ih _)

theorem meterJob_booked (s : State) (j : Job) : Booked s (meterJob s j) := by
  unfold meterJob
  split
  · exact .refl s
  · exact ⟨modHalf_mem .., modHalf_images .., half_modHalf_eq (g := HalfState.jobs) rfl, half_modHalf_eq (g := HalfState.run) rfl,
      fun t => by rw [modHalf_tileOf]; exact ⟨rfl, rfl⟩⟩

theorem resumeCounts_booked (s : State) (t : Nat) : Booked s (resumeCounts s t) := by
  unfold resumeCounts
  dsimp only
  split
  · exact .refl s
  · refine ⟨rfl, rfl, fun h => by cases h <;> rfl, fun h => by cases h <;> rfl, fun u => ?_⟩
    by_cases hu : u = t
    · rw [hu, tileOf_setTile_same]
      exact ⟨rfl, rfl⟩
    · rw [tileOf_setTile_other _ _ _ _ hu]
      exact ⟨rfl, rfl⟩

theorem noteQuiet_booked (s : State) : Booked s (noteQuiet s) := by
  unfold noteQuiet
  split
  · exact ⟨rfl, rfl, fun h => by cases h <;> rfl, fun h => by cases h <;> rfl, fun _ => ⟨rfl, rfl⟩⟩
  · exact .refl s

theorem settleHalf_none {s : State} {h : Half} (hr : (half s h).run = none) : settleHalf s h = s := by
  unfold settleHalf settlePlans
  rw [hr]

/-- R105: a kernel of a plan without verdicts ends: its job leaves its half's list. -/
theorem jobEnded_plan {s : State} {j : Job} (hd : j.dead = false) (hl : j.lane = Sys2Proof.Lane.plan) (hv : j.verdict = false)
    (hr : (half s j.half).run = none) (hi : Machine.images s = []) :
    Booked (modHalf s j.half fun x => { x with jobs := x.jobs.filter fun k => k.tile != j.tile }) (jobEnded s j) := by
  unfold jobEnded
  extract_lets s0 s1 s2
  have h1 : Booked s0 s1 := by
    have : s1 = resumeCounts (meterJob (j.rows.foldl (noteRan j) s0) j) j.tile := by
      show resumeCounts (meterJob (if j.dead = true then _ else _) j) j.tile = _
      rw [if_neg (by rw [hd]; decide)]
    rw [this]
    exact ((noteRans_booked ..).trans (meterJob_booked ..)).trans (resumeCounts_booked ..)
  have hrun : (half s1 j.half).run = none := by
    rw [h1.run, half_modHalf_eq (g := HalfState.run) rfl]
    exact hr
  have himages : Machine.images s1 = [] := by
    rw [Machine.images, h1.images, modHalf_images]
    exact hi
  have h2 : s2 = s1 := by
    refine (if_neg (by rw [hd]; decide)).trans ?_
    rw [hl]
    exact if_neg (by rw [hv]; simp)
  rw [h2, settleHalf_none hrun, freeImages_none (by rw [himages]; exact fun _ h => nomatch h)]
  exact h1.trans (noteQuiet_booked s1)

/-- Settles O23, by how the kernel ends. -/
theorem kernelEnds : Obligations.KernelEnds := by
  intro s t j hnamed hj hkernel hhalf hruns hblock
  have hends {s' : State} (h : kernelEnd s t.toNat = s') : exec (.kernelEnd t) s = .next s' := (execKernelEnd_named hnamed).trans (by rw [h])
  have htile : j.tile = t.toNat := by simpa using List.find?_some hj
  refine ⟨fun hs hq hd => hends (kernelEnd_stopped hj hs hq hd), fun hs ho => ?_⟩
  have hover := kernelEnd_over hj hs hkernel hruns hblock ho
  have hbalanced (hc : ∀ k, 1 ≤ k → k ≤ 15 → credit (tileOf s t.toNat) k = 0) : ¬unbalanced (tileOf s t.toNat) = true := fun h => by
    obtain ⟨k, h1, h15, hk⟩ := unbalanced_iff.mp h
    exact hk (hc k h1 h15)
  refine ⟨fun hc hv => ?_, fun hc => hends (hover.trans (if_neg (hbalanced hc))), fun hc hd hl hv hr hi => ?_⟩
  · rw [if_pos (unbalanced_iff.mpr hc)] at hover
    refine ⟨_, hends hover, ?_⟩
    generalize hx : creditsCleared { tileOf s t.toNat with kernel := false, engs := [] } = x
    obtain ⟨hcleared, -, hfault⟩ := creditsCleared_stands { tileOf s t.toNat with kernel := false, engs := [] }
    rw [hx] at hcleared hfault
    obtain ⟨hk, hcredits⟩ := tileFault_keeps_kernel (setTile s t.toNat x) t.toNat 0x05 0 7 0
    rw [tileOf_setTile_same] at hk hcredits
    obtain ⟨hstop, -, hcode, -⟩ := tileFault_stands (s := setTile s t.toNat x) (t := t.toNat) (code := 0x05) (q := 0) (n := 7) 0
      (by rw [tileOf_setTile_same, hfault]; exact hv) (by decide) (by decide) (by decide)
    refine ⟨hstop, hk.trans hcleared, hcode, fun k h1 h15 => ?_⟩
    rw [credit, hcredits, ← hx]
    exact creditsCleared_clear _ h1 h15
  · have hbooked := jobEnded_plan (s := setTile s t.toNat { tileOf s t.toNat with kernel := false, engs := [] }) hd hl hv hr hi
    refine ⟨_, hends (hover.trans (if_neg (hbalanced hc))), ?_, ?_, ?_, hbooked.mem.trans (modHalf_mem ..)⟩
    · rw [(hbooked.tiles _).1, modHalf_tileOf, tileOf_setTile_same]
    · rw [(hbooked.tiles _).2, modHalf_tileOf, tileOf_setTile_same]
      exact hs
    · rw [jobOf, hbooked.jobs, ← hhalf, half_modHalf_same, List.find?_eq_none]
      intro k hk
      have := (List.mem_filter.mp hk).2
      rw [htile] at this
      simpa using this

end Sys2Proof.Machine
end

section
/-! SUPPORT. The dispatch of a kernel: the pages of its rows, the counts that a replay begins anew, and what the tile gets. -/

namespace Sys2Proof.Machine

/-- What a dispatch reads of pages, rows and jobs is the same in two states, and memory and the tiles are. -/
structure Standing (s s' : State) : Prop where
  mem : s'.mem = s.mem
  tiles : s'.tiles = s.tiles
  slots : ∀ n, slotOf s' n = slotOf s n
  base : ∀ h, (half s' h).pageBase = (half s h).pageBase
  refs : ∀ h, (half s' h).refs = (half s h).refs
  jobs : ∀ h, (half s' h).jobs = (half s h).jobs

theorem Standing.refl (s : State) : Standing s s := ⟨rfl, rfl, fun _ => rfl, fun _ => rfl, fun _ => rfl, fun _ => rfl⟩

theorem Standing.trans {a b c : State} (h : Standing a b) (k : Standing b c) : Standing a c :=
  ⟨k.mem.trans h.mem, k.tiles.trans h.tiles, fun n => (k.slots n).trans (h.slots n), fun x => (k.base x).trans (h.base x),
    fun x => (k.refs x).trans (h.refs x), fun x => (k.jobs x).trans (h.jobs x)⟩

theorem Standing.modHalf {f : HalfState → HalfState} (s : State) (h : Half) (hb : ∀ x, (f x).pageBase = x.pageBase)
    (hr : ∀ x, (f x).refs = x.refs) (hj : ∀ x, (f x).jobs = x.jobs) : Standing s (modHalf s h f) :=
  ⟨modHalf_mem .., modHalf_tiles .., modHalf_slotOf s h f, half_modHalf_eq (g := HalfState.pageBase) (hb _),
    half_modHalf_eq (g := HalfState.refs) (hr _), half_modHalf_eq (g := HalfState.jobs) (hj _)⟩

theorem Standing.slotPage {s s' : State} (h : Standing s s') (n i : Nat) : slotPage s' n i = slotPage s n i := by
  simp only [Machine.slotPage, pageAddr, h.slots, h.mem, h.base]

theorem Standing.entryNeeds {s s' : State} (h : Standing s s') (n i : Nat) : entryNeeds s' n i = entryNeeds s n i := by
  simp only [Machine.entryNeeds, pageRef, h.slotPage, h.refs]

theorem Standing.pagesNeeded {s s' : State} (h : Standing s s') (n p q : Nat) : pagesNeeded s' n p q = pagesNeeded s n p q := by
  simp only [Machine.pagesNeeded, h.entryNeeds, h.slots]

theorem Standing.rowLive {s s' : State} (h : Standing s s') (r : Row) : rowLive s' r = rowLive s r := by
  simp only [Machine.rowLive, h.slots]

theorem Standing.jobBegun {s s' : State} (h : Standing s s') (n num : Nat) : jobBegun s' n num = jobBegun s n num := by
  simp only [Machine.jobBegun, h.slots, h.jobs]

/-- A fold whose every step leaves the start as it is. -/
theorem foldl_fixed_on {α β : Type} {f : α → β → α} {a : α} {l : List β} (h : ∀ b ∈ l, f a b = a) : l.foldl f a = a := by
  induction l with
  | nil => rfl
  | cons b l ih =>
    obtain ⟨hb, hl⟩ := List.forall_mem_cons.mp h
    rw [List.foldl_cons, hb, ih hl]

/-- R248: rows whose pages are the request's own need no page. -/
theorem takePages_none {s : State} {n p q : Nat} (h : pagesNeeded s n p q = 0) : takePages s n p q = s := by
  unfold Machine.pagesNeeded at h
  unfold takePages
  by_cases hq : q ≤ p
  · exact if_pos hq
  · rw [if_neg hq] at h ⊢
    obtain ⟨hentries, hext⟩ := Nat.add_eq_zero_iff.mp h
    have hs : takeExt s n (entriesFor q) = s := by
      refine if_pos ?_
      refine Classical.byContradiction fun hne => ?_
      rw [if_pos (by omega)] at hext
      omega
    rw [hs]
    have hnone : ∀ i ∈ (List.range (entriesFor q)).filter (fun i => decide (p / 64 ≤ i)), takeEntry s n i = s := by
      intro i hi
      refine if_neg fun hn => ?_
      obtain ⟨hr, hp⟩ := List.mem_filter.mp hi
      have : i ∈ (List.range (entriesFor q)).filter (fun i => decide (p / 64 ≤ i) && entryNeeds s n i) :=
        List.mem_filter.mpr ⟨hr, by rw [hp, hn.1]; rfl⟩
      rw [List.length_eq_zero_iff.mp hentries] at this
      exact nomatch this
    exact foldl_fixed_on hnone

/-- R248: a job whose rows' pages are the requests' own takes none. -/
theorem ownPages_none {s : State} {l : List Row} (h : ∀ r ∈ l, pagesNeeded s r.slot r.first r.past = 0) : l.foldl ownPages s = s := by
  refine foldl_fixed_on fun r hr => ?_
  unfold ownPages
  rw [takePages_none (h r hr), ite_self]

/-- R158: the counts of a row that a replay does not begin anew, or whose image has no counts. -/
def CountsStand (s : State) (i : Image) (num : Nat) (r : Row) : Prop :=
  rowLive s r = false ∨ jobBegun s r.slot num = true ∨ (r.past ≤ (slotOf s r.slot).w.entered ∧ i.tqds = [])

theorem beginCounts_stands {s : State} {i : Image} {num : Nat} {r : Row} (h : CountsStand s i num r) :
    Standing s (beginCounts i num s r) ∧ ∀ k, half (beginCounts i num s r) k = half s k := by
  unfold beginCounts
  dsimp only
  split
  · exact ⟨.refl s, fun _ => rfl⟩
  · next hgo =>
    obtain hdead | hbegun | ⟨hpast, htqds⟩ := h
    · exact absurd (.inr (by rw [hdead]; rfl)) hgo
    · exact absurd (.inl hbegun) hgo
    · have hclear (l : List Nat) : l.foldl (clearCounts i r.slot) s = s := foldl_fixed_on fun p _ => by rw [clearCounts, htqds]; rfl
      rw [clearPositions, hclear]
      unfold enterPositions
      dsimp only
      rw [Nat.sub_eq_zero_of_le hpast]
      have hhalf (k : Half) : half (modSlot s r.slot fun x => { x with w := { x.w with entered := max (slotOf s r.slot).w.entered r.past } }) k
          = half s k := by cases k <;> rfl
      refine ⟨⟨rfl, rfl, fun n => ?_, fun k => congrArg HalfState.pageBase (hhalf k), fun k => congrArg HalfState.refs (hhalf k),
        fun k => congrArg HalfState.jobs (hhalf k)⟩, hhalf⟩
      by_cases hn : n = r.slot
      · rw [hn]
        refine (slotOf_modSlot_same ..).trans ?_
        show ({ slotOf s r.slot with w := { (slotOf s r.slot).w with entered := max (slotOf s r.slot).w.entered r.past } } : Slot) = _
        rw [Nat.max_eq_left hpast]
      · exact slotOf_modSlot_other _ _ _ _ hn

theorem beginAll_stands {i : Image} {num : Nat} (l : List Row) {s : State} (h : ∀ r ∈ l, CountsStand s i num r) :
    Standing s (l.foldl (beginCounts i num) s) ∧ ∀ k, half (l.foldl (beginCounts i num) s) k = half s k := by
  induction l generalizing s with
  | nil => exact ⟨.refl s, fun _ => rfl⟩
  | cons r l ih =>
    obtain ⟨hr, hl⟩ := List.forall_mem_cons.mp h
    obtain ⟨hfirst, hhalf⟩ := beginCounts_stands hr
    obtain ⟨hrest, hhalf'⟩ := ih (s := beginCounts i num s r) fun r' hr' => by
      unfold CountsStand
      rw [hfirst.rowLive, hfirst.jobBegun, hfirst.slots]
      exact hl r' hr'
    exact ⟨hfirst.trans hrest, fun k => (hhalf' k).trans (hhalf k)⟩

/-- R93, R109, R137: what a tile gets at the dispatch of a kernel whose descriptor is at `d`. -/
structure GetsKernel (s s' : State) (t d : Nat) (args : List W32) : Prop where
  mem : s'.mem = s.mem
  kernel : (tileOf s' t).kernel = true
  desc : (tileOf s' t).desc = BitVec.ofNat 48 d
  kernelId : (tileOf s' t).kernelId = BitVec.ofNat 16 (fld (memWord s.mem d) 48 16)
  args : (tileOf s' t).args = args
  credit : credit (tileOf s' t) 0 = Machine.credit (tileOf s t) 0 + 1
  sreg : ∀ r, sGet (tileOf s' t) r = Machine.Lane.zero
  areg : ∀ r, aGet (tileOf s' t) r = ALane.zero
  vreg : ∀ r, vGet (tileOf s' t) r = zeroRow
  others : ∀ u, u ≠ t → tileOf s' u = tileOf s u

theorem GetsKernel.all {s s' : State} {t d : Nat} {args : List W32} (h : GetsKernel s s' t d args) :
    s'.mem = s.mem ∧ (tileOf s' t).kernel = true
      ∧ (tileOf s' t).desc = BitVec.ofNat 48 d ∧ (tileOf s' t).kernelId = BitVec.ofNat 16 (fld (memWord s.mem d) 48 16)
      ∧ (tileOf s' t).args = args ∧ Machine.credit (tileOf s' t) 0 = Machine.credit (tileOf s t) 0 + 1
      ∧ (∀ r, sGet (tileOf s' t) r = Machine.Lane.zero) ∧ (∀ r, aGet (tileOf s' t) r = ALane.zero) ∧ (∀ r, vGet (tileOf s' t) r = zeroRow)
      ∧ ∀ u, u ≠ t → tileOf s' u = tileOf s u :=
  ⟨h.mem, h.kernel, h.desc, h.kernelId, h.args, h.credit, h.sreg, h.areg, h.vreg, h.others⟩

/-- R132: the descriptor at `d` is clean and has an SQ stream. -/
structure CleanDesc (m : Mem) (d : Nat) : Prop where
  clean : memAnyPz m d 64 = false
  stream : fld (memWord m (d + 56)) 0 16 ≠ 0
  singles : singleUnits m d 64 = []

/-- R93, R134: a dispatch to a tile changes that tile alone. -/
theorem dispatchTile_gets {s : State} {t d : Nat} (hd : CleanDesc s.mem d) (args : List W32) (turn : W32) (job : Nat) (mset : BitVec 16) (again : Bool) :
    GetsKernel s (dispatchTile s t d args turn job mset again) t d args
      ∧ ∀ h, half (dispatchTile s t d args turn job mset again) h = half s h := by
  unfold dispatchTile
  extract_lets +onlyGivenNames tl w0 kid xids first kept here _ stream _ tl1 tl2 s1
  have hs1 : s1 = setTile s t tl2 := by
    show ((singleUnits s.mem d 64 ++ []).eraseDups).foldl correctUnit _ = _
    rw [hd.singles]
    rfl
  rw [if_neg hd.stream, if_neg (by rw [hd.clean]; decide), hs1]
  refine ⟨⟨rfl, ?_, ?_, ?_, ?_, ?_, fun r => ?_, fun r => ?_, fun r => ?_, fun u hu => tileOf_setTile_other _ _ _ _ hu⟩, fun h => by cases h <;> rfl⟩
  all_goals rw [tileOf_setTile_same]
  · rfl
  · rfl
  · rfl
  · rfl
  · exact smGet_smSet_same ..
  · unfold sGet
    split <;> rfl
  · rfl
  · rfl

/-- What the dispatch of job `j` to its tile asks: its rows own their pages, its descriptor is clean, and it begins no count anew. -/
structure Dispatchable (s : State) (j : Job) (i : Image) (d : Nat) : Prop where
  desc : CleanDesc s.mem d
  pages : ∀ r ∈ j.rows, pagesNeeded s r.slot r.first r.past = 0
  counts : j.lane = Sys2Proof.Lane.replay → ∀ r ∈ j.rows, CountsStand s i j.num r

theorem Dispatchable.standing {s s' : State} {j : Job} {i : Image} {d : Nat} (h : Dispatchable s j i d) (k : Standing s s') :
    Dispatchable s' j i d := by
  refine ⟨by rw [k.mem]; exact h.desc, fun r hr => by rw [k.pagesNeeded]; exact h.pages r hr, fun hl r hr => ?_⟩
  unfold CountsStand
  rw [k.rowLive, k.jobBegun, k.slots]
  exact h.counts hl r hr

theorem GetsKernel.standing {a b c : State} {t d : Nat} {args : List W32} (h : Standing a b) (k : GetsKernel b c t d args) :
    GetsKernel a c t d args := by
  have htile (u : Nat) : tileOf b u = tileOf a u := by rw [tileOf, h.tiles]; rfl
  refine ⟨k.mem.trans h.mem, k.kernel, k.desc, ?_, k.args, ?_, k.sreg, k.areg, k.vreg, fun u hu => (k.others u hu).trans (htile u)⟩
  · rw [← h.mem]
    exact k.kernelId
  · rw [← htile]
    exact k.credit

/-- A job dispatched: it joins its half's list. -/
def jobsJoined (s : State) (j : Job) (x : HalfState) : HalfState := { x with jobs := x.jobs ++ [{ j with since := s.now }] }

/-- R93, R158, R248: a job dispatched to its tile. -/
theorem startJob_gets {s : State} {j : Job} {i : Image} {d : Nat} (h : Dispatchable s j i d) :
    GetsKernel s (startJob s j i d) j.tile d (dispatchArgs j)
      ∧ ∀ k, half (startJob s j i d) k = half (modHalf s j.half (jobsJoined s j)) k := by
  unfold startJob
  extract_lets j1 s0 s1
  have hs0 : s0 = s := ownPages_none h.pages
  obtain ⟨hstand, hhalf⟩ : Standing s s1 ∧ ∀ k, half s1 k = half s k := by
    show Standing s (if j.lane = .replay then j.rows.foldl (beginCounts i j.num) s0 else s0) ∧ ∀ k, half (if j.lane = .replay then _ else s0) k = _
    rw [hs0]
    split
    · next hl => exact beginAll_stands _ (h.counts hl)
    · exact ⟨.refl s, fun _ => rfl⟩
  have hmem : (modHalf s1 j.half fun x => { x with jobs := x.jobs ++ [j1] }).mem = s.mem := (modHalf_mem ..).trans hstand.mem
  obtain ⟨hgets, hsame⟩ := dispatchTile_gets (t := j.tile) (by rw [hmem]; exact h.desc) (dispatchArgs j) j.turn j.num i.mset j.entry.isSome
  have htile (u : Nat) : tileOf (modHalf s1 j.half fun x => { x with jobs := x.jobs ++ [j1] }) u = tileOf s u := by
    rw [modHalf_tileOf, tileOf, hstand.tiles]
    rfl
  refine ⟨⟨hgets.mem.trans hmem, hgets.kernel, hgets.desc, ?_, hgets.args, ?_, hgets.sreg, hgets.areg, hgets.vreg,
    fun u hu => (hgets.others u hu).trans (htile u)⟩, fun k => (hsame k).trans ?_⟩
  · rw [← hmem]
    exact hgets.kernelId
  · rw [← htile]
    exact hgets.credit
  · by_cases hk : k = j.half
    · rw [hk, half_modHalf_same, half_modHalf_same, hhalf]
      rfl
    · rw [half_modHalf_other _ _ _ _ hk, half_modHalf_other _ _ _ _ hk, hhalf]

/-- R289: a plan whose job runs on a tile goes on. -/
theorem settleHalf_runs {s : State} {h : Half} (hl : (half s h).planLess = []) {j : Job} (hj : j ∈ (half s h).jobs)
    (hlane : j.lane ≠ Sys2Proof.Lane.mask) : settleHalf s h = s := by
  unfold settleHalf settlePlans
  split
  · rfl
  · next p hp =>
    have hclose (t : W32) : closePlanLess s h t = s := by
      unfold closePlanLess
      dsimp only
      rw [hl]
      exact ite_self s
    have hgoes : planDone s h = false := by
      unfold planDone
      dsimp only
      rw [hp]
      have hall : ((half s h).jobs.all fun j => j.lane == Sys2Proof.Lane.mask) = false :=
        List.all_eq_false.mpr ⟨j, hj, by simpa using hlane⟩
      rw [hall]
      simp
    dsimp only
    rw [hclose, hgoes]
    simp [hgoes]

/-- R289: a half in which a job has just started, of a plan or a replay, settles nothing. -/
theorem settleHalf_started {s : State} {j : Job} {i : Image} {d : Nat} (h : Dispatchable s j i d) (hl : (half s j.half).planLess = [])
    (hlane : j.lane ≠ Sys2Proof.Lane.mask) : settleHalf (startJob s j i d) j.half = startJob s j i d := by
  have hhalf := (startJob_gets h).2 j.half
  rw [half_modHalf_same] at hhalf
  refine settleHalf_runs (by rw [hhalf]; exact hl) (j := { j with since := s.now }) ?_ hlane
  rw [hhalf]
  exact List.mem_append_right _ (List.mem_singleton.mpr rfl)

/-- R248: a replay that needs no page has its room. -/
theorem replayRoom_none {s : State} {j : Job} (h : ∀ r ∈ j.rows, pagesNeeded s r.slot r.first r.past = 0) : replayRoom s j = true := by
  have hsum : ((j.rows.filter (rowLive s)).map fun r => pagesNeeded s r.slot r.first r.past).sum = 0 :=
    List.sum_eq_zero_iff_forall_eq_nat.mpr fun x hx => by
      obtain ⟨r, hr, rfl⟩ := List.mem_map.mp hx
      exact h r (List.mem_filter.mp hr).1
  unfold replayRoom
  rw [hsum, decide_eq_true (Nat.zero_le _), Bool.or_true]

theorem kernelDispatch_mask {s : State} {h : Half} {j : Job} {t d : Nat} {i : Image} (hmay : mayDispatch s h = true)
    (himage : imageOf s j.image = some i) (hdesc : descOf s i j.kernel (jobClass i j) = some d) (hnext : nextMask s h = some j)
    (hfree : (planMaskTiles s (halfPlan s h) h).find? (tileFree1 s) = some t) :
    kernelDispatch s h .mask = startJob (modHalf s h fun x => { x with maskJobs := x.maskJobs.erase j }) { j with tile := t } i d := by
  unfold kernelDispatch dispatchMask
  rw [if_neg (by rw [hmay]; decide), hnext, hfree]
  dsimp only
  rw [himage]
  dsimp only
  rw [hdesc]
  rfl

theorem kernelDispatch_replay {s : State} {h : Half} {j : Job} {d : Nat} {i : Image} {rest : List Job} (hmay : mayDispatch s h = true)
    (himage : imageOf s j.image = some i) (hdesc : descOf s i j.kernel (jobClass i j) = some d) (hjobs : (half s h).replayJobs = j :: rest)
    (hfree : tileFree1 s j.tile = true) (hroom : replayRoom s j = true) :
    kernelDispatch s h .replay = settleHalf (startJob (modHalf s h fun x => { x with replayJobs := rest }) j i d) h := by
  unfold kernelDispatch dispatchReplay
  rw [if_neg (by rw [hmay]; decide), hjobs]
  dsimp only
  rw [if_neg (by rw [hfree, hroom]; decide), himage]
  dsimp only [Option.bind_some]
  rw [hdesc]
  rfl

theorem kernelDispatch_plan {s : State} {h : Half} {j : Job} {d n : Nat} {i : Image} {p : PlanRun} {k : PlanKernel}
    {rest : List (PlanKernel × Option Nat)} {b : Batch} (hmay : mayDispatch s h = true)
    (himage : imageOf s n = some i) (hdesc : descOf s i k.kernel (jobClass i j) = some d) (hjobs : (half s h).replayJobs = [])
    (hrun : (half s h).run = some p) (hskip : skipEmpty p.batches p.left = (k, some n) :: rest)
    (hfind : p.batches.find? (fun b => b.image == n && b.tenant == k.tenant) = some b) (hfree : tileFree1 s k.tile.toNat = true)
    (hj : j = { num := b.num, half := h, tile := k.tile.toNat, tenant := k.tenant, image := n, lane := Sys2Proof.Lane.plan, rows := b.rows
                kernel := k.kernel, fixed := k.fixed, args := k.args, verdict := k.verdict, turn := p.turn, since := 0, dead := false
                entry := none, bytes := 0, excess := false, snap := [], held := [] }) :
    kernelDispatch s h .plan = settleHalf (startJob (modHalf s h fun x => { x with run := some { p with left := rest } }) j i d) h := by
  unfold kernelDispatch
  rw [if_neg (by rw [hmay]; decide)]
  dsimp only
  rw [if_neg (by rw [hjobs]; decide)]
  unfold dispatchPlan
  rw [hrun]
  dsimp only
  rw [hskip]
  dsimp only
  rw [if_neg (by rw [hfree]; decide), himage, hfind]
  dsimp only
  rw [← hj, hdesc]

/-- Settles O24, lane by lane. -/
theorem kernelsDispatched : Obligations.KernelsDispatched := by
  intro s h j t d i hmay himage hdesc hhalf hclean hstream hsingles hpages hless hcounts
  have hready : Dispatchable s j i d := ⟨⟨hclean, hstream, hsingles⟩, hpages, hcounts⟩
  have hdispatch {l : Sys2Proof.Lane} {s' : State} (hs : kernelDispatch s h l = s') : exec (.kernelDispatch h l) s = .next s' := exec_next rfl hs
  refine ⟨fun hnext hfree => ?_, fun rest hjobs hlane _ htile hfree => ?_, fun p k n rest b hjobs hrun hskip hfind htile hfree hj => ?_⟩
  · have hstand : Standing s (modHalf s h fun x => { x with maskJobs := x.maskJobs.erase j }) :=
      .modHalf s h (fun _ => rfl) (fun _ => rfl) fun _ => rfl
    have hmoved : Dispatchable s { j with tile := t } i d := ⟨hready.desc, hready.pages, hready.counts⟩
    have hgets := (startJob_gets (hmoved.standing hstand)).1.standing hstand
    exact ⟨_, hdispatch (kernelDispatch_mask hmay himage hdesc hnext hfree), hgets.all⟩
  · have hstand : Standing s (modHalf s h fun x => { x with replayJobs := rest }) :=
      .modHalf s h (fun _ => rfl) (fun _ => rfl) fun _ => rfl
    have hstart := hready.standing hstand
    have hgets := (startJob_gets hstart).1.standing hstand
    have hsettle := settleHalf_started hstart (by rw [hhalf, half_modHalf_same]; exact hless) hlane
    rw [hhalf] at hsettle
    rw [htile] at hgets
    exact ⟨_, hdispatch ((kernelDispatch_replay hmay himage hdesc hjobs (htile ▸ hfree) (replayRoom_none hpages)).trans hsettle), hgets.all⟩
  · subst htile
    have hstand : Standing s (modHalf s h fun x => { x with run := some { p with left := rest } }) :=
      .modHalf s h (fun _ => rfl) (fun _ => rfl) fun _ => rfl
    have hstart := hready.standing hstand
    have hgets := (startJob_gets hstart).1.standing hstand
    have hsettle := settleHalf_started hstart (by rw [hhalf, half_modHalf_same]; exact hless) (by rw [hj]; exact fun c => nomatch c)
    rw [hhalf] at hsettle
    rw [show j.tile = k.tile.toNat by rw [hj]] at hgets
    have hn : j.image = n := by rw [hj]
    have hk : j.kernel = k.kernel := by rw [hj]
    exact ⟨_, hdispatch ((kernelDispatch_plan hmay (hn ▸ himage) (hk ▸ hdesc) hjobs hrun hskip hfind hfree hj).trans hsettle), hgets.all⟩

end Sys2Proof.Machine
end

section
/-! SUPPORT. Words written to memory and to the window, read back. -/

namespace Sys2Proof.Machine

theorem numOf_bytesOf (n v : Nat) : numOf (bytesOf n v) = v % 256 ^ n := by
  induction n generalizing v with
  | zero => exact (Nat.mod_one v).symm
  | succ n ih =>
    unfold bytesOf numOf
    have hpow : 256 ^ (n + 1) = 256 * 256 ^ n := by rw [Nat.pow_succ, Nat.mul_comm]
    rw [ih, hpow, Nat.mod_mul, BitVec.toNat_ofNat]

theorem getElem?_wordBytes {ws : List W64} {k j : Nat} {w : W64} (hk : ws[k]? = some w) (hj : j < 8) :
    (ws.flatMap fun w => bytesOf 8 w.toNat)[8 * k + j]? = (bytesOf 8 w.toNat)[j]? := by
  induction ws generalizing k with
  | nil => exact nomatch hk
  | cons x ws ih =>
    have hlen : (bytesOf 8 x.toNat).length = 8 := bytesOf_length ..
    rw [List.flatMap_cons]
    cases k with
    | zero =>
      rw [List.getElem?_cons_zero, Option.some_inj] at hk
      rw [← hk, List.getElem?_append_left (by omega), Nat.mul_zero, Nat.zero_add]
    | succ k =>
      rw [List.getElem?_cons_succ] at hk
      rw [List.getElem?_append_right (by omega), hlen, ← ih hk]
      congr 1
      omega

/-- A word is its eight bytes. -/
theorem memWord_congr {m m' : Mem} {a : Nat} (h : ∀ j, j < 8 → memByte m' (a + j) = memByte m (a + j)) : memWord m' a = memWord m a := by
  have : (tab 8 fun i => memByte m' (a + i)) = tab 8 fun i => memByte m (a + i) :=
    List.map_congr_left fun j hj => h j (List.mem_range.mp hj)
  unfold memWord memNum
  rw [this]

theorem memWord_bytes {m : Mem} {a : Nat} {w : W64} (h : ∀ j, j < 8 → (bytesOf 8 w.toNat)[j]? = some (memByte m (a + j))) : memWord m a = w := by
  have hbytes : (tab 8 fun i => memByte m (a + i)) = bytesOf 8 w.toNat := by
    have hlen : (bytesOf 8 w.toNat).length = 8 := bytesOf_length ..
    refine List.ext_getElem? fun j => ?_
    by_cases hj : j < 8
    · rw [h j hj, tab, List.getElem?_map, List.getElem?_range hj]
      rfl
    · rw [List.getElem?_eq_none (by rw [tab, List.length_map, List.length_range]; omega), List.getElem?_eq_none (by omega)]
  unfold memWord memNum
  rw [hbytes, numOf_bytesOf, mk64]
  refine (congrArg (BitVec.ofNat 64) (Nat.mod_eq_of_lt ?_)).trans ((BitVec.ofNat_toNat ..).trans (BitVec.setWidth_eq ..))
  have := w.isLt
  omega

/-- R346: a word written to a place that no FAILED port hides reads back. -/
theorem memWord_memPutWords_same {m : Mem} {a k : Nat} {ws : List W64} {w : W64} (hk : ws[k]? = some w)
    (hd : ∀ j, j < 8 → memDead m (a + 8 * k + j) = false) : memWord (memPutWords m a ws) (a + 8 * k) = w := by
  refine memWord_bytes fun j hj => ?_
  have hget := getElem?_wordBytes hk hj
  have hlt : 8 * k + j < (ws.flatMap fun w => bytesOf 8 w.toNat).length := by
    rw [flatMap_bytesOf_length]
    have := (List.getElem?_eq_some_iff.mp hk).1
    omega
  have hsame := memByte_memWrite_same m a (clean (ws.flatMap fun w => bytesOf 8 w.toNat)) (8 * k + j)
    (by rwa [clean, List.length_map]) (by rw [← Nat.add_assoc]; exact hd j hj)
  rw [← hget, List.getElem?_eq_getElem hlt, memPutWords, Nat.add_assoc, hsame]
  simp [clean]

theorem memWord_memPutWords_other {m : Mem} {a b : Nat} {ws : List W64} (h : b + 8 ≤ a ∨ a + 8 * ws.length ≤ b) :
    memWord (memPutWords m a ws) b = memWord m b :=
  memWord_congr fun j hj => memByte_memPutWords_other m (by omega)

/-- A write changes no byte apart from it. -/
theorem memByte_memPutWords_apart {m : Mem} {a y n : Nat} {ws : List W64} (h : bytesApart y 1 a n) (hn : 8 * ws.length ≤ n) :
    memByte (memPutWords m a ws) y = memByte m y :=
  memByte_memPutWords_other m (by unfold bytesApart at h; omega)

theorem winWord_winPut_same {s : State} {off k : Nat} {ws : List W64} {w : W64} (hk : ws[k]? = some w)
    (hd : ∀ j, j < 8 → memDead s.mem (winAddr s off + 8 * k + j) = false) : winWord (winPut s off ws) (off + 8 * k) = w := by
  have := memWord_memPutWords_same hk hd
  rwa [show winAddr s off + 8 * k = winAddr (winPut s off ws) (off + 8 * k) from Nat.add_assoc ..] at this

theorem winWord_winPut_other {s : State} {off b : Nat} {ws : List W64} (h : b + 8 ≤ off ∨ off + 8 * ws.length ≤ b) :
    winWord (winPut s off ws) b = winWord s b :=
  memWord_memPutWords_other (by show winAddr s b + 8 ≤ winAddr s off ∨ _ ≤ winAddr s b; unfold winAddr; omega)

theorem winWord_mem {s s' : State} (hm : s'.mem = s.mem) (hw : s'.win.base = s.win.base) (off : Nat) : winWord s' off = winWord s off := by
  unfold winWord winAddr
  rw [hm, hw]

/-- R322: a slot written whole holds its words and its owner. -/
theorem putSlotWords_holds {s : State} {off : Nat} {ws : List W64} (o : Nat) (hd : alive s (winAddr s off) 64) (hn : 7 ≤ ws.length) :
    SlotHolds (putSlotWords s off ws o) off ws o := by
  have hlen : (ws.take 7).length = 7 := by rw [List.length_take]; omega
  refine ⟨fun j hj => ?_, ?_⟩
  · have hword : (ws.take 7)[j]? = some (ws.getD j 0) := by
      rw [List.getElem?_take_of_lt hj, List.getD_eq_getElem?_getD, List.getElem?_eq_getElem (by omega)]
      rfl
    refine (winWord_winPut_other (by omega)).trans (winWord_winPut_same hword fun i hi => ?_)
    rw [Nat.add_assoc]
    exact hd _ (by omega)
  · refine winWord_winPut_same (s := winPut s off (ws.take 7)) (off := off + 56) (k := 0) (ws := [mk64 (put o 62 2)]) rfl fun i hi => ?_
    have : winAddr s (off + 56) + 8 * 0 + i = winAddr s off + (56 + i) := by
      unfold winAddr
      omega
    show memDead s.mem (winAddr s (off + 56) + 8 * 0 + i) = false
    rw [this]
    exact hd _ (by omega)

/-- R322: a slot written whole leaves every byte outside it. -/
theorem memByte_putSlotWords {s : State} {off y : Nat} {ws : List W64} {o : Nat} (h : bytesApart y 1 (winAddr s off) 64) :
    memByte (putSlotWords s off ws o).mem y = memByte s.mem y := by
  refine (memByte_memPutWords_other _ ?_).trans (memByte_memPutWords_other _ ?_)
  · show y < winAddr s (off + 56) ∨ winAddr s (off + 56) + 8 ≤ y
    unfold bytesApart winAddr at *
    omega
  · have : (ws.take 7).length ≤ 7 := by rw [List.length_take]; omega
    unfold bytesApart at h
    omega

theorem sendNotice_mem (s : State) (n : Notice) : (sendNotice s n).mem = s.mem := by
  unfold sendNotice sendPacket
  split <;> rfl

/-- R319: a notice changes no memory. -/
theorem publishNotice_mem (s : State) (k : NoticeKey) (l : W32) : (publishNotice s k l).mem = s.mem := by
  unfold publishNotice
  split
  · exact sendNotice_mem ..
  · split
    · rfl
    · exact sendNotice_mem ..

theorem SlotHolds.mem {s s' : State} {off : Nat} {ws : List W64} {o : Nat} (h : SlotHolds s off ws o) (hm : s'.mem = s.mem)
    (hw : s'.win.base = s.win.base) : SlotHolds s' off ws o := by
  unfold SlotHolds
  simp only [winWord_mem hm hw]
  exact h

/-- What holds of each of the seven words of a slot before its last one. -/
theorem forall_lt_seven {p : Nat → Prop} (h0 : p 0) (h1 : p 1) (h2 : p 2) (h3 : p 3) (h4 : p 4) (h5 : p 5) (h6 : p 6) : ∀ j, j < 7 → p j
  | 0, _ => h0
  | 1, _ => h1
  | 2, _ => h2
  | 3, _ => h3
  | 4, _ => h4
  | 5, _ => h5
  | 6, _ => h6

theorem SlotHolds.words {s : State} {off : Nat} {ws vs : List W64} {o : Nat} (h : SlotHolds s off ws o) (hv : ∀ j, j < 7 → ws.getD j 0 = vs.getD j 0) :
    SlotHolds s off vs o := ⟨fun j hj => (h.1 j hj).trans (hv j hj), h.2⟩

theorem sendNotice_half (s : State) (n : Notice) (h : Half) : half (sendNotice s n) h = half s h := by
  unfold sendNotice sendPacket
  split <;> (cases h <;> rfl)

/-- R319: a notice changes no half. -/
theorem publishNotice_half (s : State) (k : NoticeKey) (l : W32) (h : Half) : half (publishNotice s k l) h = half s h := by
  unfold publishNotice
  split
  · exact sendNotice_half ..
  · split
    · cases h <;> rfl
    · refine (sendNotice_half ..).trans ?_
      cases h <;> rfl

theorem writeEvent_eseq (s : State) (h : Half) (e : Ev) : (half (writeEvent s h e) h).eseq = (half s h).eseq + 1 := by
  unfold writeEvent
  dsimp only
  rw [publishNotice_half, half_modHalf_same]
  cases h <;> rfl

/-- R333: an event is written to the next entry of its half's ring. -/
theorem writeEvent_stands {s : State} {h : Half} {e : Ev} (ha : alive s (winAddr s (eventOff s h)) 64) (hs : e.slot = none) :
    EventStands s (writeEvent s h e) h (mk64 (put e.code.toNat 48 16)) (mk64 (put s.turns.cur.toNat 32 32 + put (half s h).eseq.toNat 0 32)) 0 e.extra := by
  refine ⟨writeEvent_eseq .., ?_⟩
  unfold writeEvent
  extract_lets off s1 s2
  have hmem : (publishNotice s2 (.event h) (half s h).eseq).mem = s1.mem := (publishNotice_mem ..).trans (modHalf_mem ..)
  have hbase : (publishNotice s2 (.event h) (half s h).eseq).win.base = s1.win.base := by
    rw [(publishNotice_frame s2 (.event h) (half s h).eseq).win, show s2.win = s1.win from modHalf_win ..]
  refine ((putSlotWords_holds (ws := eventWords s h e) 1 ha (Nat.le_refl 7)).mem hmem hbase).words ?_
  rw [eventWords]
  simp only [hs, Option.map_none, Nat.add_zero]
  exact forall_lt_seven rfl rfl rfl rfl rfl rfl rfl

theorem writeEvent_memByte {s : State} {h : Half} {e : Ev} {y : Nat} (hy : bytesApart y 1 (winAddr s (eventOff s h)) 64) :
    memByte (writeEvent s h e).mem y = memByte s.mem y := by
  unfold writeEvent
  extract_lets off s1 s2
  rw [publishNotice_mem, modHalf_mem]
  exact memByte_putSlotWords hy

theorem flushLost_none {s : State} {h : Half} (hd : (half s h).evDropped = 0) : flushLost s h = s := if_pos (.inl hd)

theorem windowOpen_iff {s : State} :
    windowOpen s = true ↔ s.su.phase = .ready ∧ s.su.quiet = false ∧ s.errs.block = false ∧ ctRuns s = true := by
  simp only [windowOpen, Bool.and_eq_true, beq_iff_eq, Bool.not_eq_true', and_assoc]

/-- R333: an event sent where the ring has room, with no drop to tell of. -/
theorem sendEvent_ready {s : State} {e : Ev} (hr : EventReady s e.half) : sendEvent s e = writeEvent s e.half e := by
  obtain ⟨hw, hd, hroom, -⟩ := hr
  obtain ⟨hphase, hquiet, hblock, hct⟩ := windowOpen_iff.mp hw
  have hoff : s.su.off = false := by
    simp only [ctRuns, refRuns, Bool.and_eq_true, Bool.not_eq_true'] at hct
    exact hct.1.1.2
  unfold sendEvent
  rw [if_neg (by rw [hblock, hoff, hquiet]; decide), if_neg (by rw [hct]; decide), if_neg (by rw [hphase]; decide)]
  dsimp only
  rw [flushLost_none hd, if_pos ⟨hd, hroom⟩]

end Sys2Proof.Machine
end

section
/-! SUPPORT. Turn marks: what a start-of-frame block leaves, how a mark is classified, and a turn that opens. -/

namespace Sys2Proof.Machine

theorem takesMark_iff {s : State} {i : TbIn} {p : W64} :
    takesMark s i p = true ↔ sofGood p = true ∧ sofMark p = true ∧ (tbOf s i).blockLock = true ∧ (tbOf s i).frameLock = true ∧ s.clocks.inUse = i
      ∧ s.clocks.src ≠ 2 ∧ s.clocks.catchMarks = [] ∧ ctPhase s.su.phase = true ∧ s.errs.block = false ∧ ctRuns s = true ∧ tbRuns s i = true
      ∧ frameTaken s p = false := by
  simp only [takesMark, Bool.and_eq_true, beq_iff_eq, bne_iff_ne, List.isEmpty_iff, Bool.not_eq_true', and_assoc]

theorem noted_turns (s : State) (i : TbIn) (p : W64) : (noted s i p).turns = s.turns := by cases i <;> rfl

theorem noted_mem (s : State) (i : TbIn) (p : W64) : (noted s i p).mem = s.mem := by cases i <;> rfl

theorem noted_slots (s : State) (i : TbIn) (p : W64) : (noted s i p).slots = s.slots := by cases i <;> rfl

theorem noted_tiles (s : State) (i : TbIn) (p : W64) : (noted s i p).tiles = s.tiles := by cases i <;> rfl

theorem noted_half (s : State) (i : TbIn) (p : W64) (h : Half) : half (noted s i p) h = half s h := by cases i <;> cases h <;> rfl

theorem noted_now (s : State) (i : TbIn) (p : W64) : (noted s i p).now = s.now := by cases i <;> rfl

theorem noted_halfRuns (s : State) (i : TbIn) (p : W64) (h : Half) : halfRuns (noted s i p) h = halfRuns s h := by cases i <;> cases h <;> rfl

theorem noted_ready {s : State} (i : TbIn) (p : W64) {h : Half} (hr : EventReady s h) : EventReady (noted s i p) h := by
  cases i <;> cases h <;> exact hr

theorem noted_winBase (s : State) (i : TbIn) (p : W64) : (noted s i p).win = s.win := by cases i <;> rfl

/-- R379: one mark that waits is taken. -/
theorem flushMarks_one {s : State} {a : Nat} {p : W64} (h : s.clocks.catchMarks = [(a, p)]) (hp : ctPhase s.su.phase = true)
    (hb : s.errs.block = false) (hc : ctRuns s = true) :
    flushMarks s = takeMark { s with clocks := { s.clocks with catchMarks := [] } } (sofTurn p) a := by
  unfold flushMarks
  rw [if_neg (by rw [hp, hb]; decide), if_pos hc, h]
  rfl

/-- R281, R379: a mark that the block takes at once. -/
theorem turnMark_takes {s : State} {i : TbIn} {p : W64} (h : takesMark s i p = true) :
    exec (.turnMark i p) s = .next (takeMark (noted s i p) (sofTurn p) s.now) := by
  obtain ⟨hgood, hmark, hblock, hframe, huse, hsrc, hnone, hphase, herr, hct, htb, htaken⟩ := takesMark_iff.mp h
  refine exec_next rfl ?_
  rw [if_pos ⟨hgood, hblock, hframe, htb⟩]
  unfold sofArrives
  dsimp only
  have htakes : ¬(s.clocks.inUse ≠ i ∨ (!(tbOf s i).blockLock) = true ∨ (!(tbOf s i).frameLock) = true ∨ s.clocks.src = 2 ∨ frameTaken s p = true) := by
    rw [hblock, hframe, htaken]
    rintro (c | c | c | c | c)
    · exact c huse
    · exact Bool.false_ne_true c
    · exact Bool.false_ne_true c
    · exact hsrc c
    · exact Bool.false_ne_true c
  rw [if_neg htakes, if_pos hmark]
  have hcatch : (noted s i p).clocks.catchMarks = [] := by cases i <;> exact hnone
  refine (flushMarks_one (a := s.now) (p := p) ?_ ?_ ?_ ?_).trans ?_
  · show (noted s i p).clocks.catchMarks ++ [(s.now, p)] = _
    rw [hcatch]
    rfl
  · cases i <;> exact hphase
  · cases i <;> exact herr
  · cases i <;> exact hct
  · show takeMark { noted s i p with clocks := { (noted s i p).clocks with catchMarks := [] } } _ _ = _
    rw [show { (noted s i p).clocks with catchMarks := [] } = (noted s i p).clocks by rw [← hcatch]]

/-- A field of the halves that no event changes. -/
theorem EventFrame.half_same {α : Type} {g : HalfState → α} {s s' : State} (h : EventFrame s s')
    (hg : ∀ (x : HalfState) a b, g { x with eseq := a, evDropped := b } = g x) (k : Half) : g (half s' k) = g (half s k) := by
  cases k
  · exact (congrArg g h.halfA).trans (hg ..)
  · exact (congrArg g h.halfB).trans (hg ..)

theorem EventFrame.halfRuns {s s' : State} (h : EventFrame s s') (k : Half) : halfRuns s' k = halfRuns s k := by
  unfold Machine.halfRuns domainRuns clocksRun
  rw [h.ctRuns, h.clocks, h.power]
  unfold refRuns
  rw [h.clocks, h.su]

/-- R301: a mark that waits for the running plan of a half. -/
def markWaits (s : State) (h : Half) (t : W32) (at_ : Nat) : State :=
  modHalf s h fun x => { x with planLess := x.planLess.filter fun u => u != t, waiting := x.waiting ++ [(t, at_)], maskLoad := [] }

theorem markHalf_waits {s : State} {h : Half} (t : W32) (at_ : Nat) (hr : halfRuns s h = true) (hrun : (half s h).run.isSome = true) :
    markHalf s h t at_ = markWaits s h t at_ := by
  obtain ⟨p, hp⟩ := Option.isSome_iff_exists.mp hrun
  have hp' : (half (markWaits s h t at_) h).run = some p := by
    rw [markWaits, half_modHalf_same]
    exact hp
  unfold markHalf
  rw [if_neg (by rw [hr]; decide)]
  show (match (half (markWaits s h t at_) h).run, (half (markWaits s h t at_) h).waiting with
    | none, (u, m) :: ws => _
    | _, _ => markWaits s h t at_) = _
  rw [hp']

theorem expireAll_none {s : State} (hp : ∀ n, (slotOf s n).r.st ≠ .paused) (hA : s.halfA.handles = []) (hB : s.halfB.handles = []) :
    expireAll s = s := by
  have hslots : (usedSlots s).foldl expireSlot s = s := foldl_fixed_on fun n _ => if_neg fun c => hp n c.1
  have hkA : handleKeys s .A = [] := by
    show s.halfA.handles.map _ = []
    rw [hA]
    rfl
  have hkB : handleKeys s .B = [] := by
    show s.halfB.handles.map _ = []
    rw [hB]
    rfl
  unfold expireAll
  rw [hslots]
  dsimp only
  rw [hkA]
  show (handleKeys s .B).foldl (fun s i => expireHandle s .B i) s = s
  rw [hkB]
  rfl

/-- R281: turn `t` opened by a mark that came at `at_`, before its events, its expiries and its plans. -/
def turnOpened (s : State) (t : W32) (at_ : Nat) : State :=
  { s with
    turns := { s.turns with
      cur := t, seen := true, last := t, lastTime := at_, stalled := false, missSent := [], stallAt := at_ + 4000000
      excessSent := s.turns.excessSent.filter fun e => !later (t - 64) e.2
      spacings := if s.turns.seen then (s.turns.spacings ++ [at_ - s.turns.lastTime]).drop ((s.turns.spacings ++ [at_ - s.turns.lastTime]).length - 64)
        else [] } }

/-- R281, R301: nothing is due to expire, no stall ends, and both halves run a plan. -/
structure OnlyWaits (s : State) : Prop where
  stalled : s.turns.stalled = false
  paused : ∀ n, (slotOf s n).r.st ≠ .paused
  handlesA : s.halfA.handles = []
  handlesB : s.halfB.handles = []
  run : ∀ h, (half s h).run.isSome = true
  runs : ∀ h, halfRuns s h = true

/-- R281, R282: the state with the turn open and the skipped turns named. -/
def turnNamed (s : State) (t : W32) (at_ : Nat) (skipped : Bool) : State :=
  if skipped then sendBlockEvent (turnOpened s t at_) 0x0203 (mk64 (s.turns.last + 1).toNat) else turnOpened s t at_

theorem turnNamed_frame (s : State) (t : W32) (at_ : Nat) (skipped : Bool) : EventFrame (turnOpened s t at_) (turnNamed s t at_ skipped) := by
  unfold turnNamed
  split
  · exact sendBlockEvent_frame ..
  · exact .refl _

/-- R281, R301: a mark accepted while both halves run a plan. -/
theorem acceptMark_waits {s : State} (t : W32) (at_ : Nat) (skipped : Bool) (h : OnlyWaits s) :
    acceptMark s t at_ skipped = markWaits (markWaits (turnNamed s t at_ skipped) .A t at_) .B t at_ := by
  have hframe := turnNamed_frame s t at_ skipped
  have hexpire : expireAll (turnNamed s t at_ skipped) = turnNamed s t at_ skipped :=
    expireAll_none (fun n => by rw [slotOf_slots hframe.slots]; exact h.paused n)
      ((hframe.half_same (g := HalfState.handles) (fun _ _ _ => rfl) .A).trans h.handlesA)
      ((hframe.half_same (g := HalfState.handles) (fun _ _ _ => rfl) .B).trans h.handlesB)
  have hrun (k : Half) : (half (turnNamed s t at_ skipped) k).run.isSome = true := by
    rw [hframe.half_same (g := HalfState.run) (fun _ _ _ => rfl) k]
    exact h.run k
  have hruns (k : Half) : halfRuns (turnNamed s t at_ skipped) k = true := (hframe.halfRuns k).trans (h.runs k)
  unfold acceptMark
  dsimp only
  rw [if_neg (by rw [h.stalled]; decide)]
  show markHalf (markHalf (expireAll (turnNamed s t at_ skipped)) .A t at_) .B t at_ = _
  rw [hexpire, markHalf_waits t at_ (hruns .A) (hrun .A)]
  exact markHalf_waits (s := markWaits (turnNamed s t at_ skipped) .A t at_) t at_ (hruns .B) (hrun .B)

/-- R281, R301: what a turn that opens leaves while its plan waits in both halves. -/
theorem marked_stands (s : State) (t : W32) (at_ : Nat) (skipped : Bool) :
    let s' := markWaits (markWaits (turnNamed s t at_ skipped) .A t at_) .B t at_
    s'.turns = (turnOpened s t at_).turns ∧ s'.slots = s.slots ∧ s'.tiles = s.tiles ∧ s'.mem = (turnNamed s t at_ skipped).mem
      ∧ ∀ h, (half s' h).run = (half s h).run ∧ (half s' h).waiting = (half s h).waiting ++ [(t, at_)]
        ∧ (half s' h).planLess = (half s h).planLess.filter (fun u => u != t) ∧ (half s' h).eseq = (half (turnNamed s t at_ skipped) h).eseq := by
  have hframe := turnNamed_frame s t at_ skipped
  have hrun := hframe.half_same (g := HalfState.run) fun _ _ _ => rfl
  have hwaiting := hframe.half_same (g := HalfState.waiting) fun _ _ _ => rfl
  have hless := hframe.half_same (g := HalfState.planLess) fun _ _ _ => rfl
  refine ⟨hframe.turns, hframe.slots, hframe.tiles, rfl, fun h => ?_⟩
  cases h
  · exact ⟨hrun .A, congrArg (· ++ [(t, at_)]) (hwaiting .A), congrArg (List.filter _) (hless .A), rfl⟩
  · exact ⟨hrun .B, congrArg (· ++ [(t, at_)]) (hwaiting .B), congrArg (List.filter _) (hless .B), rfl⟩

theorem mem_turnRange {c u : W32} {n : Nat} (hn : n < 2 ^ 32) : u ∈ turnRange (c + 1) n ↔ 0 < (u - c).toNat ∧ (u - c).toNat ≤ n := by
  unfold turnRange tab
  rw [List.mem_map]
  constructor
  · rintro ⟨k, hk, rfl⟩
    rw [List.mem_range] at hk
    have : c + 1 + BitVec.ofNat 32 k - c = BitVec.ofNat 32 (k + 1) := by
      rw [BitVec.ofNat_add]
      bv_omega
    rw [this, BitVec.toNat_ofNat, Nat.mod_eq_of_lt (by omega)]
    omega
  · rintro ⟨h0, hn'⟩
    refine ⟨(u - c).toNat - 1, List.mem_range.mpr (by omega), ?_⟩
    have hone : 1 + BitVec.ofNat 32 ((u - c).toNat - 1) = u - c :=
      calc 1 + BitVec.ofNat 32 ((u - c).toNat - 1) = BitVec.ofNat 32 (1 + ((u - c).toNat - 1)) := (BitVec.ofNat_add ..).symm
        _ = BitVec.ofNat 32 (u - c).toNat := by rw [Nat.add_sub_cancel' h0]
        _ = u - c := (BitVec.ofNat_toNat ..).trans (BitVec.setWidth_eq ..)
    rw [BitVec.add_assoc, hone]
    bv_omega

theorem addPlanLess_half (s : State) (l : List W32) (h : Half) :
    half (addPlanLess s l) h = { half s h with planLess := (half s h).planLess ++ l.filter fun t => !(half s h).planLess.contains t } := by
  cases h <;> rfl

theorem mem_addPlanLess {s : State} {l : List W32} {h : Half} {u : W32} :
    u ∈ (half (addPlanLess s l) h).planLess ↔ u ∈ (half s h).planLess ∨ u ∈ l := by
  rw [addPlanLess_half]
  simp only [List.mem_append, List.mem_filter, Bool.not_eq_true', List.contains_eq_mem, decide_eq_false_iff_not]
  by_cases hu : u ∈ (half s h).planLess <;> simp [hu]

/-- R281, R282: the state with the turns that mark `t` skips plan-less. -/
def turnsSkipped (s : State) (t : W32) : State :=
  let s1 := addPlanLess s (turnRange (s.turns.last + 1) ((t - s.turns.last).toNat - 1))
  { s1 with turns := { s1.turns with skipped := inc16 s1.turns.skipped } }

theorem takeMark_skips {s : State} {t : W32} {at_ : Nat} (hs : s.turns.seen = true) (hl : later t s.turns.last = true)
    (hn : t ≠ s.turns.last + 1) (ht : s.turns.lastTime + 2000 ≤ at_) : takeMark s t at_ = acceptMark (turnsSkipped s t) t at_ true := by
  unfold takeMark
  dsimp only
  rw [if_neg (by rw [hs]; decide), if_neg (by rw [hl]; decide), if_neg (by omega), if_neg hn]
  rfl

theorem takeMark_follows {s : State} {t : W32} {at_ : Nat}
    (h : s.turns.seen = true → t = s.turns.last + 1 ∧ later t s.turns.last = true ∧ s.turns.lastTime + 2000 ≤ at_) :
    takeMark s t at_ = acceptMark s t at_ false := by
  unfold takeMark
  dsimp only
  by_cases hs : s.turns.seen = true
  · obtain ⟨hn, hl, ht⟩ := h hs
    rw [if_neg (by rw [hs]; decide), if_neg (by rw [hl]; decide), if_neg (by omega), if_pos hn]
  · rw [if_pos (by rw [eq_false_of_ne_true hs]; rfl)]

theorem takeMark_old {s : State} {t : W32} {at_ : Nat} (hs : s.turns.seen = true) (hl : later t s.turns.last = false) :
    takeMark s t at_ = { s with turns := { s.turns with badMark := inc16 s.turns.badMark } } := by
  unfold takeMark
  dsimp only
  rw [if_neg (by rw [hs]; decide), if_pos (by rw [hl]; rfl)]

/-- R281: a mark within 2 ms of the last one merges with it. -/
theorem takeMark_merges {s : State} {t : W32} {at_ : Nat} (hs : s.turns.seen = true) (hl : later t s.turns.last = true)
    (ht : at_ < s.turns.lastTime + 2000) :
    let s' := takeMark s t at_
    s'.turns = { s.turns with cur := t, merged := inc16 s.turns.merged, missSent := [] } ∧ s'.mem = s.mem ∧ s'.slots = s.slots ∧ s'.tiles = s.tiles
      ∧ ∀ h, (half s' h).run = (half s h).run ∧ (half s' h).waiting = (half s h).waiting := by
  unfold takeMark
  dsimp only
  rw [if_neg (by rw [hs]; decide), if_neg (by rw [hl]; decide), if_pos ht]
  exact ⟨rfl, rfl, rfl, rfl, fun h => by cases h <;> exact ⟨rfl, rfl⟩⟩

/-- What a stall keeps: the turn, the request table, the tiles, and the plans that run and wait. -/
structure Calm (s s' : State) : Prop where
  turns : s'.turns = s.turns
  slots : s'.slots = s.slots
  tiles : s'.tiles = s.tiles
  run : ∀ h, (half s' h).run = (half s h).run
  waiting : ∀ h, (half s' h).waiting = (half s h).waiting

theorem Calm.trans {a b c : State} (h : Calm a b) (k : Calm b c) : Calm a c :=
  ⟨k.turns.trans h.turns, k.slots.trans h.slots, k.tiles.trans h.tiles, fun x => (k.run x).trans (h.run x), fun x => (k.waiting x).trans (h.waiting x)⟩

theorem EventFrame.calm {s s' : State} (h : EventFrame s s') : Calm s s' :=
  ⟨h.turns, h.slots, h.tiles, h.half_same fun _ _ _ => rfl, h.half_same fun _ _ _ => rfl⟩

theorem leaveBoxcars_calm (s : State) : Calm s (leaveBoxcars s) := by
  unfold leaveBoxcars chosenNow modeRelock latchVf
  split
  · split <;> exact ⟨rfl, rfl, rfl, fun h => by cases h <;> rfl, fun h => by cases h <;> rfl⟩
  · exact (EventFrame.refl s).calm

theorem settlePower_calm (s : State) : Calm s (settlePower s) := by
  have hmodes (m : Modes) : Calm s { s with modes := m } := ⟨rfl, rfl, rfl, fun h => by cases h <;> rfl, fun h => by cases h <;> rfl⟩
  unfold settlePower
  dsimp only
  split
  · exact ((hmodes _).trans (leaveBoxcars_calm _)).trans (sendBlockEvent_frame ..).calm
  · split
    · exact (leaveBoxcars_calm s).trans (sendBlockEvent_frame ..).calm
    · split
      · exact hmodes _
      · exact (EventFrame.refl s).calm

/-- R387: while the CT clocks run, a time that passes moves no turn and no plan. -/
theorem elapse_calm {s : State} (n : Nat) (hc : ctRuns s = true) : Calm s (elapse s n) := by
  have hlater : Calm s (laterState s n) := by
    unfold laterState
    rw [if_pos hc, if_pos hc, if_pos hc]
    exact ⟨rfl, rfl, rfl, fun h => by cases h <;> rfl, fun h => by cases h <;> rfl⟩
  rw [elapse_eq]
  refine Calm.trans ?_ (settlePower_calm _)
  split
  · exact hlater
  · exact hlater.trans ⟨rfl, rfl, rfl, fun h => by cases h <;> rfl, fun h => by cases h <;> rfl⟩

theorem stallNow_stands (s : State) :
    let s' := stallNow s
    s'.turns = { s.turns with stalled := true, stalls := inc16 s.turns.stalls } ∧ s'.slots = s.slots ∧ s'.tiles = s.tiles
      ∧ ∀ h, (half s' h).run = (half s h).run ∧ (half s' h).waiting = (half s h).waiting := by
  have hframe := (sendBlockEvent_frame { s with turns := { s.turns with stalled := true, stalls := inc16 s.turns.stalls } } 0x0201
    (mk64 s.turns.last.toNat)).calm
  exact ⟨hframe.turns, hframe.slots, hframe.tiles, fun h => ⟨(hframe.run h).trans (by cases h <;> rfl), (hframe.waiting h).trans (by cases h <;> rfl)⟩⟩

/-- R282, R333: MARK_SKIPPED of the turn that opens, sent where half A's event ring has room. -/
theorem turnNamed_stands {s : State} {t : W32} {at_ : Nat} (hr : EventReady s .A) :
    EventStands s (turnNamed s t at_ true) .A (mk64 (put 0x0203 48 16)) (mk64 (put t.toNat 32 32 + put s.halfA.eseq.toNat 0 32)) 0
        (mk64 (s.turns.last + 1).toNat)
      ∧ ∀ y, bytesApart y 1 (winAddr s (eventOff s .A)) 64 → memByte (turnNamed s t at_ true).mem y = memByte s.mem y := by
  have hready : EventReady (turnOpened s t at_) .A := hr
  have hsend : turnNamed s t at_ true
      = writeEvent (turnOpened s t at_) .A { half := .A, code := 0x0203, slot := none, extra := mk64 (s.turns.last + 1).toNat } :=
    sendEvent_ready (e := { half := .A, code := 0x0203, slot := none, extra := mk64 (s.turns.last + 1).toNat }) hready
  rw [hsend]
  exact ⟨writeEvent_stands (s := turnOpened s t at_) hready.2.2.2 rfl, fun y hy => writeEvent_memByte (s := turnOpened s t at_) hy⟩

theorem turnsSkipped_waits {s : State} (t : W32) (h : OnlyWaits s) : OnlyWaits (turnsSkipped s t) :=
  { stalled := h.stalled, paused := h.paused, handlesA := h.handlesA, handlesB := h.handlesB
    run := forall_half (h.run .A) (h.run .B)
    runs := forall_half (h.runs .A) (h.runs .B) }

/-- R281: the turns between the last one and `t`, and those that were plan-less but `t` itself. -/
theorem mem_skipped {s : State} {t u : W32} {h : Half} (hl : later t s.turns.last = true) :
    u ∈ (half (turnsSkipped s t) h).planLess.filter (fun u => u != t) ↔
      (u ∈ (half s h).planLess ∧ u ≠ t) ∨ (0 < (u - s.turns.last).toNat ∧ (u - s.turns.last).toNat < (t - s.turns.last).toNat) := by
  have hrange : 1 ≤ (t - s.turns.last).toNat ∧ (t - s.turns.last).toNat ≤ 2 ^ 31 - 1 := of_decide_eq_true (by rw [Bool.decide_and]; exact hl)
  rw [List.mem_filter, bne_iff_ne]
  show u ∈ (half (addPlanLess s (turnRange (s.turns.last + 1) ((t - s.turns.last).toNat - 1))) h).planLess ∧ _ ↔ _
  rw [mem_addPlanLess, mem_turnRange (by omega)]
  constructor
  · rintro ⟨hu | ⟨h0, h1⟩, hne⟩
    · exact .inl ⟨hu, hne⟩
    · exact .inr ⟨h0, by omega⟩
  · rintro (⟨hu, hne⟩ | ⟨h0, h1⟩)
    · exact ⟨.inl hu, hne⟩
    · exact ⟨.inr ⟨h0, by omega⟩, fun c => by rw [c] at h1; omega⟩

theorem turnsSkipped_turns (s : State) (t : W32) :
    (turnsSkipped s t).turns = { s.turns with skipped := inc16 s.turns.skipped } := by
  unfold turnsSkipped
  rfl

theorem turnsSkipped_eventOff (s : State) (t : W32) : eventOff (turnsSkipped s t) .A = eventOff s .A := by
  unfold turnsSkipped eventOff
  rfl

theorem turnsSkipped_ready {s : State} (t : W32) (h : EventReady s .A) : EventReady (turnsSkipped s t) .A := by
  obtain ⟨hw, hd, hroom, ha⟩ := h
  refine ⟨hw, hd, hroom, ?_⟩
  rw [turnsSkipped_eventOff]
  exact ha

/-- R281, R282, R301: a mark that skips turns while both halves run a plan. -/
theorem acceptMark_skips {s : State} (t : W32) (at_ : Nat) (h : OnlyWaits s) (hr : EventReady s .A) (hl : later t s.turns.last = true) :
    let s' := acceptMark (turnsSkipped s t) t at_ true
    s'.turns.cur = t ∧ s'.turns.last = t ∧ s'.turns.lastTime = at_ ∧ s'.turns.skipped = inc16 s.turns.skipped ∧ s'.slots = s.slots
      ∧ s'.tiles = s.tiles
      ∧ (∀ h, (half s' h).run = (half s h).run ∧ (half s' h).waiting = (half s h).waiting ++ [(t, at_)]
        ∧ ∀ u, u ∈ (half s' h).planLess ↔
          (u ∈ (half s h).planLess ∧ u ≠ t) ∨ (0 < (u - s.turns.last).toNat ∧ (u - s.turns.last).toNat < (t - s.turns.last).toNat))
      ∧ EventStands s s' .A (mk64 (put 0x0203 48 16)) (mk64 (put t.toNat 32 32 + put s.halfA.eseq.toNat 0 32)) 0 (mk64 (s.turns.last + 1).toNat)
      ∧ ∀ y, bytesApart y 1 (winAddr s (eventOff s .A)) 64 → memByte s'.mem y = memByte s.mem y := by
  have hrun (k : Half) : (half (turnsSkipped s t) k).run = (half s k).run ∧ (half (turnsSkipped s t) k).waiting = (half s k).waiting := by
    cases k <;> exact ⟨rfl, rfl⟩
  have hready := turnsSkipped_ready t hr
  have hmembers := fun k u => mem_skipped (h := k) (u := u) hl
  have hstands : EventStands s (turnNamed (turnsSkipped s t) t at_ true) .A (mk64 (put 0x0203 48 16))
        (mk64 (put t.toNat 32 32 + put s.halfA.eseq.toNat 0 32)) 0 (mk64 (s.turns.last + 1).toNat)
      ∧ ∀ y, bytesApart y 1 (winAddr s (eventOff s .A)) 64 → memByte (turnNamed (turnsSkipped s t) t at_ true).mem y = memByte s.mem y :=
    by
      obtain ⟨⟨hseq, hholds⟩, hbytes⟩ := turnNamed_stands (t := t) (at_ := at_) hready
      rw [turnsSkipped_eventOff] at hholds hbytes
      rw [turnsSkipped_turns] at hholds
      exact ⟨⟨hseq, hholds⟩, hbytes⟩
  have hturns : (turnOpened (turnsSkipped s t) t at_).turns.cur = t ∧ (turnOpened (turnsSkipped s t) t at_).turns.last = t
      ∧ (turnOpened (turnsSkipped s t) t at_).turns.lastTime = at_ ∧ (turnOpened (turnsSkipped s t) t at_).turns.skipped = inc16 s.turns.skipped :=
    ⟨rfl, rfl, rfl, congrArg (·.skipped) (turnsSkipped_turns s t)⟩
  have hslots : (turnsSkipped s t).slots = s.slots ∧ (turnsSkipped s t).tiles = s.tiles := ⟨rfl, rfl⟩
  have hwait := acceptMark_waits t at_ true (turnsSkipped_waits t h)
  generalize turnsSkipped s t = x at hrun hmembers hstands hturns hslots hwait ⊢
  rw [hwait]
  obtain ⟨⟨hseq, hholds⟩, hbytes⟩ := hstands
  obtain ⟨gturns, gslots, gtiles, gmem, gplans⟩ := marked_stands x t at_ true
  have gwin : (markWaits (markWaits (turnNamed x t at_ true) .A t at_) .B t at_).win.base = (turnNamed x t at_ true).win.base := rfl
  generalize markWaits (markWaits (turnNamed x t at_ true) .A t at_) .B t at_ = s' at gturns gslots gtiles gmem gplans gwin ⊢
  obtain ⟨hcur, hlast, htime, hskipped⟩ := hturns
  dsimp only
  rw [gturns, hcur, hlast, htime, hskipped, gmem]
  refine ⟨rfl, rfl, rfl, rfl, gslots.trans hslots.1, gtiles.trans hslots.2, fun k => ?_, ⟨?_, hholds.mem gmem gwin⟩, hbytes⟩
  · obtain ⟨grun, gwaiting, gless, -⟩ := gplans k
    rw [grun, gwaiting, (hrun k).1, (hrun k).2]
    exact ⟨rfl, rfl, fun u => by rw [gless]; exact hmembers k u⟩
  · rw [(gplans .A).2.2.2]
    exact hseq

/-- Settles O25, by how a mark is classified. -/
theorem marksAndStalls : Obligations.MarksAndStalls := by
  refine ⟨fun s i p htakes => ?_, fun s hstall => ?_⟩
  · have hexec := turnMark_takes htakes
    have hturns := noted_turns s i p
    have hslots := noted_slots s i p
    have htiles := noted_tiles s i p
    have hmem := noted_mem s i p
    have hhalf := noted_half s i p
    have hwaits (hstalled : s.turns.stalled = false) (hp : ∀ n, (slotOf s n).r.st ≠ .paused) (hA : s.halfA.handles = []) (hB : s.halfB.handles = [])
        (rA : s.halfA.run.isSome = true) (rB : s.halfB.run.isSome = true) (cA : halfRuns s .A = true) (cB : halfRuns s .B = true) :
        OnlyWaits (noted s i p) :=
      { stalled := by rw [hturns]; exact hstalled
        paused := fun n => by rw [slotOf_slots hslots]; exact hp n
        handlesA := by rw [show (noted s i p).halfA = s.halfA from hhalf .A]; exact hA
        handlesB := by rw [show (noted s i p).halfB = s.halfB from hhalf .B]; exact hB
        run := forall_half (by rw [hhalf]; exact rA) (by rw [hhalf]; exact rB)
        runs := forall_half (by rw [noted_halfRuns]; exact cA) (by rw [noted_halfRuns]; exact cB) }
    refine ⟨fun hs hl => ?_, fun hs hl ht => ?_, fun hfollows hstalled hp hA hB rA rB cA cB => ?_,
      fun hs hl hn ht hstalled hp hA hB rA rB cA cB hready => ?_⟩
    · rw [hexec, takeMark_old (by rw [hturns]; exact hs) (by rw [hturns]; exact hl), hturns]
    · obtain ⟨gturns, gmem, gslots, gtiles, gplans⟩ := takeMark_merges (s := noted s i p) (t := sofTurn p) (at_ := s.now) (by rw [hturns]; exact hs)
        (by rw [hturns]; exact hl) (by rw [hturns]; exact ht)
      rw [hturns] at gturns
      exact ⟨_, hexec, gturns, gmem.trans hmem, gslots.trans hslots, gtiles.trans htiles, fun h => by rw [← hhalf h]; exact gplans h⟩
    · have honly := hwaits hstalled hp hA hB rA rB cA cB
      rw [takeMark_follows (by rw [hturns]; exact hfollows), acceptMark_waits _ _ _ honly] at hexec
      obtain ⟨gturns, gslots, gtiles, gmem, gplans⟩ := marked_stands (noted s i p) (sofTurn p) s.now false
      refine ⟨_, hexec, ?_, ?_, ?_, ?_, gmem.trans hmem, gslots.trans hslots, gtiles.trans htiles, fun h => ?_⟩
      · rw [gturns]; rfl
      · rw [gturns]; rfl
      · rw [gturns]; rfl
      · rw [gturns]; rfl
      · obtain ⟨grun, gwaiting, -⟩ := gplans h
        rw [hhalf] at grun gwaiting
        exact ⟨grun, gwaiting⟩
    · have honly := hwaits hstalled hp hA hB rA rB cA cB
      rw [takeMark_skips (by rw [hturns]; exact hs) (by rw [hturns]; exact hl) (by rw [hturns]; exact hn) (by rw [hturns]; exact ht)] at hexec
      obtain ⟨gcur, glast, gtime, gskipped, gslots, gtiles, gplans, ⟨gseq, gholds⟩, gbytes⟩ :=
        acceptMark_skips (sofTurn p) s.now honly (noted_ready i p hready) (by rw [hturns]; exact hl)
      have hplace : eventOff (noted s i p) .A = eventOff s .A := by cases i <;> rfl
      have haddr : winAddr (noted s i p) (eventOff s .A) = winAddr s (eventOff s .A) := by cases i <;> rfl
      have hA' : (noted s i p).halfA = s.halfA := hhalf .A
      rw [hturns] at gskipped gplans gholds
      rw [hplace, haddr, hmem] at gbytes
      rw [hplace, hA'] at gholds
      rw [hhalf] at gseq
      refine ⟨_, hexec, gcur, glast, gtime, gskipped, gslots.trans hslots, gtiles.trans htiles, fun h => ?_, ⟨gseq, gholds⟩, gbytes⟩
      obtain ⟨grun, gwaiting, gless⟩ := gplans h
      rw [hhalf] at grun gwaiting gless
      exact ⟨grun, gwaiting, gless⟩
  · have hct : ctRuns s = true := by
      simp only [mayStall, Bool.and_eq_true] at hstall
      exact hstall.1.2
    have hcalm := elapse_calm (s.turns.stallAt - s.now) hct
    obtain ⟨gturns, gslots, gtiles, gplans⟩ := stallNow_stands (elapseTo s s.turns.stallAt)
    refine ⟨_, exec_next rfl (if_pos hstall), gturns.trans ?_, gslots.trans hcalm.slots, gtiles.trans hcalm.tiles, fun h => ?_⟩
    · rw [show (elapseTo s s.turns.stallAt).turns = s.turns from hcalm.turns]
    · exact ⟨(gplans h).1.trans (hcalm.run h), (gplans h).2.trans (hcalm.waiting h)⟩

end Sys2Proof.Machine
end

section
/-! SUPPORT. Bulletins, EVENTS_LOST and retired mask sets, as they stand in the window. -/

namespace Sys2Proof.Machine

theorem writeBulletin_frame (s : State) (h : Half) (b : Bulletin) : EventFrame s (writeBulletin s h b) := by
  unfold writeBulletin
  extract_lets off s1 s2
  have h1 : EventFrame s s1 := by constructor <;> rfl
  exact (h1.trans (putSlotWords_frame ..)).trans (publishNotice_frame ..)

/-- R329: a bulletin written stands in its slot, and no other byte of memory changes. -/
theorem writeBulletin_stands {s : State} {h : Half} {b : Bulletin}
    (ha : alive s (winAddr s (bullOff s h b.seq)) (64 + (b.recs.flatMap (·.2)).length)) :
    BulletinStands (writeBulletin s h b) (bullOff s h b.seq) b.seq s.turns.cur b.recs b.poison
      ∧ ∀ y, bytesApart y 1 (winAddr s (bullOff s h b.seq)) (64 + (b.recs.flatMap (·.2)).length) →
        memByte (writeBulletin s h b).mem y = memByte s.mem y := by
  unfold writeBulletin
  extract_lets off s1 s2
  have hplace : winAddr s (off + 64) = winAddr s off + 64 := (Nat.add_assoc ..).symm
  have hmem : (publishNotice s2 (.mask h) b.seq).mem = s2.mem := publishNotice_mem ..
  have hbase : (publishNotice s2 (.mask h) b.seq).win.base = s2.win.base := by rw [(publishNotice_frame s2 (.mask h) b.seq).win]
  have haddr : winAddr (publishNotice s2 (.mask h) b.seq) off = winAddr s off := by
    unfold winAddr
    rw [hbase]
    rfl
  have hholds := putSlotWords_holds (s := s1) (off := off)
    (ws := [mk64 (put b.recs.length 32 16), mk64 (put b.seq.toNat 32 32 + put s.turns.cur.toNat 0 32), b.poison.getD 0, 0, 0, 0, 0])
    (if b.poison.isSome then 3 else 1) (fun j hj => ha j (by omega)) (Nat.le_refl 7)
  refine ⟨⟨(hholds.mem hmem hbase).words (forall_lt_seven rfl rfl rfl rfl rfl rfl rfl), fun j x hx => ?_⟩, fun y hy => ?_⟩
  · obtain ⟨hj, hget⟩ := List.getElem?_eq_some_iff.mp hx
    have hdead : memDead s.mem (winAddr s off + 64 + j) = false := by
      rw [Nat.add_assoc]
      exact ha _ (by omega)
    rw [hmem, haddr]
    refine (memByte_putSlotWords (s := s1) (.inr ?_)).trans ?_
    · show winAddr s off + 64 ≤ _
      omega
    · show memByte (memWrite s.mem (winAddr s (off + 64)) (b.recs.flatMap (·.2))) _ = _
      rw [hplace, memByte_memWrite_same _ _ _ _ hj hdead, hget]
  · change bytesApart y 1 (winAddr s off) _ at hy
    have hslot : bytesApart y 1 (winAddr s1 off) 64 := by
      show bytesApart y 1 (winAddr s off) 64
      unfold bytesApart at hy ⊢
      omega
    rw [hmem]
    refine (memByte_putSlotWords hslot).trans (memByte_memWrite_other _ _ _ _ ?_)
    rw [hplace]
    unfold bytesApart at hy
    omega

/-- What the waiting bulletins of a half change: memory, events and notices, and which bulletins wait. -/
structure Drained (s s' : State) : Prop where
  slots : s'.slots = s.slots
  tiles : s'.tiles = s.tiles
  openRecs : ∀ k, (half s' k).bullOpen = (half s k).bullOpen
  seq : ∀ k, (half s' k).bullSeq = (half s k).bullSeq

theorem EventFrame.drained {s s' : State} (h : EventFrame s s') : Drained s s' :=
  ⟨h.slots, h.tiles, h.half_same fun _ _ _ => rfl, h.half_same fun _ _ _ => rfl⟩

theorem Drained.trans {a b c : State} (h : Drained a b) (k : Drained b c) : Drained a c :=
  ⟨k.slots.trans h.slots, k.tiles.trans h.tiles, fun x => (k.openRecs x).trans (h.openRecs x), fun x => (k.seq x).trans (h.seq x)⟩

theorem bullWait_drained (s : State) (h : Half) (l : List Bulletin) :
    Drained s (modHalf s h fun x => { x with bullWait := l }) ∧ (half (modHalf s h fun x => { x with bullWait := l }) h).bullWait = l :=
  ⟨⟨modHalf_slots .., modHalf_tiles .., half_modHalf_eq (g := HalfState.bullOpen) rfl, half_modHalf_eq (g := HalfState.bullSeq) rfl⟩,
    by rw [half_modHalf_same]⟩

/-- R331: bulletins are written from the first as far as their slots allow. -/
theorem drainBulletins_drained (bs : List Bulletin) (s : State) (h : Half) :
    Drained s (drainBulletins bs s h) ∧ ∃ k, (half (drainBulletins bs s h) h).bullWait = bs.drop k := by
  induction bs generalizing s with
  | nil =>
    obtain ⟨hd, hw⟩ := bullWait_drained s h []
    exact ⟨hd, 0, hw⟩
  | cons b bs ih =>
    unfold drainBulletins
    split
    · obtain ⟨hd, k, hk⟩ := ih (writeBulletin s h b)
      exact ⟨(writeBulletin_frame s h b).drained.trans hd, k + 1, hk⟩
    · obtain ⟨hd, hw⟩ := bullWait_drained s h (b :: bs)
      exact ⟨hd, 0, hw⟩

theorem drainBulletins_one {s : State} {h : Half} {b : Bulletin} (hw : windowOpen s = true) (ho : ownedByBlock s (bullOff s h b.seq) = true) :
    drainBulletins [b] s h = modHalf (writeBulletin s h b) h fun x => { x with bullWait := [] } := if_pos ⟨hw, ho⟩

theorem drainBulletins_stuck {s : State} {h : Half} {b : Bulletin} (bs : List Bulletin) (ho : ownedByBlock s (bullOff s h b.seq) = false) :
    drainBulletins (b :: bs) s h = modHalf s h fun x => { x with bullWait := b :: bs } := if_neg fun c => by rw [ho] at c; exact nomatch c.2

theorem modHalf_self {s : State} {h : Half} {f : HalfState → HalfState} (hf : f (half s h) = half s h) : modHalf s h f = s := by
  unfold modHalf
  rw [hf]
  cases h <;> rfl

theorem ownedByBlock_modHalf (s : State) (h : Half) (f : HalfState → HalfState) (off : Nat) :
    ownedByBlock (modHalf s h f) off = ownedByBlock s off := by
  unfold ownedByBlock owner winWord winAddr
  rw [modHalf_mem, modHalf_win]

theorem bullOff_modHalf (s : State) (h k : Half) (f : HalfState → HalfState) (q : W32) : bullOff (modHalf s h f) k q = bullOff s k q := by
  unfold bullOff bullRing dirWord
  rw [modHalf_win]

/-- R331: a bulletin that closes takes the next sequence number. -/
theorem closeBulletin_closes (s : State) (h : Half) (recs : List (Nat × List PByte)) (pz : Option W64) :
    (half (closeBulletin s h recs pz) h).bullOpen = (half s h).bullOpen ∧ (half (closeBulletin s h recs pz) h).bullSeq = (half s h).bullSeq + 1 := by
  unfold closeBulletin
  extract_lets b was s1 s2
  obtain ⟨hd, -⟩ := drainBulletins_drained (was ++ [b]) s1 h
  have h2 : (half s2 h).bullOpen = (half s h).bullOpen ∧ (half s2 h).bullSeq = (half s h).bullSeq + 1 := by
    rw [hd.openRecs, hd.seq, half_modHalf_same]
    exact ⟨rfl, rfl⟩
  have hsent (x : W64) : (half (sendHalfEvent s2 h 0x0307 x) h).bullOpen = (half s2 h).bullOpen
      ∧ (half (sendHalfEvent s2 h 0x0307 x) h).bullSeq = (half s2 h).bullSeq :=
    have hframe := (sendHalfEvent_frame s2 h 0x0307 x).drained
    ⟨hframe.openRecs h, hframe.seq h⟩
  split
  · exact h2
  · split
    · rw [(hsent _).1, (hsent _).2]
      exact h2
    · exact h2

/-- R331: a bulletin closed while none waits, its slot the block's. -/
theorem closeBulletin_owned {s : State} {h : Half} {recs : List (Nat × List PByte)} {pz : Option W64} (hw : windowOpen s = true)
    (hb : (half s h).bullWait = []) (ho : ownedByBlock s (bullOff s h (half s h).bullSeq) = true) :
    closeBulletin s h recs pz = modHalf (writeBulletin (modHalf s h fun x => { x with bullSeq := x.bullSeq + 1 }) h
      { seq := (half s h).bullSeq, recs := recs, poison := pz }) h fun x => { x with bullWait := [] } := by
  have hopen : windowOpen (modHalf s h fun x => { x with bullSeq := x.bullSeq + 1 }) = true := by cases h <;> exact hw
  have hown : ownedByBlock (modHalf s h fun x => { x with bullSeq := x.bullSeq + 1 })
      (bullOff (modHalf s h fun x => { x with bullSeq := x.bullSeq + 1 }) h (half s h).bullSeq) = true := by
    rw [ownedByBlock_modHalf, bullOff_modHalf]
    exact ho
  unfold closeBulletin
  dsimp only
  rw [hb, List.nil_append, drainBulletins_one (b := { seq := (half s h).bullSeq, recs := recs, poison := pz }) hopen hown, half_modHalf_same]

/-- R331: a bulletin closed while none waits, its slot not the block's, waits. -/
theorem closeBulletin_waits {s : State} {h : Half} {recs : List (Nat × List PByte)} {pz : Option W64}
    (hb : (half s h).bullWait = []) (ho : ownedByBlock s (bullOff s h (half s h).bullSeq) = false) :
    (half (closeBulletin s h recs pz) h).bullWait = [{ seq := (half s h).bullSeq, recs := recs, poison := pz }] := by
  have hown : ownedByBlock (modHalf s h fun x => { x with bullSeq := x.bullSeq + 1 })
      (bullOff (modHalf s h fun x => { x with bullSeq := x.bullSeq + 1 }) h (half s h).bullSeq) = false := by
    rw [ownedByBlock_modHalf, bullOff_modHalf]
    exact ho
  unfold closeBulletin
  dsimp only
  rw [hb, List.nil_append, drainBulletins_stuck (b := { seq := (half s h).bullSeq, recs := recs, poison := pz }) [] hown, half_modHalf_same]
  dsimp only
  rw [if_pos (by rfl), (sendHalfEvent_frame ..).half_same (g := HalfState.bullWait) (fun _ _ _ => rfl), half_modHalf_same]

/-- A field of the halves that no event changes stands while time passes and the CT clocks run. -/
theorem elapse_half {α : Type} {g : HalfState → α} {s : State} (n : Nat) (hc : ctRuns s = true)
    (hg : ∀ (x : HalfState) a b, g { x with eseq := a, evDropped := b } = g x) (k : Half) : g (half (elapse s n) k) = g (half s k) := by
  have hlater : g (half (laterState s n) k) = g (half s k) := by
    unfold laterState
    rw [if_pos hc, if_pos hc, if_pos hc]
    cases k <;> rfl
  have hleave (x : State) : g (half (leaveBoxcars x) k) = g (half x k) := by
    unfold leaveBoxcars chosenNow modeRelock latchVf
    split
    · split <;> (cases k <;> rfl)
    · rfl
  have hsettle (x : State) : g (half (settlePower x) k) = g (half x k) := by
    unfold settlePower
    dsimp only
    split
    · rw [(sendBlockEvent_frame ..).half_same hg, hleave]
      cases k <;> rfl
    · split
      · rw [(sendBlockEvent_frame ..).half_same hg, hleave]
      · split
        · cases k <;> rfl
        · rfl
  rw [elapse_eq, hsettle]
  split
  · exact hlater
  · exact Eq.trans (by cases k <;> rfl) hlater

/-- R308: with no Boxcars, a time that passes while the CT clocks run moves the clock, the modes and what is measured. -/
theorem elapse_plain {s : State} (n : Nat) (hc : ctRuns s = true) (hb : s.modes.boxing = false) :
    ∃ t m p, elapse s n = { s with now := t, modes := m, power := p } ∧ p.clk = s.power.clk := by
  have hmodes : (if clocksRun s then account s.modes n else s.modes).boxing = false := by
    split
    · rw [account, hb, if_neg Bool.false_ne_true]
    · exact hb
  have hsettle (x : State) (hx : x.modes.boxing = false) : ∃ m, settlePower x = { x with modes := m } := by
    unfold settlePower
    dsimp only
    rw [if_neg (by rw [hx]; simp), if_neg (by rw [hx]; simp)]
    split
    · exact ⟨_, rfl⟩
    · exact ⟨x.modes, rfl⟩
  have hlater : laterState s n = { s with now := s.now + n, modes := if clocksRun s then account s.modes n else s.modes } := by
    unfold laterState
    rw [if_pos hc, if_pos hc, if_pos hc]
  rw [elapse_eq, hlater]
  split
  · obtain ⟨m, hm⟩ := hsettle { s with now := s.now + n, modes := if clocksRun s then account s.modes n else s.modes } hmodes
    exact ⟨s.now + n, m, s.power, hm, rfl⟩
  · obtain ⟨m, hm⟩ := hsettle (measure { s with now := s.now + n, modes := if clocksRun s then account s.modes n else s.modes }) hmodes
    exact ⟨s.now + n, m, (measure { s with now := s.now + n, modes := if clocksRun s then account s.modes n else s.modes }).power, hm, rfl⟩

theorem closeOpen_closes {s : State} {h : Half} (hne : (half s h).bullOpen ≠ []) :
    closeOpen s h = closeBulletin (modHalf s h fun x => { x with bullOpen := [] }) h (half s h).bullOpen none :=
  if_neg (by rwa [List.isEmpty_iff])

/-- R329: the open bulletin, closed. -/
theorem closeOpen_empties {s : State} {h : Half} (hne : (half s h).bullOpen ≠ []) :
    (half (closeOpen s h) h).bullOpen = [] ∧ (half (closeOpen s h) h).bullSeq = (half s h).bullSeq + 1 := by
  obtain ⟨hopen, hseq⟩ := closeBulletin_closes (modHalf s h fun x => { x with bullOpen := [] }) h (half s h).bullOpen none
  rw [closeOpen_closes hne, hopen, hseq, half_modHalf_same]
  exact ⟨rfl, rfl⟩

theorem windowOpen_modHalf (s : State) (h : Half) (f : HalfState → HalfState) : windowOpen (modHalf s h f) = windowOpen s := by
  cases h <;> rfl

theorem BulletinStands.mem {s s' : State} {off : Nat} {q t : W32} {recs : List (Nat × List PByte)} {pz : Option W64}
    (h : BulletinStands s off q t recs pz) (hm : s'.mem = s.mem) (hw : s'.win.base = s.win.base) : BulletinStands s' off q t recs pz := by
  obtain ⟨hholds, hbytes⟩ := h
  refine ⟨hholds.mem hm hw, ?_⟩
  unfold winAddr
  rw [hm, hw]
  exact hbytes

/-- R331: a bulletin closed while none waits stands in its slot, the block's. -/
theorem closeBulletin_stands {s : State} {h : Half} {recs : List (Nat × List PByte)} {pz : Option W64} (hw : windowOpen s = true)
    (hb : (half s h).bullWait = []) (ho : ownedByBlock s (bullOff s h (half s h).bullSeq) = true)
    (ha : alive s (winAddr s (bullOff s h (half s h).bullSeq)) (64 + (recs.flatMap (·.2)).length)) :
    let s' := closeBulletin s h recs pz
    (half s' h).bullWait = [] ∧ BulletinStands s' (bullOff s h (half s h).bullSeq) (half s h).bullSeq s.turns.cur recs pz
      ∧ ∀ y, bytesApart y 1 (winAddr s (bullOff s h (half s h).bullSeq)) (64 + (recs.flatMap (·.2)).length) →
        memByte s'.mem y = memByte s.mem y := by
  have hbase : winAddr (modHalf s h fun x => { x with bullSeq := x.bullSeq + 1 }) = winAddr s := by
    unfold winAddr
    rw [modHalf_win]
  have hstands := writeBulletin_stands (s := modHalf s h fun x => { x with bullSeq := x.bullSeq + 1 }) (h := h)
    (b := { seq := (half s h).bullSeq, recs := recs, poison := pz })
  rw [bullOff_modHalf, hbase, modHalf_turns, modHalf_mem] at hstands
  obtain ⟨hholds, hbytes⟩ := hstands fun j hj => by rw [modHalf_mem]; exact ha j hj
  rw [closeBulletin_owned hw hb ho]
  refine ⟨by rw [half_modHalf_same], hholds.mem (modHalf_mem ..) (by rw [modHalf_win]), fun y hy => ?_⟩
  rw [modHalf_mem]
  exact hbytes y hy

/-- R329: the open bulletin, while none waits: written as it closes, or waiting for its slot. -/
theorem closeOpen_stands {s : State} {h : Half} (hw : windowOpen s = true) (hne : (half s h).bullOpen ≠ []) (hb : (half s h).bullWait = []) :
    let q := (half s h).bullSeq
    let recs := (half s h).bullOpen
    let s' := closeOpen s h
    (ownedByBlock s (bullOff s h q) = true → alive s (winAddr s (bullOff s h q)) (64 + (recs.flatMap (·.2)).length) →
      (half s' h).bullWait = [] ∧ BulletinStands s' (bullOff s h q) q s.turns.cur recs none
        ∧ ∀ y, bytesApart y 1 (winAddr s (bullOff s h q)) (64 + (recs.flatMap (·.2)).length) → memByte s'.mem y = memByte s.mem y)
    ∧ (ownedByBlock s (bullOff s h q) = false → (half s' h).bullWait = [{ seq := q, recs := recs, poison := none }]) := by
  have hbase : winAddr (modHalf s h fun x => { x with bullOpen := [] }) = winAddr s := by
    unfold winAddr
    rw [modHalf_win]
  have hhalf : half (modHalf s h fun x => { x with bullOpen := [] }) h = { half s h with bullOpen := [] } := half_modHalf_same ..
  have hb' : (half (modHalf s h fun x => { x with bullOpen := [] }) h).bullWait = [] := by
    rw [hhalf]
    exact hb
  have hstands := closeBulletin_stands (recs := (half s h).bullOpen) (pz := none) ((windowOpen_modHalf s h _).trans hw) hb'
  have hwaits := closeBulletin_waits (recs := (half s h).bullOpen) (pz := none) hb'
  rw [ownedByBlock_modHalf, bullOff_modHalf, hhalf] at hstands hwaits
  rw [hbase, modHalf_turns, modHalf_mem] at hstands
  dsimp only
  rw [closeOpen_closes hne]
  exact ⟨fun ho ha => hstands ho fun j hj => by rw [modHalf_mem]; exact ha j hj, hwaits⟩

theorem winAddr_of_win {s s' : State} (h : s'.win = s.win) : winAddr s' = winAddr s := by
  unfold winAddr
  rw [h]

theorem bullOff_of_win {s s' : State} (h : s'.win = s.win) : bullOff s' = bullOff s := by
  unfold bullOff bullRing dirWord
  rw [h]

theorem ownedByBlock_of_win {s s' : State} (hm : s'.mem = s.mem) (h : s'.win = s.win) : ownedByBlock s' = ownedByBlock s := by
  unfold ownedByBlock owner winWord winAddr
  rw [hm, h]

/-- R333: an event with no drop to tell of writes its ring's next entry, if anything. -/
theorem sendEvent_memByte {s : State} {e : Ev} {y : Nat} (hd : (half s e.half).evDropped = 0)
    (hy : bytesApart y 1 (winAddr s (eventOff s e.half)) 64) : memByte (sendEvent s e).mem y = memByte s.mem y := by
  unfold sendEvent
  split
  · rfl
  · split
    · rfl
    · split
      · rfl
      · dsimp only
        rw [flushLost_none hd]
        split
        · exact writeEvent_memByte hy
        · unfold dropEvent
          rw [modHalf_mem]

/-- R454: the retirement of a mask set frees its image, and changes no memory but its entry's and an event's. -/
theorem retireMset_stands (s : State) (n : Nat) (i : Image) :
    imageOf (retireMset s n i) n = none ∧ (∀ j, j ≠ n → imageOf (retireMset s n i) j = imageOf s j)
      ∧ (retireMset s n i).win.base = s.win.base
      ∧ (s.halfA.evDropped = 0 → ∀ y, bytesApart y 1 (winAddr s (eventOff s .A)) 64 →
        memByte (retireMset s n i).mem y = memByte (memPutWords s.mem (winAddr s (msetEntry s i.msEntry)) (List.replicate 7 0)) y) := by
  have hframe := sendBlockEvent_frame (setImage (winPut s (msetEntry s i.msEntry) (List.replicate 7 0)) n none) 0x0304 (msetExtra i)
  have himage (j : Nat) : imageOf (retireMset s n i) j = imageOf (setImage (winPut s (msetEntry s i.msEntry) (List.replicate 7 0)) n none) j := by
    unfold imageOf
    rw [← hframe.images]
    rfl
  refine ⟨(himage n).trans (imageOf_setImage_same ..), fun j hj => (himage j).trans (imageOf_setImage_other _ _ _ _ hj), ?_, fun hd y hy => ?_⟩
  · exact congrArg (·.base) hframe.win
  · exact sendEvent_memByte (s := setImage (winPut s (msetEntry s i.msEntry) (List.replicate 7 0)) n none)
      (e := { half := .A, code := 0x0304, slot := none, extra := msetExtra i }) hd hy

/-- R332: the table entry of a retired mask set, no event beside it. -/
theorem retireMset_entry {s : State} (n : Nat) {i : Image} (ho : ownedByBlock s (msetEntry s i.msEntry) = true)
    (ha : alive s (winAddr s (msetEntry s i.msEntry)) 64) (hd : s.halfA.evDropped = 0)
    (happart : bytesApart (winAddr s (msetEntry s i.msEntry)) 64 (winAddr s (eventOff s .A)) 64) :
    owner (retireMset s n i) (msetEntry s i.msEntry) = 2 ∧ ∀ j, j < 7 → winWord (retireMset s n i) (msetEntry s i.msEntry + 8 * j) = 0 := by
  obtain ⟨-, -, hbase, hbytes⟩ := retireMset_stands s n i
  have hword (k : Nat) (hk : k < 8) : winWord (retireMset s n i) (msetEntry s i.msEntry + 8 * k)
      = memWord (memPutWords s.mem (winAddr s (msetEntry s i.msEntry)) (List.replicate 7 0)) (winAddr s (msetEntry s i.msEntry) + 8 * k) := by
    have haddr : winAddr (retireMset s n i) (msetEntry s i.msEntry + 8 * k) = winAddr s (msetEntry s i.msEntry) + 8 * k := by
      unfold winAddr
      rw [hbase]
      omega
    unfold winWord
    rw [haddr]
    refine memWord_congr fun j hj => hbytes hd _ ?_
    unfold bytesApart at happart ⊢
    omega
  refine ⟨?_, fun j hj => (hword j (by omega)).trans (memWord_memPutWords_same ?_ fun x hx => ?_)⟩
  · have hsame : winWord (retireMset s n i) (msetEntry s i.msEntry + 56) = winWord s (msetEntry s i.msEntry + 56) := by
      refine (hword 7 (by omega)).trans (memWord_memPutWords_other (.inr (Nat.le_refl _)) |>.trans ?_)
      unfold winWord winAddr
      rw [List.length_replicate, ← Nat.add_assoc]
    unfold owner
    rw [hsame]
    simpa [ownedByBlock, owner] using ho
  · rw [List.getElem?_replicate, if_pos hj]
  · rw [Nat.add_assoc]
    exact ha _ (by omega)

/-- Settles O38, by what returns or comes due. -/
theorem windowReturnsAct : Obligations.WindowReturnsAct := by
  intro s hw
  have hct : ctRuns s = true := (windowOpen_iff.mp hw).2.2.2
  refine ⟨fun h hne => ?_, fun h hnone => exec_next rfl ?_, fun h b bs hwait => ⟨fun ho => ?_, fun ho => exec_next rfl ?_⟩, fun h hd hroom => ?_,
    fun h hno => exec_next rfl ?_, fun e hno => exec_next rfl ?_, fun e p ho hp => ?_⟩
  · have hkept {α : Type} {g : HalfState → α} (hg : ∀ (x : HalfState) a b, g { x with eseq := a, evDropped := b } = g x) :
        g (half (elapseTo s ((half s h).bullSince + 2)) h) = g (half s h) := elapse_half _ hct hg h
    have hexec : exec (.bulletinTimeout h) s = .next (closeOpen (elapseTo s ((half s h).bullSince + 2)) h) :=
      exec_next rfl (if_pos ⟨hw, by simpa using hne⟩)
    have hopen := hkept (g := HalfState.bullOpen) fun _ _ _ => rfl
    have hseq := hkept (g := HalfState.bullSeq) fun _ _ _ => rfl
    have hwaiting := hkept (g := HalfState.bullWait) fun _ _ _ => rfl
    obtain ⟨gopen, gseq⟩ := closeOpen_empties (s := elapseTo s ((half s h).bullSince + 2)) (h := h) (by rw [hopen]; exact hne)
    refine ⟨_, hexec, gopen, by rw [gseq, hseq], fun hb hbox => ?_⟩
    obtain ⟨t, m, p, hplain, hclk⟩ := elapse_plain ((half s h).bullSince + 2 - s.now) hct hbox
    have hw' : windowOpen (elapseTo s ((half s h).bullSince + 2)) = true := by
      rw [elapseTo, hplain, ← hw]
      unfold windowOpen ctRuns refRuns
      dsimp only
      rw [hclk]
    have hstands := closeOpen_stands hw' (by rw [hopen]; exact hne) (hwaiting.trans hb)
    dsimp only at hstands
    rw [hopen, hseq] at hstands
    have hmem : (elapseTo s ((half s h).bullSince + 2)).mem = s.mem ∧ (elapseTo s ((half s h).bullSince + 2)).win = s.win
        ∧ (elapseTo s ((half s h).bullSince + 2)).turns = s.turns := by
      rw [elapseTo, hplain]
      exact ⟨rfl, rfl, rfl⟩
    obtain ⟨zmem, zwin, zturns⟩ := hmem
    unfold alive at hstands
    rw [bullOff_of_win zwin, winAddr_of_win zwin, ownedByBlock_of_win zmem zwin, zmem, zturns] at hstands
    exact hstands
  · exact if_neg fun c => by simp [hnone] at c
  · obtain ⟨hd, k, hk⟩ := drainBulletins_drained bs (writeBulletin s h b) h
    have hdrain : bulletinReturned s h = drainBulletins bs (writeBulletin s h b) h := by
      refine (if_pos hw).trans ?_
      rw [hwait]
      exact if_pos ⟨hw, ho⟩
    have hframe := (writeBulletin_frame s h b).drained.trans hd
    refine ⟨_, k, exec_next rfl hdrain, hk, hframe.slots, hframe.tiles, fun hnil ha => ?_⟩
    obtain ⟨hholds, hbytes⟩ := writeBulletin_stands ha
    rw [hnil]
    unfold drainBulletins
    refine ⟨hholds.mem (modHalf_mem ..) (by rw [modHalf_win]), fun y hy => ?_⟩
    rw [modHalf_mem]
    exact hbytes y hy
  · refine (if_pos hw).trans ?_
    rw [hwait, drainBulletins_stuck bs ho]
    exact modHalf_self (by rw [← hwait])
  · have hflush : flushLost s h
        = modHalf (writeEvent s h { half := h, code := 0x0301, slot := none, extra := mk64 (half s h).evDropped }) h fun x => { x with evDropped := 0 } :=
      if_neg (fun c => c.elim hd fun c => Bool.false_ne_true (c.symm.trans hroom))
    have hframe := writeEvent_frame s h { half := h, code := 0x0301, slot := none, extra := mk64 (half s h).evDropped }
    refine ⟨_, exec_next rfl ((if_pos hw).trans hflush), ?_, ?_, ?_, ?_, fun ha => ?_, fun y hy => ?_⟩
    · rw [half_modHalf_same]
    · rw [half_modHalf_same]
      exact writeEvent_eseq ..
    · rw [modHalf_slots]
      exact hframe.slots
    · rw [modHalf_tiles]
      exact hframe.tiles
    · obtain ⟨hseq, hholds⟩ := writeEvent_stands (e := { half := h, code := 0x0301, slot := none, extra := mk64 (half s h).evDropped }) ha rfl
      exact ⟨by rw [half_modHalf_same]; exact hseq, hholds.mem (modHalf_mem ..) (by rw [modHalf_win])⟩
    · rw [modHalf_mem]
      exact writeEvent_memByte hy
  · exact (if_pos hw).trans (if_pos hno)
  · unfold msetReturned
    by_cases ho : ownedByBlock s (msetEntry s e.toNat) = true
    · rw [if_neg (by rw [hw, ho]; decide), hno.resolve_left (by rw [ho]; decide)]
    · exact if_pos (.inr (by rw [eq_false_of_ne_true ho]; rfl))
  · have hentry : p.2.msEntry = e.toNat := by
      have := List.find?_some hp
      simp only [Bool.and_eq_true, beq_iff_eq] at this
      exact this.2
    have hexec : msetReturned s e.toNat = retireMset s p.1 p.2 := by
      unfold msetReturned
      rw [if_neg (by rw [hw, ho]; decide), hp]
    obtain ⟨hgone, hothers, -, -⟩ := retireMset_stands s p.1 p.2
    refine ⟨_, exec_next rfl hexec, hgone, hothers, fun ha hd happart => ?_⟩
    rw [← hentry] at ho ha happart ⊢
    exact retireMset_entry p.1 ho ha hd happart

end Sys2Proof.Machine
end

section
/-! SUPPORT. The error log: what an entry's steps and its chain change of it. -/

namespace Sys2Proof.Machine

/-- The first entry of a log with a given LSEQ. -/
def entryIn (log : List ErrEntry) (l : W32) : Option ErrEntry := log.find? fun e => e.lseq = l

/-- The log's entry `l` is `e`, but for its CHAIN. -/
def EntryIs (x : Errs) (l : W32) (e : ErrEntry) : Prop := ∃ c, entryIn x.log l = some { e with chain := c }

theorem entryIn_map {log : List ErrEntry} {l : W32} {f : ErrEntry → ErrEntry} (hf : ∀ g, (f g).lseq = g.lseq) :
    entryIn (log.map f) l = (entryIn log l).map f := by
  unfold entryIn
  rw [List.find?_map]
  congr 2
  funext g
  simp only [Function.comp, hf]

theorem entryIn_lseq {log : List ErrEntry} {l : W32} {e : ErrEntry} (h : entryIn log l = some e) : e.lseq = l := by
  simpa using List.find?_some h

theorem EntryIs.map {x y : Errs} {l : W32} {e : ErrEntry} {f : ErrEntry → ErrEntry} (h : EntryIs x l e) (hy : y.log = x.log.map f)
    (hl : ∀ g, (f g).lseq = g.lseq) (hf : ∀ g, ∃ k, f g = { g with chain := k }) : EntryIs y l e := by
  obtain ⟨c, hc⟩ := h
  obtain ⟨k, hk⟩ := hf { e with chain := c }
  exact ⟨k, by rw [hy, entryIn_map hl, hc, Option.map_some, hk]⟩

/-- R431, R432: the chain carried on changes the CHAIN of entries, and nothing else of them. -/
theorem chainLog_entry {n : Nat} {x : Errs} {l : W32} {e : ErrEntry} (h : EntryIs x l e) : EntryIs (chainLog n x) l e := by
  induction n generalizing x with
  | zero => exact h
  | succ n ih =>
    unfold chainLog
    split
    · split
      · exact h
      · exact ih h
    · split
      · exact ih (h.map rfl (fun g => by split <;> rfl) fun g => by
          split
          · exact ⟨_, rfl⟩
          · exact ⟨g.chain, rfl⟩)
      · exact h

theorem chainLog_stands (n : Nat) (x : Errs) : ∃ g c k, chainLog n x = { x with log := g, chained := c, lastChain := k } := by
  induction n generalizing x with
  | zero => exact ⟨x.log, x.chained, x.lastChain, rfl⟩
  | succ n ih =>
    unfold chainLog
    split
    · split
      · exact ⟨x.log, x.chained, x.lastChain, rfl⟩
      · obtain ⟨g, c, k, h⟩ := ih { x with chained := x.chained + 1 }
        exact ⟨g, c, k, h⟩
    · split
      · dsimp only
        obtain ⟨g, c, k, h⟩ := ih _
        exact ⟨g, c, k, h⟩
      · exact ⟨x.log, x.chained, x.lastChain, rfl⟩

/-- R431: an entry's change leaves every other part of the error manager, but the chain. -/
theorem modEntry_stands (s : State) (l : W32) (f : ErrEntry → ErrEntry) :
    ∃ g c k, modEntry s l f = { s with errs := { s.errs with log := g, chained := c, lastChain := k } } := by
  obtain ⟨g, c, k, h⟩ := chainLog_stands (({ s.errs with log := s.errs.log.map fun e => if e.lseq = l then f e else e } : Errs).next
    - ({ s.errs with log := s.errs.log.map fun e => if e.lseq = l then f e else e } : Errs).chained).toNat.succ
    { s.errs with log := s.errs.log.map fun e => if e.lseq = l then f e else e }
  refine ⟨g, c, k, ?_⟩
  unfold modEntry chainOn
  dsimp only at h ⊢
  rw [h]

/-- A change of entries that does not look at their CHAIN, and keeps their LSEQ. -/
structure EntryChange (f : ErrEntry → ErrEntry) : Prop where
  lseq : ∀ g, (f g).lseq = g.lseq
  chain : ∀ (g : ErrEntry) c, ∃ k, f { g with chain := c } = { f g with chain := k }

theorem modEntry_entry {s : State} {l : W32} {e : ErrEntry} {f : ErrEntry → ErrEntry} (hf : EntryChange f) (h : EntryIs s.errs l e) :
    EntryIs (modEntry s l f).errs l (f e) := by
  obtain ⟨c, hc⟩ := h
  have hl : e.lseq = l := entryIn_lseq (e := { e with chain := c }) hc
  refine chainLog_entry ?_
  obtain ⟨k, hk⟩ := hf.chain e c
  refine ⟨k, (entryIn_map fun g => by split <;> simp [hf.lseq]).trans ?_⟩
  rw [hc, Option.map_some, if_pos hl, hk]

theorem modEntry_other {s : State} {l j : W32} {e : ErrEntry} {f : ErrEntry → ErrEntry} (hf : EntryChange f) (hj : j ≠ l)
    (h : EntryIs s.errs l e) : EntryIs (modEntry s j f).errs l e := by
  obtain ⟨c, hc⟩ := h
  have hl : e.lseq = l := entryIn_lseq (e := { e with chain := c }) hc
  refine chainLog_entry ⟨c, (entryIn_map fun g => by split <;> simp [hf.lseq]).trans ?_⟩
  rw [hc, Option.map_some, if_neg (by rw [hl]; exact hj.symm)]

theorem setStep_change (k : ErrStep) : EntryChange fun e => { e with step := k } := ⟨fun _ => rfl, fun _ c => ⟨c, rfl⟩⟩

theorem count_change : EntryChange fun e => { e with count := inc16 e.count } := ⟨fun _ => rfl, fun _ c => ⟨c, rfl⟩⟩

theorem failed_change : EntryChange fun e => { e with failed := inc16 e.failed } := ⟨fun _ => rfl, fun _ c => ⟨c, rfl⟩⟩

theorem setStep_entry {s : State} {l : W32} {e : ErrEntry} (k : ErrStep) (h : EntryIs s.errs l e) :
    EntryIs (setStep s l k).errs l { e with step := k } := modEntry_entry (setStep_change k) h

/-- R411, R415: nothing of the halves runs, and no request is blocked. -/
structure Still (s : State) : Prop where
  run : ∀ h, (half s h).run = none
  jobs : ∀ h, (half s h).jobs = []
  replays : ∀ h, (half s h).replayJobs = []
  masks : ∀ h, (half s h).maskJobs = []
  free : ∀ x ∈ s.slots, x.2.w.blocked = false

theorem Still.of_eq {s s' : State} (h : Still s) (hA : s'.halfA = s.halfA) (hB : s'.halfB = s.halfB) (hs : s'.slots = s.slots) : Still s' := by
  have hh (k : Half) : half s' k = half s k := by
    cases k
    · exact hA
    · exact hB
  exact ⟨fun k => by rw [hh]; exact h.run k, fun k => by rw [hh]; exact h.jobs k, fun k => by rw [hh]; exact h.replays k,
    fun k => by rw [hh]; exact h.masks k, by rw [hs]; exact h.free⟩

theorem Still.modEntry {s : State} (h : Still s) (l : W32) (f : ErrEntry → ErrEntry) : Still (modEntry s l f) := by
  obtain ⟨g, c, k, hm⟩ := modEntry_stands s l f
  rw [hm]
  exact h.of_eq rfl rfl rfl

theorem unblock_still {s : State} (h : Still s) (k : Half) : unblock s k = s := by
  have hnone : s.slots.filter (fun p => slotHalf p.1 == k && p.2.w.blocked && !s.errs.log.any fun e => !stepFinal e.step && e.half == k && e.reqs.any fun q => q.1 == p.1) = [] :=
    List.filter_eq_nil_iff.mpr fun p hp => by simp [h.free p hp]
  unfold unblock
  dsimp only
  rw [hnone]
  rfl

/-- R411 steps 4 and 6: an entry with nothing to replay closes. -/
theorem entryReplayed_closes {s : State} {l : W32} {e : ErrEntry} (hs : Still s) (hl : s.errs.handling = some l) (he : EntryIs s.errs l e)
    (hstep : e.step = .replaying) :
    ∃ x, entryReplayed s l = { s with errs := x } ∧ x.handling = none ∧ EntryIs x l { e with step := .done } := by
  obtain ⟨c, hc⟩ := he
  have hclosed : ([s.halfA, s.halfB].any fun x =>
      x.replayJobs.any (fun j => j.entry == some l) || x.jobs.any (fun j => j.entry == some l) || x.maskJobs.any fun j => j.entry == some l) = false := by
    have hA : s.halfA.replayJobs = [] ∧ s.halfA.jobs = [] ∧ s.halfA.maskJobs = [] := ⟨hs.replays .A, hs.jobs .A, hs.masks .A⟩
    have hB : s.halfB.replayJobs = [] ∧ s.halfB.jobs = [] ∧ s.halfB.maskJobs = [] := ⟨hs.replays .B, hs.jobs .B, hs.masks .B⟩
    simp [hA, hB]
  have h1 : EntryIs (modEntry s l fun g => { g with step := .published }).errs l { e with step := .published } :=
    setStep_entry .published ⟨c, hc⟩
  have h2 : EntryIs (modEntry (modEntry s l fun g => { g with step := .published }) l fun g => { g with step := .done }).errs l { e with step := .done } :=
    setStep_entry (e := { e with step := .published }) .done h1
  obtain ⟨g1, c1, k1, hm1⟩ := modEntry_stands s l fun g => { g with step := .published }
  obtain ⟨g2, c2, k2, hm2⟩ := modEntry_stands (modEntry s l fun g => { g with step := .published }) l fun g => { g with step := .done }
  have hm : modEntry (modEntry s l fun g => { g with step := .published }) l (fun g => { g with step := .done })
      = { s with errs := { s.errs with log := g2, chained := c2, lastChain := k2 } } := by
    rw [hm2, hm1]
  rw [hm] at h2
  refine ⟨{ s.errs with log := g2, chained := c2, lastChain := k2, handling := none }, ?_, rfl, h2⟩
  unfold entryReplayed
  dsimp only
  rw [show entryOf s l = _ from hc]
  dsimp only
  rw [if_neg (by rw [hclosed]; simp [hstep]), hm, if_pos hl]
  exact unblock_still (s := { s with errs := { s.errs with log := g2, chained := c2, lastChain := k2, handling := none } }) (hs.of_eq rfl rfl rfl) _

end Sys2Proof.Machine
end

section
/-! SUPPORT. What the end of a request leaves of the error manager: the log, and halves in which nothing runs. -/

namespace Sys2Proof.Machine

/-- The error log stands, and halves in which nothing runs stay so. -/
structure Undisturbed (s s' : State) : Prop where
  log : s'.errs.log = s.errs.log
  still : Still s → Still s'

theorem Undisturbed.refl (s : State) : Undisturbed s s := ⟨rfl, id⟩

theorem Undisturbed.trans {a b c : State} (h : Undisturbed a b) (k : Undisturbed b c) : Undisturbed a c :=
  ⟨k.log.trans h.log, k.still ∘ h.still⟩

theorem Undisturbed.foldl {α : Type} {f : State → α → State} (hf : ∀ s a, Undisturbed s (f s a)) (l : List α) (s : State) :
    Undisturbed s (l.foldl f s) := by
  induction l generalizing s with
  | nil => exact .refl s
  | cons a l ih => exact (hf s a).trans (ih _)

theorem Undisturbed.of_eq {s s' : State} (hl : s'.errs.log = s.errs.log) (hA : s'.halfA = s.halfA) (hB : s'.halfB = s.halfB)
    (hs : s'.slots = s.slots) : Undisturbed s s' := ⟨hl, fun h => h.of_eq hA hB hs⟩

theorem EventFrame.undisturbed {s s' : State} (h : EventFrame s s') : Undisturbed s s' := by
  refine ⟨by rw [h.errs], fun k => ⟨fun x => ?_, fun x => ?_, fun x => ?_, fun x => ?_, by rw [h.slots]; exact k.free⟩⟩
  · rw [h.half_same (g := HalfState.run) fun _ _ _ => rfl]; exact k.run x
  · rw [h.half_same (g := HalfState.jobs) fun _ _ _ => rfl]; exact k.jobs x
  · rw [h.half_same (g := HalfState.replayJobs) fun _ _ _ => rfl]; exact k.replays x
  · rw [h.half_same (g := HalfState.maskJobs) fun _ _ _ => rfl]; exact k.masks x

theorem slotOf_free {s : State} (h : ∀ x ∈ s.slots, x.2.w.blocked = false) (n : Nat) : (slotOf s n).w.blocked = false := by
  have hget (m : SMap Slot) (hm : ∀ x ∈ m, x.2.w.blocked = false) : (smGet Slot.free m n).w.blocked = false := by
    induction m with
    | nil => rfl
    | cons p m ih =>
      obtain ⟨hp, hm⟩ := List.forall_mem_cons.mp hm
      unfold smGet
      split
      · exact hp
      · exact ih hm
  exact hget _ h

theorem mem_smErase {α : Type} {m : SMap α} {k : Nat} {p : Nat × α} (h : p ∈ smErase m k) : p ∈ m := by
  induction m with
  | nil => exact h
  | cons q m ih =>
    unfold smErase at h
    split at h
    · exact List.mem_cons_of_mem _ (ih h)
    · rcases List.mem_cons.mp h with h | h
      · exact List.mem_cons.mpr (.inl h)
      · exact List.mem_cons_of_mem _ (ih h)

/-- A change of one slot that blocks nothing. -/
theorem Still.modSlot {s : State} (h : Still s) {n : Nat} {f : Slot → Slot} (hf : (f (slotOf s n)).w.blocked = false) : Still (modSlot s n f) := by
  refine ⟨forall_half (h.run .A) (h.run .B), forall_half (h.jobs .A) (h.jobs .B),
    forall_half (h.replays .A) (h.replays .B), forall_half (h.masks .A) (h.masks .B), fun x hx => ?_⟩
  change x ∈ smSet Slot.free s.slots n (f (slotOf s n)) at hx
  unfold smSet at hx
  split at hx
  · exact h.free x (mem_smErase hx)
  · rcases smInsert_mem _ _ _ _ hx with hx | hx
    · rw [hx]
      exact hf
    · exact h.free x hx

theorem modSlot_undisturbed {s : State} {n : Nat} {f : Slot → Slot} (hf : ∀ x, (f x).w.blocked = x.w.blocked) : Undisturbed s (modSlot s n f) :=
  ⟨rfl, fun h => h.modSlot (by rw [hf]; exact slotOf_free h.free n)⟩

theorem modHalf_undisturbed {s : State} {h : Half} {f : HalfState → HalfState} (hr : ∀ x, x.run = none → (f x).run = none)
    (hj : ∀ x, x.jobs = [] → (f x).jobs = []) (hp : ∀ x, x.replayJobs = [] → (f x).replayJobs = []) (hm : ∀ x, x.maskJobs = [] → (f x).maskJobs = []) :
    Undisturbed s (modHalf s h f) := by
  have hcase {P : HalfState → Prop} (hP : ∀ x, P x → P (f x)) (hs : ∀ k, P (half s k)) (k : Half) : P (half (modHalf s h f) k) := by
    by_cases hk : k = h
    · rw [hk, half_modHalf_same]
      exact hP _ (hs h)
    · rw [half_modHalf_other _ _ _ _ hk]
      exact hs k
  exact ⟨by rw [modHalf_errs], fun k => ⟨hcase (P := fun x => x.run = none) hr k.run, hcase (P := fun x => x.jobs = []) hj k.jobs,
    hcase (P := fun x => x.replayJobs = []) hp k.replays, hcase (P := fun x => x.maskJobs = []) hm k.masks, by rw [modHalf_slots]; exact k.free⟩⟩

theorem setSlotPage_undisturbed (s : State) (n i k : Nat) : Undisturbed s (setSlotPage s n i k) := by
  unfold setSlotPage
  split
  · exact modSlot_undisturbed fun _ => rfl
  · exact .of_eq rfl rfl rfl rfl

theorem releaseAll_undisturbed (s : State) (n m : Nat) : Undisturbed s (releaseAll s n m) := by
  have hfrom : Undisturbed s (releaseFrom s n 0 m) := by
    unfold releaseFrom
    extract_lets ks s1
    have h1 : Undisturbed s s1 := .foldl (fun s j => setSlotPage_undisturbed s n j 0) _ s
    exact h1.trans (modSlot_undisturbed fun _ => rfl)
  unfold releaseAll
  extract_lets s1
  exact hfrom.trans (modSlot_undisturbed fun _ => rfl)

theorem dropRows_undisturbed (s : State) (n : Nat) : Undisturbed s (dropRows s n) :=
  modHalf_undisturbed (fun x h => by dsimp only; rw [h]; rfl) (fun x h => by dsimp only; rw [h]; rfl) (fun x h => by dsimp only; rw [h]; rfl)
    fun x h => by dsimp only; rw [h]; rfl

theorem answerSlot_undisturbed (s : State) (m : Msg) (st p : Nat) : Undisturbed s (answerSlot s m st p) := by
  obtain ⟨mem, replies, h⟩ := answer_stands s m st p (msgSlot m) (msgSgen m)
  rw [answerSlot, h]
  exact .of_eq rfl rfl rfl rfl

theorem endHeld_undisturbed (l : List Msg) (s : State) : Undisturbed s (endHeld l s) := by
  induction l generalizing s with
  | nil => exact .refl s
  | cons m l ih => exact (answerSlot_undisturbed ..).trans (ih _)

theorem endSlot_undisturbed (s : State) (n : Nat) (st : SlotSt) (t : Option VRec) : Undisturbed s (endSlot s n st t) := by
  unfold endSlot
  extract_lets +onlyGivenNames held m pages s1 s2
  have hmasks : Undisturbed (dropRows s n) (modHalf (dropRows s n) (slotHalf n) fun x => dropMasks x n) :=
    modHalf_undisturbed (fun _ h => h) (fun _ h => h) (fun _ h => h) fun _ h => h
  have h1 : Undisturbed s s1 := ((dropRows_undisturbed s n).trans hmasks).trans (releaseAll_undisturbed _ n m)
  have h2 : Undisturbed s1 s2 := modSlot_undisturbed fun _ => rfl
  exact (h1.trans h2).trans (endHeld_undisturbed ..)

/-- R274: the terminal record of a slot, published or waiting. -/
theorem publishRing_undisturbed {s : State} {n : Nat} {v : VRec} (hv : v.kind = 2) : Undisturbed s (publishRing s n v) := by
  have hexcuse : Undisturbed s (excuseReady s n) := by
    unfold excuseReady
    dsimp only
    exact modSlot_undisturbed fun _ => rfl
  unfold publishRing
  extract_lets +onlyGivenNames off seq s1
  split
  · rw [countLate_terminal hv, recordDone_terminal hv]
    refine Undisturbed.trans ?_ (publishNotice_frame ..).undisturbed
    refine (putSlotWords_frame s off (recordWords s n v) 1).undisturbed.trans (Undisturbed.trans ?_ (modSlot_undisturbed ?_))
    · exact modSlot_undisturbed fun _ => rfl
    · exact fun _ => rfl
  · split
    · exact hexcuse
    · refine (hexcuse.trans ?_).trans (sendSlotEvent_frame ..).undisturbed
      exact modSlot_undisturbed fun _ => rfl

/-- R274: what publication can do for a slot that has ended. -/
theorem publishStep_end {s : State} {n : Nat} (h : AtEnd (slotOf s n)) :
    (publishStep s n).1 = s ∨ ∃ v, v.kind = 2 ∧ (publishStep s n).1 = publishRing s n v := by
  unfold publishStep
  split
  · exact .inl rfl
  · cases ht : (slotOf s n).w.term with
    | none =>
      have hnone : nextRecord s n = none := by
        unfold nextRecord
        dsimp only
        rw [ht]
        exact if_pos (.inl (by rw [h.dead]; rfl))
      rw [hnone]
      exact .inl rfl
    | some v =>
      have hterm : nextRecord s n = some (v, none) := by
        unfold nextRecord
        dsimp only
        rw [ht]
      rw [hterm]
      exact .inr ⟨v, h.term v ht, rfl⟩

theorem publishStep_undisturbed {s : State} {n : Nat} (h : AtEnd (slotOf s n)) : Undisturbed s (publishStep s n).1 := by
  obtain hs | ⟨v, hv, hs⟩ := publishStep_end h
  · rw [hs]
    exact .refl s
  · rw [hs]
    exact publishRing_undisturbed hv

theorem publishLoop_undisturbed (k : Nat) {s : State} {n : Nat} (h : AtEnd (slotOf s n)) : Undisturbed s (publishLoop k s n) := by
  induction k generalizing s with
  | zero => exact .refl s
  | succ k ih =>
    unfold publishLoop
    dsimp only
    split
    · exact (publishStep_undisturbed h).trans (ih ((publishStep_told h).2.atEnd h))
    · exact publishStep_undisturbed h

/-- R259, R415: slot `k` has ended as FAILED, its terminal record published or waiting. -/
def failSlot (s : State) (k : Nat) : State := publishSlot (endSlot s k .failed (some (terminalRec s k 4))) k

theorem endSlot_atEnd (s : State) (k reason : Nat) {st : SlotSt} (hst : slotLive st = false) :
    AtEnd (slotOf (endSlot s k st (some (terminalRec s k reason))) k) := by
  have hended := (endSlot_ends s k st (some (terminalRec s k reason))).2
  exact ⟨by rw [hended.st]; exact hst, fun v hv => by rw [hended.term] at hv; cases hv; rfl⟩

theorem failSlot_undisturbed (s : State) (k : Nat) : Undisturbed s (failSlot s k) :=
  (endSlot_undisturbed ..).trans (publishLoop_undisturbed _ (endSlot_atEnd s k 4 (st := .failed) rfl))

theorem failSlot_fails (s : State) (k : Nat) : MsgStep k s (failSlot s k) ∧ (slotOf (failSlot s k) k).r.st = .failed := by
  obtain ⟨hstep, hended⟩ := endSlot_ends s k .failed (some (terminalRec s k 4))
  obtain ⟨hstep', htold⟩ := publishSlot_told (endSlot_atEnd s k 4 (st := .failed) rfl)
  exact ⟨hstep.trans hstep', htold.st.trans hended.st⟩

/-- R263: the failure of one request that waits for the positions of a handle takes FAILED of others only. -/
theorem failCounted_keeps {n : Nat} (s : State) (k : Nat) (h : (slotOf s n).r.st = .failed) :
    let s' := { failSlot s k with errs := { (failSlot s k).errs with failed := inc16 (failSlot s k).errs.failed } }
    Undisturbed s s' ∧ (slotOf s' n).r.st = .failed := by
  obtain ⟨hstep, hfailed⟩ := failSlot_fails s k
  refine ⟨(failSlot_undisturbed s k).trans (.of_eq rfl rfl rfl rfl), ?_⟩
  show (slotOf (failSlot s k) n).r.st = .failed
  by_cases hn : n = k
  · rw [hn]
    exact hfailed
  · rw [hstep.others n hn]
    exact h

theorem voidFill_undisturbed {s : State} {n : Nat} (k : Nat) (h : (slotOf s n).r.st = .failed) :
    Undisturbed s (voidFill s k) ∧ (slotOf (voidFill s k) n).r.st = .failed := by
  have hfold (l : List Nat) (x : State) (hx : (slotOf x n).r.st = .failed) :
      let y := l.foldl (fun s k => { failSlot s k with errs := { (failSlot s k).errs with failed := inc16 (failSlot s k).errs.failed } }) x
      Undisturbed x y ∧ (slotOf y n).r.st = .failed := by
    induction l generalizing x with
    | nil => exact ⟨.refl x, hx⟩
    | cons k l ih =>
      obtain ⟨h1, h2⟩ := failCounted_keeps x k hx
      obtain ⟨h3, h4⟩ := ih _ h2
      exact ⟨h1.trans h3, h4⟩
  unfold voidFill
  extract_lets q gone s1
  have h1 : Undisturbed s s1 := modHalf_undisturbed (fun _ h => h) (fun _ h => h) (fun _ h => h) fun _ h => h
  obtain ⟨h2, h3⟩ := hfold ((s1.slots.filter fun p => p.2.w.fillFrom == q && slotLive p.2.r.st).map (·.1)) s1 (by rw [modHalf_slotOf]; exact h)
  exact ⟨h1.trans h2, h3⟩

/-- R415: a request moved to FAILED. -/
theorem failRequest_fails (s : State) (n : Nat) :
    Undisturbed s (failRequest s n 4) ∧ (slotOf (failRequest s n 4) n).r.st = .failed := by
  obtain ⟨-, hfailed⟩ := failSlot_fails s n
  have hend : Undisturbed s (endRequest s n .failed 4) ∧ (slotOf (endRequest s n .failed 4) n).r.st = .failed := by
    unfold endRequest
    dsimp only
    split
    · obtain ⟨h1, h2⟩ := voidFill_undisturbed n hfailed
      exact ⟨(failSlot_undisturbed s n).trans h1, h2⟩
    · exact ⟨failSlot_undisturbed s n, hfailed⟩
  exact ⟨hend.1.trans (.of_eq rfl rfl rfl rfl), hend.2⟩

end Sys2Proof.Machine
end

section
/-! SUPPORT. The error manager's steps: an entry attributed, replayed and closed, a tenant withdrawn, the block stopped. -/

namespace Sys2Proof.Machine

/-- R417: the entry handled next is the log's one of its LSEQ. -/
theorem nextEntry_entry {s : State} {e : ErrEntry} (h : nextEntry s = some e) (hu : ∀ g ∈ s.errs.log, g.lseq = e.lseq → g = e) :
    EntryIs s.errs e.lseq e := by
  have hmem := List.mem_of_find?_eq_some h
  obtain ⟨g, hg⟩ : ∃ g, entryIn s.errs.log e.lseq = some g :=
    Option.isSome_iff_exists.mp (List.find?_isSome.mpr ⟨e, hmem, by simp⟩)
  exact ⟨e.chain, by rw [hg, hu g (List.mem_of_find?_eq_some hg) (entryIn_lseq hg)]⟩

/-- R417: with no entry being handled, the next queued one is, and no plan settles. -/
theorem errorEntryHandle_next {s s' : State} {e : ErrEntry} (hb : s.errs.block = false) (hc : ctRuns s = true) (hn : s.errs.handling = none)
    (he : nextEntry s = some e) (hh : (match e.cls with | .request => handleRequest s e | .tenant => handleTenant s e | .half => handleHalf s e | _ => s) = s')
    (hA : (half s' .A).run = none) (hB : (half s' .B).run = none) : exec .errorEntryHandle s = .next s' := by
  have hone : handleOne s = s' := by
    have hclosed : closeHandled s = s := by
      unfold closeHandled
      rw [hn]
    unfold handleOne
    rw [hclosed]
    dsimp only
    rw [if_neg (by rw [hn]; decide), he]
    exact hh
  refine exec_next rfl ?_
  unfold handleNext
  rw [if_neg (by rw [hb, hc]; decide), hone, settleHalf_none hA, settleHalf_none hB]

/-- R410, R411: with no job and no plan running, what an entry replays is what its requests' ended jobs wrote. -/
theorem replaysOf_ended {s : State} {e : ErrEntry} (hs : Still s) (hj : e.job = none) :
    replaysOf s e = ((e.reqs.map (endedReplay s e)).eraseDups).filter fun r => (slotOf s r.slot).r.sgen == r.sgen && slotLive (slotOf s r.slot).r.st := by
  have hrows : jobRows s e.half e.job = [] := by
    unfold jobRows jobKernels
    dsimp only
    rw [hj, hs.run e.half]
    rfl
  have hall : (e.reqs.filter fun q => !(jobRows s e.half e.job).any fun r => r.slot == q.1) = e.reqs := by
    rw [hrows]
    exact List.filter_eq_self.mpr fun _ _ => rfl
  unfold replaysOf
  dsimp only
  rw [hall, hrows]
  rfl

/-- R411 steps 1 to 3: the entry at REPLAYING, with what its requests are. -/
def atReplaying (s : State) (l : W32) : State :=
  setStep { setStep s l .abandoned with errs := { (setStep s l .abandoned).errs with handling := some l } } l .replaying

theorem atReplaying_stands {s : State} {l : W32} {e : ErrEntry} (he : EntryIs s.errs l e) :
    ∃ x, atReplaying s l = { s with errs := x } ∧ x.handling = some l ∧ EntryIs x l { e with step := .replaying } := by
  obtain ⟨g1, c1, k1, h1⟩ := modEntry_stands s l fun e => { e with step := .abandoned }
  have e1 : EntryIs (setStep s l .abandoned).errs l { e with step := .abandoned } := setStep_entry .abandoned he
  obtain ⟨g2, c2, k2, h2⟩ := modEntry_stands { setStep s l .abandoned with errs := { (setStep s l .abandoned).errs with handling := some l } } l
    fun e => { e with step := .replaying }
  have e2 : EntryIs (atReplaying s l).errs l { { e with step := .abandoned } with step := .replaying } :=
    setStep_entry (s := { setStep s l .abandoned with errs := { (setStep s l .abandoned).errs with handling := some l } }) .replaying e1
  have heq : atReplaying s l = { s with errs := { s.errs with log := g2, chained := c2, lastChain := k2, handling := some l } } := by
    refine h2.trans ?_
    rw [show setStep s l .abandoned = _ from h1]
  rw [heq] at e2
  exact ⟨_, heq, rfl, e2⟩

/-- R411: a REQUEST entry without a job, its requests attributed. -/
theorem handleRequest_replays {s : State} {e : ErrEntry} (hj : e.job = none) :
    handleRequest s e =
      let y := e.reqs.foldl (attribReq e.lseq) (setStep s e.lseq .attributed)
      entryReplayed ((replaysOf y e).foldl (addReplay e.lseq) (atReplaying y e.lseq)) e.lseq := by
  unfold handleRequest
  dsimp only
  rw [show ∀ x, abandonJob x e.half e.job = x from fun x => by rw [hj]; rfl]
  rfl

/-- R411: a REQUEST entry with nothing to replay is DONE. -/
theorem handleRequest_done {s y : State} {e e' : ErrEntry} (hj : e.job = none)
    (hy : e.reqs.foldl (attribReq e.lseq) (setStep s e.lseq .attributed) = y) (hs : Still y) (he : EntryIs y.errs e.lseq e')
    (hr : replaysOf y e = []) :
    ∃ x, handleRequest s e = { y with errs := x } ∧ x.handling = none ∧ EntryIs x e.lseq { e' with step := .done } := by
  obtain ⟨x, hx, hl, hex⟩ := atReplaying_stands he
  obtain ⟨x', hx', hn, hdone⟩ := entryReplayed_closes (s := { y with errs := x }) (hs.of_eq rfl rfl rfl) hl hex rfl
  refine ⟨x', ?_, hn, hdone⟩
  rw [handleRequest_replays hj]
  dsimp only
  rw [hy, hr, List.foldl_nil, hx, hx']

theorem Still.errs {s : State} (h : Still s) (x : Errs) : Still { s with errs := x } := h.of_eq rfl rfl rfl

/-- R412: a replay in a block without a plan dispatches no kernel. -/
theorem addReplay_none {s : State} {l : W32} {r : Replay} (hm : r.mask = false) (hp : s.group.plan = none) :
    addReplay l s r = modHalf (modSlot s r.slot fun x => { x with w := { x.w with blocked := false, screened := max x.w.screened (replayTo (slotOf s r.slot)) } })
      (slotHalf r.slot) fun x => { x with nextJob := (half s (slotHalf r.slot)).nextJob + 1, replayJobs := x.replayJobs ++ [] } := by
  have hjobs (h : Half) (num : Nat) : replayJobs s h l r num = [] := by
    unfold replayJobs planFor
    dsimp only
    rw [hp]
  unfold addReplay
  dsimp only
  rw [hm, if_neg Bool.false_ne_true, hjobs]
  rfl

/-- R413: the first error of a live request counts. -/
theorem attribReq_first {s : State} {l : W32} {n : Nat} {g : Byte} (hg : (slotOf s n).r.sgen = g) (hlive : slotLive (slotOf s n).r.st = true)
    (h0 : (slotOf s n).r.errs = 0) :
    attribReq l s (n, g)
      = modSlot (modEntry s l fun e => { e with count := inc16 e.count }) n fun x => { x with r := { x.r with errs := x.r.errs + 1 } } := by
  unfold attribReq
  dsimp only
  rw [if_neg (by rw [hlive]; simp [hg]), if_pos h0]

/-- R413: the second error of a live request ends it as FAILED. -/
theorem attribReq_second {s : State} {l : W32} {n : Nat} {g : Byte} (hg : (slotOf s n).r.sgen = g) (hlive : slotLive (slotOf s n).r.st = true)
    (h1 : (slotOf s n).r.errs ≠ 0) :
    attribReq l s (n, g)
      = modEntry (failRequest (modEntry s l fun e => { e with count := inc16 e.count }) n 4) l fun e => { e with failed := inc16 e.failed } := by
  unfold attribReq
  dsimp only
  rw [if_neg (by rw [hlive]; simp [hg]), if_neg h1]

/-- R410, R411: one request whose jobs have ended. -/
theorem replaysOf_one {s : State} {e : ErrEntry} {n : Nat} {g : Byte} (hs : Still s) (hj : e.job = none) (hr : e.reqs = [(n, g)]) :
    replaysOf s e = if (slotOf s n).r.sgen = g ∧ slotLive (slotOf s n).r.st = true then [endedReplay s e (n, g)] else [] := by
  have hslot : (endedReplay s e (n, g)).slot = n ∧ (endedReplay s e (n, g)).sgen = g := by
    unfold endedReplay
    dsimp only
    split <;> exact ⟨rfl, rfl⟩
  have hone : [endedReplay s e (n, g)].eraseDups = [endedReplay s e (n, g)] := rfl
  rw [replaysOf_ended hs hj, hr, List.map_singleton, hone, List.filter_cons, List.filter_nil, hslot.1, hslot.2]
  simp [beq_iff_eq]

/-- R410: a request none of whose jobs is kept is replayed in its tenant's kernels. -/
theorem endedReplay_kernels {s : State} {e : ErrEntry} {n : Nat} (g : Byte) (hran : (slotOf s n).w.ran = []) (hsrc : e.src ≠ 0x07) :
    (endedReplay s e (n, g)).slot = n ∧ (endedReplay s e (n, g)).mask = false := by
  have hmask : (e.src == 0x07) = false := beq_eq_false_iff_ne.mpr hsrc
  unfold endedReplay ranFor
  dsimp only
  rw [hran]
  exact ⟨rfl, hmask⟩

/-- An entry's change after another one leaves all but the log. -/
theorem counted_stands (s : State) (l : W32) :
    ∃ x, modEntry (setStep s l .attributed) l (fun e => { e with count := inc16 e.count }) = { s with errs := x } ∧ x.handling = s.errs.handling := by
  obtain ⟨g1, c1, k1, h1⟩ := modEntry_stands s l fun e => { e with step := .attributed }
  obtain ⟨g2, c2, k2, h2⟩ := modEntry_stands (setStep s l .attributed) l fun e => { e with count := inc16 e.count }
  refine ⟨{ s.errs with log := g2, chained := c2, lastChain := k2 }, h2.trans ?_, rfl⟩
  rw [show setStep s l .attributed = _ from h1]

theorem counted_entry {s : State} {l : W32} {e : ErrEntry} (he : EntryIs s.errs l e) :
    EntryIs (modEntry (setStep s l .attributed) l fun e => { e with count := inc16 e.count }).errs l
      { e with step := .attributed, count := inc16 e.count } := modEntry_entry count_change (setStep_entry .attributed he)

/-- R411 step 1, R413: a request's first error, attributed. -/
theorem attributed_first {s : State} {e : ErrEntry} {n : Nat} (hs : Still s) (he : EntryIs s.errs e.lseq e)
    (hr : e.reqs = [(n, (slotOf s n).r.sgen)]) (hlive : slotLive (slotOf s n).r.st = true) (h0 : (slotOf s n).r.errs = 0) :
    ∃ y, e.reqs.foldl (attribReq e.lseq) (setStep s e.lseq .attributed) = y ∧ Still y
      ∧ EntryIs y.errs e.lseq { e with step := .attributed, count := inc16 e.count } ∧ y.group = s.group
      ∧ slotOf y n = { slotOf s n with r := { (slotOf s n).r with errs := (slotOf s n).r.errs + 1 } } ∧ ∀ k, k ≠ n → slotOf y k = slotOf s k := by
  obtain ⟨x, hx, -⟩ := counted_stands s e.lseq
  have hex := counted_entry he
  rw [hx] at hex
  refine ⟨modSlot { s with errs := x } n fun x => { x with r := { x.r with errs := x.r.errs + 1 } }, ?_,
    (hs.errs x).modSlot (slotOf_free hs.free n), hex, rfl, slotOf_modSlot_same .., fun k hk => slotOf_modSlot_other _ _ _ _ hk⟩
  rw [hr, List.foldl_cons, List.foldl_nil]
  exact (attribReq_first (s := setStep s e.lseq .attributed) rfl hlive h0).trans (by rw [hx])

/-- R411 step 1, R413: a request's second error, attributed: it has FAILED. -/
theorem attributed_second {s : State} {e : ErrEntry} {n : Nat} (hs : Still s) (he : EntryIs s.errs e.lseq e)
    (hr : e.reqs = [(n, (slotOf s n).r.sgen)]) (hlive : slotLive (slotOf s n).r.st = true) (h1 : (slotOf s n).r.errs ≠ 0) :
    ∃ y, e.reqs.foldl (attribReq e.lseq) (setStep s e.lseq .attributed) = y ∧ Still y
      ∧ EntryIs y.errs e.lseq { e with step := .attributed, count := inc16 e.count, failed := inc16 e.failed } ∧ (slotOf y n).r.st = .failed := by
  obtain ⟨x, hx, -⟩ := counted_stands s e.lseq
  have hex := counted_entry he
  rw [hx] at hex
  obtain ⟨hkeeps, hfailed⟩ := failRequest_fails { s with errs := x } n
  have hfe : EntryIs (failRequest { s with errs := x } n 4).errs e.lseq { e with step := .attributed, count := inc16 e.count } := by
    obtain ⟨c, hc⟩ := hex
    exact ⟨c, by rw [hkeeps.log]; exact hc⟩
  refine ⟨modEntry (failRequest { s with errs := x } n 4) e.lseq fun e => { e with failed := inc16 e.failed }, ?_,
    (hkeeps.still (hs.errs x)).modEntry _ _, modEntry_entry failed_change hfe, hfailed⟩
  rw [hr, List.foldl_cons, List.foldl_nil]
  exact (attribReq_second (s := setStep s e.lseq .attributed) rfl hlive h1).trans (by rw [hx])

/-- R411 steps 2 to 6: an attributed entry with nothing to replay closes. -/
theorem replays_nothing {s y : State} {e e' : ErrEntry} (hj : e.job = none) (hs : Still y) (he : EntryIs y.errs e.lseq e')
    (hy : e.reqs.foldl (attribReq e.lseq) (setStep s e.lseq .attributed) = y) (hr : replaysOf y e = []) :
    ∃ x, handleRequest s e = { y with errs := x } ∧ x.handling = none ∧ EntryIs x e.lseq { e' with step := .done } := by
  obtain ⟨x, hx, hl, hex⟩ := atReplaying_stands he
  obtain ⟨x', hx', hn, hdone⟩ := entryReplayed_closes (hs.errs x) hl hex rfl
  refine ⟨x', ?_, hn, hdone⟩
  rw [handleRequest_replays hj]
  dsimp only
  rw [hy, hr, List.foldl_nil, hx, hx']

/-- R411 steps 2 to 6: an attributed entry whose one request no plan replays closes. -/
theorem replays_undispatched {s y : State} {e e' : ErrEntry} {r : Replay} (hj : e.job = none) (hs : Still y) (he : EntryIs y.errs e.lseq e')
    (hy : e.reqs.foldl (attribReq e.lseq) (setStep s e.lseq .attributed) = y) (hr : replaysOf y e = [r]) (hm : r.mask = false)
    (hp : y.group.plan = none) :
    ∃ s', handleRequest s e = s' ∧ Still s' ∧ s'.errs.handling = none ∧ EntryIs s'.errs e.lseq { e' with step := .done }
      ∧ (slotOf s' r.slot).r = (slotOf y r.slot).r ∧ ∀ k, k ≠ r.slot → slotOf s' k = slotOf y k := by
  obtain ⟨x, hx, hl, hex⟩ := atReplaying_stands he
  have hadd := addReplay_none (s := { y with errs := x }) (l := e.lseq) hm hp
  have hstill : Still (addReplay e.lseq { y with errs := x } r) := by
    rw [hadd]
    refine Undisturbed.still (modHalf_undisturbed ?_ ?_ ?_ ?_) (Still.modSlot (hs.errs x) ?_)
    · exact fun _ h => h
    · exact fun _ h => h
    · exact fun q h => (List.append_nil _).trans h
    · exact fun _ h => h
    · rfl
  have hslot : (slotOf (addReplay e.lseq { y with errs := x } r) r.slot).r = (slotOf y r.slot).r := by
    rw [hadd, modHalf_slotOf, slotOf_modSlot_same]
    rfl
  have hothers (k : Nat) (hk : k ≠ r.slot) : slotOf (addReplay e.lseq { y with errs := x } r) k = slotOf y k := by
    rw [hadd, modHalf_slotOf, slotOf_modSlot_other _ _ _ _ hk]
    rfl
  have herrs : (addReplay e.lseq { y with errs := x } r).errs = x := by
    rw [hadd, modHalf_errs]
    rfl
  obtain ⟨x', hx', hn, hdone⟩ := entryReplayed_closes (l := e.lseq) hstill (by rw [herrs]; exact hl) (by rw [herrs]; exact hex) rfl
  refine ⟨_, ?_, hstill.errs x', hn, hdone, hslot, hothers⟩
  rw [handleRequest_replays hj]
  dsimp only
  rw [hy, hr, List.foldl_cons, List.foldl_nil, hx, hx']

/-- What the withdrawal of a tenant without requests keeps. -/
structure Withdrawn (s s' : State) : Prop where
  errs : s'.errs = s.errs
  slots : s'.slots = s.slots
  tiles : s'.tiles = s.tiles
  run : ∀ h, (half s' h).run = (half s h).run

theorem Withdrawn.refl (s : State) : Withdrawn s s := ⟨rfl, rfl, rfl, fun _ => rfl⟩

theorem Withdrawn.trans {a b c : State} (h : Withdrawn a b) (k : Withdrawn b c) : Withdrawn a c :=
  ⟨k.errs.trans h.errs, k.slots.trans h.slots, k.tiles.trans h.tiles, fun x => (k.run x).trans (h.run x)⟩

theorem EventFrame.withdrawn {s s' : State} (h : EventFrame s s') : Withdrawn s s' :=
  ⟨h.errs, h.slots, h.tiles, h.half_same fun _ _ _ => rfl⟩

theorem Withdrawn.images (s : State) (l : SMap (Option Image)) : Withdrawn s { s with images := l } :=
  ⟨rfl, rfl, rfl, fun h => by cases h <;> rfl⟩

theorem Withdrawn.foldl {α : Type} {f : State → α → State} (hf : ∀ s a, Withdrawn s (f s a)) (l : List α) (s : State) : Withdrawn s (l.foldl f s) := by
  induction l generalizing s with
  | nil => exact .refl s
  | cons a l ih => exact (hf s a).trans (ih _)

theorem dropHandle_withdrawn (s : State) (h : Half) (i : Nat) (x : Handle) : Withdrawn s (dropHandle s h i x) :=
  ⟨modHalf_errs .., modHalf_slots .., modHalf_tiles .., half_modHalf_eq (g := HalfState.run) rfl⟩

/-- R423 step 2: a tenant's handles dropped. -/
theorem dropTenant_withdrawn (t : BitVec 16) (s : State) (h : Half) : Withdrawn s (dropTenant t s h) := by
  unfold dropTenant
  refine .foldl (fun s p => ?_) _ s
  split
  · exact .refl s
  · split
    · exact (dropHandle_withdrawn ..).trans (sendHalfEvent_frame ..).withdrawn
    · exact .refl s

theorem freeImage_withdrawn (s : State) (n : Nat) (i : Image) : Withdrawn s (freeImage s n i) := by
  unfold freeImage
  split
  · exact .refl s
  · split
    · exact .images ..
    · split
      · unfold retireMset
        exact ((winPut_frame ..).withdrawn.trans (.images ..)).trans (sendBlockEvent_frame ..).withdrawn
      · exact .images ..

theorem freeImages_withdrawn (s : State) : Withdrawn s (freeImages s) := by
  have hone (s : State) (p : Nat × Image) : Withdrawn s (freeImage s p.1 p.2) := freeImage_withdrawn s p.1 p.2
  exact .foldl hone (Machine.images s) s

/-- R419: what a TENANT entry overtakes leaves the entry itself. -/
theorem supersede_entry {s : State} {p : ErrEntry → Bool} {l : W32} {e : ErrEntry} (he : EntryIs s.errs l e)
    (hp : ∀ g ∈ s.errs.log, g.cls = .request → g.lseq ≠ l) :
    ∃ x, supersede s p = { s with errs := x } ∧ x.handling = s.errs.handling ∧ EntryIs x l e := by
  have hfold (gs : List ErrEntry) (hg : ∀ g ∈ gs, g.lseq ≠ l) (x : Errs) (hx : EntryIs x l e) :
      ∃ y, gs.foldl (fun s e => setStep s e.lseq .superseded) { s with errs := x } = { s with errs := y } ∧ y.handling = x.handling ∧ EntryIs y l e := by
    induction gs generalizing x with
    | nil => exact ⟨x, rfl, rfl, hx⟩
    | cons g gs ih =>
      obtain ⟨hne, hgs⟩ := List.forall_mem_cons.mp hg
      obtain ⟨a, b, c, hm⟩ := modEntry_stands { s with errs := x } g.lseq fun e => { e with step := .superseded }
      have hstep : EntryIs (setStep { s with errs := x } g.lseq .superseded).errs l e := modEntry_other (setStep_change .superseded) hne hx
      rw [show setStep { s with errs := x } g.lseq .superseded = _ from hm] at hstep
      obtain ⟨y, hy, hh, hey⟩ := ih hgs _ hstep
      exact ⟨y, by rw [List.foldl_cons, show setStep { s with errs := x } g.lseq .superseded = _ from hm]; exact hy, hh, hey⟩
  refine hfold _ (fun g hg => ?_) s.errs he
  obtain ⟨hmem, hcond⟩ := List.mem_filter.mp hg
  simp only [Bool.and_eq_true, beq_iff_eq] at hcond
  exact hp g hmem hcond.1.2

/-- R423: a TENANT entry of a tenant without live requests. -/
theorem handleTenant_done {s : State} {e : ErrEntry} (he : EntryIs s.errs e.lseq e) (hj : e.job = none)
    (hp : ∀ g ∈ s.errs.log, g.cls = .request → g.lseq ≠ e.lseq)
    (hother : ∀ x ∈ s.slots, slotLive x.2.r.st = true → x.2.r.tenant ≠ e.tenant) :
    ∃ s', handleTenant s e = s' ∧ EntryIs s'.errs e.lseq { e with step := .done } ∧ s'.errs.handling = s.errs.handling ∧ s'.slots = s.slots
      ∧ s'.tiles = s.tiles ∧ (∀ h, (half s' h).run = (half s h).run) ∧ NoAdmits e.tenant s' := by
  obtain ⟨x, hx, hh, hex⟩ := supersede_entry (p := overtakes e) he hp
  have hnone : liveSlots { s with errs := x } (fun _ y => y.r.tenant == e.tenant) = [] := by
    unfold liveSlots
    rw [List.map_eq_nil_iff, List.filter_eq_nil_iff]
    intro y hy
    by_cases hl : slotLive y.2.r.st = true
    · simp [hl, hother y hy hl]
    · simp [hl]
  have habandon (y : State) : abandonJob y e.half e.job = y := by
    rw [hj]
    rfl
  unfold handleTenant
  dsimp only
  rw [hx, habandon, hnone]
  have hdrop : Withdrawn { s with errs := x } (dropTenant e.tenant (dropTenant e.tenant (failAll e.lseq { s with errs := x } []) .A) .B) :=
    (dropTenant_withdrawn ..).trans (dropTenant_withdrawn ..)
  generalize dropTenant e.tenant (dropTenant e.tenant (failAll e.lseq { s with errs := x } []) .A) .B = y at hdrop ⊢
  have hfree : Withdrawn y (freeImages (closeImages y e.tenant)) := (Withdrawn.images y _).trans (freeImages_withdrawn _)
  have hadmits : NoAdmits e.tenant (freeImages (closeImages y e.tenant)) := (freeImages_frees (closeImages_noAdmits y e.tenant)).1
  generalize freeImages (closeImages y e.tenant) = z at hfree hadmits ⊢
  have hall := hdrop.trans hfree
  obtain ⟨a, b, c, hm⟩ := modEntry_stands z e.lseq fun e => { e with step := .done }
  have hdone : EntryIs (setStep z e.lseq .done).errs e.lseq { e with step := .done } := setStep_entry .done (by rw [hall.errs]; exact hex)
  refine ⟨_, rfl, hdone, ?_, hall.slots, hall.tiles, fun h => ?_, hadmits⟩
  · rw [show setStep z e.lseq .done = _ from hm]
    exact (congrArg (·.handling) hall.errs).trans hh
  · refine Eq.trans ?_ ((hall.run h).trans ?_)
    · cases h <;> rfl
    · cases h <;> rfl

/-- R427: an entry of class BLOCK sets the block's error. -/
theorem appendEntry_block {s : State} {e : ErrEntry} (he : e.cls = .block) : ∃ x, appendEntry s e = { s with errs := x } ∧ x.block = true := by
  unfold appendEntry
  extract_lets x full y
  have hx : x.block = true := by
    show (countClass s.errs e.cls).block = true
    rw [he]
    rfl
  split
  · exact ⟨x, rfl, hx⟩
  · obtain ⟨g, c, k, hk⟩ := chainLog_stands ((y.next - y.chained).toNat + 1) y
    exact ⟨chainOn y, rfl, by rw [chainOn, hk]; exact hx⟩

theorem stopElapsed_stands (s : State) : ∃ x, stopElapsed s = { s with su := x } := by
  unfold stopElapsed
  split
  · exact ⟨_, rfl⟩
  · exact ⟨s.su, rfl⟩

theorem raiseNmi_stands (s : State) (c : Nat) : ∃ x f d, raiseNmi s c = { s with errs := { s.errs with nmi := x }, su := { s.su with own := f, dropped := d } } := by
  unfold raiseNmi ownFrame
  extract_lets causes f own
  split
  · exact ⟨_, _, s.su.dropped, rfl⟩
  · exact ⟨_, _, _, rfl⟩

/-- R427: the block stops on a detection of class BLOCK. -/
theorem blockStop_stops {s : State} {d : Detect} (hb : s.errs.block = false) (hd : srcClass d.src = .block) :
    let s' := blockStop s d
    s'.errs.block = true ∧ s'.su.phase = .stopped ∧ s'.su.code = 0x20 ∧ s'.errs.handling = none ∧ s'.errs.nmi.getLsbD 3 = true ∧ s'.mem = s.mem
      ∧ s'.slots = s.slots := by
  intro s'
  have hnmi : ∃ s3, s' = raiseNmi s3 3 ∧ s3.errs.block = true ∧ s3.su.phase = .stopped ∧ s3.su.code = 0x20 ∧ s3.errs.handling = none ∧ s3.mem = s.mem
      ∧ s3.slots = s.slots := by
    show ∃ s3, blockStop s d = _ ∧ _
    unfold blockStop
    rw [if_neg (by rw [hb]; decide)]
    extract_lets +onlyGivenNames e s1 s2 _ _ s3
    have he : e.cls = .block := by
      show srcClass (if 256 ≤ (openEntries s.errs).length then Detect.plain 0x16 d.half 0 else d).src = .block
      split
      · rfl
      · exact hd
    have h1 : ∃ x, s1 = { s with errs := x } := by
      show ∃ x, (match s.errs.handling with | none => s | some l => modEntry s l fun e => { e with step := .escalated }) = _
      split
      · exact ⟨s.errs, rfl⟩
      · next l _ =>
        obtain ⟨g, c, k, hm⟩ := modEntry_stands s l fun e => { e with step := .escalated }
        exact ⟨_, hm⟩
    obtain ⟨x1, hx1⟩ := h1
    obtain ⟨x2, hx2, hblock⟩ := appendEntry_block (s := s1) he
    obtain ⟨u, hu⟩ := stopElapsed_stands (appendEntry s1 e)
    have h2 : s2 = { s with errs := x2, su := u } := by
      show stopElapsed (appendEntry s1 e) = _
      rw [hu, hx2, hx1]
    refine ⟨s3, rfl, ?_, rfl, rfl, rfl, ?_, ?_⟩
    · show s2.errs.block = true
      rw [h2]
      exact hblock
    · show s2.mem = s.mem
      rw [h2]
    · show s2.slots = s.slots
      rw [h2]
  obtain ⟨s3, hs', hblock, hphase, hcode, hhandling, hmem, hslots⟩ := hnmi
  have hraised := nmi_raised s3 (c := 3) (by decide)
  obtain ⟨x, f, n, hstands⟩ := raiseNmi_stands s3 3
  rw [hs']
  refine ⟨?_, ?_, ?_, ?_, hraised, ?_, ?_⟩
  all_goals rw [hstands]
  · exact hblock
  · exact hphase
  · exact hcode
  · exact hhandling
  · exact hmem
  · exact hslots

/-- Settles O56, by the class of the entry. -/
theorem errorsHandled : Obligations.ErrorsHandled := by
  intro s e hb hc
  refine ⟨fun hn he hu hrun => ?_, fun l hl => ?_⟩
  · have hentry := nextEntry_entry he hu
    refine ⟨fun hcls hj hreqs hfree hidle => ?_, fun n hcls hj hsrc hreqs hlive hfree hidle => ?_, fun hcls hj hother => ?_⟩
    · have hs : Still s := ⟨hrun, fun h => (hidle h).1, fun h => (hidle h).2.1, fun h => (hidle h).2.2, hfree⟩
      have hsa : Still (setStep s e.lseq .attributed) := hs.modEntry ..
      obtain ⟨x, hx, hnone, c, hdone⟩ := replays_nothing (y := setStep s e.lseq .attributed) hj hsa (setStep_entry .attributed hentry)
        (by rw [hreqs]; rfl) (by rw [replaysOf_ended hsa hj, hreqs]; rfl)
      exact ⟨{ setStep s e.lseq .attributed with errs := x }, c, errorEntryHandle_next hb hc hn he (by rw [hcls]; exact hx) (hrun .A) (hrun .B), hdone, hnone, rfl, rfl⟩
    · have hs : Still s := ⟨hrun, fun h => (hidle h).1, fun h => (hidle h).2.1, fun h => (hidle h).2.2, hfree⟩
      refine ⟨fun h0 hran hplan _ => ?_, fun h1 => ?_⟩
      · obtain ⟨y, hy, hys, hye, hgroup, hyn, hyo⟩ := attributed_first hs hentry hreqs hlive h0
        obtain ⟨hrn, hrm⟩ := endedReplay_kernels (s := y) (e := e) (n := n) (slotOf s n).r.sgen (by rw [hyn]; exact hran) hsrc
        have hone := (replaysOf_one hys hj hreqs).trans (if_pos (by rw [hyn]; exact ⟨rfl, hlive⟩))
        obtain ⟨s', hs', hstill, hnone, ⟨c, hdone⟩, hslot, hothers⟩ := replays_undispatched hj hys hye hy hone hrm (by rw [hgroup]; exact hplan)
        rw [hrn, hyn] at hslot
        refine ⟨s', c, errorEntryHandle_next hb hc hn he (by rw [hcls]; exact hs') (hstill.run .A) (hstill.run .B), hdone, hslot, hnone, fun k hk => ?_⟩
        rw [hothers k (by rw [hrn]; exact hk), hyo k hk]
      · obtain ⟨y, hy, hys, hye, hfailed⟩ := attributed_second hs hentry hreqs hlive h1
        have hnone := (replaysOf_one hys hj hreqs).trans (if_neg (by rw [hfailed]; exact fun c => nomatch c.2))
        obtain ⟨x, hx, -, c, hdone⟩ := replays_nothing hj hys hye hy hnone
        refine ⟨{ y with errs := x }, _, errorEntryHandle_next hb hc hn he (by rw [hcls]; exact hx) (hys.run .A) (hys.run .B), hdone, ?_, ?_, ?_, hfailed⟩
        all_goals rfl
    · have hreq (g : ErrEntry) (hg : g ∈ s.errs.log) (hr : g.cls = .request) : g.lseq ≠ e.lseq := fun hl => by
        rw [hu g hg hl, hcls] at hr
        exact nomatch hr
      obtain ⟨s', hs', ⟨c, hdone⟩, hh, hslots, htiles, hruns, hadmits⟩ := handleTenant_done hentry hj hreq hother
      exact ⟨s', c, errorEntryHandle_next hb hc hn he (by rw [hcls]; exact hs') ((hruns .A).trans (hrun .A)) ((hruns .B).trans (hrun .B)), hdone,
        hh.trans hn, hslots, htiles, hadmits⟩
  · have hstop : exec .recoveryStepTimeout s = .next (blockStop s (Detect.plain 0x15 (((entryOf s l).map (·.half)).getD .A) 0)) := by
      refine exec_next rfl ?_
      rw [hl]
      exact if_pos hc
    exact ⟨_, hstop, blockStop_stops hb rfl⟩

end Sys2Proof.Machine
end

section
/-! SUPPORT. A verdict published in a ring entry or in a tenant's buffer. -/

namespace Sys2Proof.Machine

/-- R273: a slot that has ended has no record but its terminal one. -/
theorem nextRecord_ended {s : State} {n : Nat} (ht : (slotOf s n).w.term = none) (hd : slotLive (slotOf s n).r.st = false) : nextRecord s n = none := by
  unfold nextRecord
  dsimp only
  rw [ht]
  exact if_pos (.inl (by rw [hd]; rfl))

theorem nextRecord_term {s : State} {n : Nat} {v : VRec} (ht : (slotOf s n).w.term = some v) : nextRecord s n = some (v, none) := by
  unfold nextRecord
  dsimp only
  rw [ht]

theorem slotEnded_dead {st : SlotSt} (h : slotEnded st = true) : slotLive st = false ∧ st ≠ .lost := by
  cases st <;> first | exact absurd h Bool.false_ne_true | exact ⟨rfl, fun c => nomatch c⟩

/-- R274: one record is published, and none follows. -/
theorem publishSlot_one {s y : State} {n : Nat} (hstep : publishStep s n = (y, true)) (hnone : nextRecord y n = none) : publishSlot s n = y := by
  have hstop : publishStep y n = (y, false) := by
    unfold publishStep
    split
    · rfl
    · rw [hnone]
  have hloop (k : Nat) : publishLoop (k + 2) s n = y := by
    unfold publishLoop
    dsimp only
    rw [hstep, if_pos rfl]
    unfold publishLoop
    dsimp only
    rw [hstop]
    rfl
  exact hloop _

theorem publish_one {s y : State} {n : Nat} (hstep : publishStep s n = (y, true)) (hnone : nextRecord y n = none) (hm : (slotOf y n).w.maskPos = [])
    (hl : (slotOf y n).r.st ≠ .lost) : publish s n = y := by
  rw [publish, publishSlot_one hstep hnone, drainMasks_none hm, afterRebuild_other hl]

/-- R274: a record published in its ring entry, in time. -/
theorem publishRing_owned {s : State} {n : Nat} {v : VRec} (ho : ownedByBlock s (ringEntry s n) = true)
    (hlate : countLate (putSlotWords s (ringEntry s n) (recordWords s n v) 1) n v = putSlotWords s (ringEntry s n) (recordWords s n v) 1) :
    publishRing s n v = publishNotice (recordDone (putSlotWords s (ringEntry s n) (recordWords s n v) 1) n v) (.ring (slotOf s n).r.ring)
      (slotOf s n).r.oseq := by
  unfold publishRing
  dsimp only
  rw [if_pos ho, hlate]

theorem countLate_due {s : State} {n : Nat} {v : VRec} (hd : duePast s v.due = false) : countLate s n v = s :=
  if_pos (.inr (by rw [hd]; rfl))

/-- R273: the words of a record stand where its slot of the window holds them. -/
theorem SlotHolds.record {s s' : State} {n off : Nat} {v : VRec} (h : SlotHolds s' off (recordWords s n v) 1) :
    owner s' off = 1 ∧ ∀ j w, (recordWords s n v)[j]? = some w → winWord s' (off + 8 * j) = w := by
  obtain ⟨hwords, howner⟩ := h
  refine ⟨by unfold owner; rw [howner]; decide, fun j w hw => ?_⟩
  have hj : j < 7 := (List.getElem?_eq_some_iff.mp hw).1
  rw [hwords j hj, List.getD_eq_getElem?_getD, hw]
  rfl

/-- R274: the entry of a ring as a record done with it leaves it. -/
theorem ring_stands {s y : State} {n : Nat} {v : VRec} (ha : alive s (winAddr s (ringEntry s n)) 64)
    (hm : y.mem = (putSlotWords s (ringEntry s n) (recordWords s n v) 1).mem) (hw : y.win.base = s.win.base) :
    owner y (ringEntry s n) = 1 ∧ ∀ j w, (recordWords s n v)[j]? = some w → winWord y (ringEntry s n + 8 * j) = w :=
  ((putSlotWords_holds (ws := recordWords s n v) 1 ha (Nat.le_refl 7)).mem hm hw).record

/-- R274: a terminal record in its slot's ring entry. -/
theorem publish_terminal {s : State} {n : Nat} {v : VRec} (hw : windowOpen s = true) (hom : (slotOf s n).r.omode = false)
    (he : slotEnded (slotOf s n).r.st = true) (ht : (slotOf s n).w.term = some v) (hv : v.kind = 2) (hmask : (slotOf s n).w.maskPos = [])
    (ho : ownedByBlock s (ringEntry s n) = true) (ha : alive s (winAddr s (ringEntry s n)) 64) :
    let s' := publish s n
    (slotOf s' n).r.oseq = (slotOf s n).r.oseq + 1 ∧ (slotOf s' n).w.term = none ∧ (slotOf s' n).r.st = (slotOf s n).r.st
      ∧ (owner s' (ringEntry s n) = 1 ∧ ∀ j w, (recordWords s n v)[j]? = some w → winWord s' (ringEntry s n + 8 * j) = w)
      ∧ ∀ j, j ≠ n → slotOf s' j = slotOf s j := by
  have hring := publishRing_owned (v := v) ho (countLate_terminal hv)
  rw [recordDone_terminal hv] at hring
  have hstep : publishStep s n = (publishRing s n v, true) := by
    unfold publishStep
    rw [if_neg (by rw [hw, hom]; decide), nextRecord_term ht]
    dsimp only
    rw [ho]
  have hput := putSlotWords_frame s (ringEntry s n) (recordWords s n v) 1
  have hown : slotOf (publishRing s n v) n = { slotOf s n with
      r := { (slotOf s n).r with oseq := (slotOf s n).r.oseq + 1 }, w := { (slotOf s n).w with wait := false, term := none } } := by
    rw [hring, slotOf_slots (publishNotice_frame ..).slots, slotOf_modSlot_same, slotOf_modSlot_same, slotOf_slots hput.slots]
  have hothers (j : Nat) (hj : j ≠ n) : slotOf (publishRing s n v) j = slotOf s j := by
    rw [hring, slotOf_slots (publishNotice_frame ..).slots, slotOf_modSlot_other _ _ _ _ hj, slotOf_modSlot_other _ _ _ _ hj, slotOf_slots hput.slots]
  have hmem : (publishRing s n v).mem = (putSlotWords s (ringEntry s n) (recordWords s n v) 1).mem := by
    rw [hring, publishNotice_mem]
    rfl
  have hbase : (publishRing s n v).win.base = s.win.base := by
    rw [hring, (publishNotice_frame ..).win]
    exact congrArg (·.base) hput.win
  obtain ⟨hdead, hlost⟩ := slotEnded_dead he
  have hpub : publish s n = publishRing s n v :=
    publish_one hstep (nextRecord_ended (by rw [hown]) (by rw [hown]; exact hdead)) (by rw [hown]; exact hmask) (by rw [hown]; exact hlost)
  dsimp only
  rw [hpub]
  refine ⟨by rw [hown], by rw [hown], by rw [hown], ring_stands ha hmem hbase, hothers⟩

/-- R257, R273: the record of a computed verdict of a slot that generates. -/
theorem nextRecord_verdict {s : State} {n q : Nat} {v : VRec} {c : Cell} (hterm : (slotOf s n).w.term = none) (hrun : (slotOf s n).w.runOpen = false)
    (h : nextRecord s n = some (v, some (q, c))) : v.kind = 0 ∧ v.pos = (slotOf s n).w.published := by
  unfold nextRecord at h
  dsimp only at h
  rw [hterm, hrun] at h
  dsimp only at h
  split at h
  · exact nomatch h
  · rw [if_neg (by rintro ⟨c, -⟩; exact Bool.false_ne_true c)] at h
    split at h
    · injection h with h
      injection h with h1 h2
      rw [← h1]
      exact ⟨rfl, rfl⟩
    · exact nomatch h

/-- R254: a verdict that does not end its request is done with its place. -/
theorem recordDone_verdict {s : State} {n : Nat} {v : VRec} (hk : v.kind = 0) (ht : v.term = false) :
    recordDone s n v = setDeadline (modSlot (modSlot s n fun x => { x with r := { x.r with oseq := x.r.oseq + 1 }, w := { x.w with wait := false } }) n
      fun x => { x with w := { x.w with published := v.pos + 1 } }) n := by
  unfold recordDone
  dsimp only
  have h2 : ¬v.kind = 2 := by rw [hk]; decide
  have h1 : ¬v.kind = 1 := by rw [hk]; decide
  have hterm : ¬v.term = true := by rw [ht]; decide
  rw [if_neg h2, if_neg h1, if_neg hterm]

theorem stampCell_stands (s : State) (n p : Nat) (due turn : W32) :
    ∃ m, stampCell s n p due turn = { s with mem := m } ∧ ∀ y, memDead m y = memDead s.mem y := by
  unfold stampCell
  exact ⟨_, rfl, fun _ => rfl⟩

/-- R254, R257, R273: a committed verdict in its slot's ring entry. -/
theorem publish_verdict {s : State} {n : Nat} {v : VRec} {c : Cell} (hw : windowOpen s = true) (hom : (slotOf s n).r.omode = false)
    (hst : (slotOf s n).r.st = .generating) (hterm : (slotOf s n).w.term = none) (hrun : (slotOf s n).w.runOpen = false)
    (hmask : (slotOf s n).w.maskPos = []) (hcomp : (slotOf s n).w.computed ≤ (slotOf s n).w.published + 1)
    (hrec : nextRecord s n = some (v, some ((slotOf s n).w.published, c))) (hpz : c.pz = false)
    (hspan : spanOk (slotOf s n).w false (slotOf s n).w.published c = true) (hvt : v.term = false) (hdue : duePast s v.due = false)
    (ho : ownedByBlock s (ringEntry s n) = true) (ha : alive s (winAddr s (ringEntry s n)) 64)
    (happart : winAddr s (ringEntry s n) + 64 ≤ cellAddr s n (slotOf s n).w.published ∨ cellAddr s n (slotOf s n).w.published + 64 ≤ winAddr s (ringEntry s n)) :
    let s' := publish s n
    (slotOf s' n).r.oseq = (slotOf s n).r.oseq + 1 ∧ (slotOf s' n).w.published = (slotOf s n).w.published + 1 ∧ (slotOf s' n).r.st = .generating
      ∧ (owner s' (ringEntry s n) = 1 ∧ ∀ j w, (recordWords s n v)[j]? = some w → winWord s' (ringEntry s n + 8 * j) = w)
      ∧ ∀ j, j ≠ n → slotOf s' j = slotOf s j := by
  obtain ⟨hkind, hpos⟩ := nextRecord_verdict hterm hrun hrec
  have hsame (off : Nat) (hoff : winAddr s off + 8 ≤ cellAddr s n (slotOf s n).w.published ∨ cellAddr s n (slotOf s n).w.published + 64 ≤ winAddr s off) :
      winWord (stampCell s n (slotOf s n).w.published v.due v.turn) off = winWord s off :=
    memWord_memPutWords_other (by
      show winAddr s off + 8 ≤ _ ∨ _ + 16 ≤ winAddr s off
      omega)
  have ho' : ownedByBlock (stampCell s n (slotOf s n).w.published v.due v.turn) (ringEntry s n) = true := by
    unfold ownedByBlock owner
    have hplace : winAddr s (ringEntry s n + 56) = winAddr s (ringEntry s n) + 56 := (Nat.add_assoc ..).symm
    rw [hsame (ringEntry s n + 56) (by omega)]
    exact ho
  obtain ⟨m, hm, hdead⟩ := stampCell_stands s n (slotOf s n).w.published v.due v.turn
  have hstep : publishStep s n = (publishRing (stampCell s n (slotOf s n).w.published v.due v.turn) n v, true) := by
    unfold publishStep
    rw [if_neg (by rw [hw, hom]; decide), hrec]
    dsimp only
    rw [if_neg (by rw [hpz]; decide), if_neg (by rw [hkind]; simpa using hspan), if_pos ho]
  rw [hm] at ho' hstep
  have hplace : ringEntry { s with mem := m } n = ringEntry s n := rfl
  have hwords : recordWords { s with mem := m } n v = recordWords s n v := rfl
  have hdue' : duePast { s with mem := m } v.due = false := hdue
  have hslots : ({ s with mem := m } : State).slots = s.slots := rfl
  have hwin : ({ s with mem := m } : State).win = s.win := rfl
  have ha' : alive { s with mem := m } (winAddr s (ringEntry s n)) 64 := fun j hj => (hdead _).trans (ha j hj)
  generalize ({ s with mem := m } : State) = z at ho' hplace hwords hdue' hslots hwin ha' hstep
  rw [← hplace] at ho'
  have hput := putSlotWords_frame z (ringEntry z n) (recordWords z n v) 1
  have hdueput : duePast (putSlotWords z (ringEntry z n) (recordWords z n v) 1) v.due = false := hdue'
  have hring := publishRing_owned ho' (countLate_due hdueput)
  rw [recordDone_verdict hkind hvt] at hring
  have hslot (j : Nat) : slotOf z j = slotOf s j := slotOf_slots hslots j
  obtain ⟨dlv, deadline, hset⟩ := setDeadline_slot (modSlot (modSlot (putSlotWords z (ringEntry z n) (recordWords z n v) 1) n
    fun x => { x with r := { x.r with oseq := x.r.oseq + 1 }, w := { x.w with wait := false } }) n fun x => { x with w := { x.w with published := v.pos + 1 } }) n
  have hown : slotOf (publishRing z n v) n = { slotOf s n with
      r := { (slotOf s n).r with oseq := (slotOf s n).r.oseq + 1, dlv := dlv, deadline := deadline }
      w := { (slotOf s n).w with wait := false, published := (slotOf s n).w.published + 1 } } := by
    rw [hring, slotOf_slots (publishNotice_frame ..).slots, hset, slotOf_modSlot_same, slotOf_modSlot_same, slotOf_slots hput.slots, hslot, hpos]
  have hothers (j : Nat) (hj : j ≠ n) : slotOf (publishRing z n v) j = slotOf s j := by
    rw [hring, slotOf_slots (publishNotice_frame ..).slots, (setDeadline_step ..).others j hj, slotOf_modSlot_other _ _ _ _ hj,
      slotOf_modSlot_other _ _ _ _ hj, slotOf_slots hput.slots, hslot]
  have hmem : (publishRing z n v).mem = (putSlotWords z (ringEntry z n) (recordWords z n v) 1).mem := by
    rw [hring, publishNotice_mem]
    rfl
  have hbase : (publishRing z n v).win.base = z.win.base := by
    rw [hring, (publishNotice_frame ..).win]
    exact congrArg (·.base) hput.win
  have hpub : publish s n = publishRing z n v := by
    refine publish_one hstep (nextRecord_none ?_ ?_ ?_) ?_ ?_
    all_goals rw [hown]
    · exact hterm
    · exact hrun
    · exact hcomp
    · exact hmask
    · rw [hst]
      exact fun c => nomatch c
  have haddr : winAddr z (ringEntry z n) = winAddr s (ringEntry s n) := by rw [winAddr_of_win hwin, hplace]
  have hstands := ring_stands (s := z) (v := v) (by rw [haddr]; exact ha') hmem hbase
  rw [hplace, hwords] at hstands
  dsimp only
  rw [hpub]
  refine ⟨by rw [hown], by rw [hown], by rw [hown]; exact hst, hstands, hothers⟩

/-- R275: the state with the one terminal record of a tenant's turn in its open buffer. -/
def batchPlaced (s : State) (t : Nat) (n : Nat) (v : VRec) : State :=
  recordDone (winPut (countPoison s (winAddr s (poolAt s t)) 16) (bufferOff s t (bseqOf s t) + 64) (recordWords s n v ++ [0])) n v

/-- R275: a terminal record opens its tenant's next buffer. -/
theorem batchRecord_places {s : State} {n : Nat} {v : VRec} {turn : W32} {part : Nat} (hv : v.kind = 2)
    (hroom : bufferRoom s (slotOf s n).r.tenant.toNat = true) :
    batchRecord s n v turn { recs := 0, part := part, full := false }
      = (batchPlaced s (slotOf s n).r.tenant.toNat n v, { recs := 1, part := part, full := false }) := by
  unfold batchRecord
  dsimp only
  simp only [ne_eq, not_true_eq_false, false_and, if_false, if_true]
  unfold batchPlaced
  obtain ⟨p, hp⟩ := countPoison_ports s (winAddr s (poolAt s (slotOf s n).r.tenant.toNat)) 16
  rw [hp]
  have hroom' : bufferRoom { s with ports := p } (slotOf s n).r.tenant.toNat = true := hroom
  rw [if_pos hroom', countLate_terminal hv]
  rfl

theorem batchPlaced_slots {s : State} {t n : Nat} {v : VRec} (hv : v.kind = 2) :
    (slotOf (batchPlaced s t n v) n = { slotOf s n with
      r := { (slotOf s n).r with oseq := (slotOf s n).r.oseq + 1 }, w := { (slotOf s n).w with wait := false, term := none } })
      ∧ (batchPlaced s t n v).mem = memPutWords s.mem (winAddr s (bufferOff s t (bseqOf s t) + 64)) (recordWords s n v ++ [0])
      ∧ (batchPlaced s t n v).bseqs = s.bseqs ∧ (batchPlaced s t n v).bwaits = s.bwaits ∧ (batchPlaced s t n v).win = s.win
      ∧ (batchPlaced s t n v).su = s.su ∧ (batchPlaced s t n v).errs = s.errs := by
  obtain ⟨p, hp⟩ := countPoison_ports s (winAddr s (poolAt s t)) 16
  unfold batchPlaced
  rw [recordDone_terminal hv, hp]
  refine ⟨?_, rfl, rfl, rfl, rfl, rfl, rfl⟩
  rw [slotOf_modSlot_same, slotOf_modSlot_same]
  rfl

/-- R275: the one ended slot of a turn, its terminal record placed. -/
theorem batchSlots_places {s : State} {l : BatchLim} {v : VRec} {turn : W32} {part : Nat} (hl : l.term = true) (hg : (slotOf s l.slot).r.sgen = l.sgen)
    (he : slotEnded (slotOf s l.slot).r.st = true) (ht : (slotOf s l.slot).w.term = some v) (hv : v.kind = 2)
    (hroom : bufferRoom s (slotOf s l.slot).r.tenant.toNat = true) :
    batchSlots [l] s turn { recs := 0, part := part, full := false }
      = (batchPlaced s (slotOf s l.slot).r.tenant.toNat l.slot v, { recs := 1, part := part, full := false }) := by
  have hnone : nextRecord (batchPlaced s (slotOf s l.slot).r.tenant.toNat l.slot v) l.slot = none := by
    obtain ⟨hslot, -⟩ := batchPlaced_slots (s := s) (t := (slotOf s l.slot).r.tenant.toNat) (n := l.slot) hv
    exact nextRecord_ended (by rw [hslot]) (by rw [hslot]; exact (slotEnded_dead he).1)
  have hlim : inLim l v none = true := by
    unfold inLim
    rw [if_pos hv]
    exact hl
  have hslot (k : Nat) : batchSlot (k + 2) s l turn { recs := 0, part := part, full := false }
      = (batchPlaced s (slotOf s l.slot).r.tenant.toNat l.slot v, { recs := 1, part := part, full := false }) := by
    unfold batchSlot
    dsimp only
    rw [nextRecord_term ht]
    dsimp only
    rw [if_neg (by rw [hlim, hg]; simp), if_neg Bool.false_ne_true, batchRecord_places hv hroom]
    dsimp only
    rw [if_neg Bool.false_ne_true]
    unfold batchSlot
    dsimp only
    rw [hnone]
  unfold batchSlots
  dsimp only
  rw [hslot]
  rfl

/-- R275: the buffer of a turn handed over. -/
theorem closeBuffer_stands {s : State} {t : Nat} {turn : W32} {b : BatchTurn} {last : Bool}
    (ha : alive s (winAddr s (bufferOff s t (bseqOf s t))) 64) :
    let u := closeBuffer s t turn b last
    SlotHolds u (bufferOff s t (bseqOf s t))
        [mk64 (put t 48 16 + put b.part 32 16 + put (b2n last) 31 1 + put b.recs 0 16), mk64 (put turn.toNat 32 32 + put (bseqOf s t) 0 32)] 1
      ∧ bseqOf u t = (bseqOf s t + 1) % 2 ^ 32 ∧ u.slots = s.slots ∧ u.bwaits = s.bwaits ∧ u.win.base = s.win.base
      ∧ ∀ y, bytesApart y 1 (winAddr s (bufferOff s t (bseqOf s t))) 64 → memByte u.mem y = memByte s.mem y := by
  unfold closeBuffer
  extract_lets q s1 s2
  have hput : EventFrame s s1 := putSlotWords_frame ..
  have hframe := publishNotice_frame s2 (.tenant (BitVec.ofNat 16 t)) (BitVec.ofNat 32 q)
  have hmem : (publishNotice s2 (.tenant (BitVec.ofNat 16 t)) (BitVec.ofNat 32 q)).mem = s1.mem := publishNotice_mem ..
  have hbase : (publishNotice s2 (.tenant (BitVec.ofNat 16 t)) (BitVec.ofNat 32 q)).win.base = s1.win.base := by rw [hframe.win]
  have hholds := putSlotWords_holds (s := s) (off := bufferOff s t q)
    (ws := [mk64 (put t 48 16 + put b.part 32 16 + put (b2n last) 31 1 + put b.recs 0 16), mk64 (put turn.toNat 32 32 + put q 0 32), 0, 0, 0, 0, 0])
    1 ha (Nat.le_refl 7)
  refine ⟨(hholds.mem hmem hbase).words (forall_lt_seven rfl rfl rfl rfl rfl rfl rfl), ?_, hframe.slots.trans hput.slots,
    hframe.bwaits.trans hput.bwaits, hbase.trans (congrArg (·.base) hput.win), fun y hy => ?_⟩
  · unfold bseqOf
    rw [hframe.bseqs]
    exact smGet_smSet_same ..
  · rw [hmem]
    exact memByte_putSlotWords hy

/-- R274, R276: a tenant's one turn that waits, with one terminal record. -/
theorem drainTenant_terminal {s : State} {t : BitVec 16} {w : BatchWait} {l : BatchLim} {v : VRec} (hw : windowOpen s = true) (hb : s.bwaits = [w])
    (hwt : w.tenant = t) (hready : w.ready = true) (hlims : w.lims = [l]) (hl : l.term = true) (hg : (slotOf s l.slot).r.sgen = l.sgen)
    (htenant : (slotOf s l.slot).r.tenant = t) (he : slotEnded (slotOf s l.slot).r.st = true) (ht : (slotOf s l.slot).w.term = some v) (hv : v.kind = 2)
    (hroom : bufferRoom s t.toNat = true) :
    drainTenant s t = { closeBuffer (batchPlaced s t.toNat l.slot v) t.toNat w.turn { recs := 1, part := w.part, full := false } true with bwaits := [] } := by
  have hslots := batchSlots_places (turn := w.turn) (part := w.part) hl hg he ht hv (by rw [htenant]; exact hroom)
  rw [htenant] at hslots
  have hwaits : (closeBuffer (batchPlaced s t.toNat l.slot v) t.toNat w.turn { recs := 1, part := w.part, full := false } true).bwaits = [w] := by
    obtain ⟨-, -, -, hbw, -⟩ := batchPlaced_slots (s := s) (t := t.toNat) (n := l.slot) hv
    have hput := putSlotWords_frame (batchPlaced s t.toNat l.slot v) (bufferOff (batchPlaced s t.toNat l.slot v) t.toNat (bseqOf (batchPlaced s t.toNat l.slot v) t.toNat))
      [mk64 (put t.toNat 48 16 + put w.part 32 16 + put (b2n true) 31 1 + put 1 0 16),
        mk64 (put w.turn.toNat 32 32 + put (bseqOf (batchPlaced s t.toNat l.slot v) t.toNat) 0 32), 0, 0, 0, 0, 0] 1
    unfold closeBuffer
    dsimp only
    rw [(publishNotice_frame ..).bwaits]
    exact hput.bwaits.trans (hbw.trans hb)
  have hfind : [w].find? (fun w => w.tenant == t) = some w := by simp [hwt]
  unfold drainTenant
  rw [hb]
  unfold drainBatches
  dsimp only
  rw [hb, hfind]
  dsimp only
  rw [if_neg (by rw [hready, hw]; decide), hlims, hslots]
  dsimp only
  rw [if_neg Bool.false_ne_true, if_neg (by decide), hwaits]
  have hgone : [w].filter (fun x => x != w) = [] := by simp
  rw [hgone]
  unfold drainBatches
  rfl

/-- R328: words written apart from a tenant's entry in the pool table leave its buffers where they are. -/
theorem bufferOff_apart {s s' : State} {t q a : Nat} {ws : List W64} (hm : s'.mem = memPutWords s.mem (winAddr s a) ws) (hw : s'.win = s.win)
    (h : poolAt s t + 16 ≤ a ∨ a + 8 * ws.length ≤ poolAt s t) : bufferOff s' t q = bufferOff s t q := by
  have hat : poolAt s' t = poolAt s t := by
    unfold poolAt dirWord
    rw [hw]
  have hword (k : Nat) (hk : k ≤ 8) : winWord s' (poolAt s t + k) = winWord s (poolAt s t + k) := by
    unfold winWord
    rw [winAddr_of_win hw, hm]
    refine memWord_memPutWords_other ?_
    unfold winAddr
    omega
  unfold bufferOff poolOf
  dsimp only
  rw [hat, hword 8 (by omega), show winWord s' (poolAt s t) = winWord s (poolAt s t) from hword 0 (by omega)]

/-- R328: words put into a buffer past its first 64 bytes are still read there once its header has been written. -/
theorem words_pastHeader {s p u : State} {off j : Nat} {ws : List W64} {y : W64} (hlen : ws.length = 8)
    (hmem : p.mem = memPutWords s.mem (winAddr s (off + 64)) ws) (hbase : u.win.base = s.win.base)
    (hbytes : ∀ y, bytesApart y 1 (winAddr s off) 64 → memByte u.mem y = memByte p.mem y)
    (ha : ∀ j, j < 128 → memDead s.mem (winAddr s off + j) = false) (hy : ws[j]? = some y) : winWord u (off + 64 + 8 * j) = y := by
  have hj : j < 8 := hlen ▸ (List.getElem?_eq_some_iff.mp hy).1
  have haddr : winAddr u (off + 64 + 8 * j) = winAddr s (off + 64) + 8 * j := by
    unfold winAddr
    rw [hbase]
    omega
  have hput : memWord (memPutWords s.mem (winAddr s (off + 64)) ws) (winAddr s (off + 64) + 8 * j) = y :=
    memWord_memPutWords_same hy fun k hk => by
      have : winAddr s (off + 64) + 8 * j + k = winAddr s off + (64 + 8 * j + k) := by
        unfold winAddr
        omega
      rw [this]
      exact ha _ (by omega)
  unfold winWord
  rw [haddr, ← hput, ← hmem]
  refine memWord_congr fun k hk => hbytes _ ?_
  unfold bytesApart winAddr
  omega

/-- Settles O37, by what has returned. -/
theorem verdictPublished : Obligations.VerdictPublished := by
  refine ⟨fun s k hw => exec_next rfl (if_pos (by rw [hw]; rfl)), fun s hw => ?_, fun s t hw hnone => ?_, fun s t w l v => ?_, fun s n v => ?_,
    fun s n v c => ?_⟩
  · have hopen (k : ReturnKey) : ¬(!windowOpen s) = true := by rw [hw]; decide
    exact ⟨fun n => exec_next rfl (if_neg (hopen (.slot n))), fun t => exec_next rfl (if_neg (hopen (.tenant t)))⟩
  · have hfind : s.bwaits.find? (fun w => w.tenant == t) = none := by simpa using hnone
    have hdrain : drainTenant s t = s := by
      unfold drainTenant drainBatches
      rw [hfind]
    refine exec_next rfl ((if_neg (by rw [hw]; decide)).trans ?_)
    show afterBatches (drainTenant s t) = _
    rw [hdrain]
  · intro x q off pool hw hb hwt hready hlims hl hg htenant he ht hv hroom ha happart
    have hdrain := drainTenant_terminal hw hb hwt hready hlims hl hg htenant he ht hv hroom
    obtain ⟨hslot, hmem, hbseqs, -, hwin, -, -⟩ := batchPlaced_slots (s := s) (t := t.toNat) (n := l.slot) hv
    have hseq : bseqOf (batchPlaced s t.toNat l.slot v) t.toNat = q := by
      show smGet 0 (batchPlaced s t.toNat l.slot v).bseqs t.toNat = _
      rw [hbseqs]
      rfl
    have hlen : (recordWords s l.slot v ++ [0]).length = 8 := rfl
    have hput : (batchPlaced s t.toNat l.slot v).mem = memPutWords s.mem (winAddr s (off + 64)) (recordWords s l.slot v ++ [0]) := hmem
    have hoff : bufferOff (batchPlaced s t.toNat l.slot v) t.toNat q = off := bufferOff_apart hmem hwin (by
      rw [hlen]
      show pool + 16 ≤ off + 64 ∨ off + 64 + 64 ≤ pool
      omega)
    have hplace : winAddr (batchPlaced s t.toNat l.slot v) = winAddr s := winAddr_of_win hwin
    have hclose := closeBuffer_stands (s := batchPlaced s t.toNat l.slot v) (t := t.toNat) (turn := w.turn)
      (b := { recs := 1, part := w.part, full := false }) (last := true)
    rw [hseq, hoff, hplace] at hclose
    obtain ⟨hholds, hnext, hslots, -, hbase, hbytes⟩ := hclose fun j hj => by
      rw [hmem]
      exact ha j (by omega)
    generalize closeBuffer (batchPlaced s t.toNat l.slot v) t.toNat w.turn { recs := 1, part := w.part, full := false } true = u
      at hdrain hholds hnext hslots hbase hbytes
    generalize batchPlaced s t.toNat l.slot v = p at hwin hput hbytes hbase
    clear_value off
    have hhead : winWord u off = mk64 (put t.toNat 48 16 + put w.part 32 16 + put 1 31 1 + put 1 0 16) := hholds.1 0 (by decide)
    have hturn : winWord u (off + 8) = mk64 (put w.turn.toNat 32 32 + put q 0 32) := hholds.1 1 (by decide)
    refine ⟨{ u with bwaits := [] }, exec_next rfl ((if_neg (by rw [hw]; decide)).trans ?_), rfl, ?_, ?_, hnext, ?_, hhead, hturn, fun j y hy => ?_⟩
    · show afterBatches (drainTenant s t) = _
      rw [hdrain]
    · show (slotOf u l.slot).w.term = none
      rw [slotOf_slots hslots, hslot]
    · show (slotOf u l.slot).r.oseq = _
      rw [slotOf_slots hslots, hslot]
    · show fld (winWord u (off + 56)) 62 2 = 1
      rw [hholds.2]
      decide
    · exact words_pastHeader hlen hput (hbase.trans (congrArg (·.base) hwin)) hbytes ha hy
  · intro x off hw hom he ht hv hmask ho ha
    obtain ⟨hoseq, hterm, hst, ⟨hown, hwords⟩, hothers⟩ := publish_terminal hw hom he ht hv hmask ho ha
    exact ⟨_, exec_next rfl (if_neg (by rw [hw]; decide)), hoseq, hterm, hst, hown, hwords, hothers⟩
  · intro k x q off hw hom hst ht hrun hmasks hmask hcomp hrec hpz hspan hvt hdue ho ha happart
    obtain ⟨hoseq, hpub, hst', ⟨hown, hwords⟩, hothers⟩ := publish_verdict hw hom hst ht hrun hmask hcomp hrec hpz hspan hvt hdue ho ha happart
    exact ⟨_, exec_next rfl (if_neg (by rw [hw]; decide)), hoseq, hpub, hst', hown, hwords, hothers⟩

end Sys2Proof.Machine
end

section
/-! SUPPORT. The items that go out by the OUT slots, and the items that arrive. -/

namespace Sys2Proof.Machine

/-- R354: all of a state that sending items can change of what an exchange reads: of a half its OUT ring, its queue, and its events. -/
structure OutFrame (s s' : State) : Prop where
  tiles : s'.tiles = s.tiles
  slots : s'.slots = s.slots
  group : s'.group = s.group
  half : ∀ k, half s' k = { Machine.half s k with
    eseq := (Machine.half s' k).eseq, evDropped := (Machine.half s' k).evDropped, outNext := (Machine.half s' k).outNext
    outQueue := (Machine.half s' k).outQueue, outWait := (Machine.half s' k).outWait }

theorem OutFrame.refl (s : State) : OutFrame s s := ⟨rfl, rfl, rfl, fun _ => rfl⟩

theorem OutFrame.trans {a b c : State} (h : OutFrame a b) (k : OutFrame b c) : OutFrame a c :=
  ⟨k.tiles.trans h.tiles, k.slots.trans h.slots, k.group.trans h.group, fun x => by rw [k.half x, h.half x]⟩

theorem EventFrame.out {s s' : State} (h : EventFrame s s') : OutFrame s s' :=
  ⟨h.tiles, h.slots, h.group, fun k => by rw [h.half_eq k]⟩

/-- An update of a half's OUT ring and of its queue. -/
theorem modHalf_out {s : State} {h : Half} {f : HalfState → HalfState}
    (hf : ∀ x, f x = { x with outNext := (f x).outNext, outQueue := (f x).outQueue, outWait := (f x).outWait }) : OutFrame s (modHalf s h f) := by
  refine ⟨by cases h <;> rfl, by cases h <;> rfl, by cases h <;> rfl, fun k => ?_⟩
  by_cases e : k = h
  · subst e
    rw [half_modHalf_same, hf]
  · rw [half_modHalf_other _ _ _ _ e]

/-- R354: an item is written whole into the OUT slot at `off`. -/
def itemPut (s : State) (off : Nat) (i : Item) : State :=
  putSlotWords { s with mem := memWrite s.mem (winAddr s (off + 64)) i.body } off (itemWords i ++ [0, 0, 0]) 1

theorem itemPut_frame (s : State) (off : Nat) (i : Item) : EventFrame s (itemPut s off i) :=
  EventFrame.trans (b := { s with mem := memWrite s.mem (winAddr s (off + 64)) i.body }) (by constructor <;> rfl) (putSlotWords_frame ..)

/-- R353, R354: an item written stands in its slot, and no other byte changes. -/
theorem itemPut_stands {s : State} {off : Nat} {i : Item} (ha : alive s (winAddr s off) (64 + i.body.length)) :
    ItemStands (itemPut s off i) off i
      ∧ ∀ y, bytesApart y 1 (winAddr s off) (64 + i.body.length) → memByte (itemPut s off i).mem y = memByte s.mem y := by
  have hplace : winAddr s (off + 64) = winAddr s off + 64 := by
    unfold winAddr
    omega
  have hlen : (itemWords i ++ [0, 0, 0]).length = 7 := rfl
  refine ⟨⟨?_, fun j x hx => ?_⟩, fun y hy => ?_⟩
  · have hholds := putSlotWords_holds (s := { s with mem := memWrite s.mem (winAddr s (off + 64)) i.body }) (off := off)
      (ws := itemWords i ++ [0, 0, 0]) 1 (fun j hj => ha j (by omega)) (Nat.le_of_eq hlen.symm)
    exact hholds.words (forall_lt_seven rfl rfl rfl rfl rfl rfl rfl)
  · obtain ⟨hj, rfl⟩ := List.getElem?_eq_some_iff.mp hx
    have hbody : memByte (memWrite s.mem (winAddr s (off + 64)) i.body) (winAddr s (off + 64) + j) = i.body[j].1 :=
      memByte_memWrite_same _ _ _ j hj (by
        rw [hplace, Nat.add_assoc]
        exact ha _ (by omega))
    have hapart : bytesApart (winAddr s (off + 64) + j) 1 (winAddr s off) 64 := .inr (by omega)
    have haddr : winAddr (itemPut s off i) off + 64 + j = winAddr s (off + 64) + j := congrArg (· + j) hplace.symm
    rw [haddr, ← hbody]
    exact memByte_putSlotWords (s := { s with mem := memWrite s.mem (winAddr s (off + 64)) i.body }) hapart
  · unfold bytesApart at hy
    refine (memByte_putSlotWords (s := { s with mem := memWrite s.mem (winAddr s (off + 64)) i.body }) ?_).trans
      (memByte_memWrite_other _ _ _ _ ?_)
    · show y + 1 ≤ winAddr s off ∨ winAddr s off + 64 ≤ y
      omega
    · rw [hplace]
      omega

theorem ItemStands.mem {s s' : State} {off : Nat} {i : Item} (h : ItemStands s off i) (hm : s'.mem = s.mem) (hw : s'.win.base = s.win.base) :
    ItemStands s' off i := by
  obtain ⟨hslot, hbody⟩ := h
  refine ⟨hslot.mem hm hw, fun j x hx => ?_⟩
  rw [← hbody j x hx, hm]
  unfold winAddr
  rw [hw]

theorem drainOut_free {s : State} {h : Half} {k : Nat} {i : Item} (is : List Item) (hf : freeOut s h = some k) :
    drainOut (i :: is) s h = drainOut is (modHalf (itemPut s (xchSlot s (outRing h) k) i) h fun x =>
      { x with outNext := (k + 1) % 2 ^ s.group.areaLog2.toNat }) h := by
  rw [drainOut, hf]
  rfl

/-- R354: the items that cannot go wait in their order, the others are gone. -/
theorem drainOut_out (is : List Item) (s : State) (h : Half) :
    OutFrame s (drainOut is s h) ∧ ∃ n, (half (drainOut is s h) h).outQueue = is.drop n := by
  induction is generalizing s with
  | nil =>
    refine ⟨modHalf_out fun _ => rfl, 0, ?_⟩
    unfold drainOut
    rw [half_modHalf_same]
    rfl
  | cons i is ih =>
    cases hf : freeOut s h with
    | some k =>
      rw [drainOut_free is hf]
      obtain ⟨hframe, n, hn⟩ := ih (modHalf (itemPut s (xchSlot s (outRing h) k) i) h fun x =>
        { x with outNext := (k + 1) % 2 ^ s.group.areaLog2.toNat })
      exact ⟨((itemPut_frame ..).out.trans (modHalf_out fun _ => rfl)).trans hframe, n + 1, hn⟩
    | none =>
      rw [drainOut, hf]
      dsimp only
      have hwait : OutFrame s (modHalf s h fun x => { x with outQueue := i :: is, outWait := true }) := modHalf_out fun _ => rfl
      split
      · refine ⟨hwait, 0, ?_⟩
        rw [half_modHalf_same]
        rfl
      · have hevent := sendHalfEvent_frame (modHalf s h fun x => { x with outQueue := i :: is, outWait := true }) h 0x0505 (mk64 (halfNum h))
        refine ⟨hwait.trans hevent.out, 0, ?_⟩
        rw [hevent.half_eq h, half_modHalf_same]
        rfl

/-- R354: the one item that waits is written into the next free OUT slot. -/
theorem drainOut_single {s : State} {h : Half} {k : Nat} {i : Item} (hf : freeOut s h = some k) :
    let u := drainOut [i] s h
    let o := xchSlot s (outRing h) k
    (half u h).outQueue = [] ∧ (half u h).outWait = false ∧ (half u h).outNext = (k + 1) % 2 ^ s.group.areaLog2.toNat
      ∧ (alive s (winAddr s o) (64 + i.body.length) →
        ItemStands u o i ∧ ∀ y, bytesApart y 1 (winAddr s o) (64 + i.body.length) → memByte u.mem y = memByte s.mem y) := by
  intro u o
  have hu : u = modHalf (modHalf (itemPut s o i) h fun x => { x with outNext := (k + 1) % 2 ^ s.group.areaLog2.toNat }) h
      fun x => { x with outQueue := [], outWait := false } := drainOut_free [] hf
  clear_value u
  subst hu
  simp only [half_modHalf_same, true_and]
  intro ha
  obtain ⟨hstands, hbytes⟩ := itemPut_stands ha
  refine ⟨hstands.mem ?_ ?_, ?_⟩
  · simp only [modHalf_mem]
  · simp only [modHalf_win]
  · simpa only [modHalf_mem] using hbytes

end Sys2Proof.Machine
end

section
/-! SUPPORT. The items that arrive, and an exchange that times out. -/

namespace Sys2Proof.Machine

/-- R353: an item that BLOCK owns is taken in: its poison is counted, its slot handed back. -/
def received (s : State) (h : Half) (k : Nat) : State :=
  let off := xchSlot s (inRing h) k
  setOwner (countPoison s (winAddr s off) (64 + (readItem s off).body.length)) off 1

theorem takeIn_owned {s : State} {h : Half} {k : Nat} (hw : windowOpen s = true) (hk : k < 2 ^ s.group.areaLog2.toNat)
    (ho : ownedByBlock s (xchSlot s (inRing h) k) = true) :
    takeIn s h k = some (xchSlot s (inRing h) k, readItem s (xchSlot s (inRing h) k), received s h k) := if_pos ⟨hw, hk, ho⟩

theorem arriveItem_ok {s : State} {h : Half} {k kind : Nat} {f : State → Half → Item → State} (hw : windowOpen s = true)
    (hk : k < 2 ^ s.group.areaLog2.toNat) (ho : ownedByBlock s (xchSlot s (inRing h) k) = true) (hok : itemOk s (xchSlot s (inRing h) k) = true)
    (hkind : (readItem s (xchSlot s (inRing h) k)).kind = kind) :
    arriveItem s h k kind f = f (received s h k) h (readItem s (xchSlot s (inRing h) k)) := by
  unfold arriveItem
  rw [takeIn_owned hw hk ho]
  dsimp only
  rw [if_neg (by rw [hok]; decide), if_pos hkind]

/-- R349, R353: taking an item in changes the ports' counters, and memory behind the same ports. -/
theorem received_stores (s : State) (h : Half) (k : Nat) :
    ∃ ports mem, received s h k = { s with ports := ports, mem := mem } ∧ ∀ a, memDead mem a = memDead s.mem a := by
  obtain ⟨ports, hports⟩ := countPoison_ports s (winAddr s (xchSlot s (inRing h) k)) (64 + (readItem s (xchSlot s (inRing h) k)).body.length)
  unfold received setOwner winPut
  dsimp only
  rw [hports]
  exact ⟨ports, _, rfl, fun _ => rfl⟩

section
variable (s : State) (ports : SMap MemPort) (mem : Mem)

/-- R366: the blocks of a body are read by the code tables alone. -/
theorem decodeBody_stores (width n : Nat) (bs : List PByte) :
    decodeBody { s with ports := ports, mem := mem } width n bs = decodeBody s width n bs := by
  induction n generalizing bs with
  | zero => rfl
  | succ n ih =>
    unfold decodeBody
    simp only [ih]
    rfl

theorem dataBlocks_stores (i : Item) : dataBlocks { s with ports := ports, mem := mem } i = dataBlocks s i := by
  unfold dataBlocks
  rw [decodeBody_stores]

end

/-- R353: an item without the fields in which its sendings may differ, by which its NAKs are counted. -/
def nakKey (i : Item) : Item := { i with replay := 0, size := 0, body := [], coded := false }

theorem nakCount_counted {s u : State} {h : Half} {i : Item} {n : Nat}
    (hn : (half u h).naks = ((half s h).naks.filter fun p => p.1 != nakKey i) ++ [(nakKey i, n)]) : nakCount u h i = n := by
  have hgone : ((half s h).naks.filter fun p => p.1 != nakKey i).find? (fun p => p.1 == nakKey i) = none := by
    rw [List.find?_eq_none]
    intro p hp c
    have := (List.mem_filter.mp hp).2
    rw [beq_iff_eq.mp c] at this
    simp at this
  unfold nakCount
  rw [hn]
  change (Option.map _ (List.find? (fun p : Item × Nat => p.1 == nakKey i) _)).getD 0 = n
  rw [List.find?_append, hgone]
  simp

theorem pushOut_out (s : State) (h : Half) (i : Item) : OutFrame s (pushOut s h i) := (drainOut_out ..).1

/-- R356: a NAK is counted for its item, and changes nothing else of the half's log. -/
theorem sendNak_counts (s : State) (h : Half) (i : Item) (r : Nat) :
    (sendNak s h i r).tiles = s.tiles ∧ (sendNak s h i r).slots = s.slots ∧ (half (sendNak s h i r) h).log = (half s h).log
      ∧ nakCount (sendNak s h i r) h i = nakCount s h i + 1 := by
  unfold sendNak
  extract_lets key n
  have hframe := pushOut_out (modHalf s h fun x => { x with naks := (x.naks.filter fun p => p.1 != key) ++ [(key, n + 1)] }) h
    (replyItem s i 4 false r)
  refine ⟨hframe.tiles.trans (by cases h <;> rfl), hframe.slots.trans (by cases h <;> rfl), ?_, nakCount_counted (s := s) (n := n + 1) ?_⟩
  all_goals rw [hframe.half h, half_modHalf_same]
  rfl

/-- The log's entry of a good item. -/
def logEntry (i : Item) (ws : List QWord) : LogItem :=
  { src := i.src, stile := i.stile, dtile := i.dtile, chan := i.chan, scale := i.scale, turn := i.turn, xid := i.xid, words := ws, pz := false, ce := 0 }

/-- R355: a good item is logged. -/
theorem logAck_logs (s : State) (h : Half) (i : Item) (ws : List QWord) :
    (logAck s h i ws false).tiles = s.tiles ∧ (logAck s h i ws false).slots = s.slots
      ∧ (half (logAck s h i ws false) h).log = (half s h).log ++ [logEntry i ws] ∧ (half (logAck s h i ws false) h).pairs = (half s h).pairs := by
  unfold logAck
  extract_lets l
  have hframe := pushOut_out (modHalf s h fun x => { x with log := x.log ++ [l] }) h (replyItem s i 3 false 0)
  refine ⟨hframe.tiles.trans (by cases h <;> rfl), hframe.slots.trans (by cases h <;> rfl), ?_, ?_⟩
  all_goals rw [hframe.half h, half_modHalf_same]
  rfl

theorem loggedItem_none {s : State} {h : Half} {i : Item} {sc : Bool} (hl : logged s h i sc = false) : loggedItem s h i sc = none :=
  Option.not_isSome_iff_eq_none.mp (by rw [show (loggedItem s h i sc).isSome = false from hl]; exact Bool.false_ne_true)

/-- An item whose turn is over, or whose sender is absent, is not taken: this is neither. -/
theorem fresh_iff {s : State} {h : Half} {i : Item} (ht : turnStale s h i.turn = false) (ha : isAbsent s i.src = false) :
    ¬(turnStale s h i.turn || isAbsent s i.src) = true := by
  rw [ht, ha]
  decide

/-- R365: a coded DATA item with good blocks waits for its SCALE item. -/
theorem takeData_waits {s : State} {h : Half} {i : Item} (ht : turnStale s h i.turn = false) (ha : isAbsent s i.src = false)
    (hc : i.coded = true) (hl : logged s h i false = false) (hgood : (dataBlocks s i).2.1 = none) (hp : pairOf s h i = none)
    (hs : logged s h i true = false) :
    takeData s h i = modHalf s h fun x => { x with
      pairs := x.pairs ++ [{ item := i, words := (dataBlocks s i).2.2, seqs := (dataBlocks s i).1.map (·.seq) }] } := by
  unfold takeData
  rw [if_neg (fresh_iff ht ha), loggedItem_none hl]
  dsimp only
  rw [if_neg (by rw [hc]; decide), hgood, hp]
  dsimp only
  rw [if_neg (by rw [hs]; decide)]

/-- R356: a coded DATA item with a bad block is NAKed. -/
theorem takeData_naks {s : State} {h : Half} {i : Item} {r : Nat} (ht : turnStale s h i.turn = false) (ha : isAbsent s i.src = false)
    (hc : i.coded = true) (hsc : i.scale = false) (hl : logged s h i false = false) (hbad : (dataBlocks s i).2.1 = some r)
    (hn : nakCount s h i < 2) : takeData s h i = sendNak s h i r := by
  have hstill : logged (sendNak s h i r) h i i.scale = false := by
    have hlog : loggedItem (sendNak s h i r) h i false = loggedItem s h i false := by
      obtain ⟨-, -, h3, -⟩ := sendNak_counts s h i r
      unfold loggedItem
      rw [h3]
    rw [hsc]
    exact (congrArg Option.isSome hlog).trans hl
  unfold takeData
  rw [if_neg (fresh_iff ht ha), loggedItem_none hl]
  dsimp only
  rw [if_neg (by rw [hc]; decide), hbad]
  dsimp only [settle]
  rw [if_pos hn]
  unfold releasePair
  rw [hstill]
  split <;> rfl

/-- R353: a good DATA item without a code is logged. -/
theorem takeData_logs {s : State} {h : Half} {i : Item} (ht : turnStale s h i.turn = false) (ha : isAbsent s i.src = false)
    (hc : i.coded = false) (hl : logged s h i false = false) (hlen : i.body.length = i.size) (hsize : i.size = 256 * i.words)
    (hp : (half s h).pairs = []) : takeData s h i = logAck s h i (bytesPacket i.words i.body) false := by
  have hnone : pairOf (logAck s h i (bytesPacket i.words i.body) false) h i = none := by
    unfold pairOf
    obtain ⟨-, -, -, hpairs⟩ := logAck_logs s h i (bytesPacket i.words i.body)
    rw [hpairs, hp]
    rfl
  have hok : (i.body.length == i.size && i.size == 256 * i.words) = true := by
    rw [hlen, hsize]
    simp
  have hwords : dataPacket i [] = bytesPacket i.words i.body := if_neg (by rw [hc]; exact Bool.false_ne_true)
  unfold takeData
  rw [if_neg (fresh_iff ht ha), loggedItem_none hl]
  dsimp only
  rw [if_pos (by rw [hc]; decide), hok, hwords, if_pos rfl, if_pos rfl]
  show releasePair (logAck s h i (bytesPacket i.words i.body) false) h i = _
  unfold releasePair
  rw [hnone]

/-- R365: a good SCALE item whose DATA item is logged is logged too. -/
theorem takeScale_logs {s : State} {h : Half} {i : Item} (ht : turnStale s h i.turn = false) (ha : isAbsent s i.src = false)
    (hl : logged s h i true = false) (hd : logged s h i false = true) (hlen : i.body.length = i.size) (hsize : i.size = 256 * i.words) :
    takeScale s h i = logAck s h i (bytesPacket i.words i.body) false := by
  unfold takeScale
  rw [if_neg (fresh_iff ht ha), loggedItem_none hl]
  dsimp only
  rw [if_neg (by rw [hlen, hsize]; simp), if_pos hd]

/-- R355: an ACK drops the packets kept for it. -/
theorem takeAck_drops {s : State} {h : Half} {i : Item} (ha : isAbsent s i.src = false)
    (hall : (half s (tileHalf i.stile.toNat)).kept.filter (fun d => !keptFor d i) = [])
    (hsome : ∃ d ∈ (half s (tileHalf i.stile.toNat)).kept, keptFor d i = true) :
    (half (takeAck s h i) (tileHalf i.stile.toNat)).kept = [] ∧ (takeAck s h i).slots = s.slots := by
  obtain ⟨d, hd, hfor⟩ := hsome
  have hfound : ((half s (tileHalf i.stile.toNat)).kept.find? (keptFor · i)).isSome = true := List.find?_isSome.mpr ⟨d, hd, hfor⟩
  obtain ⟨k, hk⟩ := Option.isSome_iff_exists.mp hfound
  unfold takeAck
  dsimp only
  rw [if_neg (by rw [ha]; exact Bool.false_ne_true), hk]
  dsimp only
  generalize tileHalf i.stile.toNat = f at hall
  have hkept (k : Kept) : (half (acceptSend (modHalf s f fun x => { x with kept := x.kept.filter fun d => !keptFor d i }) k.tile.toNat k.chan k.xid) f).kept
      = [] := (congrArg HalfState.kept (half_modHalf_same ..)).trans hall
  unfold kick
  rw [hkept]
  unfold kickSends
  refine ⟨by rw [half_modHalf_same], ?_⟩
  cases f <;> rfl

/-- R356: a kept packet as it is sent again. -/
def nextSending (d : Kept) : Kept := { d with replay := d.replay + 1, ce := 0 }

/-- R356: the state in which the packet `d`, which a NAK asks for, goes out again. -/
def resent (s : State) (f : Half) (i : Item) (d : Kept) : State :=
  let s1 := modHalf s f fun x => { x with
    kept := x.kept.map fun e => if keptFor e i then { nextSending d with gen := (keptItem s (nextSending d)).2 } else e }
  countStage { s1 with group := { s1.group with replays := inc16 s1.group.replays } } d.ce

theorem takeNak_resends {s : State} {h : Half} {i : Item} {d : Kept} (ha : isAbsent s i.src = false)
    (hk : (half s (tileHalf i.stile.toNat)).kept = [d]) (hf : keptFor d i = true) :
    takeNak s h i = pushOut (resent s (tileHalf i.stile.toNat) i d) (tileHalf i.stile.toNat) (keptItem s (nextSending d)).1 := by
  have hfind : (half s (tileHalf i.stile.toNat)).kept.find? (keptFor · i) = some d := by
    rw [hk]
    simp [hf]
  unfold takeNak
  dsimp only
  rw [if_neg (by rw [ha]; exact Bool.false_ne_true), hfind]
  rfl

/-- What sending a packet again leaves of the state around it. -/
theorem resent_stands (s : State) (f : Half) (i : Item) (d : Kept) :
    (resent s f i d).tiles = s.tiles ∧ (resent s f i d).slots = s.slots ∧ (resent s f i d).mem = s.mem
      ∧ (resent s f i d).group.replays = inc16 s.group.replays ∧ freeOut (resent s f i d) f = freeOut s f
      ∧ (half (resent s f i d) f).outQueue = (half s f).outQueue
      ∧ (half (resent s f i d) f).kept = (half s f).kept.map fun e =>
          if keptFor e i then { nextSending d with gen := (keptItem s (nextSending d)).2 } else e := by
  cases f <;> exact ⟨rfl, rfl, rfl, rfl, rfl, rfl, rfl⟩

/-- R356: the packet a NAK asks for stays kept, one sending further, and goes out again. -/
theorem takeNak_retains {s : State} {h : Half} {i : Item} {d : Kept} (ha : isAbsent s i.src = false)
    (hk : (half s (tileHalf i.stile.toNat)).kept = [d]) (hf : keptFor d i = true) :
    (half (takeNak s h i) (tileHalf i.stile.toNat)).kept = [{ nextSending d with gen := (keptItem s (nextSending d)).2 }]
      ∧ (takeNak s h i).group.replays = inc16 s.group.replays ∧ (takeNak s h i).slots = s.slots ∧ (takeNak s h i).tiles = s.tiles := by
  rw [takeNak_resends ha hk hf]
  generalize tileHalf i.stile.toNat = f at hk
  obtain ⟨htiles, hslots, -, hreplays, -, -, hkept⟩ := resent_stands s f i d
  have hframe := pushOut_out (resent s f i d) f (keptItem s (nextSending d)).1
  refine ⟨?_, (congrArg (·.replays) hframe.group).trans hreplays, hframe.slots.trans hslots, hframe.tiles.trans htiles⟩
  rw [hframe.half f]
  show (half (resent s f i d) f).kept = _
  rw [hkept, hk, List.map_singleton, if_pos hf]

/-- R354, R356: the item sent again stands in the free OUT slot where none waits before it. -/
theorem takeNak_places {s : State} {h : Half} {i : Item} {d : Kept} {o : Nat} (ha : isAbsent s i.src = false)
    (hk : (half s (tileHalf i.stile.toNat)).kept = [d]) (hf : keptFor d i = true) (hh : tileHalf i.stile.toNat = h)
    (hq : (half s h).outQueue = []) (ho : freeOut s h = some o) :
    let x := (keptItem s (nextSending d)).1
    alive s (winAddr s (xchSlot s (outRing h) o)) (64 + x.body.length) →
      ItemStands (takeNak s h i) (xchSlot s (outRing h) o) x
        ∧ ∀ y, bytesApart y 1 (winAddr s (xchSlot s (outRing h) o)) (64 + x.body.length) → memByte (takeNak s h i).mem y = memByte s.mem y := by
  rw [takeNak_resends ha hk hf, hh]
  obtain ⟨-, -, hmem, -, hfree, hqueue, -⟩ := resent_stands s h i d
  obtain ⟨-, -, -, hplaced⟩ := drainOut_single (i := (keptItem s (nextSending d)).1) (hfree.trans ho)
  unfold pushOut
  rw [hqueue, hq]
  have hoff : xchSlot (resent s h i d) = xchSlot s := by cases h <;> rfl
  have hbase : winAddr (resent s h i d) = winAddr s := by cases h <;> rfl
  unfold alive at hplaced
  rw [hoff, hbase, hmem] at hplaced
  exact hplaced

end Sys2Proof.Machine
end

section
/-! SUPPORT. A RECV whose item does not come. -/

namespace Sys2Proof.Machine

theorem addSigs_queues (fs : List InFlight) (tl : Tile) : (fs.foldl addSig tl).queues = tl.queues := by
  have hone (x : Tile) (f : InFlight) : (addSig x f).queues = x.queues := by
    unfold addSig
    dsimp only
    split
    · rfl
    · split <;> rfl
  induction fs generalizing tl with
  | nil => rfl
  | cons f fs ih => exact (ih _).trans (hone tl f)

/-- R79: signals change no queue, and nothing of the plan group. -/
theorem signal_queues (s : State) (t : Nat) (e : Eng) :
    (tileOf (signal s t e) t).queues = (tileOf s t).queues ∧ (signal s t e).group = s.group := by
  unfold signal
  extract_lets tl r tl1 _ s1
  have h1 : (tileOf s1 t).queues = tl.queues := by
    show (tileOf (setTile s t _) t).queues = _
    rw [tileOf_setTile_same]
    exact addSigs_queues ..
  split
  · exact ⟨h1, rfl⟩
  · next i _ =>
    obtain ⟨b, f, htile⟩ := tileOf_tileFault s1 t 0x03 0 (engNum e) i
    refine ⟨?_, (tileFault_frame s1 t 0x03 0 (engNum e) i).group⟩
    rw [htile]
    exact h1

theorem finish_queues (s : State) (t : Nat) (e : Eng) (k : Nat) :
    (tileOf (finish s t e k) t).queues = (tileOf s t).queues ∧ (finish s t e k).group = s.group := by
  obtain ⟨hq, hg⟩ := signal_queues (setTile s t (modFlight (tileOf s t) e k fun f => { f with done := true })) t e
  refine ⟨hq.trans ?_, hg⟩
  rw [tileOf_setTile_same]
  rfl

/-- R126: a packet of zeros with poison is the same packet however it is marked. -/
theorem poisonPacket_marked (n : Nat) (b : Bool) : ((poisonPacket n).map fun w => markWord b (poisonZero w)) = poisonPacket n := by
  unfold poisonPacket
  rw [List.map_replicate]
  cases b <;> rfl

/-- R126: the packet of a RECV that has none to take is committed as zeros with poison, and the RECV completes. -/
theorem recvCommit_poison {s : State} {t k idx n : Nat} (h : (qPutPacket qXfLd (tileQ (tileOf s t) qXfLd) 0 (poisonPacket n)).2 = 0) :
    recvCommit s t k idx n (poisonPacket n)
      = finish (setTile s t (setQ (tileOf s t) qXfLd (qPutPacket qXfLd (tileQ (tileOf s t) qXfLd) 0 (poisonPacket n)).1)) t .xf k := by
  have hlen : ¬(poisonPacket n).length ≠ n := not_not_intro List.length_replicate
  unfold recvCommit
  dsimp only
  rw [if_neg hlen, poisonPacket_marked, h]
  rfl

/-- R358: the member whose item did not come is marked absent, and the timeout counted. -/
theorem markAbsent_marks {s : State} {a : BitVec 16} {m : Nat} (h : memberOf s a = some m) (hm : m < 512) :
    (markAbsent s a).group.absent.getLsbD m = true ∧ (markAbsent s a).group.timeouts = inc16 s.group.timeouts := by
  unfold markAbsent
  rw [h]
  dsimp only
  refine ⟨?_, rfl⟩
  rw [BitVec.getLsbD_or, BitVec.getLsbD_ofNat, decide_eq_true hm, Nat.testBit_two_pow_self]
  simp

/-- R358: the state in which a RECV that waited too long takes its packet of poison: the member absent, the timeout told and detected. -/
def timedOut (s : State) (t : Nat) (f : InFlight) (c : Chan) (m : Nat) : State :=
  detect (noteWait (sendBlockEvent (markAbsent s c.block) 0x0501 (mk64 m)) t f c) (Detect.plain 0x13 (tileHalf t) m)

theorem timedOut_stands (s : State) (t : Nat) (f : InFlight) (c : Chan) (m : Nat) :
    (timedOut s t f c m).group = (markAbsent s c.block).group ∧ ∃ b, tileOf (timedOut s t f c m) t = { tileOf s t with stopped := b } := by
  have hevent := sendBlockEvent_frame (markAbsent s c.block) 0x0501 (mk64 m)
  have hdetect := detect_frame (noteWait (sendBlockEvent (markAbsent s c.block) 0x0501 (mk64 m)) t f c) (Detect.plain 0x13 (tileHalf t) m)
  have hwait (x : State) : (noteWait x t f c).tiles = x.tiles ∧ (noteWait x t f c).group = x.group := by
    unfold noteWait
    split
    · exact ⟨rfl, rfl⟩
    · cases tileHalf t <;> exact ⟨rfl, rfl⟩
  obtain ⟨htiles, hgroup⟩ := hwait (sendBlockEvent (markAbsent s c.block) 0x0501 (mk64 m))
  refine ⟨hdetect.group.trans (hgroup.trans hevent.group), ?_⟩
  obtain ⟨b, hb⟩ := hdetect.tileOf_eq t
  refine ⟨b, hb.trans ?_⟩
  unfold tileOf
  rw [htiles, hevent.tiles]
  rfl

theorem exchangeTimeout_commits {s : State} {t k : Nat} {f : InFlight} {c : Chan} {coded : Bool} {width n xid m : Nat} {turn : W32}
    (hr : tileRuns s t = true) (hk : (eng (tileOf s t) .xf).flight[k]? = some f) (hfirst : recvFirst (eng (tileOf s t) .xf) k = true)
    (hd : f.done = false) (hp : f.pend = .recv c coded width n xid turn) (hl : c.isLocal = false) (hnone : recvPacket s t c n xid turn = none)
    (hm : memberOf s c.block = some m) :
    exchangeTimeout s t k = recvCommit (timedOut s t f c m) t k f.idx n (poisonPacket n) := by
  have hgo : ¬(f.done = true ∨ c.isLocal = true ∨ (!tileRuns s t) = true ∨ (!recvFirst (eng (tileOf s t) .xf) k) = true
      ∨ (recvPacket s t c n xid turn).isSome = true) := by
    rw [hd, hl, hr, hfirst, hnone]
    decide
  unfold exchangeTimeout
  dsimp only
  rw [hk]
  dsimp only
  rw [hp]
  dsimp only
  rw [if_neg hgo, hm]
  rfl

/-- R126, R358: what the timeout of a RECV leaves in its tile and in the plan group. -/
theorem exchangeTimeout_stands {s : State} {t k : Nat} {f : InFlight} {c : Chan} {coded : Bool} {width n xid m : Nat} {turn : W32}
    (hr : tileRuns s t = true) (hk : (eng (tileOf s t) .xf).flight[k]? = some f) (hfirst : recvFirst (eng (tileOf s t) .xf) k = true)
    (hd : f.done = false) (hsig : f.sig = 0) (hp : f.pend = .recv c coded width n xid turn) (hl : c.isLocal = false)
    (hnone : recvPacket s t c n xid turn = none) (hm : memberOf s c.block = some m)
    (hroom : (qPutPacket qXfLd (tileQ (tileOf s t) qXfLd) 0 (poisonPacket n)).2 = 0) :
    (exchangeTimeout s t k).group = (markAbsent s c.block).group
      ∧ tileQ (tileOf (exchangeTimeout s t k) t) qXfLd = (qPutPacket qXfLd (tileQ (tileOf s t) qXfLd) 0 (poisonPacket n)).1
      ∧ ((eng (tileOf s t) .xf).flight = [f] → (eng (tileOf (exchangeTimeout s t k) t) .xf).flight = []) := by
  rw [exchangeTimeout_commits hr hk hfirst hd hp hl hnone hm]
  obtain ⟨hgroup, b, htile⟩ := timedOut_stands s t f c m
  have hqueue : tileQ (tileOf (timedOut s t f c m) t) qXfLd = tileQ (tileOf s t) qXfLd := by
    rw [htile]
    rfl
  have hflight : (eng (tileOf (timedOut s t f c m) t) .xf).flight = (eng (tileOf s t) .xf).flight := by
    rw [htile]
    rfl
  rw [recvCommit_poison (by rw [hqueue]; exact hroom), hqueue]
  generalize timedOut s t f c m = u at hgroup hflight
  generalize hx : setTile u t (setQ (tileOf u t) qXfLd (qPutPacket qXfLd (tileQ (tileOf s t) qXfLd) 0 (poisonPacket n)).1) = x
  have htilex : tileOf x t = setQ (tileOf u t) qXfLd (qPutPacket qXfLd (tileQ (tileOf s t) qXfLd) 0 (poisonPacket n)).1 := by
    rw [← hx, tileOf_setTile_same]
  have hgroupx : x.group = u.group := by rw [← hx]; rfl
  obtain ⟨hq, hg⟩ := finish_queues x t .xf k
  refine ⟨hg.trans (hgroupx.trans hgroup), ?_, fun hone => ?_⟩
  · unfold tileQ at *
    rw [hq, htilex]
    exact tileQ_setQ_same ..
  · have hx1 : (eng (tileOf x t) .xf).flight = [f] := by
      rw [htilex]
      exact hflight.trans hone
    obtain rfl : k = 0 := by
      rw [hone] at hk
      have := (List.getElem?_eq_some_iff.mp hk).1
      simpa using this
    rw [finish_single hx1 (fun h => absurd hsig h), tileOf_setTile_same, eng_setEng_same]

theorem badItem_counts {s : State} {h : Half} {k : Nat} (hw : windowOpen s = true) (hk : k < 2 ^ s.group.areaLog2.toNat)
    (ho : ownedByBlock s (xchSlot s (inRing h) k) = true) (hbad : itemOk s (xchSlot s (inRing h) k) = false) :
    badItem s h k = countBad (received s h k) := by
  unfold badItem
  rw [takeIn_owned hw hk ho]
  exact if_neg (by rw [hbad]; exact Bool.false_ne_true)

theorem outSlotReturned_drains {s : State} {h : Half} {x : Item} {xs : List Item} (hq : (half s h).outQueue = x :: xs) :
    exec (.outSlotReturned h) s = .next (drainOut (x :: xs) s h) := by
  refine exec_next rfl ?_
  show (if (half s h).outQueue.isEmpty = true then s else drainOut (half s h).outQueue s h) = _
  rw [hq]
  rfl

/-- R356: what a NAK leaves where its item has been taken in, which changed the ports' counters and memory alone. -/
theorem takeNak_received {s s1 : State} {h : Half} {i : Item} {d : Kept}
    (hs : ∃ ports mem, s1 = { s with ports := ports, mem := mem } ∧ ∀ a, memDead mem a = memDead s.mem a) (ha : isAbsent s i.src = false)
    (hk : (half s (tileHalf i.stile.toNat)).kept = [d]) (hf : keptFor d i = true) :
    (∃ d', (half (takeNak s1 h i) (tileHalf i.stile.toNat)).kept = [d'] ∧ d'.replay = d.replay + 1 ∧ d'.words = d.words ∧ d'.xid = d.xid)
      ∧ (takeNak s1 h i).group.replays = inc16 s.group.replays ∧ (takeNak s1 h i).slots = s.slots ∧ (takeNak s1 h i).tiles = s.tiles
      ∧ ∀ o, tileHalf i.stile.toNat = h → (half s h).outQueue = [] → freeOut s1 h = some o →
        alive s (winAddr s (xchSlot s (outRing h) o)) (64 + (keptItem s (nextSending d)).1.body.length) →
          ItemStands (takeNak s1 h i) (xchSlot s (outRing h) o) (keptItem s (nextSending d)).1
            ∧ ∀ y, bytesApart y 1 (winAddr s (xchSlot s (outRing h) o)) (64 + (keptItem s (nextSending d)).1.body.length) →
              memByte (takeNak s1 h i).mem y = memByte s1.mem y := by
  obtain ⟨ports, mem, hs1, hdead⟩ := hs
  have hitem : keptItem s1 (nextSending d) = keptItem s (nextSending d) := by rw [hs1]; rfl
  have hhalf (x : Half) : half s1 x = half s x := by rw [hs1]; rfl
  have hplace : winAddr s1 = winAddr s := by rw [hs1]; rfl
  have hoff : xchSlot s1 = xchSlot s := by rw [hs1]; rfl
  have habsent : isAbsent s1 i.src = false := by rw [hs1]; exact ha
  have hkept : (half s1 (tileHalf i.stile.toNat)).kept = [d] := by rw [hhalf]; exact hk
  have hmem : s1.mem = mem := by rw [hs1]
  obtain ⟨hone, hreplays, hslots, htiles⟩ := takeNak_retains (h := h) habsent hkept hf
  refine ⟨⟨_, hone, rfl, rfl, rfl⟩, by rw [hreplays, hs1], by rw [hslots, hs1], by rw [htiles, hs1], fun o hh hq hfree => ?_⟩
  have hplaced := takeNak_places habsent hkept hf hh (by rw [hhalf]; exact hq) hfree
  rw [hitem, hplace, hoff] at hplaced
  refine fun hal => hplaced fun j hj => ?_
  rw [hmem, hdead]
  exact hal j hj

/-- Settles O48, by the item that arrives, the slot that returns, and the RECV that waits. -/
theorem exchangeItemsHandled : Obligations.ExchangeItemsHandled := by
  refine ⟨fun s h k => ?_, fun s t k f c coded width n xid m turn hn hr hk hfirst hd hsig hp hl hnone hm hlt hroom => ?_⟩
  · intro off i from_ entry hw hlt howned s1 placed
    obtain ⟨ports, mem, hs1, hdead⟩ := received_stores s h k.toNat
    have hsame : s1 = { s with ports := ports, mem := mem } := hs1
    have hhalf (x : Half) : half s1 x = half s x := by rw [hsame]; rfl
    have hdata (hok : itemOk s off = true) (hkind : i.kind = 1) : exec (.xchDataItem h k) s = .next (takeData s1 h i) :=
      exec_next rfl (arriveItem_ok hw hlt howned hok hkind)
    have hscale (hok : itemOk s off = true) (hkind : i.kind = 2) : exec (.xchScaleItem h k) s = .next (takeScale s1 h i) :=
      exec_next rfl (arriveItem_ok hw hlt howned hok hkind)
    have hack (hok : itemOk s off = true) (hkind : i.kind = 3) : exec (.xchAckItem h k) s = .next (takeAck s1 h i) :=
      exec_next rfl (arriveItem_ok hw hlt howned hok hkind)
    have hnak (hok : itemOk s off = true) (hkind : i.kind = 4) : exec (.xchNakItem h k) s = .next (takeNak s1 h i) :=
      exec_next rfl (arriveItem_ok hw hlt howned hok hkind)
    have hbaditem (hbad : itemOk s off = false) : exec (.baditem h k) s = .next (countBad s1) :=
      exec_next rfl (badItem_counts hw hlt howned hbad)
    clear_value s1 i off
    have hstale : turnStale s1 h i.turn = turnStale s h i.turn := by rw [hsame]; rfl
    have habsent : isAbsent s1 i.src = isAbsent s i.src := by rw [hsame]; rfl
    have hlogged (sc : Bool) : logged s1 h i sc = logged s h i sc := by rw [hsame]; rfl
    have hpair : pairOf s1 h i = pairOf s h i := by rw [hsame]; rfl
    have hcount : nakCount s1 h i = nakCount s h i := by rw [hsame]; rfl
    have hblocks : dataBlocks s1 i = dataBlocks s i := by rw [hsame]; exact dataBlocks_stores ..
    have hslots : s1.slots = s.slots := by rw [hsame]
    have htiles : s1.tiles = s.tiles := by rw [hsame]
    have hgroup : s1.group = s.group := by rw [hsame]
    refine ⟨fun hok => ⟨hdata hok, hscale hok, hack hok, hnak hok⟩, fun hok ht ha hkind hc hsc hl => ⟨fun hgood hp hs => ?_, fun r hbad hcnt => ?_⟩,
      fun hok ht ha hlen hsize => ⟨fun hkind hc hl hp => ?_, fun hkind hl hd => ?_⟩, fun hok hkind ha hall hsome => ?_,
      fun d hok hkind ha hkept hfor => ?_, fun hbad => ?_, fun hq => ?_, fun x xs o hq hfree => ?_, fun x o hq hfree => ?_⟩
    · rw [hdata hok hkind, takeData_waits (hstale.trans ht) (habsent.trans ha) hc ((hlogged _).trans hl) (by rw [hblocks]; exact hgood) (hpair.trans hp)
        ((hlogged _).trans hs), hblocks]
    · obtain ⟨h1, h2, h3, h4⟩ := sendNak_counts s1 h i r
      refine ⟨_, (hdata hok hkind).trans (congrArg _ (takeData_naks (hstale.trans ht) (habsent.trans ha) hc hsc ((hlogged _).trans hl)
        (by rw [hblocks]; exact hbad) (by rw [hcount]; exact hcnt))), ?_, ?_, h2.trans hslots, h1.trans htiles⟩
      · rw [h3, hhalf]
      · rw [h4, hcount]
    · obtain ⟨h1, h2, h3, -⟩ := logAck_logs s1 h i (bytesPacket i.words i.body)
      refine ⟨_, (hdata hok hkind).trans (congrArg _ (takeData_logs (hstale.trans ht) (habsent.trans ha) hc ((hlogged _).trans hl) hlen hsize
        (by rw [hhalf]; exact hp))), ?_, h2.trans hslots, h1.trans htiles⟩
      rw [h3, hhalf]
      rfl
    · obtain ⟨h1, h2, h3, -⟩ := logAck_logs s1 h i (bytesPacket i.words i.body)
      refine ⟨_, (hscale hok hkind).trans (congrArg _ (takeScale_logs (hstale.trans ht) (habsent.trans ha) ((hlogged _).trans hl) ((hlogged _).trans hd)
        hlen hsize)), ?_, h2.trans hslots, h1.trans htiles⟩
      rw [h3, hhalf]
      rfl
    · obtain ⟨h1, h2⟩ := takeAck_drops (s := s1) (h := h) (i := i) (habsent.trans ha) (by rw [hhalf]; exact hall) (by rw [hhalf]; exact hsome)
      exact ⟨_, hack hok hkind, h1, h2.trans hslots⟩
    · obtain ⟨⟨d', hone, h1, h2, h3⟩, hreplays, hslots', htiles', hplaced⟩ := takeNak_received (h := h) ⟨ports, mem, hsame, hdead⟩ ha hkept hfor
      exact ⟨_, d', hnak hok hkind, hone, h1, h2, h3, hreplays, hslots', htiles', hplaced⟩
    · refine ⟨_, hbaditem hbad, ?_, hslots, htiles⟩
      show { s1.group with baditem := inc16 s1.group.baditem } = _
      rw [hgroup]
    · refine exec_next rfl ?_
      show (if (half s h).outQueue.isEmpty = true then s else drainOut (half s h).outQueue s h) = _
      rw [hq]
      rfl
    · rw [outSlotReturned_drains hq, drainOut_free xs hfree]
      have hput := (itemPut_frame s (xchSlot s (outRing h) o) x).out.trans
        (modHalf_out (h := h) (f := fun y => { y with outNext := (o + 1) % 2 ^ s.group.areaLog2.toNat }) fun _ => rfl)
      obtain ⟨hframe, n, hn⟩ := drainOut_out xs (modHalf (itemPut s (xchSlot s (outRing h) o) x) h fun y =>
        { y with outNext := (o + 1) % 2 ^ s.group.areaLog2.toNat }) h
      exact ⟨_, n, rfl, hn, hframe.slots.trans hput.slots, hframe.tiles.trans hput.tiles⟩
    · obtain ⟨hframe, -⟩ := drainOut_out [x] s h
      obtain ⟨h1, h2, h3, h4⟩ := drainOut_single (i := x) hfree
      exact ⟨_, outSlotReturned_drains hq, h1, h2, h3, hframe.slots, hframe.tiles, h4⟩
  · obtain ⟨hgroup, hqueue, hflight⟩ := exchangeTimeout_stands hr hk hfirst hd hsig hp hl hnone hm hroom
    obtain ⟨habsent, htimeouts⟩ := markAbsent_marks hm hlt
    refine ⟨exchangeTimeout s t.toNat k, if_pos hn, ?_, ?_, hqueue, hflight⟩
    · rw [hgroup]
      exact habsent
    · rw [hgroup]
      exact htimeouts

end Sys2Proof.Machine
end
